-- ==== Sys2Proof/Word.lean ====
section
/-! DEFINITION. The word types of the machine and their plainest arithmetic (02 R56, R4). -/

namespace Sys2Proof

/-- A byte of memory. -/
abbrev Byte := BitVec 8

/-- A 64-bit scalar register. -/
abbrev Word := BitVec 64

/-- Names of the register files (Table 2.12). -/
abbrev SReg := BitVec 6
abbrev VReg := BitVec 5
abbrev KReg := BitVec 3
abbrev IReg := BitVec 2
abbrev XReg := BitVec 3
abbrev AccReg := BitVec 2

/-- `sx(v, n)` into `m` bits: sign-extension of the low n bits (00 conventions). -/
def sxTo (n m : Nat) {k : Nat} (v : BitVec k) : BitVec m := (v.setWidth n).signExtend m

/-- `zx(v, n)` into `m` bits: zero-extension of the low n bits. -/
def zxTo (n m : Nat) {k : Nat} (v : BitVec k) : BitVec m := (v.setWidth n).setWidth m

/-- Bits hi:lo of a value, both included (R4), as a number. -/
def bitsNat {n : Nat} (v : BitVec n) (hi lo : Nat) : Nat := (v.toNat >>> lo) % 2 ^ (hi + 1 - lo)

/-- Bit k of a value. -/
def bitAt {n : Nat} (v : BitVec n) (k : Nat) : Bool := v.getLsbD k

end Sys2Proof
end

