-- ==== Sys2Proof/Machine/Fp.lean ====
section
/-! DEFINITION. Floating-point numbers and their arithmetic (03_numbers R77-R85, R95, R100-R104, 05
R149, R150, R159): operands are taken apart into exact values, results are computed exactly and
rounded once. Flags are words in the layout of FLAGS (Table 3.7). -/

namespace Sys2Proof.Machine

/-! ### FLAGS bits (Table 3.7) -/

def fNV : Word := 0x01
def fDZ : Word := 0x02
def fOF : Word := 0x04
def fUF : Word := 0x08
def fNX : Word := 0x10
def fSAT : Word := 0x20
def fSCALE : Word := 0x40

/-- A value with the flags that computing it sets. -/
structure Flagged (α : Type) where
  val : α
  flags : Word
deriving DecidableEq, Repr

/-- A value that sets no flag. -/
def Flagged.pure {α : Type} (a : α) : Flagged α := ⟨a, 0⟩

def Flagged.map {α β : Type} (f : α → β) (a : Flagged α) : Flagged β := ⟨f a.val, a.flags⟩

/-- Collects the flags of a list of results. -/
def Flagged.all {α : Type} (l : List (Flagged α)) : Flagged (List α) :=
  ⟨l.map (·.val), l.foldl (fun f a => f ||| a.flags) 0⟩

/-- Rounding modes (Table 3.5). -/
inductive RMode where
  | rn | rz | rd | ru
deriving DecidableEq, Repr

def RMode.of (c : BitVec 2) : RMode :=
  match c.toNat with
  | 0 => .rn
  | 1 => .rz
  | 2 => .rd
  | _ => .ru

/-- The floating-point formats (Table 3.2); e4m3 carries its reading (Table 3.3). -/
inductive Fmt where
  | f32 | bf16 | e5m2 | e4m3 (ieee : Bool)
deriving DecidableEq, Repr

def Fmt.ebits : Fmt → Nat
  | .f32 => 8 | .bf16 => 8 | .e5m2 => 5 | .e4m3 _ => 4

def Fmt.mbits : Fmt → Nat
  | .f32 => 23 | .bf16 => 7 | .e5m2 => 2 | .e4m3 _ => 3

def Fmt.bias : Fmt → Nat
  | .f32 => 127 | .bf16 => 127 | .e5m2 => 15 | .e4m3 _ => 7

/-- Width of the format in bits. -/
def Fmt.width (f : Fmt) : Nat := 1 + f.ebits + f.mbits

/-- Code of the largest finite value, sign 0 (Table 3.3). -/
def Fmt.maxFinite : Fmt → Nat
  | .f32 => 0x7F7FFFFF | .bf16 => 0x7F7F | .e5m2 => 0x7B
  | .e4m3 false => 0x7E | .e4m3 true => 0x77

/-- The canonical NaN (R80). -/
def Fmt.nan : Fmt → Nat
  | .f32 => 0x7FC00000 | .bf16 => 0x7FC0 | .e5m2 => 0x7F | .e4m3 _ => 0x7F

/-- Whether the format has an infinity (Table 3.3). -/
def Fmt.hasInf : Fmt → Bool
  | .e4m3 false => false | _ => true

/-- Whether overflow saturates in every mode and sets SAT (R83). -/
def Fmt.narrow : Fmt → Bool
  | .e5m2 => true | .e4m3 _ => true | _ => false

/-- A number taken apart: a NaN (with its leading fraction bit 0 or not), an infinity, or the exact
value (-1)^neg * m * 2^e. -/
inductive Num where
  | nan (signalling : Bool)
  | inf (neg : Bool)
  | fin (neg : Bool) (m : Nat) (e : Int)
deriving DecidableEq, Repr

/-- Reads a code of a format (R78, R79). -/
def Fmt.read (f : Fmt) (c : Nat) : Num :=
  let m := c % 2 ^ f.mbits
  let e := c / 2 ^ f.mbits % 2 ^ f.ebits
  let neg := decide (c / 2 ^ (f.mbits + f.ebits) % 2 = 1)
  let q : Int := 1 - (f.bias : Int) - (f.mbits : Int)
  if e = 2 ^ f.ebits - 1 ∧ f.hasInf then
    if m = 0 then .inf neg else .nan (decide (m < 2 ^ (f.mbits - 1)))
  else if e = 2 ^ f.ebits - 1 ∧ m = 2 ^ f.mbits - 1 ∧ !f.hasInf then .nan false
  else if e = 0 then .fin neg m q
  else .fin neg (2 ^ f.mbits + m) (q + (e : Int) - 1)

/-- The sign bit of a code placed over a magnitude. -/
def Fmt.signed (f : Fmt) (neg : Bool) (c : Nat) : Nat :=
  c + (if neg then 2 ^ (f.mbits + f.ebits) else 0)

/-- The infinity of a sign. -/
def Fmt.inf (f : Fmt) (neg : Bool) : Nat :=
  f.signed neg ((2 ^ f.ebits - 1) * 2 ^ f.mbits)

/-- m * 2^e as an integer multiple of 2^q rounded under a mode, and whether rounding changed it
(R82, Table 3.5). -/
def roundAt (rm : RMode) (neg : Bool) (m : Nat) (e q : Int) : Nat × Bool :=
  if q ≤ e then (m * 2 ^ (e - q).toNat, false)
  else
    let d := 2 ^ (q - e).toNat
    let r := m / d
    let x := m % d
    let up :=
      match rm with
      | .rn => decide (d < 2 * x) || (decide (2 * x = d) && decide (r % 2 = 1))
      | .rz => false
      | .rd => neg && decide (x ≠ 0)
      | .ru => !neg && decide (x ≠ 0)
    (r + (if up then 1 else 0), decide (x ≠ 0))

/-- What an overflow writes (R83). -/
def Fmt.overflow (f : Fmt) (rm : RMode) (neg : Bool) : Nat :=
  let big := f.signed neg f.maxFinite
  if f.narrow then big
  else
    match rm with
    | .rn => f.inf neg
    | .rz => big
    | .rd => if neg then f.inf neg else big
    | .ru => if neg then big else f.inf neg

/-- Rounds the exact value (-1)^neg * m * 2^e once into a format, with its flags (R82, R83, R85).
A zero keeps its sign. -/
def Fmt.round (f : Fmt) (rm : RMode) (neg : Bool) (m : Nat) (e : Int) : Flagged Nat :=
  if m = 0 then ⟨f.signed neg 0, 0⟩
  else
    let top : Int := (Nat.log2 m : Int) + e
    let emin : Int := 1 - (f.bias : Int)
    let q : Int := max (top - f.mbits) (emin - f.mbits)
    let (r, nx) := roundAt rm neg m e q
    let tiny := decide (top < emin)
    -- a carry out of the significand moves the exponent up by one
    let (r, q) := if r = 2 ^ (f.mbits + 1) then (2 ^ f.mbits, q + 1) else (r, q)
    let code := if r < 2 ^ f.mbits then (r : Int) else (q + f.mbits + f.bias) * 2 ^ f.mbits + (r - 2 ^ f.mbits)
    if (f.maxFinite : Int) < code then
      ⟨f.overflow rm neg, fOF ||| fNX ||| (if f.narrow then fSAT else 0)⟩
    else
      ⟨f.signed neg code.toNat, (if nx then fNX else 0) ||| (if nx && tiny then fUF else 0)⟩

/-- An exact dyadic value m * 2^e. -/
structure Dy where
  m : Int
  e : Int
deriving DecidableEq, Repr

def Dy.zero : Dy := ⟨0, 0⟩

/-- Exact sum. -/
def Dy.add (a b : Dy) : Dy :=
  let e := min a.e b.e
  ⟨a.m * 2 ^ (a.e - e).toNat + b.m * 2 ^ (b.e - e).toNat, e⟩

/-- Exact product. -/
def Dy.mul (a b : Dy) : Dy := ⟨a.m * b.m, a.e + b.e⟩

def Dy.neg (a : Dy) : Dy := ⟨-a.m, a.e⟩

/-- Numeric order of two exact values. -/
def Dy.lt (a b : Dy) : Bool := decide ((a.add b.neg).m < 0)

def Dy.eq (a b : Dy) : Bool := decide ((a.add b.neg).m = 0)

/-- The exact value of a finite number. -/
def Num.dy : Num → Dy
  | .fin neg m e => ⟨if neg then -(m : Int) else m, e⟩
  | _ => Dy.zero

def Num.isNan : Num → Bool
  | .nan _ => true | _ => false

def Num.isSnan : Num → Bool
  | .nan s => s | _ => false

def Num.isInf : Num → Bool
  | .inf _ => true | _ => false

def Num.isZero : Num → Bool
  | .fin _ 0 _ => true | _ => false

def Num.negative : Num → Bool
  | .nan _ => false | .inf n => n | .fin n _ _ => n

/-- The number with its sign exchanged. -/
def Num.opp : Num → Num
  | .nan s => .nan s | .inf n => .inf (!n) | .fin n m e => .fin (!n) m e

/-- Rounds an exact value; `zneg` is the sign of an exact zero. -/
def Fmt.roundDy (f : Fmt) (rm : RMode) (zneg : Bool) (d : Dy) : Flagged Nat :=
  f.round rm (if d.m = 0 then zneg else decide (d.m < 0)) d.m.natAbs d.e

/-- The product of two numbers, exact (R149): 0 * infinity is invalid. -/
def mulNum (a b : Num) : Num × Bool :=
  match a, b with
  | .nan s, .nan t => (.nan (s || t), false)
  | .nan s, _ => (.nan s, false)
  | _, .nan t => (.nan t, false)
  | .inf n, y => if y.isZero then (.nan false, true) else (.inf (n != y.negative), false)
  | x, .inf n => if x.isZero then (.nan false, true) else (.inf (x.negative != n), false)
  | .fin n m e, .fin n' m' e' => (.fin (n != n') (m * m') (e + e'), false)

/-- Rounds a number into a format. -/
def Fmt.ofNum (f : Fmt) (rm : RMode) (a : Num) : Flagged Nat :=
  match a with
  | .nan s => ⟨f.nan, if s then fNV else 0⟩
  | .inf n => if f.hasInf then ⟨f.inf n, 0⟩ else ⟨f.nan, fNV⟩
  | .fin n m e => f.round rm n m e

/-- a + b rounded once (R149). -/
def Fmt.addNum (f : Fmt) (rm : RMode) (a b : Num) : Flagged Nat :=
  if a.isNan || b.isNan then ⟨f.nan, if a.isSnan || b.isSnan then fNV else 0⟩
  else
    match a, b with
    | .inf n, .inf n' => if n = n' then ⟨f.inf n, 0⟩ else ⟨f.nan, fNV⟩
    | .inf n, _ => ⟨f.inf n, 0⟩
    | _, .inf n => ⟨f.inf n, 0⟩
    | x, y =>
      let zneg := if x.negative = y.negative then x.negative else decide (rm = .rd)
      f.roundDy rm zneg (x.dy.add y.dy)

/-- a * b rounded once. -/
def Fmt.mulNumR (f : Fmt) (rm : RMode) (a b : Num) : Flagged Nat :=
  let (p, inv) := mulNum a b
  let r := f.ofNum rm p
  ⟨r.val, r.flags ||| (if inv then fNV else 0)⟩

/-- a * b + c rounded once (R149). -/
def Fmt.fmaNum (f : Fmt) (rm : RMode) (a b c : Num) : Flagged Nat :=
  let (p, inv) := mulNum a b
  let r := f.addNum rm p c
  ⟨r.val, r.flags ||| (if inv then fNV else 0)⟩

/-- Addition, subtraction, multiplication and fused multiply-add on codes of one format. -/
def Fmt.add (f : Fmt) (rm : RMode) (a b : Nat) : Flagged Nat := f.addNum rm (f.read a) (f.read b)
def Fmt.sub (f : Fmt) (rm : RMode) (a b : Nat) : Flagged Nat := f.addNum rm (f.read a) (f.read b).opp
def Fmt.mul (f : Fmt) (rm : RMode) (a b : Nat) : Flagged Nat := f.mulNumR rm (f.read a) (f.read b)
def Fmt.fma (f : Fmt) (rm : RMode) (a b c : Nat) : Flagged Nat :=
  f.fmaNum rm (f.read a) (f.read b) (f.read c)

/-- Numeric order with infinities; NaN compares false (R159). -/
def Num.lt (a b : Num) : Bool :=
  match a, b with
  | .nan _, _ => false
  | _, .nan _ => false
  | .inf n, .inf n' => n && !n'
  | .inf n, _ => n
  | _, .inf n => !n
  | x, y => x.dy.lt y.dy

def Num.eq (a b : Num) : Bool :=
  match a, b with
  | .nan _, _ => false
  | _, .nan _ => false
  | .inf n, .inf n' => n == n'
  | .inf _, _ => false
  | _, .inf _ => false
  | x, y => x.dy.eq y.dy

/-- Minimum (`mx` false) or maximum of two codes (R150): -0 is below +0, a NaN gives the canonical
NaN. -/
def Fmt.minmax (f : Fmt) (mx : Bool) (a b : Nat) : Flagged Nat :=
  let x := f.read a
  let y := f.read b
  if x.isNan || y.isNan then ⟨f.nan, if x.isSnan || y.isSnan then fNV else 0⟩
  else
    let below := x.lt y || (x.eq y && x.negative && !y.negative)
    ⟨if below != mx then a else b, 0⟩

/-- Compare predicates (R159): 0 eq, 1 lt, 2 le, 3 unordered. -/
def Fmt.cmp (f : Fmt) (p : BitVec 2) (a b : Nat) : Flagged Bool :=
  let x := f.read a
  let y := f.read b
  let sn := if x.isSnan || y.isSnan then fNV else 0
  let qn := if x.isNan || y.isNan then fNV else 0
  match p.toNat with
  | 0 => ⟨x.eq y, sn⟩
  | 1 => ⟨x.lt y, qn⟩
  | 2 => ⟨x.lt y || x.eq y, qn⟩
  | _ => ⟨x.isNan || y.isNan, sn⟩

/-- A conversion between formats (R80-R85, R84). -/
def Fmt.convert (src dst : Fmt) (rm : RMode) (c : Nat) : Flagged Nat := dst.ofNum rm (src.read c)

/-- A conversion to a w-bit integer (R77). -/
def Fmt.toInt (f : Fmt) (rm : RMode) (signed : Bool) (w : Nat) (c : Nat) : Flagged Int :=
  let lo : Int := if signed then -(2 ^ (w - 1)) else 0
  let hi : Int := if signed then 2 ^ (w - 1) - 1 else 2 ^ w - 1
  match f.read c with
  | .nan _ => ⟨0, fNV⟩
  | .inf n => ⟨if n then lo else hi, fSAT⟩
  | .fin n m e =>
    let (r, nx) := roundAt rm n m e 0
    let v : Int := if n then -(r : Int) else r
    if v < lo then ⟨lo, fSAT⟩ else if hi < v then ⟨hi, fSAT⟩ else ⟨v, if nx then fNX else 0⟩

/-- A conversion from an integer, rounded. -/
def Fmt.ofInt (f : Fmt) (rm : RMode) (v : Int) : Flagged Nat := f.roundDy rm false ⟨v, 0⟩

/-- An exact sum of numbers rounded once, to nearest even, to FP32 (R95, R164): a NaN or an
infinity times zero among the terms, or infinities of both signs, give the canonical NaN with NV.
`zneg` is the sign of an exact zero. -/
def sumNum (terms : List (Num × Bool)) (zneg : Bool) : Flagged Nat :=
  if terms.any (fun t => t.1.isNan || t.2) then ⟨Fmt.f32.nan, fNV⟩
  else
    let pos := terms.any (fun t => t.1.isInf && !t.1.negative)
    let neg := terms.any (fun t => t.1.isInf && t.1.negative)
    if pos && neg then ⟨Fmt.f32.nan, fNV⟩
    else if pos then ⟨Fmt.f32.inf false, 0⟩
    else if neg then ⟨Fmt.f32.inf true, 0⟩
    else Fmt.f32.roundDy .rn zneg (terms.foldl (fun d t => d.add t.1.dy) Dy.zero)

/-- The exact products of two lists of codes. -/
def products (fa fb : Fmt) (a b : List Nat) : List (Num × Bool) :=
  List.zipWith (fun x y => mulNum (fa.read x) (fb.read y)) a b

/-! ### Stockpot fixed point (R100-R104) -/

/-- The poison code, which stands for NaN (R100). -/
def poison : BitVec 96 := 0x800000000000000000000000#96

/-- A contribution on the grid of 2^-64, and whether it saturated (R101). -/
def toGrid (f : Fmt) (c : Nat) : BitVec 96 × Bool :=
  let big : Int := 2 ^ 95 - 1
  match f.read c with
  | .nan _ => (poison, false)
  | .inf n => (BitVec.ofInt 96 (if n then -big else big), true)
  | .fin n m e =>
    let (r, _) := roundAt .rn n m e (-64)
    let v : Int := if n then -(r : Int) else r
    if big < v then (BitVec.ofInt 96 big, true)
    else if v < -big then (BitVec.ofInt 96 (-big), true)
    else (BitVec.ofInt 96 v, false)

/-- Adds a converted contribution to an element (R101): the new element, and whether it saturated. -/
def gridAdd (q c : BitVec 96) : BitVec 96 × Bool :=
  let big : Int := 2 ^ 95 - 1
  if q = poison ∨ c = poison then (poison, false)
  else
    let t := q.toInt + c.toInt
    if big < t then (BitVec.ofInt 96 big, true)
    else if t < -big then (BitVec.ofInt 96 (-big), true)
    else (BitVec.ofInt 96 t, false)

/-- An element read as FP32 or BF16 (R103): only NX may be set. -/
def gridRead (bf16 : Bool) (q : BitVec 96) : Flagged Nat :=
  let f : Fmt := if bf16 then .bf16 else .f32
  if q = poison then ⟨f.nan, 0⟩ else f.roundDy .rn false ⟨q.toInt, -64⟩

/-- A `.q4` element times its scale as BF16 (R94). -/
def widenQ4 (el : BitVec 4) (scale : BitVec 32) : Flagged Nat :=
  match Fmt.f32.read scale.toNat with
  | .nan _ => ⟨Fmt.bf16.nan, 0⟩
  | sc =>
    let v := el.toInt
    Fmt.bf16.mulNumR .rn (.fin (decide (v < 0)) v.natAbs 0) sc

/-- An E4M3 byte as BF16 (R94), exact. -/
def widenE4 (ieee : Bool) (c : Byte) : Flagged Nat := (Fmt.e4m3 ieee).convert .bf16 .rn c.toNat

end Sys2Proof.Machine
end

