-- ==== Sys2Proof/Config.lean ====
section
/-! DEFINITION. What the spec leaves open, as constants with no body: nothing can evaluate them, so a
statement about the machine holds whatever they are. A step reads `State.free` and advances it, so
that every use is a value of its own (log 2). -/

namespace Sys2Proof.Config

/-- A choice that the spec leaves open: which of several moves comes next, how many extra cycles
pass, which of two allowed values a read returns. -/
opaque freeNat : Nat → Nat

/-- A free bit: old or new value of a short read (R37), old or new bundle of a fetch (R106), source
byte at start or at completion (R252). -/
opaque freeBit : Nat → Bool

/-- The SFU's result for function f (Table 5.13), accuracy and input, before the error bound of
R168 is imposed on it. -/
opaque sfu : (f : Nat) → (fast : Bool) → BitVec 32 → BitVec 32

/-- The signature bytes that an edge die makes over an attestation report (R492), which rest on its fused key. -/
opaque signature : (ed : Nat) → List Byte → List Byte

/-- The certificate of an edge die (R489, R492). -/
opaque certificate : (ed : Nat) → List Byte

/-- What a byte of DRAM or host memory that nothing has written reads as (DESIGN CHOICE, log 4). -/
def unlistedByte : Byte := 0

/-- The quotient of an iteration number by a count of 0 (04 R127). -/
opaque zeroDiv : Nat → Nat

/-- The remainder of an iteration number by a count of 0 (04 R127). -/
opaque zeroMod : Nat → Nat

/-- What local store reads as at an offset that it does not have, before the check that refuses it (13 R320). -/
opaque noByte : Nat → Byte

/-- Flits that the control queue of an edge die for one destination holds (14 R371). -/
opaque ctlQueueFlits : Nat

/-- The fixed hash that assigns streams to links (14 R369), of partition, edge die, destination and class. -/
opaque streamHash : (part edge dst : Nat) → (bulk : Bool) → Nat

/-- Which of several next routers of least cost Trivet fixes at boot, of router and destination (01 R495). -/
opaque routeTie : (here dest : Nat × Nat) → Nat

end Sys2Proof.Config
end

