-- ==== Sys2Proof/Syntax.lean ====
section
/-! DEFINITION. The instruction set as syntax: one constructor of `Instr` for each row of the opcode
table. Rows with an encoding (C-words and A-words, 02 R46, R47) carry the operand fields of their
format; rows without one are steps of the machine's other agents (95_what_each_step_holds), and
carry the name of the request they serve, or the input that the outside world supplies. -/

namespace Sys2Proof

/-- A Whisk flit (14 R364): header fields, 128 bytes of payload and CRC-16. -/
structure Flit where
  bulk : Bool
  typ : BitVec 3
  seq : BitVec 12
  ack : BitVec 12
  dst : BitVec 6
  tag : BitVec 14
  payload : BitVec 1024
  crc : BitVec 16
deriving DecidableEq, Repr

/-- A host command (20 R487): offered version, tag, reply address and argument dwords, with the
edge die that it reached and the cycle in which it did (R488). -/
structure HostReq where
  ver : BitVec 8
  tag : BitVec 16
  reply : Nat
  args : List (BitVec 64)
  ed : Nat := 0
  cycle : Nat := 0
deriving DecidableEq, Repr

/-- A core or a request whose move may read DRAM, and whether the read meets an uncorrectable error (20 R493). -/
structure DramRead where
  n : Nat
  err : Bool
deriving DecidableEq, Repr

/-- A management register, as the management core of an edge die names it (20 R478). -/
structure MgmtReg where
  ed : Nat
  n : Nat
deriving DecidableEq, Repr

/-- What power-on finds (20 R489): the package's place in its domain, the dies whose answers every
verifier accepts, the measurements of all 24 dies and the ROM release. -/
structure BootInput where
  pkg : BitVec 6
  domain : Nat
  cds : BitVec 16
  eds : BitVec 8
  measures : List (BitVec 256)
  release : BitVec 8
deriving DecidableEq, Repr

/-- Ethernet traffic that arrives on a port (20 R494): a peer's transfer into device memory, or the
acknowledgement of bytes of the pending transfer. -/
inductive UetInput where
  | data (pa : Nat) (bytes : List Byte)
  | ack (bytes : Nat)
deriving DecidableEq, Repr

/-- The rows of the opcode table. Field names follow the spec: d, a, b, t, s name scalar registers
unless typed otherwise; z size, x extension, h reuse hint, o ordering, m mask, rm rounding,
p placement or part selector, sc scope, ty type. -/
inductive Instr where
  | nopC  -- R49
  | bEqz (a : SReg) (off : BitVec 13)  -- R118
  | bNez (a : SReg) (off : BitVec 13)  -- R118
  | bLtz (a : SReg) (off : BitVec 13)  -- R118
  | bGez (a : SReg) (off : BitVec 13)  -- R118
  | bGtz (a : SReg) (off : BitVec 13)  -- R118
  | bLez (a : SReg) (off : BitVec 13)  -- R118
  | bEq (a b : SReg) (off : BitVec 7)  -- R119
  | bNe (a b : SReg) (off : BitVec 7)  -- R119
  | bLt (a b : SReg) (off : BitVec 7)  -- R119
  | bGe (a b : SReg) (off : BitVec 7)  -- R119
  | bLtn (a b : SReg) (off : BitVec 7)  -- R119
  | bGen (a b : SReg) (off : BitVec 7)  -- R119
  | j (off : BitVec 22)  -- R120
  | jl (off : BitVec 22)  -- R120
  | jr (a : SReg)  -- R121
  | jlr (d a : SReg)  -- R121
  | nestClaim (d a : SReg)  -- R125
  | nestNext (a : SReg)  -- R127
  | leaS (d a b : SReg) (sh : BitVec 2)  -- R109
  | leaI (d a : SReg) (i : IReg) (sh : BitVec 2)  -- R109
  | li (d : SReg) (imm : BitVec 16)  -- R110
  | lis (d : SReg) (imm : BitVec 16)  -- R110
  | mfc (d : SReg) (c : BitVec 6)  -- R128
  | mtc (c : BitVec 6) (b : SReg)  -- R128
  | flagsWrite (core : Nat)  -- R92
  | ldL (t b : SReg) (z : BitVec 2) (x : BitVec 1) (h : BitVec 2) (o : BitVec 1) (off : BitVec 4)  -- R206
  | stL (t b : SReg) (z : BitVec 2) (x : BitVec 1) (h : BitVec 2) (o : BitVec 1) (off : BitVec 4)  -- R208
  | ldS (t : SReg) (tile : BitVec 8) (b : SReg) (z : BitVec 2)  -- R207
  | stS (t : SReg) (tile : BitVec 8) (b : SReg) (z : BitVec 2)  -- R207
  | ldG (t b : SReg) (z : BitVec 2) (x : BitVec 1) (h : BitVec 2) (o : BitVec 1) (off : BitVec 4)  -- R206
  | stG (t b : SReg) (z : BitVec 2) (x : BitVec 1) (h : BitVec 2) (o : BitVec 1) (off : BitVec 4)  -- R208
  | ldLQ (t : VReg) (b : SReg) (h : BitVec 2) (o : BitVec 1) (off : BitVec 4)  -- R205
  | ldGQ (t : VReg) (b : SReg) (h : BitVec 2) (o : BitVec 1) (off : BitVec 4)  -- R205
  | ldGW4 (t : VReg) (b : SReg) (h : BitVec 2) (o : BitVec 1) (off : BitVec 4)  -- R206
  | ldGE4 (t : VReg) (b : SReg) (h : BitVec 2) (o : BitVec 1) (off : BitVec 4)  -- R206
  | stLQ (t : VReg) (b : SReg) (h : BitVec 2) (o : BitVec 1) (off : BitVec 4)  -- R205
  | stGQ (t : VReg) (b : SReg) (h : BitVec 2) (o : BitVec 1) (off : BitVec 4)  -- R205
  | ldc (t b : SReg) (z : BitVec 2) (x : BitVec 1) (h : BitVec 2) (off : BitVec 4)  -- R218
  | rocInv  -- R220
  | tileClaim (d a b : SReg)  -- R240
  | tileFree (a : SReg)  -- R241
  | tileFill (a : SReg)  -- R239
  | tileReady (a : SReg)  -- R239
  | tileDrop (a : SReg)  -- R239
  | tileStat (d a : SReg)  -- R243
  | clean (a b : SReg)  -- R234
  | upResume (a : SReg)  -- R233
  | cpCopy (d a : SReg)  -- R251
  | cpGather (d a : SReg)  -- R251
  | cpScatter (d a : SReg)  -- R251
  | cpFill (d a b : SReg)  -- R251
  | cpMcast (d a : SReg)  -- R258
  | cpWalk (d a : SReg)  -- R256
  | cpCow (d a : SReg)  -- R257
  | cpWait (d a : SReg)  -- R264
  | cpPoll (d a : SReg)  -- R265
  | cpCancel (d a : SReg)  -- R266
  | atomAdd (d a : SReg) (ty : BitVec 3) (o : BitVec 2) (p : BitVec 1)  -- R276
  | atomSwap (d a : SReg) (ty : BitVec 3) (o : BitVec 2) (p : BitVec 1)  -- R276
  | atomCas (d a : SReg) (ty : BitVec 3) (o : BitVec 2) (p : BitVec 1)  -- R276
  | atomAnd (d a : SReg) (ty : BitVec 3) (o : BitVec 2) (p : BitVec 1)  -- R276
  | atomOr (d a : SReg) (ty : BitVec 3) (o : BitVec 2) (p : BitVec 1)  -- R276
  | atomXor (d a : SReg) (ty : BitVec 3) (o : BitVec 2) (p : BitVec 1)  -- R276
  | atomMin (d a : SReg) (ty : BitVec 3) (o : BitVec 2) (p : BitVec 1)  -- R276
  | atomMax (d a : SReg) (ty : BitVec 3) (o : BitVec 2) (p : BitVec 1)  -- R276
  | redAdd (d a : SReg) (ty : BitVec 3) (o : BitVec 2) (p : BitVec 1)  -- R279
  | redAnd (d a : SReg) (ty : BitVec 3) (o : BitVec 2) (p : BitVec 1)  -- R279
  | redOr (d a : SReg) (ty : BitVec 3) (o : BitVec 2) (p : BitVec 1)  -- R279
  | redXor (d a : SReg) (ty : BitVec 3) (o : BitVec 2) (p : BitVec 1)  -- R279
  | redMin (d a : SReg) (ty : BitVec 3) (o : BitVec 2) (p : BitVec 1)  -- R279
  | redMax (d a : SReg) (ty : BitVec 3) (o : BitVec 2) (p : BitVec 1)  -- R279
  | waitAny (d a b : SReg)  -- R283
  | fence (sc : BitVec 3) (o : BitVec 2)  -- R287
  | fenceEng (sc : BitVec 3) (o : BitVec 2)  -- R287
  | fenceMx (sc : BitVec 3) (o : BitVec 2)  -- R287
  | fenceRoc (sc : BitVec 3) (o : BitVec 2)  -- R287
  | fenceFull (sc : BitVec 3) (o : BitVec 2)  -- R287
  | sendR (a b : SReg)  -- R320
  | sendA (a b : SReg)  -- R320
  | sendAny (b : SReg)  -- R320
  | actEnd  -- R337
  | actMigrate (a : SReg)  -- R339
  | actFail (a : SReg)  -- R340
  | actInfo (d : SReg)  -- R338
  | barInit (d a b : SReg)  -- R355
  | barArrive (d a b : SReg)  -- R356
  | barArriveNb (d a b : SReg)  -- R356
  | barWait (d a b : SReg)  -- R357
  | barFree (a : SReg)  -- R358
  | regionLaunch (a : SReg)  -- R348
  | regionLaunchEarly (a b : SReg)  -- R348
  | regionKill (a : SReg)  -- R352
  | regionStat (d a : SReg)  -- R353
  | launchTrig  -- R349
  | fabPf (a b : SReg)  -- R389
  | fabSlot (d : SReg)  -- R390
  | fabPeer (d a : SReg)  -- R391
  | fabCtr (d a : SReg)  -- R392
  | fabWait (d a b : SReg)  -- R393
  | potPost (a b : SReg)  -- R402
  | potRead (d a b : SReg)  -- R408
  | potReadSeal (d a b : SReg)  -- R408
  | potOpen (d b : SReg)  -- R397
  | potClose (a : SReg)  -- R398
  | potStat (d a b : SReg)  -- R412
  | potSeal (a : SReg)  -- R411
  | potExp (a b : SReg)  -- R400
  | potReset (a b : SReg)  -- R399
  | qdOpen (d a : SReg)  -- R435
  | qdDetach  -- R431
  | qdExit (d : SReg)  -- R432
  | qdStat (d a : SReg)  -- R436
  | reelOpen (d a : SReg)  -- R441
  | reelScore (a : SReg)  -- R444
  | reelDone (d : SReg)  -- R446
  | reelSync (d : SReg)  -- R446
  | reelStat (d a : SReg)  -- R453
  | trap (code : BitVec 12)  -- R141
  | eret  -- R142
  | leave (a b : SReg)  -- R463
  | sysTlbinv (d a b : SReg)  -- R477
  | sysMrd (d a : SReg)  -- R478
  | sysMwr (a b : SReg)  -- R478
  | sysSwap (d a b : SReg)  -- R470
  | sysKill (d a : SReg)  -- R476
  | sysEvt (a b : SReg)  -- R485
  | hintC (h : BitVec 1) (x : BitVec 22)  -- R48
  | nopA  -- R49
  | add (d a b : SReg)  -- R111
  | sub (d a b : SReg)  -- R111
  | addI32 (d a b : SReg)  -- R111
  | subI32 (d a b : SReg)  -- R111
  | addsI64 (d a b : SReg)  -- R111
  | addsN64 (d a b : SReg)  -- R111
  | subsI64 (d a b : SReg)  -- R111
  | subsN64 (d a b : SReg)  -- R111
  | and (d a b : SReg)  -- R111
  | or (d a b : SReg)  -- R111
  | xor (d a b : SReg)  -- R111
  | andn (d a b : SReg)  -- R111
  | orn (d a b : SReg)  -- R111
  | xnor (d a b : SReg)  -- R111
  | addImm (d a : SReg) (imm : BitVec 9)  -- R112
  | andImm (d a : SReg) (imm : BitVec 9)  -- R112
  | orImm (d a : SReg) (imm : BitVec 9)  -- R112
  | xorImm (d a : SReg) (imm : BitVec 9)  -- R112
  | shl (d a b : SReg)  -- R113
  | shrN64 (d a b : SReg)  -- R113
  | shr (d a b : SReg)  -- R113
  | rol (d a b : SReg)  -- R113
  | ror (d a b : SReg)  -- R113
  | shlI32 (d a b : SReg)  -- R113
  | shrN32 (d a b : SReg)  -- R113
  | shrI32 (d a b : SReg)  -- R113
  | shlImm (d a : SReg) (n : BitVec 6)  -- R113
  | shrN64Imm (d a : SReg) (n : BitVec 6)  -- R113
  | shrImm (d a : SReg) (n : BitVec 6)  -- R113
  | rolImm (d a : SReg) (n : BitVec 6)  -- R113
  | rorImm (d a : SReg) (n : BitVec 6)  -- R113
  | shlI32Imm (d a : SReg) (n : BitVec 6)  -- R113
  | shrN32Imm (d a : SReg) (n : BitVec 6)  -- R113
  | shrI32Imm (d a : SReg) (n : BitVec 6)  -- R113
  | mul (d a b : SReg)  -- R114
  | mulh (d a b : SReg)  -- R114
  | mulhN64 (d a b : SReg)  -- R114
  | mulI32 (d a b : SReg)  -- R114
  | mla (d a b : SReg)  -- R114
  | mulsI64 (d a b : SReg)  -- R114
  | cmpEq (d a b : SReg)  -- R115
  | cmpNe (d a b : SReg)  -- R115
  | cmpLt (d a b : SReg)  -- R115
  | cmpLtN64 (d a b : SReg)  -- R115
  | cmpLe (d a b : SReg)  -- R115
  | cmpLeN64 (d a b : SReg)  -- R115
  | selNez (d a b : SReg)  -- R115
  | selEqz (d a b : SReg)  -- R115
  | bfxN64 (d a b : SReg)  -- R116
  | bfx (d a b : SReg)  -- R116
  | bfi (d a b : SReg)  -- R116
  | clz (d a : SReg)  -- R116
  | ctz (d a : SReg)  -- R116
  | popc (d a : SReg)  -- R116
  | bswap (d a : SReg)  -- R116
  | brev (d a : SReg)  -- R116
  | min (d a b : SReg)  -- R117
  | minN64 (d a b : SReg)  -- R117
  | max (d a b : SReg)  -- R117
  | maxN64 (d a b : SReg)  -- R117
  | abs (d a : SReg)  -- R117
  | abss (d a : SReg)  -- R117
  | kand (d a b : KReg)  -- R152
  | kor (d a b : KReg)  -- R152
  | kxor (d a b : KReg)  -- R152
  | kandn (d a b : KReg)  -- R152
  | knot (d a : KReg)  -- R152
  | kset (d : KReg) (a : SReg)  -- R152
  | kget (d : SReg) (a : KReg)  -- R152
  | kpopc (d : SReg) (a : KReg)  -- R152
  | kffs (d : SReg) (a : KReg)  -- R152
  | vbcast (d : VReg) (s : SReg) (m : BitVec 3) (z : BitVec 2)  -- R153
  | vins (d : VReg) (s : SReg) (e : BitVec 5) (m : BitVec 3) (z : BitVec 2)  -- R153
  | vextI (d : SReg) (a : VReg) (e : BitVec 5) (m : BitVec 3) (z : BitVec 2)  -- R153
  | vextN (d : SReg) (a : VReg) (e : BitVec 5) (m : BitVec 3) (z : BitVec 2)  -- R153
  | vadd (d a b : VReg) (m : BitVec 3) (z : BitVec 2)  -- R154
  | vsub (d a b : VReg) (m : BitVec 3) (z : BitVec 2)  -- R154
  | vaddsI (d a b : VReg) (m : BitVec 3) (z : BitVec 2)  -- R154
  | vaddsN (d a b : VReg) (m : BitVec 3) (z : BitVec 2)  -- R154
  | vsubsI (d a b : VReg) (m : BitVec 3) (z : BitVec 2)  -- R154
  | vsubsN (d a b : VReg) (m : BitVec 3) (z : BitVec 2)  -- R154
  | vmul (d a b : VReg) (m : BitVec 3) (z : BitVec 2)  -- R154
  | vabs (d a : VReg) (m : BitVec 3) (z : BitVec 2)  -- R154
  | vand (d a b : VReg) (m : BitVec 3) (z : BitVec 2)  -- R155
  | vor (d a b : VReg) (m : BitVec 3) (z : BitVec 2)  -- R155
  | vxor (d a b : VReg) (m : BitVec 3) (z : BitVec 2)  -- R155
  | vandn (d a b : VReg) (m : BitVec 3) (z : BitVec 2)  -- R155
  | vorn (d a b : VReg) (m : BitVec 3) (z : BitVec 2)  -- R155
  | vxnor (d a b : VReg) (m : BitVec 3) (z : BitVec 2)  -- R155
  | vbsl (d a b : VReg) (m : BitVec 3) (z : BitVec 2)  -- R155
  | vmov (d a : VReg) (m : BitVec 3) (z : BitVec 2)  -- R155
  | vshl (d a b : VReg) (m : BitVec 3) (z : BitVec 2)  -- R156
  | vshrN (d a b : VReg) (m : BitVec 3) (z : BitVec 2)  -- R156
  | vshrI (d a b : VReg) (m : BitVec 3) (z : BitVec 2)  -- R156
  | vrol (d a b : VReg) (m : BitVec 3) (z : BitVec 2)  -- R156
  | vror (d a b : VReg) (m : BitVec 3) (z : BitVec 2)  -- R156
  | vcmpEq (d : KReg) (a b : VReg) (m : BitVec 3) (z : BitVec 2)  -- R157
  | vcmpLtI (d : KReg) (a b : VReg) (m : BitVec 3) (z : BitVec 2)  -- R157
  | vcmpLtN (d : KReg) (a b : VReg) (m : BitVec 3) (z : BitVec 2)  -- R157
  | vminI (d a b : VReg) (m : BitVec 3) (z : BitVec 2)  -- R157
  | vminN (d a b : VReg) (m : BitVec 3) (z : BitVec 2)  -- R157
  | vmaxI (d a b : VReg) (m : BitVec 3) (z : BitVec 2)  -- R157
  | vmaxN (d a b : VReg) (m : BitVec 3) (z : BitVec 2)  -- R157
  | vcmpNe (d : KReg) (a b : VReg) (m : BitVec 3) (z : BitVec 2)  -- R157
  | vaddF32 (d a b : VReg) (m : BitVec 3) (rm : BitVec 2)  -- R158
  | vsubF32 (d a b : VReg) (m : BitVec 3) (rm : BitVec 2)  -- R158
  | vmulF32 (d a b : VReg) (m : BitVec 3) (rm : BitVec 2)  -- R158
  | vfmaF32 (d a b : VReg) (m : BitVec 3) (rm : BitVec 2)  -- R158
  | vfnmaF32 (d a b : VReg) (m : BitVec 3) (rm : BitVec 2)  -- R158
  | vminF32 (d a b : VReg) (m : BitVec 3) (rm : BitVec 2)  -- R150
  | vmaxF32 (d a b : VReg) (m : BitVec 3) (rm : BitVec 2)  -- R150
  | vcmpF32 (d : KReg) (a b : VReg) (m : BitVec 3) (p : BitVec 2)  -- R159
  | vtbl (d a b : VReg) (m : BitVec 3)  -- R161
  | vzlo (d a b : VReg) (m : BitVec 3) (z : BitVec 2)  -- R161
  | vzhi (d a b : VReg) (m : BitVec 3) (z : BitVec 2)  -- R161
  | vuzev (d a b : VReg) (m : BitVec 3) (z : BitVec 2)  -- R161
  | vuzod (d a b : VReg) (m : BitVec 3) (z : BitVec 2)  -- R161
  | vrev (d a : VReg) (m : BitVec 3) (z : BitVec 2)  -- R161
  | vdup (d a b : VReg) (m : BitVec 3) (z : BitVec 2)  -- R161
  | vrsumInt (d a : VReg) (m : BitVec 3) (z : BitVec 2)  -- R162
  | vrminI (d a : VReg) (m : BitVec 3) (z : BitVec 2)  -- R162
  | vrminN (d a : VReg) (m : BitVec 3) (z : BitVec 2)  -- R162
  | vrmaxI (d a : VReg) (m : BitVec 3) (z : BitVec 2)  -- R162
  | vrmaxN (d a : VReg) (m : BitVec 3) (z : BitVec 2)  -- R162
  | vrsumBf16 (d a : VReg) (m : BitVec 3)  -- R163
  | vrsumF32 (d a : VReg) (m : BitVec 3)  -- R163
  | vrmaxF32 (d a : VReg) (m : BitVec 3)  -- R162
  | vrminF32 (d a : VReg) (m : BitVec 3)  -- R162
  | vdotI8 (d a b : VReg) (m : BitVec 3)  -- R164
  | vdotN8 (d a b : VReg) (m : BitVec 3)  -- R164
  | vdotI16 (d a b : VReg) (m : BitVec 3)  -- R164
  | vdotBf16 (d a b : VReg) (m : BitVec 3)  -- R164
  | vdotE4m3 (d a b : VReg) (m : BitVec 3)  -- R164
  | vdotE5m2 (d a b : VReg) (m : BitVec 3)  -- R164
  | vcvtBf16F32 (d a : VReg) (m : BitVec 3) (p : BitVec 1) (rm : BitVec 2)  -- R165
  | vcvtF32Bf16 (d a : VReg) (m : BitVec 3) (p : BitVec 1) (rm : BitVec 2)  -- R165
  | vcvtE4m3F32 (d a : VReg) (m : BitVec 3) (p rm : BitVec 2)  -- R165
  | vcvtE5m2F32 (d a : VReg) (m : BitVec 3) (p rm : BitVec 2)  -- R165
  | vcvtF32E4m3 (d a : VReg) (m : BitVec 3) (p rm : BitVec 2)  -- R165
  | vcvtF32E5m2 (d a : VReg) (m : BitVec 3) (p rm : BitVec 2)  -- R165
  | vcvtI32F32 (d a : VReg) (m : BitVec 3) (rm : BitVec 2)  -- R165
  | vcvtN32F32 (d a : VReg) (m : BitVec 3) (rm : BitVec 2)  -- R165
  | vcvtF32I32 (d a : VReg) (m : BitVec 3) (rm : BitVec 2)  -- R165
  | vcvtF32N32 (d a : VReg) (m : BitVec 3) (rm : BitVec 2)  -- R165
  | vcvtI16I32 (d a : VReg) (m : BitVec 3) (p : BitVec 1) (rm : BitVec 2)  -- R165
  | vcvtI8I16 (d a : VReg) (m : BitVec 3) (p : BitVec 1) (rm : BitVec 2)  -- R165
  | vcvtI32I16 (d a : VReg) (m : BitVec 3) (p : BitVec 1) (rm : BitVec 2)  -- R165
  | vcvtI16I8 (d a : VReg) (m : BitVec 3) (p : BitVec 1) (rm : BitVec 2)  -- R165
  | vsfuExp2 (d a : VReg) (m : BitVec 3) (fast : BitVec 1)  -- R167
  | vsfuLog2 (d a : VReg) (m : BitVec 3) (fast : BitVec 1)  -- R167
  | vsfuRcp (d a : VReg) (m : BitVec 3) (fast : BitVec 1)  -- R167
  | vsfuRsqrt (d a : VReg) (m : BitVec 3) (fast : BitVec 1)  -- R167
  | vsfuSqrt (d a : VReg) (m : BitVec 3) (fast : BitVec 1)  -- R167
  | vsfuSinpi (d a : VReg) (m : BitVec 3) (fast : BitVec 1)  -- R167
  | vsfuCospi (d a : VReg) (m : BitVec 3) (fast : BitVec 1)  -- R167
  | vsfuTanh (d a : VReg) (m : BitVec 3) (fast : BitVec 1)  -- R167
  | vsfuSigm (d a : VReg) (m : BitVec 3) (fast : BitVec 1)  -- R167
  | vaddF32S (d a : VReg) (s : SReg) (m : BitVec 3)  -- R160
  | vsubF32S (d a : VReg) (s : SReg) (m : BitVec 3)  -- R160
  | vmulF32S (d a : VReg) (s : SReg) (m : BitVec 3)  -- R160
  | vfmaF32S (d a : VReg) (s : SReg) (m : BitVec 3)  -- R160
  | vaddI32S (d a : VReg) (s : SReg) (m : BitVec 3)  -- R160
  | vsubI32S (d a : VReg) (s : SReg) (m : BitVec 3)  -- R160
  | vmulI32S (d a : VReg) (s : SReg) (m : BitVec 3)  -- R160
  | vshlN32S (d a : VReg) (s : SReg) (m : BitVec 3)  -- R160
  | vshrN32S (d a : VReg) (s : SReg) (m : BitVec 3)  -- R160
  | vshrI32S (d a : VReg) (s : SReg) (m : BitVec 3)  -- R160
  | vminF32S (d a : VReg) (s : SReg) (m : BitVec 3)  -- R160
  | vmaxF32S (d a : VReg) (s : SReg) (m : BitVec 3)  -- R160
  | vaddBf16 (d a b : VReg) (m : BitVec 3) (rm : BitVec 2)  -- R158
  | vsubBf16 (d a b : VReg) (m : BitVec 3) (rm : BitVec 2)  -- R158
  | vmulBf16 (d a b : VReg) (m : BitVec 3) (rm : BitVec 2)  -- R158
  | vfmaBf16 (d a b : VReg) (m : BitVec 3) (rm : BitVec 2)  -- R158
  | vfnmaBf16 (d a b : VReg) (m : BitVec 3) (rm : BitVec 2)  -- R158
  | vminBf16 (d a b : VReg) (m : BitVec 3) (rm : BitVec 2)  -- R150
  | vmaxBf16 (d a b : VReg) (m : BitVec 3) (rm : BitVec 2)  -- R150
  | vcmpBf16 (d : KReg) (a b : VReg) (m : BitVec 3) (p : BitVec 2)  -- R159
  | mxMmaE4m3 (c : AccReg) (xa xb : XReg)  -- R183
  | mxMmaE5m2 (c : AccReg) (xa xb : XReg)  -- R183
  | mxMmxE4m3 (c : AccReg) (xa xb : XReg)  -- R183
  | mxMmxE5m2 (c : AccReg) (xa xb : XReg)  -- R183
  | mxMmaI8 (c : AccReg) (xa xb : XReg)  -- R183
  | mxMmaBf16 (c : AccReg) (xa xb : XReg)  -- R183
  | mxCmmaBf16 (c : AccReg) (xa xb : XReg)  -- R183
  | mxProm (c : AccReg) (sa sb : SReg)  -- R186
  | mxPromU (c : AccReg)  -- R187
  | mxLd (xd : XReg) (sa sb : SReg)  -- R181
  | mxLd2 (xd : XReg) (sa sb : SReg)  -- R181
  | mxLdwQ4 (xd : XReg) (sa sb : SReg)  -- R182
  | mxLdwE4m3 (xd : XReg) (sa sb : SReg)  -- R182
  | mxLdt (xd : XReg) (sa sb : SReg)  -- R181
  | mxAstF32 (c : AccReg) (sa sb : SReg)  -- R188
  | mxAstBf16 (c : AccReg) (sa sb : SReg)  -- R188
  | mxAldF32 (c : AccReg) (sa sb : SReg)  -- R188
  | mxAzero (c : AccReg)  -- R188
  | mxSync  -- R190
  | mxStat (d : SReg) (c : AccReg)  -- R190
  | mxDrop (c : AccReg)  -- R190
  | hintA (h : BitVec 1) (x : BitVec 23)  -- R48
  | stepTrap (core : Nat)  -- R141
  | accessConfirm (core id : Nat)  -- R228
  | lateFault (core : Nat)  -- R230
  | pageUpcall (core ctx : Nat)  -- R231
  | loadPerform (core id : Nat) (err : Bool)  -- R212
  | pageWalk (slice part va : Nat) (err : Bool)  -- R225
  | dramBurst (ed block : Nat)  -- R216
  | storePerform (id : Nat)  -- R213
  | watchArm (core ctx n : Nat)  -- R283
  | waitAnyTimeout (core ctx : Nat)  -- R283
  | atomicPerform (id : Nat) (err : Bool)  -- R276
  | atomicReply (core id : Nat)  -- R277
  | nearOwnershipGrant (core : Nat) (id : DramRead)  -- R280
  | nearRecall (part va : Nat)  -- R280
  | cleanPerform (id : Nat)  -- R234
  | hotnessSample (slice part : Nat)  -- R237
  | detectedError (core : Nat)  -- R343
  | watchdogExpiry (core : Nat)  -- R343
  | retryRestart (core : Nat) (err : Bool)  -- R344
  | messageRelease (id : Nat)  -- R321
  | messageLand (id : Nat)  -- R325
  | messageRetry (id : Nat)  -- R326
  | dispatch (core : Nat)  -- R331
  | preemption (core : Nat)  -- R333
  | priorityAgeing (core n : Nat)  -- R331
  | runQueueReport (core : Nat)  -- R321
  | issueWaitPark (core : Nat)  -- R334
  | activationWake (core ctx : Nat)  -- R334
  | launchPerform (id : Nat)  -- R347
  | launchTrigger (id : Nat)  -- R349
  | regionKillPerform (id : Nat)  -- R352
  | regionComplete (part rcb : Nat)  -- R350
  | barrierArrival (core id : Nat)  -- R356
  | cpStart (core : DramRead)  -- R255
  | cpComplete (core id : Nat) (err : Bool)  -- R260
  | cpCancelStop (core id n : Nat)  -- R266
  | mxRequestStart (cluster stage : Nat)  -- R172
  | mxRequestComplete (core id : Nat)  -- R191
  | mxStateCopy (core ctx : Nat)  -- R195
  | governorWindow (die : Nat)  -- R465
  | potPostPerform (id : Nat)  -- R404
  | potReadPerform (id : Nat)  -- R408
  | potReadLimit (id : Nat)  -- R408
  | potReadResend (id : Nat)  -- R408
  | potReadReply (id : Nat)  -- R408
  | fabricSlotStart  -- R361
  | guardEnd  -- R361
  | flitBoundary (link : Nat)  -- R372
  | flitReceive (link : Nat) (fl : Flit)  -- R364
  | nak (link : Nat) (bulk : Bool) (n : Nat)  -- R380
  | linkRetrain (link : Nat)  -- R382
  | linkRetrainEnd (link : Nat)  -- R382
  | leakyBucketDecay (link : Nat)  -- R382
  | laneErrorWindow (link lane errs : Nat)  -- R383
  | laneRetrainEnd (link lane : Nat)  -- R383
  | linkUp (link ver : Nat)  -- R385
  | remoteRequestTimeout (id : Nat)  -- R377
  | proxyLineReply (id : Nat)  -- R375
  | homeRemoteRequest (id : Nat)  -- R376
  | homeInvalidate (id : Nat)  -- R375
  | postTrainTimeout (id : Nat)  -- R379
  | fabWaitTimeout (core ctx : Nat)  -- R393
  | qdAdmission (id : Nat)  -- R427
  | windowAccess (id : Nat)  -- R428
  | allowanceExhausted (core : Nat)  -- R443
  | roundTimeout (id : Nat)  -- R447
  | roundEnd (id : Nat)  -- R448
  | tileRefill (cluster tile : Nat)  -- R473
  | eventRingRoom (ed : Nat)  -- R483
  | powerOn (b : BootInput)  -- R489
  | dieAuthTimeout (die : Nat)  -- R489
  | pstateCreate (p : Nat)  -- R468
  | linkRestore (link : Nat)  -- R382
  | mgmtRegisterWrite (n : MgmtReg) (v : BitVec 64)  -- R478
  | hello (h : HostReq)  -- R488
  | bootrpt (h : HostReq)  -- R488
  | pcreate (h : HostReq)  -- R488
  | pswap (h : HostReq)  -- R488
  | pkill (h : HostReq)  -- R488
  | pset (h : HostReq)  -- R488
  | tlbinv (h : HostReq)  -- R488
  | launch (h : HostReq)  -- R498
  | rkill (h : HostReq)  -- R488
  | plimit (h : HostReq)  -- R488
  | evring (h : HostReq)  -- R488
  | fabset (h : HostReq)  -- R488
  | linkrst (h : HostReq)  -- R488
  | attest (h : HostReq)  -- R492
  | copy (h : HostReq)  -- R488
  | netxfer (h : HostReq)  -- R494
  | hostBadcmd (num : Nat) (h : HostReq)  -- R488
  | unassignedWord (aw : Bool) (w : BitVec 32)  -- R48
  | uetTransferReceive (port : Nat) (x : UetInput)  -- R494
  | swapRestoreDone (p q : Nat)  -- R472
deriving DecidableEq, Repr

/-- A `.tiles` directive of an image (02 R72): the entries, the granules of each, and the address that they are filled from. -/
structure ImageTiles where
  first : Nat
  count : Nat
  grans : Nat
  init : Option Nat
deriving DecidableEq, Repr

/-- A `.pot` directive of an image (02 R73): the address of its handle dword, and what the pot is opened with. -/
structure ImagePot where
  addr : Nat
  d : Nat
  fast : Bool
  l : Nat
  e : BitVec 64
deriving DecidableEq, Repr

/-- An image as a launcher is given it (02 R70-R73): its control block's address and dwords by offset, the page-table entries that map
its sections (physical address and entry), the bytes of its sections by address, its tiles and its pots. -/
structure Image where
  rcb : Nat
  block : List (Nat × BitVec 64)
  pages : List (Nat × BitVec 64)
  sections : List (Nat × List (BitVec 8))
  tiles : List ImageTiles
  pots : List ImagePot
deriving DecidableEq, Repr

/-- What a step does next: issue the bundle of a core, try to issue one whose fetch meets an uncorrectable error if it reads DRAM
(R493), perform an event, or let the activation that runs on a core launch an image (R71). -/
inductive Move where
  | issue (core : Nat)
  | issueErr (core : Nat)
  | image (core : Nat) (img : Image)
  | event (i : Instr)
deriving DecidableEq, Repr

end Sys2Proof
end

