-- ==== Sys2Proof/Machine/State.lean ====
section
/-! DEFINITION. The state of one Acley package as plain data: every core, cluster, die, slice, edge die,
link, partition and memory, and every request that is on its way. Sparse files of like things are
lists of (number, value) pairs in rising order (`FMap`); an unlisted number holds the reset value. -/

namespace Sys2Proof.Machine

/-- A sparse file of things by number, numbers rising. -/
abbrev FMap (α : Type) := List (Nat × α)

/-- One memory: (address, byte) cells, addresses rising, no cell equal to what an unlisted address
reads as. -/
abbrev Memory := List Host.Cell

/-- Names of the registers that a bundle reads or writes (Table 2.12). -/
inductive Reg where
  | s (r : SReg)
  | v (r : VReg)
  | k (r : KReg)
  | i (r : IReg)
  | x (r : XReg)
  | a (r : AccReg)
deriving DecidableEq, Repr

/-- The register files s, v, k and i (Table 2.12). s0 is stored and never read or written: the
accessors hard-wire it. -/
structure Regs where
  s : Vector Word 64
  v : Vector (BitVec 128) 32
  k : Vector (BitVec 16) 8
  i : Vector Word 4
deriving DecidableEq, Repr

/-- The nest state of an activation (04 R124): NDESC, NCUR, NEND and the copy of the descriptor. -/
structure Nest where
  desc : Word
  cur : Word
  fin : Word
  p : Nat
  k : Nat
  n : Nat
  counts : List Word
  steps : List Word
deriving DecidableEq, Repr

/-- The format context of one accumulator (06 R175): partial register of 64 x 64 elements, pending
count, class (0 none, 1 FP8, 2 INT8, 3 BF16, 4 complex), row-zero mask, block-zero bit. -/
structure MxCtx where
  part : BitVec 131072
  pp : Nat
  cls : Nat
  rowz : BitVec 64
  blkz : Bool
deriving DecidableEq, Repr

/-- The matrix state of an activation (06 R194). Row r, byte k of an x register is bits
8(32r + k) + 7 : 8(32r + k); element (i, j) of an accumulator is bits 32(64i + j) + 31 : 32(64i + j). -/
structure MxState where
  x : Vector (BitVec 16384) 8
  acc : Vector (BitVec 131072) 4
  ctx : Vector MxCtx 4
deriving DecidableEq, Repr

/-- A message header (Table 13.3); `part` is carried beside it while the message travels. -/
structure Hdr where
  ver : Nat
  kind : Nat
  rcb : Nat
  prio : Nat
  eoff : Nat
  len : Nat
  e4 : Bool
  spkg : Nat
  src : Nat
deriving DecidableEq, Repr

/-- A fixed-latency result not yet due (02 R34, R35): the register, the credited cycle from which its
new value is read, and the value it held before; the cycle in which its latency has really passed, and whether a bundle has read its new
value already (R37). -/
structure FixedPend where
  reg : Reg
  due : Nat
  old : BitVec 128
  ready : Nat
  seen : Bool := false
deriving DecidableEq, Repr

/-- What an undo-log entry restores (07 R228). -/
inductive UndoItem where
  | reg (r : Reg) (old : BitVec 128)
  | flags (old : Word)
  | nest (old : Nest)
  | status (old : Word)
deriving DecidableEq, Repr

/-- One undo-log entry: the bundle that wrote, and the value before it. -/
structure Undo where
  seq : Nat
  item : UndoItem
deriving DecidableEq, Repr

/-- Where stored bytes go (07 R199): local store (absolute offset), scratchpad (byte of the
cluster's scratchpad), global virtual memory. -/
inductive Space where
  | ls
  | spad
  | global
deriving DecidableEq, Repr

/-- Atomic operations and types (Table 10.3). -/
inductive AtomOp where
  | add | swap | cas | and | or | xor | min | max
deriving DecidableEq, Repr

inductive AtomTy where
  | i32 | n32 | i64 | n64 | f32
deriving DecidableEq, Repr

/-- Buffered tile-state changes (Table 7.12). -/
inductive TileChg where
  | free | fill | ready | drop
deriving DecidableEq, Repr

/-- The target of a message (Table 13.4). -/
inductive MsgTarget where
  | core (pkg core : Nat)
  | owner (h : Nat)
  | any
deriving DecidableEq, Repr

/-- The fields of a post block (Table 15.5a). -/
structure PostBlk where
  slot : Nat
  bf16 : Bool
  gen : BitVec 32
  src : Nat
  first : Nat
  count : Nat
  cw : Nat
deriving DecidableEq, Repr

/-- What a retire-buffer entry does when it drains (13 R342). An `ast` entry holds the bytes of a completed `mx.ast` (09 R270);
it is committed when its request was issued before the last commit point (06 R195). -/
inductive RbOp where
  | store (sp : Space) (addr : Nat) (bytes : List Byte) (rel : Bool) (hint : Nat)
  | red (va : Nat) (op : AtomOp) (ty : AtomTy) (v : Word) (rel near : Bool)
  | clean (va len : Nat)
  | tile (chg : TileChg) (n : Nat)
  | cp (id : Nat)
  | msg (hdr : Hdr) (pay : List Word) (tgt : MsgTarget)
  | launch (rcb : Nat) (early : Bool) (pred : Nat)
  | kill (rcb : Nat)
  | trig
  | barFree (unit : Nat)
  | liveDec (rcb : Nat)
  | post (handle : Word) (blk : PostBlk) (data : List Byte)
  | potClose (handle : Word)
  | potReset (handle : Word) (g : BitVec 32)
  | potSeal (handle : Word)
  | potExp (handle : Word) (e : Word)
  | ast (runs : List (Nat × List Byte)) (committed : Bool)
deriving DecidableEq, Repr

/-- A retire-buffer entry (07 R208): the bundle that appended it, with its address, and the bytes of the buffer it takes. -/
structure RbEntry where
  seq : Nat
  size : Nat
  op : RbOp
  pc : Nat := 0
deriving DecidableEq, Repr

/-- Where a load's bytes go (07 R206): the result register and what is done to the bytes. -/
inductive LdDst where
  | s (r : SReg) (sign : Bool)
  | v (r : VReg)
  | w4 (r : VReg) (scale : Nat)
  | e4 (r : VReg)
  | stat (r : SReg)
deriving DecidableEq, Repr

/-- What an outstanding access is. A probe checks a buffered effect's address (07 R228), of a near reduction or not; `arm` is a
slot of `wait.any`; `ldw` is an `mx.ldw` request's rows and scales; `gangStat` reads a field of a quadrille, or of a reel and an entrant
(64 for none), whose control block another package holds (17 R436, R453). -/
inductive AccKind where
  | load (sp : Space) (dst : LdDst) (roc : Bool)
  | probe (near : Bool) (red : Option (AtomOp × AtomTy))
  | atom (op : AtomOp) (ty : AtomTy) (near : Bool) (v w : Word) (d : SReg)
  | claim (desc : Nat) (d : SReg)
  | arrive (unit n : Nat) (d : SReg) (block : Bool)
  | potRead (d : SReg)
  | potStat (handle sel : Word) (d : SReg)
  | gangStat (rcb pkg sel ent : Nat) (d : SReg)
  | arm (slot : Nat)
  | ldw (req : Nat)
deriving DecidableEq, Repr

/-- How far an access has come: not yet performed; asked of another package; performed with a reply on its way; failed, with
cause, TVAL and walk level. -/
inductive AccSt where
  | pending
  | asked (since : Nat)
  | performed (old : Word)
  | failed (cause : Nat) (tval : Word) (level : Nat)
deriving DecidableEq, Repr

/-- A pot read on its way or waiting at its home (15 R408). -/
inductive PotRdSt where
  | travelling
  | held (again : Nat)
  | waiting
  | asked (since : Nat)
  | arriving (mask : Word) (n : Nat) (gen : BitVec 32) (sat short closed : Bool) (flags : Word) (data : List Byte)
  | answered (mask : Word) (vals : List (BitVec 32)) (gen : BitVec 32) (sat short closed : Bool) (flags : Word)
deriving DecidableEq, Repr

/-- A snapshot of an activation (13 R342): registers, FLAGS, nest state, activation-owned control
registers, pc, matrix state, and the registers whose interlocked result is still to come. -/
structure Snap where
  regs : Regs
  flags : Word
  nest : Nest
  status : Word
  cause : Word
  epc : Word
  tval : Word
  allow : Word
  score : Word
  pc : Nat
  mx : MxState
  pend : List Reg
  conly : Bool := false
  flagsWr : Option (Word × Word) := none
deriving DecidableEq, Repr

/-- An access that is not yet confirmed, or whose result has not returned. `before` is the snapshot
that stands if a commit-point access fails (10 R277); `hint` is the reuse hint; `dual` says that a load's register write is
discarded (02 R51), `warned` that its bundle has counted in WARN (02 R52); `prog` is the program that its activation is part of
(`Act.prog`); `got` holds the pieces of a load that are read already (11 R291). -/
structure Access where
  id : Nat
  act : Nat
  seq : Nat
  pc : Nat
  kind : AccKind
  va : Nat
  size : Nat
  acq : Bool
  rel : Bool
  hint : Nat
  e4 : Bool
  dual : Bool
  st : AccSt
  before : Option Snap
  warned : Bool := false
  prog : Nat := act
  got : FMap (List Byte) := []
deriving DecidableEq, Repr

/-- A slot of a waiting `wait.any` (Table 10.5). -/
structure WSlot where
  addr : Nat
  exp : Word
  armed : Bool
  fired : Bool
deriving DecidableEq, Repr

/-- What a bundle waits for at issue when the wait parks its activation in the end (13 R334, R357): a tile in one of some
states, a completion-table entry, the end of a copy command, a slot of the matrix queue, the phase of a barrier. -/
inductive IssueWait where
  | tile (n : Nat) (ok : List Nat)
  | cpEntry
  | cpDone (id : Nat)
  | mxSlot
  | barrier
deriving DecidableEq, Repr

/-- Why an activation is parked (13 R334), or that it runs or waits in the run queue. For a barrier, `arrived` says that the
arrival is counted and `phase` is the phase it saw. -/
inductive Park where
  | running
  | queued
  | waitAny (slots : List WSlot) (deadline : Option Nat) (forced : Bool) (d : SReg)
  | potRead (id : Nat)
  | barrier (unit : Nat) (phase : BitVec 16) (d : SReg) (arrived : Bool)
  | qdOpen (rcb : Nat) (d : SReg)
  | qdExit (rcb : Nat) (d : SReg)
  | fabWait (q : Nat) (deadline : Option Nat) (forced : Bool) (d : SReg)
  | round (d : Option SReg) (done : Bool)
  | issue
  | page (va : Nat) (kind level : Nat) (conly : Bool)
deriving DecidableEq, Repr

/-- Operands of a matrix request (06 R180). -/
inductive MxOp where
  | mma (f : Nat) (c : AccReg) (xa xb : XReg) (implicit : Bool)
  | prom (c : AccReg) (scales : Option (List (BitVec 32) × BitVec 32))
  | ld (two transposed : Bool) (d : XReg) (sa sb : Word)
  | ldw (q4 : Bool) (d : XReg) (sa sb : Word)
  | ast (bf16 : Bool) (c : AccReg) (sa sb : Word)
  | ald (c : AccReg) (sa sb : Word)
  | azero (c : AccReg)
  | stat (d : SReg) (c : AccReg)
  | drop (c : AccReg)
deriving DecidableEq, Repr

/-- What a started matrix request will deliver. -/
inductive MxRes where
  | none
  | x (vals : List (BitVec 16384))
  | acc (v : BitVec 131072)
  | part (v : BitVec 131072) (rz : BitVec 64) (bz : Bool)
  | bytes (v : List (Nat × Byte))
  | runs (v : List (Nat × List Byte))
deriving DecidableEq, Repr

/-- A matrix request (06 R172): in its core's queue until it starts, then in a stage until it
completes. `waitAt` is when a K-step began to wait for leave; `prog` is as in `Access`. -/
structure MxReq where
  id : Nat
  act : Nat
  seq : Nat
  op : MxOp
  e4 : Bool
  zs : Bool
  started : Bool
  res : MxRes
  flags : Word
  committed : Bool
  waitAt : Option Nat
  prog : Nat := act
deriving DecidableEq, Repr

/-- An activation (13 R328) with its context. `latch` holds the registers and FLAGS as the current
bundle read them at issue (02 R32), `aFlags` the flags that its A-word set, `prior` and `priorAllow` the registers and ALLOW before it, `bundle` is that bundle; `npc` is where the next bundle is;
`taken` says that the bundle has transferred control; matrix requests with a lower number than `mxHold` hold the next bundle
(06 R190); an upcall activation (07 R231) holds no extent of its own, and its bundles stand in the program order of its faulter
(11 R292): `prog` is the number of the activation in whose order this one's bundles stand; `barWait`
is the unit that a `bar.wait` waits at, with its result once it is released (13 R357, R358); `waitFor` is what the bundle waited for
at issue when it was last tried. -/
structure Act where
  id : Nat
  prog : Nat
  part : Nat
  hdr : Hdr
  ring : Nat
  rp : Nat
  regs : Regs
  latch : Regs
  latchFlags : Word
  aFlags : Word
  prior : Regs
  priorAllow : Word
  bundle : BitVec 64
  flags : Word
  nest : Nest
  status : Word
  cause : Word
  epc : Word
  tval : Word
  allow : Word
  score : Word
  pc : Nat
  npc : Nat
  seq : Nat
  mx : MxState
  mxPlaced : Bool
  extBase : Nat
  extLen : Nat
  snap : Snap
  attempts : Nat
  park : Park
  pend : List Reg
  flagsWr : Option (Word × Word)
  stepDue : Bool
  mxHold : Nat
  conly : Bool
  taken : Bool
  claims : List (Nat × Nat × Nat)
  barClaims : List (Nat × Nat)
  potClaims : List Word
  counted : Bool
  upcall : Bool
  barWait : Option (Nat × Option Word)
  waitFor : Option IssueWait
deriving DecidableEq, Repr

/-- A run-queue entry (13 R331): a landed message (ring and record position), a ready context or a
resumed fibre slot. `resv` marks a message in one of the entries that are reserved for ring 3. -/
inductive QKind where
  | msg (ring pos : Nat)
  | ctx (n : Nat)
  | fibre (n : Nat)
deriving DecidableEq, Repr

structure QEnt where
  kind : QKind
  prio : Nat
  since : Nat
  aged : Nat
  resv : Bool
deriving DecidableEq, Repr

/-- A record of a mailbox ring that HEAD has not passed (13 R327); `act` is the context that a KIND 4 message brings. -/
structure RingRec where
  ring : Nat
  pos : Nat
  size : Nat
  done : Bool
  act : Option Act
deriving DecidableEq, Repr

/-- States of a completion-table entry (Table 8.7). -/
inductive CpSt where
  | free | buffered | queued | running | done
deriving DecidableEq, Repr

/-- The command forms of the copy engine (Table 8.1). -/
inductive CpForm where
  | copy | gather | scatter | fill | mcast | walk | cow
deriving DecidableEq, Repr

/-- A completion-table entry and its command (08 R248, R263). While it runs: the source bytes as they were at its start
(08 R252), what it read first (identifiers, group entry), which of its bytes it has still to move, as ranges of their numbers
(`CpEnt.total`), those that it has read ahead and not written, by number, targets whose first byte has arrived and those that have failed, whether it met a hole, its fault. `mark` is the number that the next request had when the
command was queued: effects with a smaller one drained before it. -/
structure CpEnt where
  gen : BitVec 16
  st : CpSt
  owner : Option Nat
  rcb : Nat
  part : Nat
  ent : Option Nat
  form : CpForm
  desc : List Word
  pattern : Word
  status : Word
  info : Word
  srcAt : List (List Byte)
  group : List Word
  left : List (Nat × Nat)
  early : List (Nat × Byte) := []
  tseen : Nat
  tmask : Nat
  hole : Bool
  fault : Option (Nat × Nat)
  cancel : Bool
  doneAt : Nat
  mark : Nat
  act : Nat
  seq : Nat
deriving DecidableEq, Repr

/-- A line of an L1 (07 R213, R218, R280). -/
structure L1Line where
  part : Nat
  tag : Nat
  data : BitVec 256
  rrpv : Nat
  marked : Bool
  own : Bool
deriving DecidableEq, Repr

/-- A fetched bundle held in the instruction cache (04 R106). -/
structure ICLine where
  part : Nat
  va : Nat
  bundle : BitVec 64
deriving DecidableEq, Repr

/-- A watch of a `wait.any` slot (10 R283). -/
structure Watch where
  core : Nat
  ctx : Nat
  slot : Nat
  part : Nat
  va : Nat
deriving DecidableEq, Repr

/-- One core (Table 1.2 and Table 4.10). `watches` are those of its local-store port; `report` is the count of run-queue entries that it
last reported, at `reportAt` (13 R321); `waitFrom` is when the wait at issue began that parks its activation after 256 cycles (13 R334); `earned` are the WARN
bits that the current bundle has set, so that COUNT advances once per bundle (02 R52). `dist` counts credited cycles (02 R34),
`sfuAt` is its value at the last SFU form, `nextIssue` is the first cycle at which the next bundle may issue (02 R33), `ftoFetch` is
an activation and the address whose fetch from another package had no reply (14 R377); `cpWaitAt` is when its copy engine began to
wait for leave (08 R268); `draining` says that a commit point has
begun its drain and waits in it, `errDue` that a detected error struck meanwhile, in the attempt of an activation, which is taken after
the snapshot (13 R342). `resv` are contexts and extents that are kept for attempts to restart in: activation, context, base and length
(13 R343). CYCLE was `cycleWas` at the cycle `cycleAt`: a swap saves and restores it (04 R130). -/
structure Core where
  part : Option Nat
  halted : Bool
  swapping : Bool
  acts : FMap Act
  run : Option Nat
  fibres : FMap Act
  cctl : Word
  tvec : Word
  rscr : Word
  uvec : Word
  fmt : Word
  warn : Word
  warnpc : Word
  earned : Word
  instret : Word
  leaveW : Word
  evt : Word
  scause : Word
  sepc : Word
  stval : Word
  ls : Memory
  shadow : Memory
  shadowOf : Option Nat
  watches : List Watch
  l1 : FMap (FMap L1Line)
  icache : List ICLine
  rb : List RbEntry
  undo : List Undo
  accs : List Access
  fixed : List FixedPend
  dist : Nat
  sfuAt : Option Nat
  waitFrom : Option Nat
  lastIssue : Nat
  nextIssue : Nat
  mxq : List MxReq
  queue : List QEnt
  recs : List RingRec
  report : Nat
  reportAt : Nat
  cpq : List Nat
  cps : FMap CpEnt
  cpHeld : Nat
  cpAsked : Nat
  moved : Nat
  ftoFetch : Option (Nat × Nat) := none
  cpWaitAt : Option Nat := none
  draining : Bool := false
  errDue : Option Nat := none
  resv : List (Nat × Nat × Nat × Nat) := []
  cycleWas : Nat := 0
  cycleAt : Nat := 0
deriving DecidableEq, Repr

/-- The region that owns a tile or barrier unit: partition and control-block address. -/
structure Own where
  part : Nat
  rcb : Nat
deriving DecidableEq, Repr

/-- A tile-table entry (07 R238); state 0 empty, 1 filling, 2 ready, 3 draining. `ent` is the
entrant whose activation claimed it while a reel is open (17 R450); `refill` says that a swapped-in
extent's bytes are not back yet (20 R473); `claim` names the claim that it is held by. -/
structure Tile where
  owner : Option Own
  ent : Option Nat
  st : Nat
  base : Nat
  gran : Nat
  refill : Bool
  claim : Nat := 0
deriving DecidableEq, Repr

/-- A stage of the matrix unit (06 R171, R173): the core it last served. -/
structure Stage where
  busy : Option (Nat × Nat)
  last : Nat
deriving DecidableEq, Repr

/-- One cluster (01 R15). -/
structure Cluster where
  spad : Memory
  tiles : FMap Tile
  stages : List Stage
  held : Nat
  asked : Nat
deriving DecidableEq, Repr

/-- A barrier unit (13 R354); `claim` names the `bar.init` that it is held by. -/
structure Bar where
  owner : Option Own
  exp : Nat
  cnt : Nat
  phase : BitVec 16
  claim : Nat := 0
deriving DecidableEq, Repr

/-- Who asked the power governor for tokens (Table 20.2). -/
inductive Pool where
  | mx (cluster core : Nat)
  | cp (core : Nat)
  | pot (flight core : Nat)
deriving DecidableEq, Repr

/-- A request that waits at the power governor (20 R465). -/
structure GovReq where
  pool : Pool
  n : Nat
  refused : Bool
  since : Nat
deriving DecidableEq, Repr

/-- An event record (Table 20.9) before its SEQ. -/
structure EvRec where
  cls : Nat
  code : Nat
  part : Nat
  core : Nat
  count : Nat
  addr : Word
  time : Nat
deriving DecidableEq, Repr

/-- A die's side of event reporting (20 R483): the pending record and the class counters. -/
structure EvDie where
  pend : Option EvRec
  cnt : FMap Nat
deriving DecidableEq, Repr

/-- One compute die: barrier units, power governor, event reporting. -/
structure Die where
  bars : FMap Bar
  window : Nat
  granted : Nat
  reqs : List GovReq
  ev : EvDie
deriving DecidableEq, Repr

/-- A line of a slice (07 R214): the directory's sharers and the near owner ride with it. `tag` is the
virtual line number, `pa` the physical address, `rm` the package of a remote page (07 R224). -/
structure Line where
  part : Nat
  tag : Nat
  pa : Nat
  rm : Option Nat
  data : BitVec 256
  dirty : Bool
  rrpv : Nat
  sharers : List Nat
  owner : Option Nat
deriving DecidableEq, Repr

/-- A slice TLB entry (07 R222): the leaf entry of the page at this level. -/
structure TlbEnt where
  part : Nat
  level : Nat
  page : Nat
  pte : Word
deriving DecidableEq, Repr

/-- What a finished walk found for an access that waits on it. -/
structure Walked where
  part : Nat
  va : Nat
  cause : Nat
  level : Nat
deriving DecidableEq, Repr

/-- A stockpot (Table 15.1); SUM elements are 96-bit codes, FP32 in bits 31:0 in fast mode. -/
structure Pot where
  isOpen : Bool
  inc : Nat
  d : Nat
  fast : Bool
  l : Nat
  g : BitVec 32
  e : Word
  landed : Vector Word 16
  sum : List (BitVec 96)
  sat : Bool
  rej : Word
  part : Nat
deriving DecidableEq, Repr

/-- States of a remote block at its proxy (14 R375). -/
inductive PState where
  | i | s | e | m
deriving DecidableEq, Repr

/-- A 128-byte block of a page on another package (14 R375). -/
structure PBlk where
  part : Nat
  blk : Nat
  pkg : Nat
  st : PState
deriving DecidableEq, Repr

/-- Another package's copy of one of this package's blocks (14 R376), granted under a tag; `asked` once its invalidation is
sent. -/
structure PeerCopy where
  part : Nat
  blk : Nat
  pkg : Nat
  excl : Bool
  asked : Bool
  tag : Nat := 0
deriving DecidableEq, Repr

/-- One cache slice. `hot` counts requests by partition (07 R236); `samples` are those still to be recorded:
partition, address, core, type. -/
structure Slice where
  lines : FMap (FMap Line)
  tlb : List TlbEnt
  walked : List Walked
  watches : List Watch
  pots : FMap Pot
  ways : Nat
  hot : FMap Nat
  samples : List (Nat × Nat × Nat × Nat)
  blocks : List PBlk
  peers : List PeerCopy
deriving DecidableEq, Repr

/-- One edge die: merge window (07 R216), event ring (20 R483), reporting, send queues (14 R371):
partition and flit, by destination position; `held` are bulk flits that wait at slices for room. `mgmt` is its management core, which
runs Trivet in system mode (20 R462). -/
structure Edge where
  mgmt : Core
  merge : List (Nat × Nat)
  evBase : Nat
  evSize : Nat
  evConsAt : Nat
  evWritten : Nat
  ev : EvDie
  ctlQ : FMap (List (Nat × Flit))
  bulkQ : FMap (List (Nat × Flit))
  relayQ : FMap (List (Nat × Flit))
  held : FMap (List (Nat × Flit))
deriving DecidableEq, Repr

/-- A lane of a link (14 R383): in service, retraining, or in its check window. -/
inductive Lane where
  | up | train | check
deriving DecidableEq, Repr

/-- What a link keeps for one position that it is matched with (14 R364, R365, R380, R381; log 64): the next sequence numbers and
control counts of both directions, the replay window, control flits sent since training, flits to be sent again, NAKs to be sent,
which flit was replayed last, and how often that failed. `gapTo` is the last bulk flit seen since a NAK that is not made good, and
`ctlNaked` says that a control NAK is not made good. Flits stand with their partitions; 32 marks a flit of none. -/
structure Conn where
  txSeq : Nat
  rxSeq : Nat
  txCtl : Nat
  rxCtl : Nat
  replay : List (Nat × Flit)
  ctlSent : List (Nat × Flit)
  resend : List (Nat × Flit)
  naks : List Flit
  nakAt : Nat
  fails : Nat
  gapTo : Option Nat
  ctlNaked : Bool
deriving DecidableEq, Repr

/-- One package link (14 R363-R387): positions that it has come up to, with the negotiated version; its lanes and counters; what it
keeps for each position; flits sent in this slot; until when, in 80ths of a cycle, it is sending one; since when a send queue of its
streams has been full. -/
structure Link where
  vers : FMap Nat
  retired : Bool
  training : Bool
  lanes : Vector Lane 8
  ctr : Vector Word 12
  conns : FMap Conn
  decayAt : Nat
  slotCtl : Nat
  slotAll : Nat
  direct : Nat
  busyTo : Nat
  fullAt : Option Nat
deriving DecidableEq, Repr

/-- One partition entry (Table 20.5) with what a swap keeps of it. -/
structure Part where
  st : Nat
  gran : BitVec 64
  ptroot : Nat
  ctx : Nat
  root : Word
  hot : Word
  span : Word
  fab : Word
  cores : FMap Core
  clusters : FMap Cluster
  was : Bool
  outAt : Nat
deriving DecidableEq, Repr

/-- A drained effect on its way to its home (13 R342), in drain order. `act` is the
program that its activation is part of (`Act.prog`); `leaveOk` says that the power governor has granted a post's tokens; `sent` is
the tag of a post that came from another package; `src` names the activation and the bundle, by number and address, of an effect on a
quadrille window, which may still fail late (17 R428); `waited` are the cycles that a post of another package waited for leave, and
`refusals` how often it was refused (20 R466); `born` is the number that it had when it drained, which the parts of a store that is cut keep. -/
structure Flight where
  id : Nat
  core : Nat
  part : Nat
  act : Nat
  rp : Nat
  ent : Option Nat
  op : RbOp
  leaveOk : Bool
  sent : Option Nat
  src : Option (Nat × Nat × Nat) := none
  waited : Nat := 0
  refusals : Nat := 0
  born : Nat := id
deriving DecidableEq, Repr

/-- How far a message has come (13 R321, R326): travelling, or refused and waiting to be sent again. -/
inductive MsgSt where
  | travelling
  | refused (wait due : Nat)
deriving DecidableEq, Repr

/-- A message after its release. `port` is its sending port: the core, or 4096 + e for edge die e that received it, or 8192 + s for
slice s, or 12288 + e for edge die e that sends it to another die, or to package `dest` (R326); `sender` numbers the core, slice or
edge die that it comes from in the same way (R322). -/
structure Msg where
  id : Nat
  hdr : Hdr
  pay : List Word
  part : Nat
  core : Nat
  far : Bool
  port : Nat
  sender : Nat
  act : Option Act
  st : MsgSt
  dest : Option Nat := none
deriving DecidableEq, Repr

/-- A pot read (15 R408); `id` is that of its access, `since` is its first arrival at its home; `far` is the package, and the tag, of a
read that another package made; `prog` is the program that the reader is part of. -/
structure PotRd where
  id : Nat
  core : Nat
  act : Nat
  part : Nat
  handle : Word
  need : Word
  dst : Nat
  blk : Nat
  bf16 : Bool
  limit : Nat
  first : Nat
  count : Nat
  sealing : Bool
  since : Option Nat
  st : PotRdSt
  far : Option (Nat × Nat) := none
  prog : Nat := act
deriving DecidableEq, Repr

/-- A pending region (13 R347, R349): its block, its predecessor, the launching core and that core's
FMT.E4 at the launch. -/
structure PendReg where
  own : Own
  pred : Nat
  src : Nat
  e4 : Bool
deriving DecidableEq, Repr

/-- A quadrille (17 R425-R433, R499): it waits for its admission (neither `open_` nor `closed`), is open, or has closed while its
region goes on. `reserved` are the members that the admission holds; `asked` says that the next one, on another package, has been asked
for, and `granted` that it has agreed; `masks` are the present cores of members on other packages, by package and cluster, as those have
said. `home` is the package of its control block, when that is another one: this package then keeps a copy of what it is told, and under
the number 4096 what it has reserved for an admission there; `asked` then says that it has asked to give that up. -/
structure Quad where
  id : Nat
  part : Nat
  rcb : Nat
  params : Nat
  qid : Nat
  m : Nat
  tseg : Nat
  gran : Nat
  members : List (Nat × Nat)
  reserved : List Nat
  open_ : Bool
  closed : Bool
  det : Word
  dep : Word
  src : Option Nat
  e4 : Bool
  asked : Bool := false
  granted : Bool := false
  masks : FMap Nat := []
  home : Option Nat := none
deriving DecidableEq, Repr

/-- What a package last told the home of a reel of its part in it (17 R446): the round; entrants that have stopped there; entrants whose
lowest core there has FMT.E4; messages of the partition that it has sent to each other package and has had from it; tiles by entrant. -/
structure ReelPart where
  round : Nat
  stopped : Word
  e4 : Word
  counts : FMap (Nat × Nat)
  tiles : FMap Nat
deriving DecidableEq, Repr

/-- An open reel (17 R438-R453, R499). `held e` are the cores of entrant e, those of another package p as 4096 (p + 1) and the core; `late`
says that the round's timeout has passed. `parts` is what other packages have told its home. `home` is the package of its control block,
when that is another one: this package then keeps a copy of what it is told, and `parts` holds what it has told last. -/
structure Reel where
  id : Nat
  part : Nat
  rcb : Nat
  params : Nat
  e : Nat
  sc : Nat
  geoff : Nat
  a0 : Nat
  cap : Nat
  qdb : Nat
  rto : Nat
  round : Nat
  alive : Word
  fin : Word
  scores : List Word
  held : List (List Nat)
  since : Nat
  late : Bool
  parts : FMap ReelPart := []
  home : Option Nat := none
deriving DecidableEq, Repr

/-- What arrived from another package and waits to be served (14 R375, R376, R379): of a train how many of its blocks have come, and which
of them could not be accepted; `owed` is a block that its sender therefore keeps, `early` one that has come before its header, `lost` a
discarded post: its completion object that is still to be written, with its handle and core, and how many of its blocks are still to come. -/
inductive InWhat where
  | request (excl : Bool) (va : Nat)
  | reply (data : List (BitVec 256)) (excl : Bool) (tag : Nat)
  | invalidate (va : Nat)
  | train (va : Nat) (blocks : Nat) (come : Nat) (refused : Nat)
  | owed (va : Nat)
  | early (data : BitVec 1024)
  | lost (obj : Option (Word × PostBlk × Nat)) (blocks : Nat)
  | clean (va : Nat) (n : Nat)
  | potAsk (code : Nat) (handle : Word) (v : Nat)
  | quadAsk (rcb cl tseg gran : Nat)
  | window (code : Nat) (va : Nat) (data : Nat)
  | potOp (handle : Word) (op : RbOp)
  | post (handle : Word) (blk : PostBlk) (src : Nat) (blocks : Nat) (data : List Byte) (since : Nat)
deriving DecidableEq, Repr

/-- A train that its home has not accepted yet (14 R377): its blocks, and its first tag while it is on its way. -/
structure TrainOut where
  id : Nat
  edge : Nat
  part : Nat
  va : Nat
  pkg : Nat
  blocks : List (List Byte)
  tag : Option Nat
deriving DecidableEq, Repr

/-- Who waits for an answer of another package to a window or a quadrille or reel of its: a piece of a load, an atomic, a field, a
drained effect; a read of a copy engine, or a write of one of its commands (512 for a completion object). -/
inductive AskWho where
  | piece (access i : Nat)
  | atom (access : Nat)
  | stat (access : Nat)
  | flight (id : Nat)
  | engRead (core : Nat)
  | engWrite (core cp : Nat)
deriving DecidableEq, Repr

/-- A request to a scratchpad port, or about a quadrille or reel, of another package that has no answer yet (17 R429); what a copy engine
reads stays here until it takes it, or the cause of its failure. -/
structure WinAsk where
  id : Nat
  core : Nat
  part : Nat
  pkg : Nat
  who : AskWho
  va : Nat
  size : Nat
  since : Nat
  got : Option (List Byte) := none
  bad : Option Nat := none
deriving DecidableEq, Repr

structure Inbound where
  id : Nat
  pkg : Nat
  part : Nat
  tag : Nat
  what : InWhat
deriving DecidableEq, Repr

/-- A request to another package that has no answer yet (14 R375, R377). -/
structure RReq where
  id : Nat
  part : Nat
  va : Nat
  pkg : Nat
  excl : Bool
  slice : Nat
  since : Nat
deriving DecidableEq, Repr

/-- A `clean` of bytes of a page that another package holds, until that package has answered (14 R375, R377): the drained effect
that waits for it, and the proxy blocks that went home with it. -/
structure CleanReq where
  id : Nat
  part : Nat
  va : Nat
  pkg : Nat
  flight : Nat
  blks : List Nat
  since : Nat
deriving DecidableEq, Repr

/-- A NETXFER whose peer has not acknowledged every byte (20 R494). -/
structure NetXfer where
  port : Nat
  left : Nat
  req : HostReq
deriving DecidableEq, Repr

/-- A `sys.swap` or PSWAP between its checks and its restore (20 R470-R474), or a `sys.kill` or PKILL while it halts (R476):
the activation and register, or the command, that waits for it; the rotation it was asked in; whether every package agrees. -/
structure Swap where
  p : Nat
  q : Nat
  core : Option (Nat × SReg)
  req : Option HostReq
  since : Nat
  agreed : Bool
  kill : Bool
deriving DecidableEq, Repr

/-- How a word is executed: `whole` checks and acts; when a bundle issues, both words are first asked whether they trap or wait
(`dry`, with the answer in `verdict`), and then both act (`go`) (02 R32). -/
inductive Phase where
  | whole | dry | go
deriving DecidableEq, Repr

inductive Verdict where
  | acts | traps | waits
deriving DecidableEq, Repr

/-- The whole package. `phase`, `verdict` and `owed` are the model's own: `owed` are the blocks that the machine itself would write
in a move, and of which other packages' copies have to go first (14 R376), by partition and address. `bootAt` is the cycle in which the
package left boot. `qids` are quadrille numbers that other packages have taken: partition, package, number (17 R427); `msgCounts` are, by
partition and package (64 times the one and the other), the messages sent to it and had from it (17 R446). -/
structure State where
  phase : Phase
  verdict : Verdict
  owed : List (Nat × Nat)
  now : Nat
  free : Nat
  fresh : Nat
  cur : Nat
  agenda : List Move
  booted : Bool
  bootAt : Nat
  pkg : Nat
  domain : Nat
  cds : BitVec 16
  eds : BitVec 8
  measures : List (BitVec 256)
  release : BitVec 8
  silent : List Nat
  cores : FMap Core
  clusters : FMap Cluster
  dies : FMap Die
  slices : FMap Slice
  edges : FMap Edge
  links : FMap Link
  parts : FMap Part
  dram : Memory
  host : Memory
  flights : List Flight
  msgs : List Msg
  potReads : List PotRd
  quads : List Quad
  reels : List Reel
  restarts : List (Nat × Act × Nat)
  pendingRegions : List PendReg
  triggered : List Own
  inbox : List Inbound
  rreqs : List RReq
  cleans : List CleanReq
  posts : List (Nat × Flight × Nat)
  trains : List TrainOut
  asks : List WinAsk
  qids : List (Nat × Nat × Nat)
  msgCounts : FMap (Nat × Nat)
  netx : List NetXfer
  swaps : List Swap
  slotLen : Nat
  slotNext : Nat
  qmax : Nat
  berth : Nat
  fto : Nat
  plim : Nat
  dbs : FMap Nat
  slot : Nat
  rot : Nat
  slotAt : Nat
  guard : Bool
deriving DecidableEq, Repr

/-- Why a step cannot be taken. -/
inductive Fault where
  /-- Raised by a step that is told to issue on a core that is absent (excluded at boot, or halted by
  a machine check): no bundle can issue there. Safe: the machine stops where the hardware has no such
  core. -/
  | coreAbsent (core : Nat)
deriving DecidableEq, Repr

/-- Why the model gives an instruction no meaning. -/
inductive Refusal where
  /-- An instruction whose arm of `exec` is not written yet. Safe. -/
  | notModelled (mnemonic : String)
deriving DecidableEq, Repr

/-- Register files of zeros (13 R328). -/
def Regs.zero : Regs :=
  { s := Vector.replicate 64 0, v := Vector.replicate 32 0, k := Vector.replicate 8 0,
    i := Vector.replicate 4 0 }

/-- The nest state at an activation's start (R124). -/
def Nest.zero : Nest :=
  { desc := 0, cur := 0, fin := 0, p := 0, k := 0, n := 0, counts := [], steps := [] }

/-- The matrix state at an activation's start (R194). -/
def MxState.zero : MxState :=
  { x := Vector.replicate 8 0, acc := Vector.replicate 4 0,
    ctx := Vector.replicate 4 { part := 0, pp := 0, cls := 0, rowz := 0, blkz := false } }

/-- A core right after reset: no activation, every control register at its reset value. STATUS and the
other activation-owned registers are those of the activation that starts (13 R328); a core with no
activation is in system mode (Table 4.12). -/
def Core.reset : Core :=
  { part := none, halted := false, swapping := false, acts := [], run := none, fibres := [],
    cctl := 0, tvec := 0, rscr := 0, uvec := 0, fmt := 0, warn := 0, warnpc := 0, earned := 0, instret := 0,
    leaveW := 0, evt := 0, scause := 0, sepc := 0, stval := 0, ls := [], shadow := [],
    shadowOf := none, watches := [], l1 := [], icache := [], rb := [], undo := [], accs := [], fixed := [],
    dist := 0, sfuAt := none, waitFrom := none, lastIssue := 0, nextIssue := 0, mxq := [], queue := [], recs := [],
    report := 0, reportAt := 0, cpq := [], cps := [], cpHeld := 0, cpAsked := 0, moved := 0 }

def Cluster.reset : Cluster :=
  { spad := [], tiles := [], stages := List.replicate 3 { busy := none, last := 3 },
    held := 0, asked := 0 }

def Tile.reset : Tile := { owner := none, ent := none, st := 0, base := 0, gran := 0, refill := false }

def Bar.reset : Bar := { owner := none, exp := 0, cnt := 0, phase := 0 }

def EvDie.reset : EvDie := { pend := none, cnt := [] }

def Die.reset : Die := { bars := [], window := 0, granted := 0, reqs := [], ev := EvDie.reset }

def Pot.reset : Pot :=
  { isOpen := false, inc := 0, d := 0, fast := false, l := 0, g := 0, e := 0,
    landed := Vector.replicate 16 0, sum := [], sat := false, rej := 0, part := 0 }

def Slice.reset : Slice :=
  { lines := [], tlb := [], walked := [], watches := [], pots := [], ways := 0, hot := [], samples := [],
    blocks := [], peers := [] }

def Edge.reset : Edge :=
  { mgmt := Core.reset, merge := [], evBase := 0, evSize := 0, evConsAt := 0, evWritten := 0, ev := EvDie.reset,
    ctlQ := [], bulkQ := [], relayQ := [], held := [] }

def Link.reset : Link :=
  { vers := [], retired := false, training := false, lanes := Vector.replicate 8 .up,
    ctr := Vector.replicate 12 0, conns := [], decayAt := 0, slotCtl := 0, slotAll := 0, direct := 0, busyTo := 0, fullAt := none }

def Conn.reset : Conn :=
  { txSeq := 0, rxSeq := 0, txCtl := 0, rxCtl := 0, replay := [], ctlSent := [], resend := [], naks := [], nakAt := 4096, fails := 0,
    gapTo := none, ctlNaked := false }

def Part.reset : Part :=
  { st := 0, gran := 0, ptroot := 0, ctx := 0, root := 0, hot := 0, span := 0,
    fab := 0x2401, cores := [], clusters := [], was := false, outAt := 0 }

def CpEnt.reset : CpEnt :=
  { gen := 0, st := .free, owner := none, rcb := 0, part := 0, ent := none, form := .copy, desc := [],
    pattern := 0, status := 0, info := 0, srcAt := [], group := [], left := [], tseen := 0, tmask := 0, hole := false,
    fault := none, cancel := false, doneAt := 0, mark := 0,
    act := 0, seq := 0 }

/-- The package right after reset, before power-on has measured its dies (20 R489): nothing is known to be
present, nothing runs, fabric parameters hold the defaults of Table 14.4 and Table 20.5. -/
def State.reset : State :=
  { phase := .whole, verdict := .acts, owed := [], now := 0, free := 0, fresh := 0, cur := 0, agenda := [], booted := false, bootAt := 0, pkg := 0, domain := 2,
    cds := 0, eds := 0, measures := [], release := 0, silent := [], cores := [],
    clusters := [], dies := [], slices := [], edges := [], links := [], parts := [], dram := [],
    host := [], flights := [], msgs := [], potReads := [], quads := [], reels := [], restarts := [],
    pendingRegions := [], triggered := [], inbox := [], rreqs := [], cleans := [], posts := [], trains := [], asks := [], qids := [],
    msgCounts := [], netx := [],
    swaps := [], slotLen := 10, slotNext := 10, qmax := 19, berth := 100, fto := 4, plim := 2400,
    dbs := [], slot := 0, rot := 0, slotAt := 0, guard := true }

end Sys2Proof.Machine
end

