-- ==== Sys2Proof/Machine/Base.lean ====
section
/-! DEFINITION. Accessors of the state: numbered files, memories in canonical form, dies and cores that
are present (01 R9-R16, R489), physical addresses (01 R23, R24, 07 R217), and reports (20 R482-R484). -/

namespace Sys2Proof.Machine

/-! ### Numbered files -/

/-- The entry of a number, if listed. -/
def fget {α : Type} : FMap α → Nat → Option α
  | [], _ => none
  | (k, v) :: r, n => if n = k then some v else if n < k then none else fget r n

/-- Lists an entry at its place. -/
def fset {α : Type} : FMap α → Nat → α → FMap α
  | [], n, v => [(n, v)]
  | (k, w) :: r, n, v =>
    if n < k then (n, v) :: (k, w) :: r else if n = k then (n, v) :: r else (k, w) :: fset r n v

/-- Removes an entry. -/
def ferase {α : Type} : FMap α → Nat → FMap α
  | [], _ => []
  | (k, w) :: r, n => if n = k then r else (k, w) :: ferase r n

/-- Numbers in rising order. -/
def frising {α : Type} : FMap α → Bool
  | [] => true
  | [_] => true
  | (a, _) :: (b, v) :: r => decide (a < b) && frising ((b, v) :: r)

/-- Changes every entry. -/
def fmapVals {α : Type} (f : Nat → α → α) (m : FMap α) : FMap α := m.map fun (k, v) => (k, f k v)

/-! ### Memories -/

/-- The canonical form: addresses strictly rising, no cell equal to what an unlisted address reads as. -/
def Memory.wf (m : Memory) : Bool := frising m && m.all fun c => decide (c.2 ≠ Config.unlistedByte)

/-- One byte. -/
def mget (m : Memory) (a : Nat) : Byte := (fget m a).getD Config.unlistedByte

/-- Stores one byte and keeps the canonical form. -/
def mset (m : Memory) (a : Nat) (b : Byte) : Memory :=
  if b = Config.unlistedByte then ferase m a else fset m a b

/-- n bytes from an address. -/
def mread (m : Memory) (a n : Nat) : List Byte := (List.range n).map fun k => mget m (a + k)

/-- Stores bytes from an address. -/
def mwrite (m : Memory) (a : Nat) : List Byte → Memory
  | [] => m
  | b :: r => mwrite (mset m a b) (a + 1) r

/-- Little-endian bytes of a number (00 R6). -/
def leBytes : Nat → Nat → List Byte
  | 0, _ => []
  | n + 1, v => BitVec.ofNat 8 v :: leBytes n (v / 256)

/-- The number of little-endian bytes. -/
def ofLe : List Byte → Nat
  | [] => 0
  | b :: r => b.toNat + 256 * ofLe r

def wordOfLe (l : List Byte) : Word := BitVec.ofNat 64 (ofLe l)

/-- The byte of address `a` in a list that starts at address `base`. -/
def byteAt (base : Nat) (l : List Byte) (a : Nat) : Option Byte :=
  if base ≤ a then l[a - base]? else none

/-- Whether two byte ranges share a byte. -/
def overlap (a n b m : Nat) : Bool := decide (a < b + m ∧ b < a + n)

/-! ### Parts of the state -/

def Act.zero : Act :=
  { id := 0, prog := 0, part := 0,
    hdr := { ver := 1, kind := 0, rcb := 0, prio := 0, eoff := 0, len := 0, e4 := false, spkg := 0, src := 0 },
    ring := 0, rp := 0, regs := Regs.zero, latch := Regs.zero, latchFlags := 0, aFlags := 0, prior := Regs.zero, priorAllow := 0, bundle := 0, flags := 0, nest := Nest.zero, status := 2,
    cause := 0, epc := 0, tval := 0, allow := 0, score := 0, pc := 0, npc := 0, seq := 0,
    mx := MxState.zero, mxPlaced := false, extBase := 0, extLen := 0,
    snap := { regs := Regs.zero, flags := 0, nest := Nest.zero, status := 0, cause := 0, epc := 0, tval := 0,
              allow := 0, score := 0, pc := 0, mx := MxState.zero, pend := [] },
    attempts := 0, park := .running, pend := [], flagsWr := none, stepDue := false, mxHold := 0, conly := false, taken := false,
    claims := [], barClaims := [], potClaims := [], counted := false, upcall := false, barWait := none, waitFor := none }

def State.core (s : State) (c : Nat) : Core := (fget s.cores c).getD Core.reset
def State.setCore (s : State) (c : Nat) (k : Core) : State := { s with cores := fset s.cores c k }
def State.onCore (s : State) (c : Nat) (f : Core → Core) : State := s.setCore c (f (s.core c))

def State.cluster (s : State) (c : Nat) : Cluster := (fget s.clusters c).getD Cluster.reset
def State.onCluster (s : State) (c : Nat) (f : Cluster → Cluster) : State :=
  { s with clusters := fset s.clusters c (f (s.cluster c)) }

def State.die (s : State) (d : Nat) : Die := (fget s.dies d).getD Die.reset
def State.onDie (s : State) (d : Nat) (f : Die → Die) : State := { s with dies := fset s.dies d (f (s.die d)) }

def State.slice (s : State) (h : Nat) : Slice := (fget s.slices h).getD Slice.reset
def State.onSlice (s : State) (h : Nat) (f : Slice → Slice) : State :=
  { s with slices := fset s.slices h (f (s.slice h)) }

def State.edge (s : State) (e : Nat) : Edge := (fget s.edges e).getD Edge.reset
def State.onEdge (s : State) (e : Nat) (f : Edge → Edge) : State :=
  { s with edges := fset s.edges e (f (s.edge e)) }

def State.link (s : State) (l : Nat) : Link := (fget s.links l).getD Link.reset
def State.onLink (s : State) (l : Nat) (f : Link → Link) : State :=
  { s with links := fset s.links l (f (s.link l)) }

def State.partn (s : State) (p : Nat) : Part := (fget s.parts p).getD Part.reset
def State.onPart (s : State) (p : Nat) (f : Part → Part) : State :=
  { s with parts := fset s.parts p (f (s.partn p)) }

def Cluster.tile (c : Cluster) (n : Nat) : Tile := (fget c.tiles n).getD Tile.reset
def Cluster.onTile (c : Cluster) (n : Nat) (f : Tile → Tile) : Cluster :=
  { c with tiles := fset c.tiles n (f (c.tile n)) }

def Die.bar (d : Die) (u : Nat) : Bar := (fget d.bars u).getD Bar.reset

/-- Compute die, cluster (0-1023) and place in the cluster of a core (R13). -/
def dieOf (core : Nat) : Nat := core / 256
def clusterOf (core : Nat) : Nat := core / 4

/-- The cores of a cluster. -/
def clusterCores (cl : Nat) : List Nat := [4 * cl, 4 * cl + 1, 4 * cl + 2, 4 * cl + 3]

/-- The granule of a core (R25). -/
def granOf (core : Nat) : Nat := core / 64

/-- CYCLE of a core (04 Table 4.15). -/
def Core.cycle (k : Core) (now : Nat) : Nat := k.cycleWas + (now - k.cycleAt)

/-! ### What is present (R489) -/

def cdPresent (s : State) (c : Nat) : Bool := s.cds.getLsbD c
def edPresent (s : State) (e : Nat) : Bool := s.eds.getLsbD e
def corePresent (s : State) (c : Nat) : Bool := decide (c < 4096) && cdPresent s (dieOf c) && !(s.core c).halted

/-- Package slice numbers of the slices present, rising (R221). -/
def slicesPresent (s : State) : List Nat :=
  ((List.range 16).filter (cdPresent s)).flatMap fun c => (List.range 32).map (32 * c + ·)

/-- Number of slices present. -/
def sliceCount (s : State) : Nat := 32 * ((List.range 16).filter (cdPresent s)).length

/-- Stacks present, rising (R18, R217). -/
def stacksPresent (s : State) : List Nat :=
  ((List.range 8).filter (edPresent s)).flatMap fun e => [2 * e, 2 * e + 1]

/-! ### Physical memory -/

/-- 64 GiB. -/
def stackBytes : Nat := 0x1000000000

/-- Whether a physical address lies in the host window (R23). -/
def paHost (pa : Nat) : Bool := decide (pa / 2 ^ 47 % 2 = 1)

/-- Whether a physical address is backed by memory (R24). -/
def paOk (s : State) (pa : Nat) : Bool :=
  if paHost pa then true
  else if pa / 2 ^ 40 % 64 ≠ 0 then false
  else if pa / 2 ^ 46 % 2 = 0 then edPresent s (pa / stackBytes / 2)
  else decide (pa % 2 ^ 40 < (stacksPresent s).length * stackBytes)

/-- The linear address of a DRAM address (R217). -/
def paLinear (s : State) (pa : Nat) : Nat :=
  if pa / 2 ^ 46 % 2 = 0 then pa
  else
    let o := pa % 2 ^ 40
    let st := stacksPresent s
    let g := o / 256
    let q := g / st.length
    let r := g % st.length
    (st.getD ((r + q) % st.length) 0) * stackBytes + 256 * q + o % 256

/-- The edge die that serves a DRAM address (R18). -/
def paEdge (s : State) (pa : Nat) : Nat := paLinear s pa / stackBytes / 2

/-- n bytes of physical memory, not across a 32-byte line. -/
def physRead (s : State) (pa n : Nat) : List Byte :=
  if paHost pa then mread s.host (pa % 2 ^ 47) n else mread s.dram (paLinear s pa) n

/-- Stores bytes to physical memory, not across a 32-byte line. -/
def physWrite (s : State) (pa : Nat) (l : List Byte) : State :=
  if paHost pa then { s with host := mwrite s.host (pa % 2 ^ 47) l }
  else { s with dram := mwrite s.dram (paLinear s pa) l }

/-! ### Virtual addresses (Table 7.1) -/

inductive VaKind where
  | translated
  | window (core off : Nat)
  | quad (q off : Nat)
  | unassigned
deriving DecidableEq, Repr

def vaKind (va : Nat) : VaKind :=
  if va < 0x0100000000000000 then .translated
  else if va < 0x0100000020000000 then .window (va / 2 ^ 17 % 4096) (va % 2 ^ 17)
  else if va < 0x0101000000000000 then .unassigned
  else if va < 0x0102000000000000 then .quad (va / 2 ^ 26 % 2 ^ 22) (va % 2 ^ 26)
  else .unassigned

/-- Whether a partition is joined with the one of its number on a package (20 R469): its SPAN names that package. The other side holds its
own SPAN against what it is sent. -/
def State.joined (s : State) (part pkg : Nat) : Bool :=
  decide (pkg = s.pkg) || (decide ((s.partn part).st ≠ 0) && (s.partn part).span.getLsbD pkg)

/-- The other packages that a partition spans. -/
def State.peersOf (s : State) (part : Nat) : List Nat := (List.range 64).filter fun g => decide (g ≠ s.pkg) && s.joined part g

/-! ### Free values -/

/-- A free number and the state that has used it (log 2). -/
def State.freeNat (s : State) : Nat := Config.freeNat s.free
def State.freeBit (s : State) : Bool := Config.freeBit s.free
def State.used (s : State) : State := { s with free := s.free + 1 }

/-- A number below n that a free number chooses. -/
def below (n free : Nat) : Nat := if n ≤ 1 then 0 else free % n

/-- A number that names one request, and the state that has used it. -/
def State.used1 (s : State) : State := { s with fresh := s.fresh + 1 }

/-! ### Reports (R482-R484) -/

/-- The edge die that a compute die reports to (R483, R370). -/
def servingEdge (s : State) (cd : Nat) : Nat :=
  let e := if cd < 8 then cd % 4 else 4 + cd % 4
  if edPresent s e then e else ((List.range 8).find? (edPresent s)).getD e

/-- Cycles since the package left boot (R482, 07 R237). -/
def State.sinceBoot (s : State) : Nat := s.now - s.bootAt

/-- Writes a record to an edge die's ring in host memory (R482, R486): offsets 0 to 23, then SEQ. -/
def evWrite (s : State) (e : Nat) (r : EvRec) : State :=
  let g := s.edge e
  let w0 := r.cls + 2 ^ 8 * r.code + 2 ^ 16 * r.part + 2 ^ 32 * r.core + 2 ^ 44 * r.count
  let bytes := leBytes 8 w0 ++ leBytes 8 r.addr.toNat ++ leBytes 8 r.time ++ leBytes 8 (g.evWritten + 1)
  let s := { s with host := mwrite s.host (g.evBase + 32 * (g.evWritten % g.evSize)) bytes }
  s.onEdge e fun g => { g with evWritten := g.evWritten + 1 }

/-- Whether an edge die's ring is full (R483): the host's consumed count is the dword at the address that EVRING gave. -/
def evFull (s : State) (e : Nat) : Bool :=
  decide ((s.edge e).evSize ≤ (s.edge e).evWritten - ofLe (mread s.host (s.edge e).evConsAt 8))

/-- Changes the state that a core keeps for a partition: on the core, or saved while the partition is out (R472). What belongs to a
partition that is neither changes a core that no partition holds. -/
def State.onCoreOf (s : State) (part core : Nat) (f : Core → Core) : State :=
  if (s.core core).part = some part then s.onCore core f
  else
    match fget (s.partn part).cores core with
    | some k => s.onPart part fun x => { x with cores := fset x.cores core (f k) }
    | none => if (s.core core).part.isNone then s.onCore core f else s

/-- EVT of a core: one more report, and what became of it (R484). -/
def evtNote (s : State) (part : Nat) (core : Option Nat) (pend ovf : Bool) : State :=
  match core with
  | none => s
  | some c =>
    s.onCoreOf part c fun k =>
      let n := min 255 (bitsNat k.evt 15 8 + 1)
      { k with evt := BitVec.ofNat 64 (256 * n) ||| (k.evt &&& 3) ||| (if pend then 2 else 0) ||| (if ovf then 1 else 0) }

/-- Where a report is made: a compute die or an edge die. -/
inductive Reporter where
  | cd (c : Nat)
  | ed (e : Nat)
deriving DecidableEq, Repr

def reporterEdge (s : State) : Reporter → Nat
  | .cd c => servingEdge s c
  | .ed e => e

def evDie (s : State) : Reporter → EvDie
  | .cd c => (s.die c).ev
  | .ed e => (s.edge e).ev

def setEvDie (s : State) (d : EvDie) : Reporter → State
  | .cd c => s.onDie c fun x => { x with ev := d }
  | .ed e => s.onEdge e fun x => { x with ev := d }

/-- Reports an event (R483): to the ring, or held pending, or counted in its class. -/
def report (s : State) (w : Reporter) (core : Option Nat) (cls code part : Nat) (addr : Word) : State :=
  let e := reporterEdge s w
  let d := evDie s w
  let r : EvRec := { cls := cls, code := code % 256, part := part, core := core.getD 0xFFF, count := 0, addr := addr, time := s.sinceBoot }
  if d.pend.isSome then
    let d := { d with cnt := fset d.cnt cls (min 0xFFFFF ((fget d.cnt cls).getD 0 + 1)) }
    evtNote (setEvDie s d w) part core false true
  else if evFull s e then evtNote (setEvDie s { d with pend := some r } w) part core true true
  else evtNote (evWrite s e r) part core false false

end Sys2Proof.Machine
end

