-- ==== Sys2Proof/Machine/Mem.lean ====
section
/-! DEFINITION. The memory system: home slices and translation (01 R17, 07 R221-R226), lines of slices and
L1s (07 R213-R215, R218, R280), blocks of other packages (14 R374-R378), watches (10 R283). -/

namespace Sys2Proof.Machine

/-! ### Cause codes (Table 4.17) -/

def cILLEGAL : Nat := 1
def cSTALL : Nat := 2
def cALIGN : Nat := 3
def cACCESS : Nat := 4
def cPAGE : Nat := 5
def cATOM : Nat := 6
def cFMT : Nat := 7
def cBARRIER : Nat := 8
def cDEPARTED : Nat := 9
def cTILE : Nat := 10
def cSOFT : Nat := 11
def cRETRY : Nat := 12
def cTRAP : Nat := 13

/-! ### Home slice (R221) -/

/-- The 9-bit fold of virtual-address bits 47:8 (R221). -/
def fold9 (va : Nat) : Nat :=
  let v := va / 256 % 2 ^ 40
  (v % 512) ^^^ (v / 2 ^ 9 % 512) ^^^ (v / 2 ^ 18 % 512) ^^^ (v / 2 ^ 27 % 512) ^^^ (v / 2 ^ 36 % 16)

/-- The package slice number of a translated address's home. -/
def homeOf (s : State) (va : Nat) : Nat :=
  let cds := (List.range 16).filter (cdPresent s)
  let i := fold9 va * (32 * cds.length) / 512
  32 * cds.getD (i / 32) 0 + i % 32

/-! ### Page tables (R223-R225) -/

/-- The permission that an access needs (Table 7.6). -/
inductive Perm where
  | r | w | x
deriving DecidableEq, Repr

def Perm.bit : Perm → Nat
  | .r => 2 | .w => 3 | .x => 4

/-- What translation finds: the leaf, its level and the physical address; no entry in the TLB; a fault
with its cause and walk level. -/
inductive Xl where
  | ok (pte : Word) (level pa : Nat)
  | miss
  | fault (cause level : Nat)
deriving DecidableEq, Repr

def levelShift : Nat → Nat
  | 0 => 16 | 1 => 21 | 2 => 30 | 3 => 39 | _ => 48

def levelEntries : Nat → Nat
  | 0 => 32 | _ => 512

/-- The physical address that a leaf at a level gives for a virtual address. -/
def leafPa (pte : Word) (level va : Nat) : Nat := bitsNat pte 47 12 * 4096 + va % 2 ^ levelShift level

/-- Whether a leaf grants a permission. -/
def leafGrants (pte : Word) (p : Perm) : Bool := bitAt pte p.bit

/-- The package that holds a page, when it is another one (R224). -/
def pteRemote (s : State) (pte : Word) : Option Nat :=
  if bitAt pte 53 && decide (bitsNat pte 59 54 ≠ s.pkg) then some (bitsNat pte 59 54) else none

/-- A leaf of a page that memory backs (01 R24), else ACCESS. -/
def backed (s : State) : Xl → Xl
  | .ok pte level pa => if (pteRemote s pte).isSome || paOk s pa then .ok pte level pa else .fault cACCESS level
  | x => x

/-- What one page-table entry says (Table 7.7): the end of the walk, or the next table. -/
def walkEntry (s : State) (va : Nat) (p : Perm) (level : Nat) (pte : Word) : Xl ⊕ Nat :=
  let ppn := bitsNat pte 47 12 * 4096
  if !bitAt pte 0 then .inl (.fault cPAGE level)
  else if bitsNat pte 63 60 ≠ 0 ∨ bitsNat pte 52 48 ≠ 0 ∨ bitsNat pte 11 5 ≠ 0 then .inl (.fault cACCESS level)
  else if bitAt pte 1 then
    if 3 ≤ level then .inl (.fault cACCESS level)
    else if ppn % 2 ^ levelShift level ≠ 0 then .inl (.fault cACCESS level)
    else if bitAt pte 53 && bitAt pte 47 then .inl (.fault cACCESS level)
    else if !leafGrants pte p then .inl (.fault cACCESS level)
    else .inl (.ok pte level (leafPa pte level va))
  else if level = 0 then .inl (.fault cACCESS level)
  else if !paOk s ppn || paHost ppn then .inl (.fault cACCESS level)
  else .inr ppn

/-- The walk from a table of a level down (R223); walkers read the edge dies directly (R222). -/
def walkFrom (s : State) (va : Nat) (p : Perm) : Nat → Nat → Xl
  | level, table =>
    let a := table + 8 * (va / 2 ^ levelShift level % levelEntries level)
    if !paOk s a || paHost a then .fault cACCESS level
    else
      match walkEntry s va p level (wordOfLe (physRead s a 8)), level with
      | .inl x, _ => x
      | .inr _, 0 => .fault cACCESS 0
      | .inr t, n + 1 => walkFrom s va p n t

/-- The entries that a walk reads, from a table of a level down: level and address. -/
def walkPath (s : State) (va : Nat) : Nat → Nat → List (Nat × Nat)
  | level, table =>
    let a := table + 8 * (va / 2 ^ levelShift level % levelEntries level)
    if !paOk s a || paHost a then []
    else
      (level, a) :: (match walkEntry s va .r level (wordOfLe (physRead s a 8)), level with
        | .inr t, n + 1 => walkPath s va n t
        | _, _ => [])

/-- A partition's walk (R223): PTROOT 0 is an empty table. -/
def walk (s : State) (part va : Nat) (p : Perm) : Xl :=
  let root := (s.partn part).ptroot
  if root = 0 then .fault cPAGE 4
  else if !paOk s root || paHost root then .fault cACCESS 4
  else backed s (walkFrom s va p 4 root)

/-! ### The slice TLB (R222) -/

/-- Whether a TLB entry translates an address. -/
def TlbEnt.covers (t : TlbEnt) (part va : Nat) : Bool :=
  decide (t.part = part ∧ t.page = va / 2 ^ levelShift t.level)


/-- A cached leaf checked for a permission. -/
def xlLeaf (s : State) (pte : Word) (level va : Nat) (p : Perm) : Xl :=
  if leafGrants pte p then backed s (.ok pte level (leafPa pte level va)) else .fault cACCESS level

/-- Translation at the home by its TLB, or by the outcome of a walk that failed (R225). -/
def xlate (s : State) (part va : Nat) (p : Perm) : Xl :=
  let g := s.slice (homeOf s va)
  match g.tlb.find? (·.covers part va) with
  | some t => xlLeaf s t.pte t.level va p
  | none =>
    match g.walked.find? (fun w => decide (w.part = part ∧ w.va = va)) with
    | some w => .fault w.cause w.level
    | none => .miss

/-- Translation for the machine's own accesses to control blocks: the TLB, or a walk at once. -/
def xlateHw (s : State) (part va : Nat) (p : Perm) : Xl :=
  if vaKind va ≠ .translated then .fault cACCESS 0
  else
    match (s.slice (homeOf s va)).tlb.find? (·.covers part va) with
    | some t => xlLeaf s t.pte t.level va p
    | none => walk s part va p

/-- Translation for operations that need no permission (R234). -/
def xlateAny (s : State) (part va : Nat) : Xl :=
  match xlateHw s part va .r with
  | .ok p l a => .ok p l a
  | x =>
    match xlateHw s part va .w with
    | .ok p l a => .ok p l a
    | _ =>
      match xlateHw s part va .x with
      | .ok p l a => .ok p l a
      | _ => x

/-- Caches a leaf, most recent first; the least recently used of 2,048 gives way (R222). -/
def tlbInsert (g : Slice) (t : TlbEnt) : Slice := { g with tlb := (t :: g.tlb.filter (· ≠ t)).take 2048 }

/-- Notes the use of the entry that translates an address. -/
def tlbTouch (s : State) (part va : Nat) : State :=
  let h := homeOf s va
  match (s.slice h).tlb.find? (·.covers part va) with
  | some t => s.onSlice h fun g => tlbInsert g t
  | none => s

/-- Keeps the leaf that translated an address in the TLB of its home, as the most recent. -/
def tlbKeep (s : State) (part va : Nat) (p : Perm) : State :=
  match xlateHw s part va p with
  | .ok pte level _ =>
    s.onSlice (homeOf s va) fun g => tlbInsert g { part := part, level := level, page := va / 2 ^ levelShift level, pte := pte }
  | _ => s

/-- Forgets a failed walk once an access has taken its outcome. -/
def walkedTake (s : State) (part va : Nat) : State :=
  s.onSlice (homeOf s va) fun g => { g with walked := g.walked.filter fun w => decide (¬(w.part = part ∧ w.va = va)) }

/-! ### Flits on their way out (14 R368-R371) -/

def linkEdge (l : Nat) : Nat := l / 36

/-- Whether a link is in service. -/
def linkUp_ (s : State) (l : Nat) : Bool :=
  edPresent s (linkEdge l) && !(s.link l).vers.isEmpty && !(s.link l).retired

/-- The link of a stream (R369): a fixed hash over the links of the partition's share that are in service. -/
def streamLink (s : State) (part e dst : Nat) (bulk : Bool) : Option Nat :=
  let share := bitsNat (s.partn part).fab 13 8
  let ls := ((List.range share).map (36 * e + ·)).filter (linkUp_ s)
  ls[Config.streamHash part e dst bulk % max 1 ls.length]?

/-- Whether a bulk queue of an edge die has no room for n more flits (R371): 136 bytes each. -/
def bulkFull (s : State) (e dst n : Nat) : Bool :=
  decide (s.qmax < 40 ∧ 2 ^ s.qmax < 136 * (((fget (s.edge e).bulkQ dst).getD []).length + n))

/-- Whether a send queue of an edge die is full. -/
def queueFull (s : State) (e dst : Nat) (bulk : Bool) : Bool :=
  if bulk then bulkFull s e dst 1 else decide (Config.ctlQueueFlits ≤ ((fget (s.edge e).ctlQ dst).getD []).length)

/-- Whether a send queue of a link's streams is full (R387). -/
def linkFull (s : State) (l : Nat) : Bool :=
  let e := linkEdge l
  (((s.edge e).bulkQ ++ (s.edge e).ctlQ).map (·.1)).any fun d => [true, false].any fun b =>
    queueFull s e d b && s.parts.any fun p => decide (p.2.st ≠ 0 ∧ streamLink s p.1 e d b = some l)

/-- QFULL of a link after the cycles up to now (R387). -/
def Link.qfull (k : Link) (now : Nat) : Word :=
  k.ctr[10] + (match k.fullAt with
    | some t => BitVec.ofNat 64 (now - t)
    | none => 0)

/-- Notes, for a link of an edge die, whether a send queue of its streams is full. -/
def noteLink (s : State) (l : Nat) : State :=
  match (s.link l).fullAt, linkFull s l with
  | none, true => s.onLink l fun k => { k with fullAt := some s.now }
  | some _, false => s.onLink l fun k => { k with ctr := k.ctr.set 10 (k.qfull s.now), fullAt := none }
  | _, _ => s

/-- Notes the same for every link of an edge die, where something has changed. -/
def noteFull (s : State) (e : Nat) (c : Bool := true) : State :=
  { s with links := if c then (((List.range 36).map (36 * e + ·)).foldl noteLink s).links else s.links }

/-- Bulk flits that waited for room enter their queue (R371). -/
def refill (s : State) (e dst : Nat) : State :=
  s.onEdge e fun g =>
    match fget g.held dst with
    | none => g
    | some h =>
      let q := (fget g.bulkQ dst).getD []
      let n := if s.qmax < 40 then 2 ^ s.qmax / 136 - q.length else h.length
      { g with bulkQ := fset g.bulkQ dst (q ++ h.take n)
               held := if h.length ≤ n then ferase g.held dst else fset g.held dst (h.drop n) }

/-- Whether a flit may leave: a request only to a package that its partition spans (20 R469). -/
def mayLeave (s : State) (part : Nat) (f : Flit) : Bool := f.bulk || decide (f.typ ≠ 1) || s.joined part f.dst.toNat

/-- Places a flit of a partition in a send queue of an edge die. A bulk flit that finds no room there waits for it (R371). -/
def sendFlit (s : State) (e part : Nat) (f : Flit) : State :=
  let d := f.dst.toNat
  if !mayLeave s part f then s
  else if f.bulk then
    if bulkFull s e d 1 || (fget (s.edge e).held d).isSome then
      s.onEdge e fun g => { g with held := fset g.held d ((fget g.held d).getD [] ++ [(part, f)]) }
    else
      let s := s.onEdge e fun g => { g with bulkQ := fset g.bulkQ d ((fget g.bulkQ d).getD [] ++ [(part, f)]) }
      noteFull s e (bulkFull s e d 1)
  else
    let s := s.onEdge e fun g => { g with ctlQ := fset g.ctlQ d ((fget g.ctlQ d).getD [] ++ [(part, f)]) }
    noteFull s e (queueFull s e d false)

/-- A control flit: address, partition and a small code in its payload (log 12). -/
def ctlFlit (typ : Nat) (dst tag va part code : Nat) : Flit :=
  { bulk := false, typ := BitVec.ofNat 3 typ, seq := 0, ack := 0, dst := BitVec.ofNat 6 dst,
    tag := BitVec.ofNat 14 tag,
    payload := BitVec.ofNat 1024 (va % 2 ^ 64 + 2 ^ 64 * (part % 32) + 2 ^ 72 * code), crc := 0 }

def bulkFlit (typ : Nat) (dst tag : Nat) (data : BitVec 1024) : Flit :=
  { bulk := true, typ := BitVec.ofNat 3 typ, seq := 0, ack := 0, dst := BitVec.ofNat 6 dst,
    tag := BitVec.ofNat 14 tag, payload := data, crc := 0 }

/-- The edge die that serves a slice (R370). -/
def sliceEdge (s : State) (h : Nat) : Nat := servingEdge s (h / 32)

/-! ### Tags (R364) -/

/-- Whether an access has asked another package, and waits. -/
def Access.asks (x : Access) : Bool :=
  match x.st with
  | .asked _ => true
  | _ => false

/-- Whether a read of a core here has asked another package, and lacks its values. -/
def PotRd.asks (r : PotRd) : Bool :=
  match r.st with
  | .asked _ | .arriving .. => r.far.isNone
  | _ => false

/-- What is out under a tag: the number of each that this package has asked of another one, and of each block of its trains. A tag has 13
bits; bit 13 says what a bulk flit is (log 12). -/
def State.tagsOut (s : State) : List Nat :=
  s.rreqs.map (·.id) ++ s.cleans.map (·.id) ++ s.posts.map (·.1) ++ s.asks.map (·.id) ++ (s.potReads.filter (·.asks)).map (·.id) ++
    (s.cores.flatMap fun c => (c.2.accs.filter (·.asks)).map (·.id)) ++
    s.trains.flatMap fun t => match t.tag with
      | some g => (List.range t.blocks.length).map (g + ·)
      | none => []

/-- Whether the tag of a number is free. -/
def State.tagFree (s : State) (n : Nat) : Bool := s.tagsOut.all fun m => decide (m % 2 ^ 13 ≠ n % 2 ^ 13)

/-- The first of n numbers in a row, new ones, whose tags are free; none while there are none. -/
def State.tagRun (s : State) (n : Nat) : Option Nat :=
  ((List.range (2 ^ 13)).find? fun i => (List.range n).all fun j => s.tagFree (s.fresh + i + j)).map (s.fresh + ·)

/-! ### Replacement (R215) -/

/-- The way that a fill takes: the lowest-numbered empty way, else the victim of R215 with the values
that the choice leaves. -/
def rripPick (ways : Nat) (vals : FMap Nat) : Nat × FMap Nat :=
  match (List.range ways).find? (fun w => (fget vals w).isNone) with
  | some w => (w, vals)
  | none =>
    let up := 3 - vals.foldl (fun m x => max m x.2) 0
    let vals := vals.map fun (w, v) => (w, v + up)
    ((vals.find? (fun x => decide (x.2 = 3))).elim 0 (·.1), vals)

/-! ### L1 lines (R213, R218, R280) -/

def l1Set (va : Nat) : Nat := va / 32 % 128

def l1Find (k : Core) (part va : Nat) (marked : Bool) : Option (Nat × L1Line) :=
  ((fget k.l1 (l1Set va)).getD []).find? fun x =>
    decide (x.2.part = part ∧ x.2.tag = va / 32) && (x.2.marked == marked)

/-- Removes the unmarked copy of a line from a core's L1. -/
def l1Drop (s : State) (core part va : Nat) : State :=
  match l1Find (s.core core) part va false with
  | none => s
  | some (w, _) =>
    s.onCore core fun k =>
      let i := l1Set va
      { k with l1 := fset k.l1 i (ferase ((fget k.l1 i).getD []) w) }

/-! ### Slice lines (R214) -/

def lineSet (va : Nat) : Nat := va / 32 % 4096

def lineFind (g : Slice) (part va : Nat) : Option (Nat × Line) :=
  ((fget g.lines (lineSet va)).getD []).find? fun x => decide (x.2.part = part ∧ x.2.tag = va / 32)

def linePut (g : Slice) (va w : Nat) (l : Line) : Slice :=
  { g with lines := fset g.lines (lineSet va) (fset ((fget g.lines (lineSet va)).getD []) w l) }

def lineDrop (g : Slice) (va w : Nat) : Slice :=
  { g with lines := fset g.lines (lineSet va) (ferase ((fget g.lines (lineSet va)).getD []) w) }

/-- The bytes of a line. -/
def lineBytes (d : BitVec 256) : List Byte := leBytes 32 d.toNat
def lineOf (l : List Byte) : BitVec 256 := BitVec.ofNat 256 (ofLe l)

/-- Bytes of a list replaced from an offset. -/
def patch (l : List Byte) (off : Nat) (b : List Byte) : List Byte := l.take off ++ b ++ l.drop (off + b.length)

/-- Recalls near ownership of a line (R280): the L1 writes it back and gives it up. -/
def nearRecall (s : State) (h part va : Nat) : State :=
  match lineFind (s.slice h) part va with
  | some (w, l) =>
    match l.owner with
    | some c =>
      let data := ((l1Find (s.core c) part va false).map (·.2.data)).getD l.data
      let s := l1Drop s c part va
      s.onSlice h fun g => linePut g va w { l with data := data, dirty := true, owner := none }
    | none => s
  | none => s

/-- Invalidates every other core's L1 copy of a line (R213). -/
def dropSharers (s : State) (h part va : Nat) (keep : Option Nat) : State :=
  match lineFind (s.slice h) part va with
  | some (w, l) =>
    let s := (l.sharers.filter (fun c => decide (some c ≠ keep))).foldl (fun s c => l1Drop s c part va) s
    s.onSlice h fun g => linePut g va w { l with sharers := l.sharers.filter (fun c => decide (some c = keep)) }
  | none => s

/-- The 128-byte block of an address (R375). -/
def blkOf (va : Nat) : Nat := va / 128

def proxyState (g : Slice) (part va : Nat) : PState :=
  ((g.blocks.find? (fun b => decide (b.part = part ∧ b.blk = blkOf va))).map (·.st)).getD .i

def setProxy (g : Slice) (part va pkg : Nat) (st : PState) : Slice :=
  let r := g.blocks.filter fun b => decide (¬(b.part = part ∧ b.blk = blkOf va))
  { g with blocks := if st = .i then r else { part := part, blk := blkOf va, pkg := pkg, st := st } :: r }

/-- The four line addresses of a block. -/
def blkLines (va : Nat) : List Nat := let b := blkOf va * 128; [b, b + 32, b + 64, b + 96]

/-- The bytes of a block as its proxy holds them. -/
def blkData (g : Slice) (part va : Nat) : List Byte :=
  (blkLines va).flatMap fun a => ((lineFind g part a).map (fun x => lineBytes x.2.data)).getD (List.replicate 32 0)

/-- The blocks of a train leave, each with the next tag. -/
def sendBlocks (e part pkg : Nat) : List (List Byte) → Nat → State → State
  | [], _, s => s
  | b :: r, tag, s => sendBlocks e part pkg r (tag + 1) (sendFlit s e part (bulkFlit 1 pkg (tag % 2 ^ 13) (BitVec.ofNat 1024 (ofLe b))))

/-- A train leaves: its header names the base address, the count and the first tag (R368). It is kept until its home has accepted it
(R377), and one that finds no tags leaves later. -/
def pushTrain (s : State) (t : TrainOut) : State :=
  match s.tagRun t.blocks.length with
  | none => { s with trains := s.trains ++ [{ t with tag := none }] }
  | some g =>
    let s := { s with fresh := g + t.blocks.length, trains := s.trains ++ [{ t with tag := some g }] }
    sendBlocks t.edge t.part t.pkg t.blocks g (sendFlit s t.edge t.part (ctlFlit 6 t.pkg (g % 2 ^ 13) t.va t.part t.blocks.length))

/-- Sends contiguous blocks home as one train (R375). -/
def sendTrain (s : State) (e part va pkg : Nat) (blocks : List (List Byte)) : State :=
  pushTrain s.used1 { id := s.fresh, edge := e, part := part, va := blkOf va * 128, pkg := pkg, blocks := blocks, tag := none }

/-- Takes the lines of a block out of a slice, with its L1 sharers and near owners. -/
def dropBlockLines (s : State) (h part va : Nat) : State :=
  (blkLines va).foldl (fun s a =>
    let s := dropSharers (nearRecall s h part a) h part a none
    match lineFind (s.slice h) part a with
    | some (w, _) => s.onSlice h fun g => lineDrop g a w
    | none => s) s

/-- Evicts a remote block: M goes home as a train, S and E leave silently (R375). -/
def evictBlock (s : State) (h part va : Nat) : State :=
  let s := (blkLines va).foldl (fun s a => nearRecall s h part a) s
  let g := s.slice h
  let pkg := ((g.blocks.find? (fun b => decide (b.part = part ∧ b.blk = blkOf va))).map (·.pkg)).getD 0
  let s := if proxyState g part va = .m then sendTrain s (sliceEdge s h) part va pkg [blkData g part va] else s
  (dropBlockLines s h part va).onSlice h fun g => setProxy g part va pkg .i

/-- Evicts a line from its slice: a dirty one is written back (R214), copies in L1s go with it. -/
def evictLine (s : State) (h w : Nat) (l : Line) : State :=
  let va := l.tag * 32
  match l.rm with
  | some _ => evictBlock s h l.part va
  | none =>
    let s := dropSharers (nearRecall s h l.part va) h l.part va none
    match lineFind (s.slice h) l.part va with
    | some (_, l) =>
      let s := if l.dirty then physWrite s l.pa (lineBytes l.data) else s
      s.onSlice h fun g => lineDrop g va w
    | none => s

/-- Places a line in a slice, evicting as R215 says. -/
def lineFill (s : State) (h : Nat) (l : Line) : State :=
  let va := l.tag * 32
  let g := s.slice h
  let set := (fget g.lines (lineSet va)).getD []
  let (w, vals) := rripPick (16 - g.ways) (set.map fun (w, l) => (w, l.rrpv))
  let s := s.onSlice h fun g =>
    { g with lines := fset g.lines (lineSet va) (set.map fun (w, l) => (w, { l with rrpv := (fget vals w).getD l.rrpv })) }
  let s :=
    match fget ((fget (s.slice h).lines (lineSet va)).getD []) w with
    | some old => evictLine s h w old
    | none => s
  s.onSlice h fun g => linePut g va w l

/-- An edge die notes a read miss of a 256-byte block in its merge window (R216). -/
def mergeMiss (s : State) (pa : Nat) : State :=
  let lin := paLinear s pa
  s.onEdge (paEdge s pa) fun e =>
    if e.merge.any (fun x => decide (x.1 = lin / 256)) then e else { e with merge := e.merge ++ [(lin / 256, s.now)] }

/-- The line of an address at its home, filled if it is not there (R213, R215). -/
def lineGet (s : State) (h part va pa : Nat) (rm : Option Nat) (reuse : Nat) : State :=
  match lineFind (s.slice h) part va with
  | some (w, l) => s.onSlice h fun g => linePut g va w { l with rrpv := 0 }
  | none =>
    let base := pa / 32 * 32
    let l : Line := { part := part, tag := va / 32, pa := base, rm := rm, data := lineOf (physRead s base 32),
                      dirty := false, rrpv := reuse, sharers := [], owner := none }
    lineFill (mergeMiss s base) h l

/-- Data of a line at its home. -/
def lineData (s : State) (h part va : Nat) : List Byte :=
  lineBytes (((lineFind (s.slice h) part va).map (·.2.data)).getD 0)

/-! ### Watches (R283) -/

/-- Marks as fired every slot of a waiting activation that watches a word in the range; the wake itself is
`wakeWaits`. -/
def markFired (ws : List Watch) (part va n : Nat) (s : State) : State :=
  (ws.filter (fun w => decide (w.part = part) && overlap w.va 8 va n)).foldl (fun s w =>
    s.onCore w.core fun k =>
      match fget k.acts w.ctx with
      | some a =>
        match a.park with
        | .waitAny sl dl f d =>
          let sl := sl.mapIdx fun i x => if i = w.slot then { x with fired := true } else x
          { k with acts := fset k.acts w.ctx { a with park := .waitAny sl dl f d } }
        | _ => k
      | none => k) s

/-! ### Accesses at a home slice -/

/-- Another package's copies that stand in the way of an access at this home (R376). -/
def peersInWay (g : Slice) (part va : Nat) (write : Bool) : List PeerCopy :=
  g.peers.filter fun p => decide (p.part = part ∧ p.blk = blkOf va) && (write || p.excl)

/-- Whether a block of an address is still to arrive: in a train, or kept by its sender because it could not be accepted (R368, R375,
R377). -/
def trainComing (s : State) (part va : Nat) : Bool :=
  s.inbox.any fun x => decide (x.part = part) && (match x.what with
    | .train a n come _ => decide (blkOf a + come ≤ blkOf va ∧ blkOf va < blkOf a + n)
    | .owed a => decide (blkOf a = blkOf va)
    | _ => false)

/-- Sends the invalidations that have not been sent (R376). -/
def askPeers (s : State) (h part va : Nat) (write : Bool) : State :=
  let ps := (peersInWay (s.slice h) part va write).filter (fun p => !p.asked)
  let s := ps.foldl (fun s p => sendFlit s (sliceEdge s h) part (ctlFlit 2 p.pkg p.tag (blkOf va * 128) part 0)) s
  s.onSlice h fun g => { g with peers := g.peers.map fun p => if ps.contains p then { p with asked := true } else p }

/-- Asks another package for a block, once a tag is free; one request for a block is out at a time (R375). -/
def askBlock (s : State) (h part va pkg : Nat) (excl : Bool) : State :=
  if s.rreqs.any (fun r => decide (r.part = part ∧ blkOf r.va = blkOf va ∧ r.slice = h)) then s
  else
    match s.tagRun 1 with
    | none => s
    | some id =>
      let s := sendFlit { s with fresh := id + 1 } (sliceEdge s h) part
        (ctlFlit 1 pkg (id % 2 ^ 13) (blkOf va * 128) part (if excl then 1 else 0))
      { s with rreqs := s.rreqs ++ [{ id := id, part := part, va := va, pkg := pkg, excl := excl, slice := h, since := s.now }] }

/-- What must happen at a home before an access is performed there: nothing, or the state after the requests
or invalidations that it has to wait for. -/
def homeWait (s : State) (part va : Nat) (pte : Word) (pa : Nat) (write : Bool) : Option State :=
  let h := homeOf s va
  if paHost pa then none
  else
    match pteRemote s pte with
    | some pkg =>
      match proxyState (s.slice h) part va with
      | .i => some (askBlock s h part va pkg write)
      | .s => if write then some (askBlock s h part va pkg true) else none
      | _ => none
    | none =>
      if (peersInWay (s.slice h) part va write).isEmpty && !trainComing s part va then none else some (askPeers s h part va write)

/-- Reads n bytes at the home (R212): the state after the line's use, and the bytes. -/
def homeRead (s : State) (part va pa : Nat) (rm : Option Nat) (n reuse : Nat) : State × List Byte :=
  if paHost pa then (s, physRead s pa n)
  else
    let h := homeOf s va
    let s := nearRecall (lineGet s h part va pa rm reuse) h part va
    (s, ((lineData s h part va).drop (va % 32)).take n)

/-- A block that is written leaves E for M silently (R375). -/
def proxyWrote (s : State) (h part va : Nat) (rm : Option Nat) : State :=
  match rm with
  | some pkg => s.onSlice h fun g => setProxy g part va pkg .m
  | none => s

/-- Writes bytes at the home: L1 copies of other cores go, the writer's own is updated, watches of the words
fire (R213, R283). A line that is filled for it takes the reuse hint (R215). -/
def homeWrite (s : State) (core : Option Nat) (part va pa : Nat) (rm : Option Nat) (b : List Byte) (reuse : Nat := 2) : State :=
  if paHost pa then physWrite s pa b
  else
    let h := homeOf s va
    let s := nearRecall (lineGet s h part va pa rm reuse) h part va
    let s := dropSharers (proxyWrote s h part va rm) h part va core
    let s :=
      match lineFind (s.slice h) part va with
      | some (w, l) =>
        s.onSlice h fun g => linePut g va w { l with data := lineOf (patch (lineBytes l.data) (va % 32) b), dirty := true }
      | none => s
    let s :=
      match core with
      | some c =>
        match l1Find (s.core c) part va false with
        | some (w, l) =>
          s.onCore c fun k =>
            let i := l1Set va
            { k with l1 := fset k.l1 i (fset ((fget k.l1 i).getD []) w
                { l with data := lineOf (patch (lineBytes l.data) (va % 32) b) }) }
        | none => s
      | none => s
    markFired (s.slice h).watches part va b.length s


/-- Counts a request of a core or engine at a slice (R236): a sample of it is due when the count reaches a multiple
of 2^LOGN of the partition's hotness descriptor, if that is on. -/
def countReq (s : State) (part va core typ : Nat) : State :=
  let d := (s.partn part).hot.toNat
  let w := if d = 0 then 0 else ofLe (physRead s (d + 8) 8)
  s.onSlice (homeOf s va) fun g =>
    let n := (fget g.hot part).getD 0 + 1
    { g with hot := fset g.hot part n,
             samples := if w / 2 ^ 16 % 2 = 1 ∧ n % 2 ^ (w / 2 ^ 8 % 32) = 0 then g.samples ++ [(part, va, core, typ)]
                        else g.samples }

/-! ### The machine's own accesses to control blocks -/

/-- Reads n bytes of translated memory for the machine itself, line by line is not needed: n bytes lie in one
aligned 8-byte word. Answers the cause where translation fails. -/
def hwRead (s : State) (part va n : Nat) : Except Nat (State × Nat) :=
  match xlateHw s part va .r with
  | .ok pte _ pa =>
    let (s, b) := homeRead s part va pa (pteRemote s pte) n 2
    .ok (s, ofLe b)
  | .fault c _ => .error c
  | .miss => .error cPAGE

/-- Notes a block that the machine writes while other packages hold copies of it, or it is on its way home (14 R376). -/
def oweRecall (s : State) (part va : Nat) : State :=
  if (peersInWay (s.slice (homeOf s va)) part va true).isEmpty && !trainComing s part va then s else { s with owed := s.owed ++ [(part, va)] }

/-- Sends the invalidations that blocks of the machine's own writes wait for. -/
def askOwed (s : State) (l : List (Nat × Nat)) : State :=
  l.foldl (fun s p => askPeers s (homeOf s p.2) p.1 p.2 true) s

/-- Writes n bytes of translated memory for the machine itself. -/
def hwWrite (s : State) (part va n v : Nat) : Except Nat State :=
  match xlateHw s part va .w with
  | .ok pte _ pa => .ok (homeWrite (oweRecall s part va) none part va pa (pteRemote s pte) (leBytes n v))
  | .fault c _ => .error c
  | .miss => .error cPAGE

/-- The dword at an address as the machine reads it; 0 where translation fails. -/
def hwPeek (s : State) (part va : Nat) : Nat :=
  match hwRead s part va 8 with
  | .ok (_, v) => v
  | .error _ => 0

/-- A dword written; nothing where translation fails. -/
def hwPoke (s : State) (part va v : Nat) : State :=
  match hwWrite s part va 8 v with
  | .ok s => s
  | .error _ => s

end Sys2Proof.Machine
end

