-- ==== Sys2Proof/Machine/Operands.lean ====
section
/-! DEFINITION. Operand forms: the registers of the running activation (Table 2.12), memory operands (07
R206), tile operands (07 R207), local-store offsets (07 R201, 13 R330), scratchpad operand addresses and
shapes (06 R177, R178). -/

namespace Sys2Proof.Machine

/-! ### The running activation -/

/-- The running activation of a core, with its context. -/
def Core.running (k : Core) : Option (Nat × Act) :=
  match k.run with
  | some x => (fget k.acts x).map fun a => (x, a)
  | none => none

/-- The core that executes the current bundle. -/
def State.cc (s : State) : Core := s.core s.cur

/-- The activation that executes the current bundle. -/
def State.me (s : State) : Act := (s.cc.running.map (·.2)).getD Act.zero

/-- Changes the activation of a context. -/
def State.onAct (s : State) (core ctx : Nat) (f : Act → Act) : State :=
  s.onCore core fun k =>
    match fget k.acts ctx with
    | some a => { k with acts := fset k.acts ctx (f a) }
    | none => k

/-- Changes the activation of a number wherever it is: on a core, travelling, or waiting to restart (13 R339, R343). -/
def State.onActAll (s : State) (act : Nat) (f : Act → Act) : State :=
  let g := fun (a : Act) => if a.id = act then f a else a
  { s with
    cores := fmapVals (fun _ k => { k with acts := fmapVals (fun _ a => g a) k.acts, fibres := fmapVals (fun _ a => g a) k.fibres,
                                           recs := k.recs.map fun r => { r with act := r.act.map g } }) s.cores
    msgs := s.msgs.map fun m => { m with act := m.act.map g }
    restarts := s.restarts.map fun x => (x.1, g x.2.1, x.2.2) }

/-- The activation of a number. -/
def State.findAct (s : State) (act : Nat) : Option Act :=
  let ok := fun (a : Act) => decide (a.id = act)
  (s.cores.findSome? fun x => ((x.2.acts.map (·.2)) ++ (x.2.fibres.map (·.2)) ++ (x.2.recs.filterMap (·.act))).find? ok).orElse fun _ =>
    ((s.restarts.map (fun x => x.2.1)) ++ (s.msgs.filterMap (·.act))).find? ok

/-- Changes the running activation of a core. -/
def Core.onRun (k : Core) (f : Act → Act) : Core :=
  match k.run with
  | some x =>
    match fget k.acts x with
    | some a => { k with acts := fset k.acts x (f a) }
    | none => k
  | none => k

/-- Changes the current core. -/
def State.onCC (s : State) (f : Core → Core) : State := s.onCore s.cur f

/-- Changes the activation that executes the current bundle. -/
def State.onMe (s : State) (f : Act → Act) : State := s.onCC fun k => k.onRun f

/-! ### Register files: s0 reads as zero and discards writes (Table 2.12) -/

def Regs.getS (r : Regs) (d : SReg) : Word := if d = 0 then 0 else r.s.get d.toFin
def Regs.setS (r : Regs) (d : SReg) (v : Word) : Regs := if d = 0 then r else { r with s := r.s.set d.toNat v d.isLt }
def Regs.getV (r : Regs) (d : VReg) : BitVec 128 := r.v.get d.toFin
def Regs.setV (r : Regs) (d : VReg) (v : BitVec 128) : Regs := { r with v := r.v.set d.toNat v d.isLt }
def Regs.getK (r : Regs) (d : KReg) : BitVec 16 := r.k.get d.toFin
def Regs.setK (r : Regs) (d : KReg) (v : BitVec 16) : Regs := { r with k := r.k.set d.toNat v d.isLt }
def Regs.getI (r : Regs) (d : IReg) : Word := r.i.get d.toFin
def Regs.setI (r : Regs) (d : IReg) (v : Word) : Regs := { r with i := r.i.set d.toNat v d.isLt }

/-- A register's value in 128 bits; x and a registers are not read this way. -/
def Regs.get (r : Regs) : Reg → BitVec 128
  | .s d => (r.getS d).setWidth 128
  | .v d => r.getV d
  | .k d => (r.getK d).setWidth 128
  | .i d => (r.getI d).setWidth 128
  | .x _ => 0
  | .a _ => 0

def Regs.put (r : Regs) (x : Reg) (v : BitVec 128) : Regs :=
  match x with
  | .s d => r.setS d (v.setWidth 64)
  | .v d => r.setV d v
  | .k d => r.setK d (v.setWidth 16)
  | .i d => r.setI d (v.setWidth 64)
  | .x _ => r
  | .a _ => r

/-- Operands as the bundle read them at issue (R32). -/
def State.rs (s : State) (a : SReg) : Word := s.me.latch.getS a
def State.rv (s : State) (a : VReg) : BitVec 128 := s.me.latch.getV a
def State.rk (s : State) (a : KReg) : BitVec 16 := s.me.latch.getK a
def State.ri (s : State) (a : IReg) : Word := s.me.latch.getI a

/-- Results. -/
def State.ws (s : State) (d : SReg) (v : Word) : State := s.onMe fun a => { a with regs := a.regs.setS d v }
def State.wv (s : State) (d : VReg) (v : BitVec 128) : State := s.onMe fun a => { a with regs := a.regs.setV d v }
def State.wk (s : State) (d : KReg) (v : BitVec 16) : State := s.onMe fun a => { a with regs := a.regs.setK d v }
def State.wi (s : State) (d : IReg) (v : Word) : State := s.onMe fun a => { a with regs := a.regs.setI d v }

/-- Marks a register's interlocked write as pending (R36); s0 has none. -/
def State.pendReg (s : State) (r : Reg) : State :=
  if r = .s 0 then s else s.onMe fun a => { a with pend := r :: a.pend.filter (· ≠ r) }

/-- The pc of the current bundle and of the one after it. -/
def State.pc (s : State) : Nat := s.me.pc

/-- The mode of an activation (Table 4.12): 0 user, 1 runtime, 2 system. -/
def Act.mode (a : Act) : Nat := bitsNat a.status 1 0

def State.mode (s : State) : Nat := s.me.mode

/-- STATUS with another mode. -/
def setMode (st : Word) (m : Nat) : Word := (st &&& ~~~(3 : Word)) ||| BitVec.ofNat 64 m

/-- The partition of the current core. -/
def State.mypart (s : State) : Nat := s.me.part

/-- FMT.E4 and FMT.ZS of the current core (Table 3.6). -/
def State.e4 (s : State) : Bool := bitAt s.cc.fmt 0
def State.zs (s : State) : Bool := bitAt s.cc.fmt 1

/-- Whether the current activation runs on a core. -/
def State.live (s : State) : Bool := s.cc.running.isSome

/-- Takes a result that was pending: the register of the activation and of its snapshot (10 R277). A register that waits for
no result is not written: the bundle's A-word wrote it (02 R51, DUAL). -/
def deliver (a : Act) (d : SReg) (v : Word) : Act :=
  let out := fun (l : List Reg) => l.filter (· ≠ .s d)
  { a with regs := if a.pend.contains (.s d) then a.regs.setS d v else a.regs, pend := out a.pend,
           snap := if a.snap.pend.contains (.s d) then
               { a.snap with regs := a.snap.regs.setS d v, pend := out a.snap.pend }
             else a.snap }

/-! ### Memory operands -/

/-- The address of a CM operand (R206): sB + sx(off4) * unit. -/
def cmAddr (base : Word) (off : BitVec 4) (unit : Nat) : Word := base + BitVec.ofInt 64 (off.toInt * (unit : Int))

/-- The size of an access from its z field. -/
def sizeOf (z : BitVec 2) : Nat := 2 ^ z.toNat

/-- LSWIN of an activation (R201): the bytes of local store that user mode reaches. -/
def Act.lswin (a : Act) : Nat := a.extLen

/-- Where a local-store access of n bytes at an offset lands (R201, R330): none raises ACCESS. -/
def lsPlace (a : Act) (off : Word) (n : Nat) : Option Nat :=
  let o := off.toNat
  if a.mode = 0 then (if o + n ≤ a.lswin then some (a.extBase + o) else none)
  else if 0x20000 < o + n then none
  else if 0x1C000 ≤ o then some o
  else if a.extBase + min (o + n) 0x1C000 ≤ 0x1C000 then some (a.extBase + o) else none

/-- TVAL where n bytes at a local-store offset are not reached: outside user mode the offset itself, of one whose place would lie in the
runtime area (R330); else the value that the form gives. -/
def lsTval (a : Act) (off n : Nat) (v : Word) : Word :=
  if a.mode ≠ 0 ∧ off < 0x1C000 ∧ off + n ≤ 0x20000 then BitVec.ofNat 64 off else v

/-! ### Scratchpad operands (R177, R178) -/

/-- An operand address with its shape. -/
structure Opnd where
  off : Nat
  t : Nat
  br : Nat
  rg : Nat
  tp : Nat
  rp : Nat
deriving DecidableEq, Repr

def Opnd.of (sa sb : Word) : Opnd :=
  { off := bitsNat sa 28 8, t := bitsNat sa 7 0, br := bitsNat sb 30 28, rg := bitsNat sb 26 24,
    tp := bitsNat sb 23 16, rp := bitsNat sb 15 0 }

/-- The tile of row r. -/
def Opnd.tile (o : Opnd) (r : Nat) : Nat := o.t + o.tp * (r / 2 ^ o.rg)

/-- The offset of chunk c of row r in its tile. -/
def Opnd.place (o : Opnd) (r c : Nat) : Nat :=
  let off := o.off + (r % 2 ^ o.rg) * o.rp + 32 * c
  if o.br = 0 then off else off ^^^ ((r / 2 ^ (5 - o.br) % 2 ^ o.br) * 32)

/-- The tiles of the first n rows, each once. -/
def Opnd.tiles (o : Opnd) (n : Nat) : List Nat :=
  (List.range ((n + 2 ^ o.rg - 1) / 2 ^ o.rg)).map fun j => o.t + o.tp * j

/-- The first bad chunk, by row, of n rows of m chunks in tiles of g(t) granules. -/
def Opnd.badChunk (o : Opnd) (gran : Nat → Nat) (n m : Nat) : Option (Nat × Nat) :=
  (List.range n).findSome? fun r =>
    (List.range m).findSome? fun c =>
      if 2048 * gran (o.tile r) < o.place r c + 32 then some (o.tile r, o.place r c) else none

/-- The byte of the scratchpad where chunk c of row r starts, for tile bases in granules. -/
def Opnd.byte (o : Opnd) (base : Nat → Nat) (r c : Nat) : Nat := base (o.tile r) * 2048 + o.place r c

end Sys2Proof.Machine
end

