-- ==== Sys2Proof/Machine/Flags.lean ====
section
/-! DEFINITION. Flags: FLAGS of an activation (03 R90-R92) and WARN, WARNPC of a core (02 R50-R55). -/

namespace Sys2Proof.Machine

/-- Sets flags of the current activation; they are sticky (R90). -/
def State.orFlags (s : State) (f : Word) : State := s.onMe fun a => { a with flags := a.flags ||| f }

/-- FLAGS after a write of a value: its seven bits are cleared where the value holds 1 (Table 3.7). -/
def flagsW1C (old v : Word) : Word := old &&& ~~~(v &&& 0x7F)

/-- WARN bits (Table 2.10). -/
def wLONE : Word := 1
def wDUAL : Word := 2
def wRSV : Word := 4
def wQUAL : Word := 8

/-- Sets WARN bits for the current bundle (R52, R54): COUNT advances once per bundle, and WARNPC is written
when COUNT leaves 0. -/
def warnCore (k : Core) (w : Word) (pc : Nat) : Core :=
  if w = 0 then k
  else
    let n := bitsNat k.warn 15 8
    let cnt := if k.earned = 0 then min 255 (n + 1) else n
    { k with
      warn := ((k.warn ||| w) &&& 0xF) ||| BitVec.ofNat 64 (256 * cnt)
      warnpc := if k.earned = 0 ∧ n = 0 then BitVec.ofNat 64 (pc % 2 ^ 57 / 8 * 8) else k.warnpc
      earned := k.earned ||| w }

def State.warn (s : State) (w : Word) : State := s.onCC fun k => warnCore k w s.pc

/-- WARN.QUAL when a modifier takes its fallback (R147, R150, R165; Table 2.9). -/
def State.qualIf (s : State) (c : Bool) : State := if c then s.warn wQUAL else s

/-- WARN after a write: COUNT takes bits 15:8, the bits are write-one-to-clear (Table 2.10). -/
def warnWrite (old v : Word) : Word := ((old &&& 0xF) &&& ~~~(v &&& 0xF)) ||| (v &&& 0xFF00)

end Sys2Proof.Machine
end

