-- ==== Sys2Proof/Machine/Region.lean ====
section
/-! DEFINITION. Region control blocks (13 R345-R353), run queues and rings as far as ending needs them (13
R323, R327, R331), ends of activations, fault domains (13 R351, 20 R481), open quadrilles (17 R428, R433,
R434, R499). -/

namespace Sys2Proof.Machine

/-! ### Control blocks (Table 13.8) -/

/-- Bits lo + len - 1 : lo of a number. -/
def fieldOf (w lo len : Nat) : Nat := w / 2 ^ lo % 2 ^ len

/-- A number with one field replaced. -/
def putField (w lo len v : Nat) : Nat := w - fieldOf w lo len * 2 ^ lo + v % 2 ^ len * 2 ^ lo

def rcbKind (w : Nat) : Nat := fieldOf w 0 2
def rcbPrio (w : Nat) : Nat := fieldOf w 2 3
def rcbFdom (w : Nat) : Nat := fieldOf w 5 2
def rcbRetry (w : Nat) : Nat := fieldOf w 7 3
def rcbDepth (w : Nat) : Nat := fieldOf w 10 3
def rcbState (w : Nat) : Nat := fieldOf w 13 3
def rcbInh (w : Nat) : Nat := fieldOf w 16 8

/-- Region states (Table 13.8, STATE). -/
def stIdle : Nat := 0
def stPending : Nat := 1
def stRunning : Nat := 2
def stDone : Nat := 3
def stFailed : Nat := 4
def stKilled : Nat := 5

/-- Writes one field of a dword of a block. -/
def rcbPut (s : State) (part rcb off lo len v : Nat) : State :=
  hwPoke s part (rcb + off) (putField (hwPeek s part (rcb + off)) lo len v)

def regionState (s : State) (part rcb : Nat) : Nat := rcbState (hwPeek s part (rcb + 8))

/-- A region and its ancestors, nearest first; the tree is at most 8 deep (R27). -/
def chainOf (s : State) (part : Nat) : Nat → Nat → List Nat
  | 0, _ => []
  | n + 1, rcb => if rcb = 0 then [] else rcb :: chainOf s part n (hwPeek s part rcb)

/-- Whether a region is another one or descends from it. -/
def inRegion (s : State) (part rcb anc : Nat) : Bool := (chainOf s part 8 rcb).contains anc

/-- The cores of a partition that are present, rising. -/
def partCores (s : State) (part : Nat) : List Nat :=
  let g := (s.partn part).gran
  ((List.range 64).filter (fun q => g.getLsbD q)).flatMap fun q =>
    ((List.range 64).map (64 * q + ·)).filter (corePresent s)

/-- The cores of a region's placement (PLACE) in its partition, rising. -/
def placeCores (s : State) (part rcb : Nat) : List Nat :=
  let place := hwPeek s part (rcb + 48)
  (partCores s part).filter fun c => decide (place / 2 ^ granOf c % 2 = 1)

/-- The reserved cores of a region (R332). -/
def reservedCores (s : State) (part rcb : Nat) : List Nat :=
  (placeCores s part rcb).take (fieldOf (hwPeek s part (rcb + 16)) 0 16)

/-! ### Run queue and rings -/

/-- Queues an entry on a core's run queue (R331). -/
def enqueue (s : State) (core : Nat) (k : QKind) (prio : Nat) : State :=
  s.onCore core fun c => { c with queue := c.queue ++ [{ kind := k, prio := prio, since := s.now, aged := 0, resv := false }] }

/-- Wakes a parked activation (R334): it is queued at its own priority. -/
def wakeAct (s : State) (core ctx : Nat) (f : Act → Act) : State :=
  match fget (s.core core).acts ctx with
  | some a =>
    let s := s.onAct core ctx fun a => { f a with park := .queued }
    enqueue s core (.ctx ctx) (bitsNat a.status 14 12)
  | none => s

/-- Wakes an activation by its number: on its core, or where it waits to restart. -/
def wakeId (s : State) (act : Nat) (f : Act → Act) : State :=
  match s.cores.findSome? fun (c, k) => (k.acts.find? (fun x => decide (x.2.id = act))).map fun x => (c, x.1) with
  | some (c, x) => wakeAct s c x f
  | none =>
    { s with restarts := s.restarts.map fun x => if x.2.1.id = act then (x.1, { f x.2.1 with park := .queued }, x.2.2) else x }

/-- Activations that hold a context or wait to restart. -/
def heldActs (s : State) : List Act := (s.cores.flatMap fun x => x.2.acts.map (·.2)) ++ s.restarts.map fun x => x.2.1

def ringBase (n : Nat) : Nat := 0x1E400 + 0x700 * n

/-- A dword of a core's local store. -/
def lsWord (k : Core) (a : Nat) : Nat := ofLe (mread k.ls a 8)
def lsPoke (k : Core) (a v : Nat) : Core := { k with ls := mwrite k.ls a (leBytes 8 v) }

/-- HEAD advances past every record from the oldest on that has been dispatched (R327). -/
def advanceHead (ring : Nat) : List RingRec → Core → Core
  | [], k => k
  | r :: rs, k =>
    if r.ring ≠ ring then advanceHead ring rs k
    else if r.done then
      let k := lsPoke k (ringBase ring) (lsWord k (ringBase ring) + r.size)
      advanceHead ring rs { k with recs := k.recs.filter (· ≠ r) }
    else k

/-- Takes a landed message out of the run queue and out of its ring. -/
def consumeMsg (k : Core) (ring pos : Nat) : Core :=
  let k := { k with
    queue := k.queue.filter (fun q => decide (q.kind ≠ .msg ring pos))
    recs := k.recs.map fun r => if r.ring = ring ∧ r.pos = pos then { r with done := true } else r }
  advanceHead ring k.recs k

/-- The block that a landed message names (Table 13.3). -/
def msgRcb (k : Core) (ring pos : Nat) : Nat := fieldOf (lsWord k (ringBase ring + 64 + pos)) 6 51 * 64

/-! ### Effects on their way -/

/-- Appends a drained effect of a program (R342). -/
def pushFlight (s : State) (core part act rp : Nat) (ent : Option Nat) (op : RbOp) (src : Option (Nat × Nat × Nat) := none) : State :=
  let f : Flight := { id := s.fresh, core := core, part := part, act := act, rp := rp, ent := ent, op := op,
                      leaveOk := false, sent := none, src := src }
  { s.used1 with flights := s.flights ++ [f] }

/-! ### Tiles and the commands that name them (07 R241, 08 R247) -/

def CpEnt.d (e : CpEnt) (i : Nat) : Word := e.desc.getD i 0
def CpEnt.rb (e : CpEnt) : Nat := bitsNat (e.d 4) 31 0
def CpEnt.rows (e : CpEnt) : Nat := bitsNat (e.d 4) 47 32
/-- Bytes of all rows. -/
def CpEnt.bytes (e : CpEnt) : Nat := e.rows * e.rb
def CpEnt.rdy (e : CpEnt) : Bool := bitAt (e.d 4) 48

/-- Endpoint words of a command as source and destination (Table 8.4). -/
def CpForm.hasDst : CpForm → Bool
  | .copy | .gather | .fill | .walk => true
  | _ => false
def CpForm.hasSrc : CpForm → Bool
  | .copy | .scatter | .mcast => true
  | _ => false

def isSpad (w : Word) : Bool := bitAt w 63

/-- Tiles of a scratchpad endpoint. -/
def endTiles (w sh : Word) (rows : Nat) : List Nat := if isSpad w then (Opnd.of w sh).tiles rows else []

def CpEnt.dstTiles (e : CpEnt) : List Nat := if e.form.hasDst then endTiles (e.d 0) (e.d 1) e.rows else []
def CpEnt.srcTiles (e : CpEnt) : List Nat := if e.form.hasSrc then endTiles (e.d 2) (e.d 3) e.rows else []

/-- Targets of a multicast from its copy of the group entry (Table 8.5): cluster and tile. -/
def CpEnt.targets (e : CpEnt) : List (Nat × Nat) :=
  ((List.range (bitsNat (e.group.getD 0 0) 19 16)).map fun n =>
    let w := e.group.getD (n + 1) 0
    (bitsNat w 9 0, bitsNat w 17 10))

/-- Tiles, by cluster, that an outstanding command of a core names. -/
def CpEnt.names (e : CpEnt) (core : Nat) : List (Nat × Nat) :=
  if e.st = .queued ∨ e.st = .running then
    (e.dstTiles ++ e.srcTiles).map (fun t => (clusterOf core, t)) ++
      (if e.form = .mcast then e.targets.flatMap fun x =>
        ((Opnd.of (BitVec.ofNat 64 (x.2 + 256 * bitsNat (e.d 0) 28 8)) (e.d 1)).tiles e.rows).map fun t => (x.1, t) else [])
  else []

/-- Whether an outstanding command names a tile. -/
def tileNamed (s : State) (cl t : Nat) : Bool :=
  s.cores.any fun (c, k) => k.cps.any fun (_, e) => (e.names c).contains (cl, t)

/-- Gives up a tile (R241): its granules are freed at once, or after the commands that name it. -/
def tileRelease (s : State) (cl t : Nat) : State :=
  let named := tileNamed s cl t
  s.onCluster cl fun c => c.onTile t fun x =>
    if named then { x with owner := none, ent := none, st := 3 } else Tile.reset

/-- A draining tile becomes empty once no command names it; one that a reel passed on keeps its owner and its extent, of zeros
(17 R450). -/
def tileSettle (s : State) (cl t : Nat) : State :=
  let x := (s.cluster cl).tile t
  if x.st = 3 && !tileNamed s cl t then
    if x.owner.isNone then s.onCluster cl fun c => c.onTile t fun _ => Tile.reset
    else s.onCluster cl fun c =>
      { c.onTile t (fun y => { y with st := 0 }) with
        spad := c.spad.filter fun b => decide (b.1 < x.base * 2048 ∨ (x.base + x.gran) * 2048 ≤ b.1) }
  else s

/-- Frees every tile that a region owns. -/
def freeTilesOf (s : State) (o : Own) : State :=
  s.clusters.foldl (fun s (cl, c) =>
    (c.tiles.filter (fun x => decide (x.2.owner = some o))).foldl (fun s x => tileRelease s cl x.1) s) s

/-- Releases every waiter of a barrier unit: a `bar.arrive` returns what `f` makes of the phase that it saw, and a `bar.wait` that is
still to be tried again will return `v` (R356-R358). -/
def barRelay (s : State) (unit : Nat) (f : BitVec 16 → Word) (v : Word) : State :=
  (heldActs s).foldl (fun s a =>
    match a.park with
    | .barrier u p d true => if u = unit then wakeId s a.id fun a => deliver a d (f p) else s
    | _ => if a.barWait = some (unit, none) then s.onActAll a.id fun a => { a with barWait := some (unit, some v) } else s) s

/-- Frees one barrier unit; its waiters return -1 (R358). -/
def barRelease (s : State) (unit : Nat) : State :=
  let s := s.onDie (unit / 64) fun d =>
    { d with bars := fset d.bars (unit % 64) { d.bar (unit % 64) with owner := none, exp := 0, cnt := 0 } }
  barRelay s unit (fun _ => BitVec.ofInt 64 (-1)) (BitVec.ofInt 64 (-1))

def freeBarsOf (s : State) (o : Own) : State :=
  s.dies.foldl (fun s (d, x) =>
    (x.bars.filter (fun b => decide (b.2.owner = some o))).foldl (fun s b => barRelease s (64 * d + b.1)) s) s

/-! ### Contexts and extents (R329, R330), and attempts that wait to restart (R343) -/

/-- What is kept on a core for attempts that have still to restart. -/
def resvOf (s : State) (core : Nat) : List (Nat × Nat × Nat × Nat) :=
  (s.core core).resv.filter fun r => s.restarts.any fun x => decide (x.2.1.id = r.1)

/-- A usable context (R329). -/
def ctxFor (s : State) (core ring : Nat) : Option Nat :=
  (if ring = 3 then [3] else [0, 1, 2]).find? fun x =>
    (fget (s.core core).acts x).isNone && (resvOf s core).all fun r => decide (r.2.1 ≠ x)

/-- Extents of local store in use on a core: those of its activations, its fibre slots and attempts to be copied from it or to it. -/
def extentsOf (s : State) (core : Nat) : List (Nat × Nat) :=
  let k := s.core core
  (((((k.acts.map (·.2)).filter (fun a => !a.upcall)) ++ (k.fibres.map (·.2)) ++
    ((s.restarts.filter (fun x => decide (x.1 = core ∧ some x.2.1.part = k.part))).map (fun x => x.2.1))).map fun a => (a.extBase, a.extLen)) ++
    ((resvOf s core).map fun r => r.2.2)).filter fun e => decide (e.2 ≠ 0)

/-- The lowest free run of bytes on a 4 KiB boundary (R330). -/
def freeExtent (s : State) (core len : Nat) : Option Nat :=
  let used := extentsOf s core
  ((List.range 28).map (4096 * ·)).find? fun b =>
    decide (b + len ≤ 0x1C000) && used.all fun u => !overlap b len u.1 u.2

/-- The core that an attempt restarts on (R343): the lowest-numbered other one of its cluster with a usable context and
extent. -/
def restartCore (s : State) (x : Nat × Act × Nat) : Option Nat :=
  (clusterCores (clusterOf x.1)).find? fun c =>
    decide (c ≠ x.1) && corePresent s c && decide ((s.core c).part = some x.2.1.part) && !(s.core c).swapping &&
      (ctxFor s c x.2.1.ring).isSome && (freeExtent s c x.2.1.extLen).isSome

/-- Whether a context and an extent are kept for an attempt. -/
def booked (s : State) (act : Nat) : Bool := s.cores.any fun c => c.2.resv.any fun r => decide (r.1 = act)

/-- Keeps a usable context and extent of a core for an attempt. -/
def bookOn (s : State) (core : Nat) (a : Act) : State :=
  match ctxFor s core a.ring, freeExtent s core a.extLen with
  | some x, some b => s.onCore core fun k => { k with resv := resvOf s core ++ [(a.id, x, b, a.extLen)] }
  | _, _ => s

/-- Attempts that wait to restart get a core: the lowest-numbered one that has a usable context and extent, or the first to free one
(R343). It is called wherever one becomes free. -/
def bookRestarts (s : State) : State :=
  s.restarts.foldl (fun s x =>
    if booked s x.2.1.id then s
    else
      match restartCore s x with
      | some c => bookOn s c x.2.1
      | none => s) s

/-! ### Ends of activations -/

/-- Completion-table entries of an ended activation (R263, R267, R351). -/
def cpEnd (discard : Bool) (act : Nat) (e : CpEnt) : CpEnt :=
  if e.owner ≠ some act then e
  else
    match e.st with
    | .free => e
    | .buffered => { CpEnt.reset with gen := e.gen }
    | .done => { CpEnt.reset with gen := e.gen }
    | _ => { e with owner := none, cancel := e.cancel || discard }

/-- The commands of an activation, on every core that it issued them on, once it has ended. -/
def endCps (discard : Bool) (act : Nat) (s : State) : State :=
  { s with cores := fmapVals (fun _ k => { k with cps := fmapVals (fun _ e => cpEnd discard act e) k.cps }) s.cores }

/-- Removes watches of an activation everywhere. -/
def cancelWatches (s : State) (core ctx : Nat) : State :=
  let keep := fun (w : Watch) => decide (¬(w.core = core ∧ w.ctx = ctx))
  { s with
    slices := fmapVals (fun _ g => { g with watches := g.watches.filter keep }) s.slices
    cores := fmapVals (fun _ k => { k with watches := k.watches.filter keep }) s.cores }

/-! ### Waiting for leave (20 R466) -/

/-- Cycles of waiting for leave added to LEAVE.WAIT. -/
def addWait (k : Core) (n : Nat) : Core :=
  let w := min (2 ^ 32 - 1) (bitsNat k.leaveW 63 32 + n)
  { k with leaveW := (k.leaveW &&& 0xFFFFFFFF) ||| BitVec.ofNat 64 (w * 2 ^ 32) }

/-- A copy engine's wait for leave ends and is counted (08 R268). -/
def cpAwake (k : Core) (now : Nat) : Core :=
  match k.cpWaitAt with
  | some t => { addWait k (now - t) with cpWaitAt := none }
  | none => k

/-- The matrix requests' waits for leave end and are counted (06 R192). -/
def mxAwake (now : Nat) (k : Core) : Core :=
  let k := k.mxq.foldl (fun k r => match r.waitAt with
    | some t => addWait k (now - t)
    | none => k) k
  { k with mxq := k.mxq.map fun r => { r with waitAt := none } }

/-- Cancels matrix requests; a wait for leave that ends so is counted. -/
def keepReqs (now : Nat) (keep : MxReq → Bool) (k : Core) : Core :=
  let gone := k.mxq.filter fun r => !keep r
  let k := gone.foldl (fun k r => match r.waitAt with
    | some t => addWait k (now - t)
    | none => k) k
  { k with mxq := k.mxq.filter keep }

/-- Frees the stages of a cluster that serve a cancelled request of a core (06 R196). -/
def freeStages (s : State) (core : Nat) : State :=
  let kept := (s.core core).mxq.map (·.id)
  s.onCluster (clusterOf core) fun c =>
    { c with stages := c.stages.map fun g =>
        match g.busy with
        | some (co, id) => if co = core ∧ !kept.contains id then { g with busy := none } else g
        | none => g }

/-- Cancels the accesses and the matrix requests of an activation at a core (06 R197). -/
def dropWork (s : State) (core act : Nat) : State :=
  freeStages (s.onCore core fun k =>
    keepReqs s.now (fun r => decide (r.act ≠ act)) { k with accs := k.accs.filter fun x => decide (x.act ≠ act) }) core

/-- Takes an activation out of its core: context and extent are free, its requests are gone; with `discard`
its retire buffer is discarded and its commands are cancelled (R337, R343, R351). -/
def endAct (s : State) (core ctx : Nat) (discard : Bool) : State :=
  match fget (s.core core).acts ctx with
  | none => s
  | some a =>
    let s := match a.park with
      | .waitAny .. => cancelWatches s core ctx
      | _ => s
    let s := s.onCore core fun k =>
      let mine := decide (k.run = some ctx)
      { k with
        acts := ferase k.acts ctx
        run := if mine then none else k.run
        rb := if mine then [] else k.rb
        undo := if mine then [] else k.undo
        fixed := if mine then [] else k.fixed
        draining := k.draining && !mine
        errDue := k.errDue.filter fun i => decide (i ≠ a.id)
        queue := k.queue.filter (fun q => decide (q.kind ≠ .ctx ctx)) }
    bookRestarts (dropWork (endCps discard a.id s) core a.id)

/-- Takes a landed message out of a core; an activation that it brings ends (R339, R351). -/
def dropLanded (s : State) (core ring pos : Nat) : State :=
  let moved := ((s.core core).recs.find? fun r => decide (r.ring = ring ∧ r.pos = pos ∧ ¬ r.done = true)).bind (·.act)
  let s := match moved with
    | some a => endCps true a.id s
    | none => s
  s.onCore core fun k => consumeMsg k ring pos

/-- Clears a fibre slot (R231): its STATE bit and the activation it held. -/
def clearFibre (s : State) (core n : Nat) : State :=
  bookRestarts (s.onCore core fun k =>
    lsPoke { k with fibres := ferase k.fibres n, queue := k.queue.filter (fun q => decide (q.kind ≠ .fibre n)) }
      (0x1C000 + 0x480 * n + 0x470) 0)

/-! ### Messages made by the hardware (R497) -/

/-- Header words (Table 13.3). -/
def Hdr.word0 (h : Hdr) : Nat := h.ver * 2 ^ 60 + h.kind * 2 ^ 57 + h.rcb % 2 ^ 57 / 64 * 64 + h.prio * 8
def Hdr.word8 (h : Hdr) (part : Nat) : Nat :=
  h.eoff * 2 ^ 32 + h.len * 2 ^ 28 + (if h.e4 then 2 ^ 27 else 0) + h.spkg * 2 ^ 21 + part * 2 ^ 12 + h.src

/-- A message that leaves the package travels as one control flit; its core rides in the flit's tag (log 12). -/
def msgFlit (h : Hdr) (pay : List Word) (part pkg core : Nat) : Flit :=
  let bytes := leBytes 8 h.word0 ++ leBytes 8 (h.word8 part) ++ pay.flatMap fun w => leBytes 8 w.toNat
  { bulk := false, typ := 4, seq := 0, ack := 0, dst := BitVec.ofNat 6 pkg, tag := BitVec.ofNat 14 core,
    payload := BitVec.ofNat 1024 (ofLe bytes), crc := 0 }

/-- Whether a sender on a die is on another die than a core. -/
def farFrom (die core : Nat) : Bool := decide (dieOf core ≠ die)

/-- Where a refused message of a sender on a die is held (R326): at the sender's own port when the target is on its die, else at the
edge die. -/
def egressPort (s : State) (die core own : Nat) : Nat := if farFrom die core then 12288 + servingEdge s die else own

/-- Sends a KIND 1 or 2 message from a slice to a core. -/
def hwMessage (s : State) (part slice core kind rcb prio eoff : Nat) (e4 : Bool) (spkg src : Nat) (pay : List Word) : State :=
  let hdr : Hdr := { ver := 1, kind := kind, rcb := rcb, prio := prio, eoff := eoff, len := pay.length, e4 := e4,
                     spkg := spkg, src := src }
  let m : Msg := { id := s.fresh, hdr := hdr, pay := pay, part := part, core := core, far := farFrom (slice / 32) core,
                   port := egressPort s (slice / 32) core (8192 + slice), sender := 8192 + slice, act := none, st := .travelling }
  { s.used1 with msgs := s.msgs ++ [m] }

/-- Sends entry message i of a region to a core (R347, R497): `src` none names the target core. -/
def entryMessage (s : State) (part rcb : Nat) (src : Option Nat) (e4 : Bool) (core i n : Nat) : State :=
  let w8 := hwPeek s part (rcb + 8)
  let entry := fieldOf (hwPeek s part (rcb + 40)) 0 32
  let arg := hwPeek s part (rcb + 56)
  let e4 := if src.isNone then bitAt (s.core core).fmt 0 else e4
  hwMessage s part (homeOf s rcb) core 1 rcb (rcbPrio w8) entry e4 s.pkg (src.getD core)
    [BitVec.ofNat 64 i, BitVec.ofNat 64 n, BitVec.ofNat 64 arg]

/-- Counts a message of a partition that leaves for a package, or has come from it (17 R446). -/
def countMsg (s : State) (part pkg : Nat) (out : Bool) : State :=
  let (a, b) := (fget s.msgCounts (64 * part + pkg)).getD (0, 0)
  { s with msgCounts := fset s.msgCounts (64 * part + pkg) (if out then (a + 1, b) else (a, b + 1)) }

/-- Sends a KIND 1 or 2 message of a block's home to a core of another package. -/
def hwMessageTo (s : State) (part rcb pkg core kind eoff : Nat) (e4 : Bool) (spkg src : Nat) (pay : List Word) : State :=
  let h : Hdr := { ver := 1, kind := kind, rcb := rcb, prio := rcbPrio (hwPeek s part (rcb + 8)), eoff := eoff, len := pay.length, e4 := e4,
                   spkg := spkg, src := src }
  countMsg (sendFlit s (sliceEdge s (homeOf s rcb)) part (msgFlit h pay part pkg core)) part pkg true

/-- Sends entry message i of a region to a core of a package. -/
def entryTo (s : State) (part rcb : Nat) (src : Option Nat) (e4 : Bool) (pkg core i n : Nat) : State :=
  if pkg = s.pkg then entryMessage s part rcb src e4 core i n
  else
    hwMessageTo s part rcb pkg core 1 (fieldOf (hwPeek s part (rcb + 40)) 0 32) e4 s.pkg (src.getD core)
      [BitVec.ofNat 64 i, BitVec.ofNat 64 n, BitVec.ofNat 64 (hwPeek s part (rcb + 56))]

/-- The worst value of a score rule (17 R445). -/
def worstScore (sc : Nat) : Word :=
  match sc with
  | 0 => BitVec.ofNat 64 (2 ^ 63)
  | 1 => BitVec.ofNat 64 (2 ^ 63 - 1)
  | _ => 0x7FC00000

/-- Writes the visible copy of a parameter field; a write that fails is dropped and reported (R499). -/
def paramWrite (s : State) (part addr v : Nat) : State :=
  match hwWrite s part addr 8 v with
  | .ok s => s
  | .error c => report s (.cd (homeOf s addr / 32)) none 9 c part (BitVec.ofNat 64 addr)

/-- Writes the visible copy of a reel (Table 17.5). -/
def reelCopy (s : State) (r : Reel) (closed : Bool) : State :=
  let s := paramWrite s r.part (r.params + 32) (r.round % 256 + (if closed then 256 else 0))
  let s := paramWrite s r.part (r.params + 40) r.alive.toNat
  let s := paramWrite s r.part (r.params + 48) r.fin.toNat
  (r.scores.zipIdx).foldl (fun s (v, e) => paramWrite s r.part (r.params + 64 + 8 * e) v.toNat) s

/-- A control flit about a gang of a block to another package, with what it says and the number that it is known by (log 12). -/
def gangFlit (s : State) (part rcb pkg id code v : Nat) : State :=
  sendFlit s (sliceEdge s (homeOf s rcb)) part (ctlFlit 1 pkg (id % 2 ^ 13) rcb part (code + 256 * v))

/-- Which cores of a cluster here are present, a bit for each. -/
def coreMask (s : State) (cl : Nat) : Nat :=
  (List.range 4).foldl (fun n i => if corePresent s (4 * cl + i) then n + 2 ^ i else n) 0

/-- The cores of a member of a quadrille that are present, rising. -/
def memberCores (s : State) (q : Quad) (m : Nat × Nat) : List Nat :=
  let mask := if m.1 = s.pkg then coreMask s m.2 else (fget q.masks (1024 * m.1 + m.2)).getD 15
  ((List.range 4).filter mask.testBit).map (4 * m.2 + ·)

/-- A core of a package as a reel lists it. -/
def farCore (s : State) (pkg core : Nat) : Nat := if pkg = s.pkg then core else 4096 * (pkg + 1) + core

/-- Package and core of a core that a reel lists. -/
def nearCore (s : State) (c : Nat) : Nat × Nat := if c < 4096 then (s.pkg, c) else (c / 4096 - 1, c % 4096)

/-- Tells the packages of a joined partition of a reel, entrant by entrant (log 12). -/
def shareReel (s : State) (r : Reel) (places : List (Nat × List Nat)) : State :=
  (s.peersOf r.part).foldl (fun s p =>
    (places.zipIdx).foldl (fun s (x, i) =>
      let cl := (x.2.headD 0) / 4
      let mask := x.2.foldl (fun n c => n + 2 ^ (c % 4)) 0
      gangFlit s r.part r.rcb p r.id 40 (i + 2 ^ 6 * (r.e + 2 ^ 7 * (x.1 + 2 ^ 6 * (cl + 2 ^ 10 * ((if r.qdb = 0 then 0 else mask) + 2 ^ 4 *
        (r.sc + 2 ^ 2 * (r.a0 + 2 ^ 47 * r.cap)))))))) s) s

/-- Opens the reel of a launched KIND 2 block (R440): the state, and where its entry messages go, by index: package and core. -/
def openReel (s : State) (part rcb : Nat) : State × List (Nat × Nat) :=
  let params := hwPeek s part (rcb + 88)
  let w0 := hwPeek s part params
  let e := fieldOf w0 0 7
  let sc := fieldOf w0 8 2
  let geoff := fieldOf w0 32 32
  let a0 := fieldOf (hwPeek s part (params + 8)) 0 47
  let qdb := hwPeek s part (params + 16)
  let rto := hwPeek s part (params + 24)
  let cmin := fieldOf (hwPeek s part (rcb + 16)) 0 16
  let c := cmin / e
  let places : List (Nat × List Nat) :=
    match s.quads.find? (fun q => decide (qdb ≠ 0 ∧ q.part = part ∧ q.rcb = qdb) && q.open_) with
    | none =>
      let r := reservedCores s part rcb
      (List.range e).map fun i => (s.pkg, (r.drop (i * c)).take c)
    | some q =>
      (List.range e).map fun i =>
        let m := q.members.getD i (0, 0)
        (m.1, (memberCores s q m).take c)
  let held := places.map fun l => l.2.map (farCore s l.1)
  let r : Reel := { id := s.fresh, part := part, rcb := rcb, params := params, e := e, sc := sc, geoff := geoff,
                    a0 := a0, cap := hwPeek s part (rcb + 24), qdb := qdb, rto := rto, round := 0,
                    alive := BitVec.ofNat 64 (2 ^ e - 1), fin := 0, scores := List.replicate e (worstScore sc),
                    held := held, since := s.now, late := false }
  (shareReel (reelCopy { s.used1 with reels := s.reels ++ [r] } r false) r places, places.flatMap fun l => l.2.map fun x => (l.1, x))

/-- Members of a quadrille parameter block (Table 17.2): package and cluster. -/
def quadMembers (s : State) (part params : Nat) : List (Nat × Nat) :=
  (List.range (fieldOf (hwPeek s part params) 0 7)).map fun i =>
    let w := hwPeek s part (params + 32 + 8 * i)
    (fieldOf w 10 6, fieldOf w 0 10)

/-- A KIND 1 region waits for its admission (R427); W is 0 meanwhile (Table 17.2). Its number is the lowest one that is free, as far as
other packages of a joined partition have told (log 108). -/
def waitQuad (s : State) (part rcb : Nat) (src : Option Nat) (e4 : Bool) : State :=
  let params := hwPeek s part (rcb + 88)
  let w := hwPeek s part params
  let rest := s.quads.filter fun q => decide (¬(q.part = part ∧ q.rcb = rcb))
  let taken := ((rest.filter (fun q => decide (q.part = part) && !q.closed)).map (·.qid)) ++
    (s.qids.filter fun x => decide (x.1 = part)).map (·.2.2)
  let qid := ((List.range 4096).find? fun n => !taken.contains n).getD 0
  let q : Quad := { id := s.fresh, part := part, rcb := rcb, params := params, qid := qid, m := fieldOf w 0 7, tseg := fieldOf w 8 8,
                    gran := fieldOf w 16 10, members := quadMembers s part params, reserved := [], open_ := false,
                    closed := false, det := 0, dep := 0, src := src, e4 := e4 }
  (s.peersOf part).foldl (fun s p => gangFlit s part rcb p q.id 32 qid) (paramWrite { s.used1 with quads := rest ++ [q] } part (params + 8) 0)

/-- A region becomes running: its entry messages are delivered (R347, R440). A quadrille waits for admission, pending. -/
def startRegion (s : State) (part rcb : Nat) (src : Option Nat) (e4 : Bool) : State :=
  let kind := rcbKind (hwPeek s part (rcb + 8))
  if kind = 1 then waitQuad (rcbPut s part rcb 8 13 3 stPending) part rcb src e4
  else
    let s := rcbPut s part rcb 8 13 3 stRunning
    let n := fieldOf (hwPeek s part (rcb + 16)) 0 16
    let (s, cores) := if kind = 2 then openReel s part rcb else (s, (reservedCores s part rcb).map fun c => (s.pkg, c))
    (cores.zipIdx).foldl (fun s (c, i) => entryTo s part rcb src e4 c.1 c.2 i n) s

/-- The trigger of a region fires (R349): its pending early launches run. -/
def fireTrigger (s : State) (o : Own) : State :=
  if s.triggered.contains o then s
  else
    let mine := s.pendingRegions.filter fun p => decide (p.own.part = o.part ∧ p.pred = o.rcb)
    let s := { s with triggered := s.triggered ++ [o],
                      pendingRegions := s.pendingRegions.filter fun p => !mine.contains p }
    mine.foldl (fun s p => startRegion s p.own.part p.own.rcb (some p.src) p.e4) s

/-! ### Quadrilles: visible copy, departure, close -/

/-- Replaces a quadrille's state. -/
def setQuad (s : State) (q : Quad) : State :=
  { s with quads := s.quads.map fun x => if x.id = q.id then q else x }

/-- Frees the segment of member i on this package. -/
def freeSegment (s : State) (q : Quad) (i : Nat) : State :=
  match q.members[i]? with
  | some (pkg, cl) => if pkg = s.pkg then tileRelease s cl q.tseg else s
  | none => s

/-- Bits 0 to m - 1. -/
def lowBits (m : Nat) : Word := BitVec.ofNat 64 (2 ^ m - 1)

/-- Every waiting `qd.exit` of a quadrille returns DEP (R433). -/
def wakeExits (s : State) (q : Quad) : State :=
  (heldActs s).foldl (fun s a =>
    match a.park with
    | .qdExit rcb d => if a.part = q.part ∧ rcb = q.rcb then wakeId s a.id fun a => deliver a d q.dep else s
    | _ => s) s

/-- Every waiting `qd.open` of a block returns (R435). -/
def wakeOpens (s : State) (part rcb : Nat) (v : Word) : State :=
  (heldActs s).foldl (fun s a =>
    match a.park with
    | .qdOpen r d => if a.part = part ∧ r = rcb then wakeId s a.id fun a => deliver a d v else s
    | _ => s) s

/-- A control flit about a quadrille to another package. -/
def quadFlit (s : State) (q : Quad) (pkg code v : Nat) : State := gangFlit s q.part q.rcb pkg q.id code v

/-- The members of a quadrille in ascending order of package and cluster, by index. -/
def Quad.order (q : Quad) : List Nat :=
  let key := fun i => let m := q.members.getD i (0, 0); m.1 * 1024 + m.2
  (List.range q.m).foldl (fun l i => (l.takeWhile (fun j => decide (key j ≤ key i))) ++ [i] ++
    (l.dropWhile fun j => decide (key j ≤ key i))) []

/-- The member that an admission reserves next. -/
def Quad.next (q : Quad) : Option Nat := q.order.find? fun i => !q.reserved.contains i

/-- Other packages that hold a reserved member of a quadrille, or have been asked for one. -/
def Quad.holders (s : State) (q : Quad) : List Nat :=
  let is_ := q.reserved ++ (if q.asked then q.next.toList else [])
  ((is_.map fun i => (q.members.getD i (0, 0)).1).eraseDups).filter (· ≠ s.pkg)

/-- An admission gives up what it holds on other packages (17 R435, R437). -/
def quadRelease (s : State) (q : Quad) : State := (q.holders s).foldl (fun s p => quadFlit s q p 24 0) s

/-- The home tells the other packages DET, DEP and whether the window has closed. -/
def quadTell (s : State) (q : Quad) : State :=
  if q.home.isSome then s
  else (s.peersOf q.part).foldl (fun s p =>
    quadFlit s q p 22 (q.det.toNat + 2 ^ 64 * (q.dep.toNat + 2 ^ 64 * (if q.closed then 1 else 0)))) s

/-- Writes a field of the visible copy, which is the home's to write. -/
def quadWrite (s : State) (q : Quad) (off v : Nat) : State :=
  if q.home.isSome then s else paramWrite s q.part (q.params + off) v

/-- The window closes (R433): segments and number are free, W is 0, waiting exits return. An admission that waited ends with
11 (R435). -/
def closeQuad (s : State) (q : Quad) : State :=
  if q.closed then s
  else
    let s := if q.open_ then s else wakeOpens (if q.home.isNone then quadRelease s q else s) q.part q.rcb 11
    let held := if q.open_ then (List.range q.m).filter (fun i => !q.dep.getLsbD i) else q.reserved
    let s := held.foldl (fun s i => freeSegment s q i) s
    let q := { q with open_ := false, closed := true, reserved := [], asked := false, granted := false }
    let s := if q.home.isNone then (s.peersOf q.part).foldl (fun s p => quadFlit s q p 33 q.qid) s else s
    wakeExits (quadTell (quadWrite (setQuad s q) q 8 0) q) q

/-- Tells the other packages, or the home, that a region is over: they forget its quadrille and its reel. -/
def gangOver (s : State) (part rcb id : Nat) (home : Option Nat) : State :=
  match home with
  | none => (s.peersOf part).foldl (fun s p => gangFlit s part rcb p id 25 0) s
  | some p => gangFlit s part rcb p id 27 0

/-- The quadrilles of regions that end close, and are forgotten. -/
def endQuads (s : State) (part : Nat) (hit : Nat → Bool) : State :=
  let mine := s.quads.filter fun q => decide (q.part = part) && hit q.rcb
  let s := mine.foldl closeQuad s
  let s := mine.foldl (fun s q => gangOver s q.part q.rcb q.id q.home) s
  { s with quads := s.quads.filter fun q => !(decide (q.part = part) && hit q.rcb) }

/-- After DET or DEP has changed: the visible copy, and the close once every member is covered. -/
def quadChanged (s : State) (q : Quad) : State :=
  let s := quadTell (quadWrite (quadWrite (setQuad s q) q 16 q.det.toNat) q 24 q.dep.toNat) q
  if q.home.isNone ∧ (q.det ||| q.dep) &&& lowBits q.m = lowBits q.m then closeQuad s q else s

/-- A member here of a quadrille of another package tells its home that it has detached or departed. -/
def memberTell (s : State) (q : Quad) (i : Nat) (depart : Bool) : State :=
  match q.home with
  | some p => quadFlit s q p 23 (i + (if depart then 64 else 0))
  | none => s

/-- Member i departs (R434). -/
def memberDepart (s : State) (q : Quad) (i : Nat) : State :=
  if q.dep.getLsbD i || !q.open_ then s
  else quadChanged (memberTell (freeSegment s q i) q i true) { q with dep := q.dep ||| BitVec.ofNat 64 (2 ^ i) }

/-- Member i detaches (R431). -/
def memberDetach (s : State) (q : Quad) (i : Nat) : State :=
  if q.open_ && !q.det.getLsbD i then
    quadChanged (memberTell s q i false) { q with det := q.det ||| BitVec.ofNat 64 (2 ^ i) }
  else s

/-- The member of a quadrille that a cluster of this package is. -/
def memberOf (s : State) (q : Quad) (cl : Nat) : Option Nat := q.members.findIdx? fun x => decide (x = (s.pkg, cl))

/-- Open quadrilles that hold a cluster, or have reserved it. -/
def quadsOn (s : State) (cl : Nat) : Nat :=
  (s.quads.filter fun q => match memberOf s q cl with
    | some i => q.open_ || q.reserved.contains i
    | none => false).length

/-- The quadrille of a region: that of the nearest KIND 1 block (R424). -/
def quadOf (s : State) (part rcb : Nat) : Option Quad :=
  match (chainOf s part 8 rcb).find? (fun r => decide (rcbKind (hwPeek s part (r + 8)) = 1)) with
  | some r => s.quads.find? fun q => decide (q.part = part ∧ q.rcb = r)
  | none => none

/-- Member i of every quadrille that a region lies in, for a cluster, departs (R434). -/
def departFrom (s : State) (part rp cl : Nat) : State :=
  s.quads.foldl (fun s q =>
    if q.part = part ∧ inRegion s part rp q.rcb then
      match memberOf s q cl with
      | some i => memberDepart s q i
      | none => s
    else s) s

/-- The bytes of a member's segment. -/
def Quad.segBytes (q : Quad) : Nat := 2048 * q.gran

/-- Where a quadrille-window access of a region lands (R428): package, cluster and byte of its scratchpad; or the cause and
the TVAL. -/
def quadPlace (s : State) (core part rp va n : Nat) : Except (Nat × Word) (Nat × Nat × Nat) :=
  let bad : Except (Nat × Word) (Nat × Nat × Nat) := .error (cACCESS, BitVec.ofNat 64 va)
  let a := va % 2 ^ 26
  match s.quads.find? (fun q => decide (q.part = part ∧ q.qid = va / 2 ^ 26 % 4096) && q.open_) with
  | none => bad
  | some q =>
    if va / 2 ^ 38 % 2 ^ 10 ≠ 0 || !inRegion s part rp q.rcb then bad
    else
      let i := a / q.segBytes
      match q.members[i]? with
      | none => bad
      | some (pkg, cl) =>
        if q.segBytes < a % q.segBytes + n then bad
        else if ((memberOf s q (clusterOf core)).map fun j => q.det.getLsbD j).getD false then bad
        else if q.dep.getLsbD i then .error (cDEPARTED, BitVec.ofNat 64 i)
        else .ok (pkg, cl, ((s.cluster cl).tile q.tseg).base * 2048 + a % q.segBytes)

/-- Where n bytes at an address of global memory lie for a core and a region: its own local store, through its window (07 R202), its own
cluster's scratchpad, through a quadrille window (17 R429), or global memory. One port performs the accesses of every route to it, in
order (10 R281, 11 R291). -/
def nearPlace (s : State) (core part rp va n : Nat) : Space × Nat :=
  match vaKind va with
  | .window c off => if c = core ∧ off + n ≤ 0x1C000 then (.ls, off) else (.global, va)
  | .quad .. =>
    match quadPlace s core part rp va n with
    | .ok (pkg, cl, off) => if pkg = s.pkg ∧ cl = clusterOf core then (.spad, off) else (.global, va)
    | .error _ => (.global, va)
  | _ => (.global, va)

/-- An effect under the place that it has for a core and a region. -/
def RbOp.near (s : State) (core part rp : Nat) : RbOp → RbOp
  | .store .global va b rel hint => let (sp, a) := nearPlace s core part rp va b.length; .store sp a b rel hint
  | op => op

/-! ### Matrix requests of an activation -/

/-- Puts a request at its place by number. -/
def reqIn (r : MxReq) : List MxReq → List MxReq
  | [] => [r]
  | q :: l => if r.id < q.id then r :: q :: l else q :: reqIn r l

/-- The matrix requests of an activation that are not complete, on every core that it issued them on (R339), in program order. -/
def mxReqsOf (s : State) (act : Nat) : List MxReq :=
  (s.cores.flatMap fun c => c.2.mxq.filter fun r => decide (r.act = act)).foldl (fun l r => reqIn r l) []

/-- The reel of a region (R424): the nearest KIND 2 region whose reel is open. -/
def reelOf (s : State) (part rcb : Nat) : Option Reel :=
  (chainOf s part 8 rcb).findSome? fun r => s.reels.find? fun x => decide (x.part = part ∧ x.rcb = r)

/-- The entrant that holds a core (R440). -/
def Reel.entrant (r : Reel) (core : Nat) : Option Nat := r.held.findIdx? fun l => l.contains core

/-- The allowance of a round (R443). -/
def Reel.allowance (r : Reel) : Nat :=
  let a := min (r.a0 * 2 ^ r.round) (2 ^ 47 - 1)
  if r.cap = 0 then a else min a r.cap

/-- The allowance that an activation on a core starts with (17 R443). -/
def startAllow (s : State) (part rcb core : Nat) : Word :=
  match reelOf s part rcb with
  | some r =>
    match r.entrant core with
    | some e => if r.alive.getLsbD e then BitVec.ofNat 64 r.allowance else 0
    | none => 0
  | none => 0

/-- A tile of a reel's region keeps no entrant (17 R452). -/
def forgetEnt (s : State) (r : Reel) (t : Tile) : Tile :=
  match t.owner with
  | some o => if o.part = r.part ∧ (reelOf s o.part o.rcb).map (·.id) = some r.id then { t with ent := none } else t
  | none => t

/-- The tiles of a reel's region keep no entrant: it closes, or completes while descendants go on. -/
def forgetEnts (s : State) (r : Reel) : State :=
  { s with clusters := fmapVals (fun _ c => { c with tiles := fmapVals (fun _ t => forgetEnt s r t) c.tiles }) s.clusters }

/-- The reels of blocks that complete are no more. -/
def dropReels (s : State) (hit : Reel → Bool) : State :=
  let s := (s.reels.filter hit).foldl (fun s r => gangOver (forgetEnts s r) r.part r.rcb r.id r.home) s
  { s with reels := s.reels.filter fun r => !hit r }

/-! ### Failing and killing (R351) -/

/-- Activations that are on their way to another core (R339): in a message, or landed. -/
def movingActs (s : State) : List Act :=
  (s.msgs.filterMap (·.act)) ++ s.cores.flatMap fun c => c.2.recs.filterMap fun r => if r.done then none else r.act

/-- Every activation of the package: core, context, activation. -/
def allActs (s : State) : List (Nat × Nat × Act) :=
  s.cores.flatMap fun (c, k) => k.acts.map fun (x, a) => (c, x, a)

/-- Every activation in a fibre slot. -/
def allFibres (s : State) : List (Nat × Nat × Act) :=
  s.cores.flatMap fun (c, k) => k.fibres.map fun (n, a) => (c, n, a)

/-- Landed messages that wait in a run queue: core, ring, position, block. -/
def landedMsgs (s : State) (part : Nat) : List (Nat × Nat × Nat × Nat) :=
  s.cores.flatMap fun (c, k) =>
    if k.part = some part then
      k.queue.filterMap fun q =>
        match q.kind with
        | .msg ring pos => some (c, ring, pos, msgRcb k ring pos)
        | _ => none
    else []

/-- Blocks of a partition that activations, messages or launches name. -/
def knownBlocks (s : State) (part : Nat) : List Nat :=
  (((allActs s ++ allFibres s).filter (fun x => decide (x.2.2.part = part))).map (fun x => x.2.2.rp)) ++
  ((s.msgs.filter (fun m => decide (m.part = part))).map (fun m => m.hdr.rcb)) ++
  ((landedMsgs s part).map (fun x => x.2.2.2)) ++
  ((s.restarts.filter (fun x => decide (x.2.1.part = part))).map (fun x => x.2.1.rp)) ++
  ((s.flights.filter (fun f => decide (f.part = part))).map (·.rp)) ++
  ((s.pendingRegions.filter (fun p => decide (p.own.part = part))).map (fun p => p.own.rcb)) ++
  ((s.quads.filter (fun q => decide (q.part = part))).map (·.rcb)) ++
  ((s.reels.filter (fun r => decide (r.part = part))).map (·.rcb))

/-- One region ends by failure (END 2) or kill (END 3): state, LIVE, tiles, units, DONE. -/
def endRegion (s : State) (part endc rcb : Nat) : State :=
  let o : Own := ⟨part, rcb⟩
  let s := rcbPut s part rcb 8 13 3 (if endc = 2 then stFailed else stKilled)
  let s := hwPoke s part (rcb + 64) 0
  let s := freeBarsOf (freeTilesOf s o) o
  rcbPut s part rcb 72 0 8 endc

/-- A region fails or is killed with every descendant (R351). -/
def failRegion (s : State) (part root endc : Nat) : State :=
  let all := ((knownBlocks s part).flatMap (chainOf s part 8)).eraseDups.filter fun r => inRegion s part r root
  let dead := (root :: all.filter (· ≠ root))
  let hit := fun rcb => dead.contains rcb
  let acts := (allActs s).filter fun x => decide (x.2.2.part = part) && hit x.2.2.rp
  let fibs := (allFibres s).filter fun x => decide (x.2.2.part = part) && hit x.2.2.rp
  let msgs := (landedMsgs s part).filter fun x => hit x.2.2.2
  let s := ((movingActs s).filter fun a => decide (a.part = part) && hit a.rp).foldl (fun s a => endCps true a.id s) s
  let s := acts.foldl (fun s x => endAct s x.1 x.2.1 true) s
  let s := fibs.foldl (fun s x => endCps true x.2.2.id (clearFibre s x.1 x.2.1)) s
  let rst := s.restarts.filter fun x => decide (x.2.1.part = part) && hit x.2.1.rp
  let s := rst.foldl (fun s x => dropWork (endCps true x.2.1.id s) x.1 x.2.1.id) s
  let s := msgs.foldl (fun s x => s.onCore x.1 fun k => consumeMsg k x.2.1 x.2.2.1) s
  let s := { s with restarts := s.restarts.filter fun x => !rst.contains x,
                    pendingRegions := s.pendingRegions.filter fun p => !(decide (p.own.part = part) && hit p.own.rcb) }
  let s := endQuads s part hit
  let s := dropReels s fun r => decide (r.part = part) && hit r.rcb
  let s := dead.foldl (fun s r => endRegion s part endc r) s
  dead.foldl (fun s r => fireTrigger s ⟨part, r⟩) s

/-- LIVE loses one; a region whose LIVE reaches 0 completes in the same step (R350). -/
def liveDecrement (s : State) (part rcb : Nat) : State :=
  let n := hwPeek s part (rcb + 64)
  let st := regionState s part rcb
  if n = 0 then s
  else
    let s := hwPoke s part (rcb + 64) (n - 1)
    if n = 1 ∧ st = stRunning then
      let o : Own := ⟨part, rcb⟩
      let s := rcbPut s part rcb 8 13 3 stDone
      let s := freeBarsOf (freeTilesOf s o) o
      let s := endQuads s part fun r => decide (r = rcb)
      let s := dropReels s fun r => decide (r.part = part ∧ r.rcb = rcb)
      fireTrigger (rcbPut s part rcb 72 0 8 1) o
    else s

/-! ### Fault domains (R351, R481) -/

/-- A fault as it is recorded. -/
structure FaultRec where
  code : Nat
  late : Bool
  aw : Bool
  epc : Nat
  tval : Word
  sw : Nat
deriving DecidableEq, Repr

/-- Writes the fault record of a block and counts it. -/
def recordFault (s : State) (part rcb core : Nat) (f : FaultRec) : State :=
  let w := f.code + (if f.late then 2 ^ 8 else 0) + (if f.aw then 2 ^ 9 else 0) + f.sw * 2 ^ 16 + core * 2 ^ 32
  let s := hwPoke s part (rcb + 96) w
  let s := hwPoke s part (rcb + 104) f.epc
  let s := hwPoke s part (rcb + 112) f.tval.toNat
  hwPoke s part (rcb + 120) (hwPeek s part (rcb + 120) + 1)

/-- A fault that reaches a partition root fails it (R481). -/
def rootFault (s : State) (part root core : Nat) (f : FaultRec) : State :=
  let s := failRegion s part root 2
  report s (.cd (dieOf core)) (some core) 2 f.code part (BitVec.ofNat 64 (hwPeek s part (root + 112)))

/-- Passes a fault of an activation to its region's fault domain (Table 13.11). -/
def faultDomain (s : State) (core ctx : Nat) (f : FaultRec) : State :=
  match fget (s.core core).acts ctx with
  | none => s
  | some a =>
    let s := recordFault s a.part a.rp core f
    let w := hwPeek s a.part (a.rp + 8)
    match rcbFdom w with
    | 0 =>
      let s := departFrom (endAct s core ctx true) a.part a.rp (clusterOf core)
      pushFlight s core a.part a.prog a.rp none (.liveDec a.rp)
    | 1 => failRegion s a.part a.rp 2
    | _ =>
      let parent := hwPeek s a.part a.rp
      let target := if parent = 0 then a.rp else parent
      if rcbKind (hwPeek s a.part (target + 8)) = 3 then rootFault s a.part target core f
      else failRegion s a.part target 2

end Sys2Proof.Machine
end

