-- ==== Sys2Proof/Machine/Sha256.lean ====
section
/-! DEFINITION. SHA-256 (FIPS 180-4), by which the boot report condenses the measurements of the present dies (20 R491). -/

namespace Sys2Proof.Machine

/-- The constants of the rounds. -/
def shaK : List (BitVec 32) :=
  [0x428A2F98, 0x71374491, 0xB5C0FBCF, 0xE9B5DBA5, 0x3956C25B, 0x59F111F1, 0x923F82A4, 0xAB1C5ED5] ++
    [0xD807AA98, 0x12835B01, 0x243185BE, 0x550C7DC3, 0x72BE5D74, 0x80DEB1FE, 0x9BDC06A7, 0xC19BF174] ++
    [0xE49B69C1, 0xEFBE4786, 0x0FC19DC6, 0x240CA1CC, 0x2DE92C6F, 0x4A7484AA, 0x5CB0A9DC, 0x76F988DA] ++
    [0x983E5152, 0xA831C66D, 0xB00327C8, 0xBF597FC7, 0xC6E00BF3, 0xD5A79147, 0x06CA6351, 0x14292967] ++
    [0x27B70A85, 0x2E1B2138, 0x4D2C6DFC, 0x53380D13, 0x650A7354, 0x766A0ABB, 0x81C2C92E, 0x92722C85] ++
    [0xA2BFE8A1, 0xA81A664B, 0xC24B8B70, 0xC76C51A3, 0xD192E819, 0xD6990624, 0xF40E3585, 0x106AA070] ++
    [0x19A4C116, 0x1E376C08, 0x2748774C, 0x34B0BCB5, 0x391C0CB3, 0x4ED8AA4A, 0x5B9CCA4F, 0x682E6FF3] ++
    [0x748F82EE, 0x78A5636F, 0x84C87814, 0x8CC70208, 0x90BEFFFA, 0xA4506CEB, 0xBEF9A3F7, 0xC67178F2]

/-- The first hash value. -/
def shaStart : List (BitVec 32) :=
  [0x6A09E667, 0xBB67AE85, 0x3C6EF372, 0xA54FF53A, 0x510E527F, 0x9B05688C, 0x1F83D9AB, 0x5BE0CD19]

/-- A message with its padding: a one bit, zeros to 56 modulo 64, the length in bits as a big-endian 8-byte number. -/
def shaPad (m : List Byte) : List Byte :=
  m ++ (0x80 :: List.replicate ((119 - m.length % 64) % 64) 0) ++ (leBytes 8 (8 * m.length)).reverse

/-- A big-endian word of four bytes of a block. -/
def shaWord (b : List Byte) (i : Nat) : BitVec 32 := BitVec.ofNat 32 (ofLe ((b.drop (4 * i)).take 4).reverse)

/-- The schedule of a block, its last words first, from its first 16. -/
def shaExtend : Nat → List (BitVec 32) → List (BitVec 32)
  | 0, w => w
  | n + 1, w =>
    let x := w.getD 14 0
    let y := w.getD 1 0
    let a := x.rotateRight 7 ^^^ x.rotateRight 18 ^^^ x >>> 3
    let b := y.rotateRight 17 ^^^ y.rotateRight 19 ^^^ y >>> 10
    shaExtend n ((b + w.getD 6 0 + a + w.getD 15 0) :: w)

def shaSchedule (b : List Byte) : List (BitVec 32) :=
  (shaExtend 48 ((List.range 16).map (shaWord b)).reverse).reverse

/-- One round. -/
def shaRound (v : List (BitVec 32)) (kw : BitVec 32 × BitVec 32) : List (BitVec 32) :=
  let r := fun i => v.getD i 0
  let a := r 0
  let e := r 4
  let s1 := e.rotateRight 6 ^^^ e.rotateRight 11 ^^^ e.rotateRight 25
  let ch := (e &&& r 5) ^^^ (~~~e &&& r 6)
  let t1 := r 7 + s1 + ch + kw.1 + kw.2
  let s0 := a.rotateRight 2 ^^^ a.rotateRight 13 ^^^ a.rotateRight 22
  let maj := (a &&& r 1) ^^^ (a &&& r 2) ^^^ (r 1 &&& r 2)
  [t1 + s0 + maj, a, r 1, r 2, r 3 + t1, e, r 5, r 6]

/-- One block. -/
def shaBlock (h : List (BitVec 32)) (b : List Byte) : List (BitVec 32) :=
  List.zipWith (· + ·) h ((shaK.zip (shaSchedule b)).foldl shaRound h)

/-- The digest of some bytes, its bytes in order. -/
def sha256 (m : List Byte) : List Byte :=
  let p := shaPad m
  let h := (List.range (p.length / 64)).foldl (fun h i => shaBlock h ((p.drop (64 * i)).take 64)) shaStart
  h.flatMap fun w => (leBytes 4 w.toNat).reverse

end Sys2Proof.Machine
end

