-- ==== Sys2Proof/Machine/Ops.lean ====
section
/-! DEFINITION. Shared operations of instructions: taking an exception and returning from one (04
R137-R144, 20 R479, R480), the retire buffer and commit points (07 R208, R209, 13 R341, R342), accesses on
their way (07 R228-R230), parking (13 R334). -/

namespace Sys2Proof.Machine

/-! ### Boot report (Table 20.10) -/

def bitsOf (l : List Nat) : Nat := l.foldl (fun w i => w + 2 ^ i) 0

/-- SHA-256 over the measurements of the present dies (R491). -/
def bootDigest (s : State) : List Byte := sha256 (s.measures.flatMap fun m => leBytes 32 m.toNat)

/-- Word w of the boot report. -/
def bootWord (s : State) (w : Nat) : Word :=
  let nst := (stacksPresent s).length
  let neds := ((List.range 8).filter (edPresent s)).length
  let ncds := ((List.range 16).filter (cdPresent s)).length
  match w with
  | 0 => BitVec.ofNat 64 (s.cds.toNat + 2 ^ 16 * s.eds.toNat + 2 ^ 24 * bitsOf (stacksPresent s) + 2 ^ 40 * s.eds.toNat)
  | 1 => BitVec.ofNat 64 (32 * ncds + 2 ^ 16 * (256 * ncds))
  | 2 => BitVec.ofNat 64 (36 * neds)
  | 3 => BitVec.ofNat 64 (nst * stackBytes)
  | 4 => wordOfLe ((bootDigest s).take 8)
  | 5 => wordOfLe (((bootDigest s).drop 8).take 8)
  | 6 => wordOfLe (((bootDigest s).drop 16).take 8)
  | 7 => wordOfLe ((bootDigest s).drop 24)
  | 8 => BitVec.ofNat 64 (s.release.toNat + 256)
  | 9 => BitVec.ofNat 64 (s.pkg + 256 * s.domain)
  | _ => 0

/-! ### Taking an exception -/

/-- A trap: its cause, whether it is raised after issue, whether by the A-word, EPC and TVAL. -/
structure Trap where
  code : Nat
  late : Bool
  aw : Bool
  epc : Nat
  tval : Word
deriving DecidableEq, Repr

/-- CAUSE as a trap writes it (Table 4.13). -/
def Trap.cause (t : Trap) : Word :=
  BitVec.ofNat 64 (t.code + (if t.late then 256 else 0) + (if t.aw then 512 else 0))

/-- EPC and SEPC hold bits 56:3 (Table 4.15). -/
def pcWord (pc : Nat) : Word := BitVec.ofNat 64 (pc % 2 ^ 57 / 8 * 8)

def Trap.fault (t : Trap) : FaultRec := { code := t.code, late := t.late, aw := t.aw, epc := t.epc, tval := t.tval, sw := 0 }

/-! ### Pots that close (15 R395, R398) -/

/-- Fields of a pot handle (15 Table 15.2). -/
def potPkg (h : Word) : Nat := bitsNat h 63 58
def potSlice (h : Word) : Nat := bitsNat h 57 49
def potEnt (h : Word) : Nat := bitsNat h 48 45

/-- The pot that a handle of a partition names; none when the handle is stale. -/
def potAt (s : State) (part : Nat) (h : Word) : Option Pot :=
  if potPkg h ≠ s.pkg ∨ bitsNat h 44 32 ≠ 0 then none
  else
    match fget (s.slice (potSlice h)).pots (potEnt h) with
    | some p => if p.isOpen ∧ p.inc = bitsNat h 31 0 ∧ p.part = part then some p else none
    | none => none

def setPot (s : State) (h : Word) (p : Pot) : State :=
  s.onSlice (potSlice h) fun g => { g with pots := fset g.pots (potEnt h) p }

/-- The landed mask of a pot (15 R394). -/
def Pot.mask (p : Pot) : Word := p.landed.get (Fin.ofNat 16 p.g.toNat)

/-- Whether slots that a read needs have not landed (Table 15.7, SHORT). -/
def potShort (p : Pot) (need : Word) : Bool := decide (need &&& p.e &&& ~~~p.mask ≠ 0)

/-- Closes a pot, and answers the reads that wait at it. A pot of another package is sent the request (log 12). -/
def closePot (s : State) (core part : Nat) (h : Word) : State :=
  if potPkg h ≠ s.pkg then sendFlit s (servingEdge s (dieOf core)) part (ctlFlit 1 (potPkg h) 0 h.toNat part 5)
  else
    match potAt s part h with
    | none => s
    | some p =>
      let s := setPot s h { Pot.reset with inc := p.inc }
      { s with potReads := s.potReads.map fun r =>
          match r.st with
          | .waiting => if r.handle = h then { r with st := .answered 0 [] p.g p.sat (potShort p r.need) true 0 } else r
          | _ => r }

/-- Whether an access is an arm of `wait.any`, which a restart sends afresh (10 R285). -/
def AccKind.isArm : AccKind → Bool
  | .arm _ => true
  | _ => false

/-- Discards an attempt after a detected error or a machine check (R343): buffer, uncommitted requests, claims. Bytes of an
`mx.ast` that was issued before the commit point belong to the committed part (06 R195) and are stored. -/
def discardAttempt (s : State) (core ctx : Nat) : State :=
  match fget (s.core core).acts ctx with
  | none => s
  | some a =>
    let kept := if (s.core core).run = some ctx then (s.core core).rb.filterMap (fun e => match e.op with
        | .ast runs true => some runs
        | _ => none) else []
    let s := kept.flatten.foldl (fun s x => s.onCluster (clusterOf core) fun c => { c with spad := mwrite c.spad x.1 x.2 }) s
    let s := a.claims.foldl (fun s (cl, t, n) => if ((s.cluster cl).tile t).claim = n then tileRelease s cl t else s) s
    let s := a.barClaims.foldl (fun s (u, n) => if ((s.die (u / 64)).bar (u % 64)).claim = n then barRelease s u else s) s
    let s := a.potClaims.foldl (fun s h => closePot s core a.part h) s
    let s := s.onCore core fun k =>
      let mine := decide (k.run = some ctx)
      let k := keepReqs s.now (fun r => decide (r.act ≠ a.id) || r.committed) k
      { k with
        rb := if mine then [] else k.rb
        undo := if mine then [] else k.undo
        fixed := if mine then [] else k.fixed
        draining := k.draining && !mine
        errDue := k.errDue.filter fun i => decide (i ≠ a.id)
        accs := k.accs.filter (fun x => decide (x.act ≠ a.id) || (x.before.isSome && !x.kind.isArm))
        cps := fmapVals (fun _ e => if e.owner = some a.id ∧ e.st = .buffered then { CpEnt.reset with gen := e.gen } else e) k.cps }
    freeStages s core

/-- The attempt of an activation ends and it waits to restart on another core of its cluster (R343), or goes to
its fault domain when its region's RETRY is exceeded. -/
def attemptFailed (s : State) (core ctx : Nat) : State :=
  let s := discardAttempt s core ctx
  match fget (s.core core).acts ctx with
  | none => s
  | some a =>
    let n := a.attempts + 1
    if rcbRetry (hwPeek s a.part (a.rp + 8)) < n then
      faultDomain s core ctx { code := cRETRY, late := false, aw := false, epc := a.pc, tval := 0, sw := 0 }
    else
      let s := match a.park with
        | .waitAny .. => cancelWatches s core ctx
        | _ => s
      let s := s.onCore core fun k =>
        { k with
          acts := ferase k.acts ctx
          run := if k.run = some ctx then none else k.run
          queue := k.queue.filter (fun q => decide (q.kind ≠ .ctx ctx)) }
      bookRestarts { s with restarts := s.restarts ++ [(core, { a with attempts := n }, ctx)] }

/-- A trap in system mode (R480): the core halts and is absent, its activations restart elsewhere, MCHK is
reported. -/
def machineCheck (s : State) (core : Nat) (t : Trap) : State :=
  let s := (((s.core core).acts.map (·.1)).foldl (fun s x => attemptFailed s core x) s).onCore core fun k =>
    { k with halted := true, run := none }
  let cl := clusterOf core
  let s := if (clusterCores cl).any (corePresent s) then s else
      s.quads.foldl (fun s q => match memberOf s q cl with
        | some i => memberDepart s q i
        | none => s) s
  report s (.cd (dieOf core)) (some core) 1 t.code ((s.core core).part.getD 0) (pcWord t.epc)

/-- What Trivet does with a trap of runtime mode (R479): the register s1 after it, for a service request. -/
def serviceResult (s : State) (a : Act) (tval : Word) : Word :=
  match tval.toNat with
  | 1 => a.regs.getS 1
  | 2 => bootWord s (a.regs.getS 1).toNat
  | _ => BitVec.ofInt 64 (-1)

/-- Taking an exception in the activation of a context (R139, R140, R479, R480). In user mode the runtime's handler
is entered, or the fault domain when TVEC.EN is 0; in runtime mode Trivet is entered and acts; in system mode the
core halts. -/
def trapEntry (s : State) (core ctx : Nat) (t : Trap) : State :=
  match fget (s.core core).acts ctx with
  | none => s
  | some a =>
    let k := s.core core
    let s := s.onCore core fun k => { k with fixed := if k.run = some ctx then [] else k.fixed }
    if a.mode = 0 then
      if bitAt k.tvec 0 then
        let h := bitsNat k.tvec 56 3 * 8
        s.onAct core ctx fun a =>
          { a with cause := t.cause, epc := pcWord t.epc, tval := t.tval, status := setMode a.status 1, pc := h, npc := h,
                   barWait := none }
      else faultDomain s core ctx t.fault
    else if a.mode = 1 then
      let s := s.onCore core fun k => { k with scause := t.cause, sepc := pcWord t.epc, stval := t.tval }
      let s := s.onAct core ctx fun a => { a with status := a.status ||| 4 }
      if t.code = cTRAP then
        let s := if t.tval = 1 then
            report s (.cd (dieOf core)) (some core) 15 (bitsNat (a.regs.getS 1) 15 0) a.part (a.regs.getS 2)
          else s
        s.onAct core ctx fun a =>
          { a with regs := a.regs.setS 1 (serviceResult s a t.tval), pc := bitsNat (pcWord t.epc) 56 3 * 8,
                   npc := bitsNat (pcWord t.epc) 56 3 * 8 }
      else faultDomain s core ctx t.fault
    else machineCheck s core t

/-- The return from an exception (R142): mode and target by the mode that executes it. -/
def eretTo (s : State) : State :=
  if s.mode = 2 then
    s.onMe fun a => { a with status := setMode a.status (bitsNat a.status 2 2), npc := bitsNat s.cc.sepc 56 3 * 8 }
  else s.onMe fun a => { a with status := setMode a.status 0, npc := bitsNat a.epc 56 3 * 8 }

/-- A trap at issue of the current bundle (R32). -/
def issueTrapAt (s : State) (code : Nat) (aw : Bool) (tval : Word) : Trap :=
  { code := code, late := false, aw := aw, epc := s.pc, tval := tval }

/-- Takes a trap in the activation that executes the current bundle. -/
def trapMe (s : State) (t : Trap) : State :=
  match s.cc.run with
  | some x => trapEntry s s.cur x t
  | none => s

/-- The current bundle does not issue now; it is tried again. -/
def stall (s : State) : State := s.onMe fun a => { a with npc := a.pc }

/-- Notes what the current bundle waits for. -/
def State.waitOn (s : State) (w : IssueWait) : State := s.onMe fun a => { a with waitFor := some w }

/-! ### Accesses that are not yet confirmed (R228, R229) -/

def Access.open_ (x : Access) : Bool :=
  match x.st with
  | .performed _ => false
  | _ => true

/-- Whether an access has neither been performed nor failed. -/
def Access.live (x : Access) : Bool :=
  match x.st with
  | .pending | .asked _ => true
  | _ => false

/-- Whether an access of the activation is not yet confirmed. -/
def unconfirmed (k : Core) (act : Nat) : Bool := k.accs.any fun x => decide (x.act = act) && x.open_

/-- Whether an acquiring atomic of the activation has not returned (R278). -/
def acquiring (k : Core) (act : Nat) : Bool :=
  k.accs.any fun x => decide (x.act = act) && x.acq && (match x.kind with | .atom .. | .claim .. => true | _ => false)

/-- The wait of R229 for the current activation. -/
def waitConfirm (s : State) : Option State := if unconfirmed s.cc s.me.id then some s else none

/-- Whether an access goes to an address of global memory. -/
def AccKind.toMemory : AccKind → Bool
  | .load .global _ _ | .probe .. | .atom .. | .claim .. | .arm _ | .ldw _ => true
  | _ => false

/-- Adds an access of the current bundle; it does not see what an earlier request's walk of its address found. -/
def addAccess (s : State) (kind : AccKind) (va size : Nat) (acq rel : Bool) (hint : Nat) (before : Option Snap) : State :=
  let a := s.me
  let x : Access := { id := s.fresh, act := a.id, seq := a.seq, pc := a.pc, kind := kind, va := va, size := size,
                      acq := acq, rel := rel, hint := hint, e4 := s.e4, dual := false, st := .pending, before := before,
                      prog := a.prog }
  (if kind.toMemory then walkedTake s a.part va else s).used1.onCC fun k => { k with accs := k.accs ++ [x] }

/-! ### The retire buffer (R208, R209) -/

def rbUsed (rb : List RbEntry) : Nat := rb.foldl (fun n e => n + e.size) 0

/-- Whether entries of a size fit in the 16 KiB of the buffer. -/
def rbFits (k : Core) (size : Nat) : Bool := decide (rbUsed k.rb + (size + 7) / 8 * 8 ≤ 16384)

/-- Appends an entry of the current bundle. -/
def rbAppend (s : State) (size : Nat) (op : RbOp) : State :=
  let e : RbEntry := { seq := s.me.seq, size := (size + 7) / 8 * 8, op := op, pc := s.pc }
  s.onCC fun k => { k with rb := k.rb ++ [e] }

/-- Where an address of global memory lies when it is the core's own local-store window (07 R202): one port performs the
accesses of both routes in order (10 R281). -/
def ownPlace (core va n : Nat) : Space × Nat :=
  match vaKind va with
  | .window c off => if c = core ∧ off + n ≤ 0x1C000 then (.ls, off) else (.global, va)
  | _ => (.global, va)

/-- The window address of a byte of a core's local store (Table 7.1). -/
def winVa (core off : Nat) : Nat := 0x0100000000000000 + core * 2 ^ 17 + off

/-- The newest value of a byte among stores, oldest first. -/
def storedByte (sp : Space) (a : Nat) : List RbOp → Option Byte
  | [] => none
  | op :: r =>
    match storedByte sp a r with
    | some b => some b
    | none =>
      match op with
      | .store sp' addr b _ _ => if sp' = sp then byteAt addr b a else none
      | .ast runs _ => if sp = .spad then runs.findSome? fun x => byteAt x.1 x.2 a else none
      | _ => none

/-- Whether a drained effect of some core concerns what another core sees: its own local store, its cluster's scratchpad and tiles
(R242), or memory that all cores share. -/
def Flight.seenAt (f : Flight) (core : Nat) : Bool :=
  match f.op with
  | .store .ls .. => decide (f.core = core)
  | .store .spad .. | .tile .. => decide (clusterOf f.core = clusterOf core)
  | _ => true

/-- Drained effects of a program on their way that concern what a core sees, oldest first. -/
def flownOps (s : State) (core prog : Nat) : List RbOp :=
  (s.flights.filter fun f => decide (f.act = prog) && f.seenAt core).map fun f => f.op.near s core f.part f.rp

/-- Whether an entry of a later bundle drains ahead of the bytes of an `mx.ast` that completes after it was appended (09 R270). -/
def RbOp.ahead : RbOp → Bool
  | .cp _ | .tile .. | .msg .. | .post .. => true
  | _ => false

/-- Puts the bytes of an `mx.ast` into a buffer, before the first later entry that does not drain ahead of them: they are in program
order with the activation's other stores (06 R198, log 105). -/
def putAst (e : RbEntry) : List RbEntry → List RbEntry
  | [] => [e]
  | x :: r => if e.seq < x.seq && !x.op.ahead then e :: x :: r else x :: putAst e r

/-- The bytes of an `mx.ast` request that has started, as an entry of the buffer. -/
def MxReq.astEntry (r : MxReq) (pc : Nat) : Option RbEntry :=
  match r.op, r.res with
  | .ast .., .runs v => some { seq := r.seq, size := 32 * v.length, op := .ast v r.committed, pc := pc }
  | _, _ => none

/-- The buffer of a core as its running activation sees it: with the bytes of its `mx.ast` requests that have started, so that its
loads read nothing older than its own store (11 R296). -/
def bufferSeen (k : Core) (a : Act) : List RbEntry :=
  ((k.mxq.filter fun r => decide (r.act = a.id)).filterMap fun r => r.astEntry a.pc).foldl (fun l e => putAst e l) k.rb

/-- The buffered effects of a core's running activation that a test holds for, oldest first. -/
def bufferedOps (s : State) (core : Nat) (keep : RbEntry → Bool) : List RbOp :=
  match (s.core core).running with
  | some (_, a) => ((bufferSeen (s.core core) a).filter keep).map fun e => e.op.near s core a.part a.rp
  | none => []

/-- Effects of a program on their way, oldest first: drained ones, then buffered ones. -/
def ownOps (s : State) (core prog : Nat) : List RbOp := flownOps s core prog ++ bufferedOps s core fun _ => true

/-- A byte of local store or scratchpad as the current activation sees it (R209). -/
def seenByte (s : State) (sp : Space) (mem : Memory) (a : Nat) : Byte :=
  (storedByte sp a (ownOps s s.cur s.me.prog)).getD (mget mem a)

/-- n bytes of the current core's local store at an absolute offset, buffered stores merged. -/
def readLsAbs (s : State) (a n : Nat) : List Byte := (List.range n).map fun i => seenByte s .ls s.cc.ls (a + i)

/-- n bytes at an offset of the current activation (`read_ls`). Where R201 refuses, which callers check in the end, they are those of
local store at the place that the offset names by R330; an offset that the store does not have reads as it may (log 82). -/
def readLs (s : State) (off n : Nat) : List Byte :=
  match lsPlace s.me (BitVec.ofNat 64 off) n with
  | some a => readLsAbs s a n
  | none => (List.range n).map fun i =>
    let a := if off + i < 0x1C000 then s.me.extBase + off + i else off + i
    if a < 0x20000 then seenByte s .ls s.cc.ls a else Config.noByte a

def readLsWord (s : State) (off : Nat) : Word := wordOfLe (readLs s off 8)

/-! ### Draining and commit points (R342) -/

/-- The entrant that a core is of, in the reel of a region (17 R424, R440). -/
def entrantOf (s : State) (part rp core : Nat) : Option Nat := (reelOf s part rp).bind fun r => r.entrant core

/-- The size of an atomic's type (Table 10.3). -/
def AtomTy.size : AtomTy → Nat
  | .i32 | .n32 | .f32 => 4
  | .i64 | .n64 => 8

/-- Bytes of global memory that a drained effect changes. -/
def RbOp.range : RbOp → Option (Nat × Nat)
  | .store .global va b _ _ => some (va, b.length)
  | .red va _ ty _ _ _ => some (va, ty.size)
  | .launch rcb _ _ => some (rcb, 512)
  | _ => none

/-- The place of an address of a space, for a core, among the places of all spaces: an address of global memory stands for itself,
one of local store for that of its window, and one of a scratchpad for a number above every address. -/
def placeOf (core : Nat) (sp : Space) (a : Nat) : Nat :=
  match sp with
  | .ls => winVa core a
  | .spad => 2 ^ 64 + 2 ^ 21 * clusterOf core + a
  | .global => a

/-- The place of n bytes at an address of global memory, for a core and a region. -/
def globalPlace (s : State) (core part rp va n : Nat) : Nat :=
  let (sp, a) := nearPlace s core part rp va n
  placeOf core sp a

/-- The places that an effect changes. -/
def RbOp.places (s : State) (core part rp : Nat) (op : RbOp) : Option (Nat × Nat) :=
  match op with
  | .store .global va b _ _ => some (globalPlace s core part rp va b.length, b.length)
  | .store sp a b _ _ => some (placeOf core sp a, b.length)
  | .red va _ ty _ _ _ => some (globalPlace s core part rp va ty.size, ty.size)
  | op => op.range

/-- The places that a drained effect changes. -/
def Flight.range (s : State) (f : Flight) : Option (Nat × Nat) := f.op.places s f.core f.part f.rp

/-- Whether a drained effect of a program still has to reach some places. -/
def portBusy (s : State) (prog a n : Nat) : Bool :=
  s.flights.any fun f => decide (f.act = prog) && (match f.range s with
    | some (b, m) => overlap b m a n
    | none => false)

/-- Whether a program has drained effects that are not performed. -/
def hasFlights (s : State) (prog : Nat) : Bool := s.flights.any fun f => decide (f.act = prog)

/-- Performs a store at a core's own port (R212): watches of the words fire. -/
def lsStore (s : State) (core a : Nat) (b : List Byte) : State :=
  let s := s.onCore core fun k => { k with ls := mwrite k.ls a b }
  let va := 0x0100000000000000 + core * 2 ^ 17 + a
  let p := ((s.core core).part).getD 0
  markFired (s.core core).watches p va b.length s

/-- Stores to a cluster's scratchpad at its port. -/
def spadStore (s : State) (cl a : Nat) (b : List Byte) : State :=
  s.onCluster cl fun c => { c with spad := mwrite c.spad a b }

/-- A store to a port of the core or its cluster, performed. -/
def portStore (s : State) (core : Nat) (sp : Space) (a : Nat) (b : List Byte) : State :=
  match sp with
  | .ls => lsStore s core a b
  | .spad => spadStore s (clusterOf core) a b
  | .global => s

/-- Whether a drained store to a port may be performed after later effects of its commit point: a copy command may read its bytes
before (08 R252), and a 16-byte store is performed in halves (11 R291). -/
def mayLag (k : Core) (b : List Byte) : Bool :=
  decide (8 < b.length) || k.cps.any fun x => decide (x.2.st = .queued ∨ x.2.st = .running)

/-- Drains a store to a port. It is performed at once where nothing before it has to come first, or a free choice later. -/
def drainStore (s : State) (core : Nat) (a : Act) (sp : Space) (addr : Nat) (b : List Byte) (rel : Bool) (hint : Nat) : State :=
  let fly := fun (s : State) => pushFlight s core a.part a.prog a.rp none (.store sp addr b rel hint)
  if (rel && hasFlights s a.prog) || portBusy s a.prog (placeOf core sp addr) b.length then fly s
  else if !mayLag (s.core core) b then portStore s core sp addr b
  else if s.freeBit then fly s.used
  else portStore s.used core sp addr b

/-- Whether an effect goes to a quadrille window. -/
def RbOp.window (op : RbOp) : Bool :=
  match op.range with
  | some (va, _) => (match vaKind va with
    | .quad .. => true
    | _ => false)
  | none => false

/-- Drains one entry of a core's running activation; none while it must wait: a command for room in its queue (R250), a post until
every effect before it is performed, so that what it reads of local store is what it sends (15 R403). -/
def drainOne (s : State) (core : Nat) (a : Act) (e : RbEntry) : Option State :=
  let fly := fun (op : RbOp) => some (pushFlight s core a.part a.prog a.rp (entrantOf s a.part a.rp core) op
    (if op.window then some (a.id, e.seq, e.pc) else none))
  match e.op with
  | .store .global .. => fly e.op
  | .store sp addr b rel hint => some (drainStore s core a sp addr b rel hint)
  | .ast runs _ => some (runs.foldl (fun s x => drainStore s core a .spad x.1 x.2 false 2) s)
  | .cp id =>
    let k := s.core core
    if k.cpq.length < 2 then
      some (s.onCore core fun k =>
        { k with cpq := k.cpq ++ [id], cps := fset k.cps id { (fget k.cps id).getD CpEnt.reset with st := .queued, mark := s.fresh } })
    else none
  | .post h blk _ =>
    if hasFlights s a.prog then none
    else fly (.post h blk (mread (s.core core).ls blk.src (blk.count * (if blk.bf16 then 2 else 4))))
  | op => fly op

/-- Drains entries in order until the buffer is empty or one has to wait. -/
def drainList (core : Nat) (a : Act) : List RbEntry → State → State
  | [], s => s
  | e :: r, s =>
    match drainOne s core a e with
    | some s => drainList core a r (s.onCore core fun k => { k with rb := r })
    | none => s

/-- Drains the retire buffer of a core's running activation. -/
def drain (s : State) (core : Nat) : State :=
  match (s.core core).running with
  | some (_, a) => drainList core a (s.core core).rb s
  | none => s

/-- A snapshot of an activation with a pc (R342). -/
def snapOf (a : Act) (pc : Nat) : Snap :=
  { regs := a.regs, flags := a.flags, nest := a.nest, status := a.status, cause := a.cause, epc := a.epc,
    tval := a.tval, allow := a.allow, score := a.score, pc := pc, mx := a.mx, pend := a.pend,
    conly := a.conly && decide (pc = a.pc), flagsWr := a.flagsWr }

/-- Takes the snapshot of a commit point of a core's running activation: attempts start afresh (R343), claims
stand, requests issued so far are committed (R195) but for those of a bundle that the snapshot repeats, fixed-latency results
are complete (R40). -/
def snapshot (s : State) (core pc : Nat) : State :=
  s.onCore core fun k =>
    match k.running with
    | some (_, a) =>
      let k := k.onRun fun a =>
        { a with snap := snapOf a pc, attempts := 0, claims := [], barClaims := [], potClaims := [] }
      { k with fixed := [], undo := [], draining := false,
               mxq := k.mxq.map fun r => if r.act = a.id ∧ (pc ≠ a.pc ∨ a.npc = a.pc ∨ r.seq < a.seq) then { r with committed := true } else r }
    | none => k

/-- Whether an `mx.ast` of the activation has not completed (09 R270). -/
def astOut (k : Core) (act : Nat) : Bool :=
  k.mxq.any fun r => decide (r.act = act) && (match r.op with
    | .ast .. => true
    | _ => false)

/-- What a commit point of a core's running activation waits for (R229, R250, R278): none when it can be taken. A drain that has begun
is finished whatever happens to the core (R342). -/
def commitWait (s : State) (core : Nat) : Option State :=
  match (s.core core).running with
  | none => none
  | some (_, a) =>
    if unconfirmed (s.core core) a.id || acquiring (s.core core) a.id || astOut (s.core core) a.id then some s
    else
      let s := drain s core
      if (s.core core).rb.isEmpty then none else some (s.onCore core fun k => { k with draining := true })

/-- A commit point, and every effect of the program performed. -/
def settleWait (s : State) : Option State :=
  (commitWait s s.cur).orElse fun _ =>
    let t := drain s s.cur
    if hasFlights t s.me.prog then some (t.onCC fun k => { k with draining := true }) else none

/-- A commit point with its snapshot at a pc. -/
def commitAt (s : State) (core pc : Nat) : State := snapshot (drain s core) core pc

/-- The activation's state as it stood before the current bundle (R277). -/
def beforeSnap (a : Act) : Snap := { snapOf a a.pc with regs := a.prior, flags := a.latchFlags, allow := a.priorAllow }

/-- A commit point whose snapshot holds pc at the current bundle, with registers as the bundle found them (R283, R288). -/
def commitHere (s : State) : State :=
  let b := beforeSnap s.me
  (commitAt s s.cur s.pc).onMe fun a => { a with snap := b }

/-- A commit point that sends a request (R277): the drain, the request, and the snapshot with pc after the bundle
and sD pending. -/
def commitSend (s : State) (kind : AccKind) (va size : Nat) (acq rel : Bool) (d : SReg) : State :=
  let b := beforeSnap s.me
  let s := addAccess (drain s s.cur) kind va size acq rel 0 (some b)
  snapshot (s.pendReg (.s d)) s.cur s.me.npc

/-- The wait for room in the retire buffer: the overflow commit point comes first, with its snapshot at the bundle
that waits (R208, R341). -/
def roomWait (s : State) (size : Nat) : Option State :=
  if rbFits s.cc size then none
  else
    match commitWait s s.cur with
    | some s => some s
    | none => some (commitAt s s.cur s.pc)

/-! ### Parking (R334) -/

/-- Parks a core's running activation; it resumes at its next bundle. -/
def parkRun (s : State) (core : Nat) (p : Park) : State :=
  s.onCore core fun k =>
    let k := k.onRun fun a => { a with park := p, pc := a.npc }
    { k with run := none, fixed := [], sfuAt := none, waitFrom := none }

def parkMe (s : State) (p : Park) : State := parkRun s s.cur p

/-- The context that holds an activation of a core. -/
def ctxOf (k : Core) (act : Nat) : Option Nat := (k.acts.find? (fun x => decide (x.2.id = act))).map (·.1)

/-! ### Global accesses at issue (R200, R424) -/

/-- Whether an address is refused at issue: bits 63:57, or an unassigned range. -/
def vaRefused (va : Word) : Bool :=
  match vaKind va.toNat with
  | .unassigned => true
  | _ => false

def isQuad (va : Nat) : Bool :=
  match vaKind va with
  | .quad .. => true
  | _ => false

/-! ### Requests to ports of other packages (17 R429) -/

/-- Asks another package for an access at one of its ports, or for a field of a quadrille or reel, once a tag is free (log 12): code 2
reads n bytes, 3 writes them, 11 is an atomic. One that is out already is not asked for again; a write of a copy engine is new each time. -/
def askWindow (s : State) (core part pkg : Nat) (who : AskWho) (va n code v : Nat) : State :=
  let again := match who with
    | .engWrite .. => false
    | _ => true
  if again && s.asks.any fun a => decide (a.who = who ∧ a.part = part ∧ a.va = va ∧ a.size = n) then s
  else
    match s.tagRun 1 with
    | none => s
    | some id =>
      sendFlit { s with fresh := id + 1
                        asks := s.asks ++ [{ id := id, core := core, part := part, pkg := pkg, who := who, va := va, size := n, since := s.now }] }
        (servingEdge s (dieOf core)) part (ctlFlit 1 pkg (id % 2 ^ 13) va part (code + 256 * v))

def isWindow (va : Nat) : Bool :=
  match vaKind va with
  | .window .. => true
  | _ => false

/-- What a meaning does first: a trap at issue (after the wait of R229), then a wait, else its effect. While a bundle issues,
the check and the effect come apart (`Phase`). -/
def guarded (s : State) (t : Option Trap) (h : Option State) (k : State) : Host.Outcome State Fault Refusal :=
  match s.phase with
  | .go => .next k
  | .dry => .next { s with verdict := if t.isSome then .traps else if h.isSome then .waits else .acts }
  | .whole =>
    match t with
    | some t => .next (if unconfirmed s.cc s.me.id then stall s else trapMe s t)
    | none =>
      match h with
      | some h => .next (stall h)
      | none => .next k

end Sys2Proof.Machine
end

