-- ==== Sys2Proof/Machine/Scalar.lean ====
section
/-! DEFINITION. Scalar instructions of the A slot (04 R111-R117) and no-operations (02 R48, R49). Operands are those
that the bundle read at issue; writes to s0 are discarded by the register accessor. -/

namespace Sys2Proof.Machine

/-- sx(v, 32) of a 32-bit result. -/
def sx32 (v : BitVec 32) : Word := v.signExtend 64

/-- Bits 31:0 of a register. -/
def lo32 (v : Word) : BitVec 32 := v.setWidth 32

/-- A value saturated to the signed w-bit range, with SAT if it was outside (R76). -/
def satSigned (w : Nat) (x : Int) : Flagged Int :=
  if x < -(2 ^ (w - 1)) then ⟨-(2 ^ (w - 1)), fSAT⟩
  else if 2 ^ (w - 1) - 1 < x then ⟨2 ^ (w - 1) - 1, fSAT⟩ else ⟨x, 0⟩

/-- A value saturated to the unsigned w-bit range. -/
def satUnsigned (w : Nat) (x : Int) : Flagged Int :=
  if x < 0 then ⟨0, fSAT⟩ else if 2 ^ w - 1 < x then ⟨2 ^ w - 1, fSAT⟩ else ⟨x, 0⟩

/-- A scalar result that may have set flags. -/
def State.wsF (s : State) (d : SReg) (r : Flagged Int) : State := (s.ws d (BitVec.ofInt 64 r.val)).orFlags r.flags

/-- 1 when a condition holds, else 0. -/
def boolWord (b : Bool) : Word := if b then 1 else 0

/-- Leading zero bits (R116). -/
def clz64 (v : Word) : Nat := if v = 0 then 64 else 63 - Nat.log2 v.toNat

/-- Trailing zero bits. -/
def ctz64 (v : Word) : Nat := ((List.range 64).find? (fun i => v.getLsbD i)).getD 64

/-- Number of 1 bits. -/
def popcount {n : Nat} (v : BitVec n) : Nat := ((List.range n).filter (fun i => v.getLsbD i)).length

/-- Bytes in reverse order. -/
def byteSwap (v : Word) : Word := wordOfLe (leBytes 8 v.toNat).reverse

/-- Position and width that sB gives to a bit-field form (R116): p and w' = min(w, 64 - p). -/
def bfPos (b : Word) : Nat := bitsNat b 5 0
def bfWidth (b : Word) : Nat := min (bitsNat b 13 8 + 1) (64 - bfPos b)

/-- The field of a value as a number. -/
def bfField (a b : Word) : Nat := a.toNat / 2 ^ bfPos b % 2 ^ bfWidth b

/-- sx(v, n) of a number for n from 1 to 64. -/
def sxNat (v n : Nat) : Word := if v / 2 ^ (n - 1) % 2 = 1 then BitVec.ofInt 64 ((v : Int) - 2 ^ n) else BitVec.ofNat 64 v

/-- A value with its field replaced by the low bits of another. -/
def bfInsert (old a b : Word) : Word :=
  let m : Word := BitVec.ofNat 64 ((2 ^ bfWidth b - 1) * 2 ^ bfPos b)
  (old &&& ~~~m) ||| (BitVec.ofNat 64 (a.toNat % 2 ^ bfWidth b * 2 ^ bfPos b))

/-- A transfer of control (R45): the next bundle is at the target. -/
def State.jump (s : State) (target : Word) : State := s.onMe fun a => { a with npc := target.toNat, taken := true }

/-- The target of a branch with a field of n bits (R45). -/
def State.branchTo {n : Nat} (s : State) (off : BitVec n) : State :=
  s.jump (BitVec.ofNat 64 s.pc + 8 * off.signExtend 64)

abbrev Out := Host.Outcome State Fault Refusal

/-- `nop` in the C slot has no effect beyond its stall count (R49). -/
def execNopC (s : State) : Out :=
  .next (s)

/-- `nop` in the A slot (R49). -/
def execNopA (s : State) : Out :=
  .next (s)

/-- HINT majors execute as no operation; their operand bits are ignored (R48). -/
def execHintC (_ : BitVec 1) (_ : BitVec 22) (s : State) : Out :=
  .next s

/-- HINT majors of the A slot (R48). -/
def execHintA (_ : BitVec 1) (_ : BitVec 23) (s : State) : Out :=
  .next s

/-- Table 4.2, code 0. -/
def execAdd (d a b : SReg) (s : State) : Out :=
  .next (s.ws d (s.rs a + s.rs b))

/-- Table 4.2, code 1. -/
def execSub (d a b : SReg) (s : State) : Out :=
  .next (s.ws d (s.rs a - s.rs b))

/-- Table 4.2, code 2. -/
def execAddI32 (d a b : SReg) (s : State) : Out :=
  .next (s.ws d (sx32 (lo32 (s.rs a) + lo32 (s.rs b))))

/-- Table 4.2, code 3. -/
def execSubI32 (d a b : SReg) (s : State) : Out :=
  .next (s.ws d (sx32 (lo32 (s.rs a) - lo32 (s.rs b))))

/-- Table 4.2, code 4. -/
def execAddsI64 (d a b : SReg) (s : State) : Out :=
  .next (s.wsF d (satSigned 64 ((s.rs a).toInt + (s.rs b).toInt)))

/-- Table 4.2, code 5. -/
def execAddsN64 (d a b : SReg) (s : State) : Out :=
  .next (s.wsF d (satUnsigned 64 ((s.rs a).toNat + (s.rs b).toNat)))

/-- Table 4.2, code 6. -/
def execSubsI64 (d a b : SReg) (s : State) : Out :=
  .next (s.wsF d (satSigned 64 ((s.rs a).toInt - (s.rs b).toInt)))

/-- Table 4.2, code 7. -/
def execSubsN64 (d a b : SReg) (s : State) : Out :=
  .next (s.wsF d (satUnsigned 64 ((s.rs a).toNat - (s.rs b).toNat)))

/-- Table 4.2, code 8. -/
def execAnd (d a b : SReg) (s : State) : Out :=
  .next (s.ws d (s.rs a &&& s.rs b))

/-- Table 4.2, code 9. -/
def execOr (d a b : SReg) (s : State) : Out :=
  .next (s.ws d (s.rs a ||| s.rs b))

/-- Table 4.2, code 10. -/
def execXor (d a b : SReg) (s : State) : Out :=
  .next (s.ws d (s.rs a ^^^ s.rs b))

/-- Table 4.2, code 11. -/
def execAndn (d a b : SReg) (s : State) : Out :=
  .next (s.ws d (s.rs a &&& ~~~(s.rs b)))

/-- Table 4.2, code 12. -/
def execOrn (d a b : SReg) (s : State) : Out :=
  .next (s.ws d (s.rs a ||| ~~~(s.rs b)))

/-- Table 4.2, code 13. -/
def execXnor (d a b : SReg) (s : State) : Out :=
  .next (s.ws d (~~~(s.rs a ^^^ s.rs b)))

/-- R112: sD is sA op sx(imm9, 9). -/
def execAddImm (d a : SReg) (imm : BitVec 9) (s : State) : Out :=
  .next (s.ws d (s.rs a + imm.signExtend 64))

/-- R112: sD is sA op sx(imm9, 9). -/
def execAndImm (d a : SReg) (imm : BitVec 9) (s : State) : Out :=
  .next (s.ws d (s.rs a &&& imm.signExtend 64))

/-- R112: sD is sA op sx(imm9, 9). -/
def execOrImm (d a : SReg) (imm : BitVec 9) (s : State) : Out :=
  .next (s.ws d (s.rs a ||| imm.signExtend 64))

/-- R112: sD is sA op sx(imm9, 9). -/
def execXorImm (d a : SReg) (imm : BitVec 9) (s : State) : Out :=
  .next (s.ws d (s.rs a ^^^ imm.signExtend 64))

/-- Table 4.3, register form. -/
def execShl (d a b : SReg) (s : State) : Out :=
  .next (s.ws d (s.rs a <<< ((s.rs b).toNat % 64)))

/-- Table 4.3, immediate form. -/
def execShlImm (d a : SReg) (n : BitVec 6) (s : State) : Out :=
  .next (s.ws d (s.rs a <<< n.toNat))

/-- Table 4.3, register form. -/
def execShrN64 (d a b : SReg) (s : State) : Out :=
  .next (s.ws d (s.rs a >>> ((s.rs b).toNat % 64)))

/-- Table 4.3, immediate form. -/
def execShrN64Imm (d a : SReg) (n : BitVec 6) (s : State) : Out :=
  .next (s.ws d (s.rs a >>> n.toNat))

/-- Table 4.3, register form. -/
def execShr (d a b : SReg) (s : State) : Out :=
  .next (s.ws d ((s.rs a).sshiftRight ((s.rs b).toNat % 64)))

/-- Table 4.3, immediate form. -/
def execShrImm (d a : SReg) (n : BitVec 6) (s : State) : Out :=
  .next (s.ws d ((s.rs a).sshiftRight n.toNat))

/-- Table 4.3, register form. -/
def execRol (d a b : SReg) (s : State) : Out :=
  .next (s.ws d ((s.rs a).rotateLeft ((s.rs b).toNat % 64)))

/-- Table 4.3, immediate form. -/
def execRolImm (d a : SReg) (n : BitVec 6) (s : State) : Out :=
  .next (s.ws d ((s.rs a).rotateLeft n.toNat))

/-- Table 4.3, register form. -/
def execRor (d a b : SReg) (s : State) : Out :=
  .next (s.ws d ((s.rs a).rotateRight ((s.rs b).toNat % 64)))

/-- Table 4.3, immediate form. -/
def execRorImm (d a : SReg) (n : BitVec 6) (s : State) : Out :=
  .next (s.ws d ((s.rs a).rotateRight n.toNat))

/-- Table 4.3, register form. -/
def execShlI32 (d a b : SReg) (s : State) : Out :=
  .next (s.ws d (sx32 (lo32 (s.rs a) <<< ((s.rs b).toNat % 32))))

/-- Table 4.3, immediate form. -/
def execShlI32Imm (d a : SReg) (n : BitVec 6) (s : State) : Out :=
  .next (s.ws d (sx32 (lo32 (s.rs a) <<< n.toNat)))

/-- Table 4.3, register form. -/
def execShrN32 (d a b : SReg) (s : State) : Out :=
  .next (s.ws d (sx32 (lo32 (s.rs a) >>> ((s.rs b).toNat % 32))))

/-- Table 4.3, immediate form. -/
def execShrN32Imm (d a : SReg) (n : BitVec 6) (s : State) : Out :=
  .next (s.ws d (sx32 (lo32 (s.rs a) >>> n.toNat)))

/-- Table 4.3, register form. -/
def execShrI32 (d a b : SReg) (s : State) : Out :=
  .next (s.ws d (sx32 ((lo32 (s.rs a)).sshiftRight ((s.rs b).toNat % 32))))

/-- Table 4.3, immediate form. -/
def execShrI32Imm (d a : SReg) (n : BitVec 6) (s : State) : Out :=
  .next (s.ws d (sx32 ((lo32 (s.rs a)).sshiftRight n.toNat)))

/-- Table 4.4, code 0. -/
def execMul (d a b : SReg) (s : State) : Out :=
  .next (s.ws d (s.rs a * s.rs b))

/-- Table 4.4, code 1. -/
def execMulh (d a b : SReg) (s : State) : Out :=
  .next (s.ws d (BitVec.ofInt 64 ((s.rs a).toInt * (s.rs b).toInt / 2 ^ 64)))

/-- Table 4.4, code 2. -/
def execMulhN64 (d a b : SReg) (s : State) : Out :=
  .next (s.ws d (BitVec.ofNat 64 ((s.rs a).toNat * (s.rs b).toNat / 2 ^ 64)))

/-- Table 4.4, code 3. -/
def execMulI32 (d a b : SReg) (s : State) : Out :=
  .next (s.ws d (sx32 (lo32 (s.rs a) * lo32 (s.rs b))))

/-- Table 4.4, code 4. -/
def execMla (d a b : SReg) (s : State) : Out :=
  .next (s.ws d (s.rs d + s.rs a * s.rs b))

/-- Table 4.4, code 5. -/
def execMulsI64 (d a b : SReg) (s : State) : Out :=
  .next (s.wsF d (satSigned 64 ((s.rs a).toInt * (s.rs b).toInt)))

/-- Table 4.5. -/
def execCmpEq (d a b : SReg) (s : State) : Out :=
  .next (s.ws d (boolWord (decide (s.rs a = s.rs b))))

/-- Table 4.5. -/
def execCmpNe (d a b : SReg) (s : State) : Out :=
  .next (s.ws d (boolWord (decide (s.rs a ≠ s.rs b))))

/-- Table 4.5. -/
def execCmpLt (d a b : SReg) (s : State) : Out :=
  .next (s.ws d (boolWord ((s.rs a).slt (s.rs b))))

/-- Table 4.5. -/
def execCmpLtN64 (d a b : SReg) (s : State) : Out :=
  .next (s.ws d (boolWord ((s.rs a).ult (s.rs b))))

/-- Table 4.5. -/
def execCmpLe (d a b : SReg) (s : State) : Out :=
  .next (s.ws d (boolWord ((s.rs a).sle (s.rs b))))

/-- Table 4.5. -/
def execCmpLeN64 (d a b : SReg) (s : State) : Out :=
  .next (s.ws d (boolWord ((s.rs a).ule (s.rs b))))

/-- Table 4.5, code 8: sD is written in every case. -/
def execSelNez (d a b : SReg) (s : State) : Out :=
  .next (s.ws d (if s.rs b ≠ 0 then s.rs a else s.rs d))

/-- Table 4.5, code 9. -/
def execSelEqz (d a b : SReg) (s : State) : Out :=
  .next (s.ws d (if s.rs b = 0 then s.rs a else s.rs d))

/-- Table 4.6, code 0. -/
def execBfxN64 (d a b : SReg) (s : State) : Out :=
  .next (s.ws d (BitVec.ofNat 64 (bfField (s.rs a) (s.rs b))))

/-- Table 4.6, code 1. -/
def execBfx (d a b : SReg) (s : State) : Out :=
  .next (s.ws d (sxNat (bfField (s.rs a) (s.rs b)) (bfWidth (s.rs b))))

/-- Table 4.6, code 2. -/
def execBfi (d a b : SReg) (s : State) : Out :=
  .next (s.ws d (bfInsert (s.rs d) (s.rs a) (s.rs b)))

/-- Table 4.6, code 3. -/
def execClz (d a : SReg) (s : State) : Out :=
  .next (s.ws d (BitVec.ofNat 64 (clz64 (s.rs a))))

/-- Table 4.6, code 4. -/
def execCtz (d a : SReg) (s : State) : Out :=
  .next (s.ws d (BitVec.ofNat 64 (ctz64 (s.rs a))))

/-- Table 4.6, code 5. -/
def execPopc (d a : SReg) (s : State) : Out :=
  .next (s.ws d (BitVec.ofNat 64 (popcount (s.rs a))))

/-- Table 4.6, code 6. -/
def execBswap (d a : SReg) (s : State) : Out :=
  .next (s.ws d (byteSwap (s.rs a)))

/-- Table 4.6, code 7. -/
def execBrev (d a : SReg) (s : State) : Out :=
  .next (s.ws d (s.rs a).reverse)

/-- R117, signed. -/
def execMin (d a b : SReg) (s : State) : Out :=
  .next (s.ws d (if (s.rs a).slt (s.rs b) then s.rs a else s.rs b))

/-- R117, unsigned. -/
def execMinN64 (d a b : SReg) (s : State) : Out :=
  .next (s.ws d (if (s.rs a).ult (s.rs b) then s.rs a else s.rs b))

/-- R117, signed. -/
def execMax (d a b : SReg) (s : State) : Out :=
  .next (s.ws d (if (s.rs a).slt (s.rs b) then s.rs b else s.rs a))

/-- R117, unsigned. -/
def execMaxN64 (d a b : SReg) (s : State) : Out :=
  .next (s.ws d (if (s.rs a).ult (s.rs b) then s.rs b else s.rs a))

/-- R117: the absolute value modulo 2^64. -/
def execAbs (d a : SReg) (s : State) : Out :=
  .next (s.ws d (if (s.rs a).slt 0 then -(s.rs a) else s.rs a))

/-- R117: the absolute value, saturated. -/
def execAbss (d a : SReg) (s : State) : Out :=
  .next (s.wsF d (satSigned 64 ((s.rs a).toInt.natAbs)))

/-! ### Addresses, constants, branches and jumps (R109, R110, R118-R122) -/

/-- Table 4.1, register forms. -/
def execLeaS (d a b : SReg) (sh : BitVec 2) (s : State) : Out :=
  .next (s.ws d (s.rs a + (s.rs b <<< sh.toNat)))

/-- Table 4.1, index-register forms. -/
def execLeaI (d a : SReg) (i : IReg) (sh : BitVec 2) (s : State) : Out :=
  .next (s.ws d (s.rs a + (s.ri i <<< sh.toNat)))

/-- R110. -/
def execLi (d : SReg) (imm : BitVec 16) (s : State) : Out :=
  .next (s.ws d (imm.signExtend 64))

/-- R110. -/
def execLis (d : SReg) (imm : BitVec 16) (s : State) : Out :=
  .next (s.ws d ((s.rs d <<< 16) ||| imm.setWidth 64))

/-- R118. -/
def execBEqz (a : SReg) (off : BitVec 13) (s : State) : Out :=
  .next (if s.rs a = 0 then s.branchTo off else s)

/-- R118. -/
def execBNez (a : SReg) (off : BitVec 13) (s : State) : Out :=
  .next (if s.rs a ≠ 0 then s.branchTo off else s)

/-- R118. -/
def execBLtz (a : SReg) (off : BitVec 13) (s : State) : Out :=
  .next (if (s.rs a).slt 0 then s.branchTo off else s)

/-- R118. -/
def execBGez (a : SReg) (off : BitVec 13) (s : State) : Out :=
  .next (if !(s.rs a).slt 0 then s.branchTo off else s)

/-- R118. -/
def execBGtz (a : SReg) (off : BitVec 13) (s : State) : Out :=
  .next (if (0 : Word).slt (s.rs a) then s.branchTo off else s)

/-- R118. -/
def execBLez (a : SReg) (off : BitVec 13) (s : State) : Out :=
  .next (if !(0 : Word).slt (s.rs a) then s.branchTo off else s)

/-- R119. -/
def execBEq (a b : SReg) (off : BitVec 7) (s : State) : Out :=
  .next (if s.rs a = s.rs b then s.branchTo off else s)

/-- R119. -/
def execBNe (a b : SReg) (off : BitVec 7) (s : State) : Out :=
  .next (if s.rs a ≠ s.rs b then s.branchTo off else s)

/-- R119. -/
def execBLt (a b : SReg) (off : BitVec 7) (s : State) : Out :=
  .next (if (s.rs a).slt (s.rs b) then s.branchTo off else s)

/-- R119. -/
def execBGe (a b : SReg) (off : BitVec 7) (s : State) : Out :=
  .next (if !(s.rs a).slt (s.rs b) then s.branchTo off else s)

/-- R119. -/
def execBLtn (a b : SReg) (off : BitVec 7) (s : State) : Out :=
  .next (if (s.rs a).ult (s.rs b) then s.branchTo off else s)

/-- R119. -/
def execBGen (a b : SReg) (off : BitVec 7) (s : State) : Out :=
  .next (if !(s.rs a).ult (s.rs b) then s.branchTo off else s)

/-- pc + 8 of the current bundle. -/
def State.link8 (s : State) : Word := BitVec.ofNat 64 s.pc + 8

/-- R120. -/
def execJ (off : BitVec 22) (s : State) : Out :=
  .next (s.branchTo off)

/-- R120: `lk` is s62. -/
def execJl (off : BitVec 22) (s : State) : Out :=
  .next ((s.branchTo off).ws 62 s.link8)

/-- A register jump's target must be a multiple of 8 (R45, R121). -/
def jumpTrap (s : State) (target : Word) : Option Trap :=
  if target.toNat % 8 ≠ 0 then some (issueTrapAt s cALIGN false target) else none

/-- R121. -/
def execJr (a : SReg) (s : State) : Out :=
  guarded s (jumpTrap s (s.rs a)) none (s.jump (s.rs a))

/-- R121: the target is read before the link register is written. -/
def execJlr (d a : SReg) (s : State) : Out :=
  guarded s (jumpTrap s (s.rs a)) none ((s.jump (s.rs a)).ws d s.link8)


end Sys2Proof.Machine
end

