-- ==== Sys2Proof/Machine/Control.lean ====
section
/-! DEFINITION. The nest fetcher (04 R123-R127), control registers (04 R128-R136), traps and returns (04 R141,
R142), deferred writes of FLAGS (03 R92). -/

namespace Sys2Proof.Machine

/-! ### Nest fetcher -/

/-- Whether a claim of the activation has not returned. -/
def claimOut (k : Core) (act : Nat) : Bool :=
  k.accs.any fun x => decide (x.act = act) && (match x.kind with | .claim .. => true | _ => false)

/-- What waits for the nest state (R125). -/
def nestWait (s : State) : Option State := if claimOut s.cc s.me.id then some s else none

/-- R125: only the alignment of sA is checked at issue; the rest is performed at the counter's home. -/
def execNestClaim (d a : SReg) (s : State) : Out :=
  let desc := s.rs a
  guarded s (if desc.toNat % 8 ≠ 0 then some (issueTrapAt s cALIGN false desc) else none)
    ((nestWait s).orElse fun _ => commitWait s s.cur)
    (commitSend s (.claim desc.toNat d) desc.toNat 8 true true d)

/-- The point of iteration t, level by level (R127): values of i0 to i3. The spec states no quotient or remainder by a count of 0,
which only a system-mode `mtc` can make a chunk meet: both are free values (log 81). -/
def nestPoint (n : Nat) (counts steps : List Word) (t : Nat) : List Word :=
  let rec go : Nat → Nat → List Word → List Word
    | 0, _, acc => acc
    | d + 1, t, acc =>
      let c := (counts.getD d 0).toNat
      let (q, r) := if c = 0 then (Config.zeroDiv t, Config.zeroMod t) else (t / c, t % c)
      go d q ((BitVec.ofNat 64 r * steps.getD d 0) :: acc)
  let l := go n t []
  l ++ List.replicate (4 - l.length) 0

/-- R127. -/
def execNestNext (a : SReg) (s : State) : Out :=
  let n := s.me.nest
  let more := n.cur.toNat < n.fin.toNat
  let tgt := s.rs a
  let p := nestPoint n.n n.counts n.steps n.cur.toNat
  guarded s (if more ∧ tgt.toNat % 8 ≠ 0 then some (issueTrapAt s cALIGN false tgt) else none) (nestWait s)
    (if more then
      ((((s.wi 0 (p.getD 0 0)).wi 1 (p.getD 1 0)).wi 2 (p.getD 2 0)).wi 3 (p.getD 3 0)).onMe fun m =>
        { m with nest := { m.nest with cur := m.nest.cur + 1 }, npc := tgt.toNat, taken := true }
    else s)

/-! ### Control registers -/

/-- How a mode may use a control register (Table 4.10, R442): none, read, or read and write. -/
inductive CrAcc where
  | no | ro | rw
deriving DecidableEq, Repr

def crAccess (n mode : Nat) : CrAcc :=
  let sys := decide (mode = 2)
  let user := decide (mode = 0)
  if n = 0x00 ∨ n = 0x08 ∨ n = 0x09 ∨ n = 0x0A ∨ n = 0x0B ∨ n = 0x14 then .rw
  else if n = 0x01 ∨ n = 0x0F ∨ n = 0x10 ∨ n = 0x11 ∨ n = 0x12 ∨ n = 0x13 ∨ n = 0x15 then (if sys then .rw else .ro)
  else if 0x02 ≤ n ∧ n ≤ 0x07 then (if user then .no else .rw)
  else if n = 0x0C ∨ n = 0x0D ∨ n = 0x0E then .ro
  else if 0x16 ≤ n ∧ n ≤ 0x18 then (if sys then .rw else .no)
  else .no

/-- COREID of a core (Table 4.16). -/
def coreId (s : State) (core : Nat) : Word :=
  BitVec.ofNat 64 (s.pkg % 64 * 2 ^ 32 + ((s.core core).part.getD 0) % 32 * 2 ^ 16 + core % 4096)

/-- The value of a control register. FLAGS is read at issue (02 R32): flags of the same bundle's A-word are not in it. -/
def crRead (s : State) (n : Nat) : Word :=
  let k := s.cc
  let a := s.me
  match n with
  | 0x00 => k.cctl
  | 0x01 => a.status
  | 0x02 => a.cause
  | 0x03 => a.epc
  | 0x04 => a.tval
  | 0x05 => k.tvec
  | 0x06 => k.rscr
  | 0x07 => k.uvec
  | 0x08 => k.fmt
  | 0x09 => a.latchFlags
  | 0x0A => k.warn
  | 0x0B => k.warnpc
  | 0x0C => BitVec.ofNat 64 (s.cc.cycle s.now)
  | 0x0D => k.instret
  | 0x0E => coreId s s.cur
  | 0x0F => a.nest.desc
  | 0x10 => a.nest.cur
  | 0x11 => a.nest.fin
  | 0x12 => a.allow
  | 0x13 => a.score
  | 0x14 => (k.leaveW &&& 0xFFFFFFFFFFFF0000) ||| BitVec.ofNat 64 (k.cpHeld % 8192)
  | 0x15 => k.evt
  | 0x16 => k.scause
  | 0x17 => k.sepc
  | 0x18 => k.stval
  | _ => 0

/-- Bits 56:3 and bit 0 (Tables 4.14, 7.9). -/
def vecMask : Word := 0x01FFFFFFFFFFFFF9
/-- Bits 56:3 (Tables 2.11, 4.15). -/
def pcMask : Word := 0x01FFFFFFFFFFFFF8

/-- A value under a mask, the other bits kept. -/
def under (mask old v : Word) : Word := (old &&& ~~~mask) ||| (v &&& mask)

/-- EVT after a system-mode write (Table 20.11): COUNT is written, OVF is write-one-to-clear. -/
def evtWrite (old v : Word) : Word := (v &&& 0xFF00) ||| (old &&& 2) ||| (old &&& ~~~v &&& 1)

/-- A control register written (R128, R131-R136, R442, R466, R484): RO fields stay. A write of
FLAGS comes before the flags of the same bundle's A-word (02 R32). -/
def crWrite (s : State) (n : Nat) (v : Word) : State :=
  let user := decide (s.mode = 0)
  match n with
  | 0x00 => s.onCC fun k => { k with cctl := under (if user then 1 else 3) k.cctl v }
  | 0x01 => s.onMe fun a => { a with status := under 4 a.status v }
  | 0x02 => s.onMe fun a => { a with cause := v &&& 0x3FF }
  | 0x03 => s.onMe fun a => { a with epc := v &&& pcMask }
  | 0x04 => s.onMe fun a => { a with tval := v }
  | 0x05 => s.onCC fun k => { k with tvec := v &&& vecMask }
  | 0x06 => s.onCC fun k => { k with rscr := v }
  | 0x07 => s.onCC fun k => { k with uvec := v &&& vecMask }
  | 0x08 => s.onCC fun k => { k with fmt := v &&& 3 }
  | 0x09 => s.onMe fun a => { a with flags := flagsW1C a.latchFlags v ||| a.aFlags }
  | 0x0A => s.onCC fun k => { k with warn := warnWrite k.warn v }
  | 0x0B => s.onCC fun k => { k with warnpc := v &&& pcMask }
  | 0x0F => s.onMe fun a => { a with nest := { a.nest with desc := v } }
  | 0x10 => s.onMe fun a => { a with nest := { a.nest with cur := v } }
  | 0x11 => s.onMe fun a => { a with nest := { a.nest with fin := v } }
  | 0x12 => s.onMe fun a => { a with allow := v &&& 0x7FFFFFFFFFFF }
  | 0x13 => s.onMe fun a => { a with score := v }
  | 0x14 => s.onCC fun k => { k with leaveW := v &&& 0xFFFFFFFFFFFF0000 }
  | 0x15 => s.onCC fun k => { k with evt := evtWrite k.evt v }
  | 0x16 => s.onCC fun k => { k with scause := v &&& 0x3FF }
  | 0x17 => s.onCC fun k => { k with sepc := v &&& pcMask }
  | 0x18 => s.onCC fun k => { k with stval := v }
  | _ => s

/-- Whether an access sets flags when its result lands (R80, R94). -/
def Access.landsFlags (x : Access) : Bool :=
  match x.kind with
  | .load _ (.w4 ..) _ | .load _ (.e4 _) _ => true
  | _ => false

/-- Whether flags of an activation's bundles before its current one are still to come (R92): matrix requests, pot reads,
widening loads. -/
def flagsOut (s : State) (a : Act) : Bool :=
  (s.cores.any fun c => c.2.accs.any fun x => decide (x.act = a.id ∧ x.seq < a.seq) && x.landsFlags) ||
  ((mxReqsOf s a.id).any fun r => decide (r.seq < a.seq)) || (s.potReads.any fun r => decide (r.act = a.id))

/-- An access refused for the current mode (R128). -/
def crTrap (s : State) (n : Nat) : Trap := issueTrapAt s cACCESS false (BitVec.ofNat 64 n)

/-- R128: `mfc` waits for FLAGS (R92) and for the nest state (R125). -/
def execMfc (d : SReg) (c : BitVec 6) (s : State) : Out :=
  let n := c.toNat
  guarded s (if crAccess n s.mode = .no then some (crTrap s n) else none)
    (if n = 0x09 ∧ flagsOut s s.me then some s else if 0x0F ≤ n ∧ n ≤ 0x11 then nestWait s else none)
    (s.ws d (crRead s n))

/-- The trap of `mtc`: no write access, or a user-mode change of FMT.E4 (R87). -/
def mtcTrap (s : State) (n : Nat) (v : Word) : Option Trap :=
  if crAccess n s.mode ≠ .rw then some (crTrap s n)
  else if n = 0x08 ∧ s.mode = 0 ∧ bitAt v 0 ≠ bitAt s.cc.fmt 0 then some (crTrap s n)
  else none

/-- R128: a write of FLAGS that earlier instructions' flags precede is done by FLAGS_WRITE (R92). -/
def execMtc (c : BitVec 6) (b : SReg) (s : State) : Out :=
  let n := c.toNat
  let v := s.rs b
  guarded s (mtcTrap s n v)
    ((waitConfirm s).orElse fun _ => if 0x0F ≤ n ∧ n ≤ 0x11 then nestWait s else none)
    (if n = 0x09 ∧ flagsOut s s.me then s.onMe fun a => { a with flagsWr := some (v, a.aFlags) } else crWrite s n v)

/-- R92: the write of FLAGS that waited for earlier instructions' flags; those of its own bundle stay. -/
def execFlagsWrite (core : Nat) (s : State) : Out :=
  .next (match (s.core core).running with
    | some (_, a) =>
      match a.flagsWr with
      | some (v, f) =>
        if flagsOut s a then s
        else s.onCore core fun k => k.onRun fun a => { a with flags := flagsW1C a.flags v ||| f, flagsWr := none }
      | none => s
    | none => s)

/-! ### Traps and returns -/

/-- R141: the bundle completes, then TRAP is taken with EPC the next bundle; in system mode it is `nop`. -/
def execTrap (code : BitVec 12) (s : State) : Out :=
  guarded s none (waitConfirm s)
    (if s.mode = 2 then s.warn wQUAL
    else trapMe s { code := cTRAP, late := true, aw := false, epc := s.pc + 8, tval := code.setWidth 64 })

/-- R142: in user mode `eret` raises ACCESS. -/
def execEret (s : State) : Out :=
  guarded s (if s.mode = 0 then some (issueTrapAt s cACCESS false 0) else none) none
    (((eretTo s).onMe fun a => { a with taken := true }).onCC fun k => { k with fixed := [] })

/-- The TRAP that follows a completed user-mode bundle under CCTL.STEP (R141). -/
def stepTrapAt (s : State) (core : Nat) : State :=
  match (s.core core).running with
  | some (x, a) =>
    if a.stepDue && !unconfirmed (s.core core) a.id then
      trapEntry (s.onAct core x fun a => { a with stepDue := false }) core x
        { code := cTRAP, late := true, aw := false, epc := a.pc, tval := 0x1000 }
    else s
  | none => s

/-- R141. -/
def execStepTrap (core : Nat) (s : State) : Out := .next (stepTrapAt s core)

end Sys2Proof.Machine
end

