-- ==== Sys2Proof/Machine/LoadStore.lean ====
section
/-! DEFINITION. Loads, stores and `ldc` at issue (07 R204-R211, R218-R220), tiles (07 R238-R243), `clean` (07 R234)
and `up.resume` (07 R233). What an access does at its home is in Access.lean. -/

namespace Sys2Proof.Machine

/-! ### Checks at issue -/

def alignTrap (s : State) (va : Word) (unit : Nat) : Option Trap :=
  if va.toNat % unit ≠ 0 then some (issueTrapAt s cALIGN false va) else none

/-- Local-store operands (R201, R330): the address must be aligned and reached. -/
def lsTrap (s : State) (off : Word) (unit : Nat) : Option Trap :=
  (alignTrap s off unit).orElse fun _ =>
    if (lsPlace s.me off unit).isNone then some (issueTrapAt s cACCESS false off) else none

/-- Global operands (R200); forms that a quadrille window refuses at issue pass `noQuad` (17 R429). -/
def globalTrap (s : State) (va : Word) (unit : Nat) (noQuad : Bool) : Option Trap :=
  (alignTrap s va unit).orElse fun _ =>
    if vaRefused va || (noQuad && isQuad va.toNat) then some (issueTrapAt s cACCESS false va) else none

/-- The absolute local-store offset of an access that passed `lsTrap`. -/
def lsAbs (s : State) (off : Word) (unit : Nat) : Nat := (lsPlace s.me off unit).getD 0

/-- The place of n bytes at an address of global memory, for the current activation. -/
def myPlace (s : State) (va n : Nat) : Nat := globalPlace s s.cur s.mypart s.me.rp va n

/-- Whether a buffered reduction covers a byte of some places (R279): the overflow commit point comes first. -/
def redCovers (s : State) (place n : Nat) : Bool :=
  s.cc.rb.any fun e =>
    match e.op with
    | .red a _ ty _ _ _ => overlap (myPlace s a ty.size) ty.size place n
    | _ => false

/-- What a load of some places waits for at issue. -/
def redWaitAt (s : State) (place n : Nat) : Option State :=
  if redCovers s place n then
    match commitWait s s.cur with
    | some s => some s
    | none => some (commitAt s s.cur s.pc)
  else none

/-- What a global load waits for at issue. -/
def redWait (s : State) (va n : Nat) : Option State := redWaitAt s (myPlace s va n) n

/-- Whether sign extension applies: x = 1 with z = 3 takes the fallback (Table 2.9). -/
def signOf (z : BitVec 2) (x : BitVec 1) : Bool := decide (x = 1 ∧ z ≠ 3)

/-- A load of the current bundle: an outstanding access and a pending register. -/
def issueLoad (s : State) (sp : Space) (dst : LdDst) (r : Reg) (roc : Bool) (va n : Nat) (acq : Bool) (hint : Nat) : State :=
  (addAccess s (.load sp dst roc) va n acq false hint none).pendReg r

/-- A buffered store; a global one leaves its probe (R208, R228). -/
def issueStore (s : State) (sp : Space) (va : Nat) (b : List Byte) (rel : Bool) (hint : Nat) : State :=
  let (at_, a) := if sp = .global then ownPlace s.cur va b.length else (sp, va)
  let s := rbAppend s b.length (.store at_ a b rel hint)
  if sp = .global then addAccess s (.probe false none) va b.length false false hint none else s

/-! ### Scalar loads and stores (Table 7.2) -/

/-- R206. -/
def execLdL (t b : SReg) (z : BitVec 2) (x : BitVec 1) (h : BitVec 2) (o : BitVec 1) (off : BitVec 4) (s : State) : Out :=
  let n := sizeOf z
  let va := cmAddr (s.rs b) off n
  guarded s (lsTrap s va n) (redWaitAt s (winVa s.cur (lsAbs s va n)) n)
    (issueLoad (s.qualIf (decide (h ≠ 2) || decide (x = 1 ∧ z = 3))) .ls (.s t (signOf z x)) (.s t) false (lsAbs s va n) n (o = 1) 2)

/-- R208. -/
def execStL (t b : SReg) (z : BitVec 2) (x : BitVec 1) (h : BitVec 2) (o : BitVec 1) (off : BitVec 4) (s : State) : Out :=
  let n := sizeOf z
  let va := cmAddr (s.rs b) off n
  guarded s (lsTrap s va n) (roomWait s n)
    (issueStore (s.qualIf (decide (h ≠ 2) || decide (x = 1))) .ls (lsAbs s va n) (leBytes n (s.rs t).toNat) (o = 1) 2)

/-- R206. -/
def execLdG (t b : SReg) (z : BitVec 2) (x : BitVec 1) (h : BitVec 2) (o : BitVec 1) (off : BitVec 4) (s : State) : Out :=
  let n := sizeOf z
  let va := cmAddr (s.rs b) off n
  guarded s (globalTrap s va n false) (redWait s va.toNat n)
    (issueLoad (s.qualIf (decide (x = 1 ∧ z = 3))) .global (.s t (signOf z x)) (.s t) false va.toNat n (o = 1) h.toNat)

/-- R208. -/
def execStG (t b : SReg) (z : BitVec 2) (x : BitVec 1) (h : BitVec 2) (o : BitVec 1) (off : BitVec 4) (s : State) : Out :=
  let n := sizeOf z
  let va := cmAddr (s.rs b) off n
  guarded s (globalTrap s va n false) (roomWait s n)
    (issueStore (s.qualIf (x = 1)) .global va.toNat (leBytes n (s.rs t).toNat) (o = 1) h.toNat)

/-! ### Vector and widening forms (Table 7.3) -/

/-- R206. -/
def execLdLQ (t : VReg) (b : SReg) (h : BitVec 2) (o : BitVec 1) (off : BitVec 4) (s : State) : Out :=
  let va := cmAddr (s.rs b) off 16
  guarded s (lsTrap s va 16) (redWaitAt s (winVa s.cur (lsAbs s va 16)) 16)
    (issueLoad (s.qualIf (h ≠ 2)) .ls (.v t) (.v t) false (lsAbs s va 16) 16 (o = 1) 2)

/-- R206. -/
def execLdGQ (t : VReg) (b : SReg) (h : BitVec 2) (o : BitVec 1) (off : BitVec 4) (s : State) : Out :=
  let va := cmAddr (s.rs b) off 16
  guarded s (globalTrap s va 16 false) (redWait s va.toNat 16)
    (issueLoad s .global (.v t) (.v t) false va.toNat 16 (o = 1) h.toNat)

/-- R206: the scale's address is in s(b + 1). -/
def execLdGW4 (t : VReg) (b : SReg) (h : BitVec 2) (o : BitVec 1) (off : BitVec 4) (s : State) : Out :=
  let va := cmAddr (s.rs b) off 4
  let sc := s.rs (b + 1)
  guarded s ((globalTrap s va 4 true).orElse fun _ => globalTrap s sc 4 true)
    ((redWait s va.toNat 4).orElse fun _ => redWait s sc.toNat 4)
    (issueLoad s .global (.w4 t sc.toNat) (.v t) false va.toNat 4 (o = 1) h.toNat)

/-- R206: FMT.E4 is captured at issue. -/
def execLdGE4 (t : VReg) (b : SReg) (h : BitVec 2) (o : BitVec 1) (off : BitVec 4) (s : State) : Out :=
  let va := cmAddr (s.rs b) off 8
  guarded s (globalTrap s va 8 true) (redWait s va.toNat 8)
    (issueLoad s .global (.e4 t) (.v t) false va.toNat 8 (o = 1) h.toNat)

/-- The bytes of a v register. -/
def vBytes (v : BitVec 128) : List Byte := leBytes 16 v.toNat

/-- R208. -/
def execStLQ (t : VReg) (b : SReg) (h : BitVec 2) (o : BitVec 1) (off : BitVec 4) (s : State) : Out :=
  let va := cmAddr (s.rs b) off 16
  guarded s (lsTrap s va 16) (roomWait s 16)
    (issueStore (s.qualIf (h ≠ 2)) .ls (lsAbs s va 16) (vBytes (s.rv t)) (o = 1) 2)

/-- R208. -/
def execStGQ (t : VReg) (b : SReg) (h : BitVec 2) (o : BitVec 1) (off : BitVec 4) (s : State) : Out :=
  let va := cmAddr (s.rs b) off 16
  guarded s (globalTrap s va 16 false) (roomWait s 16)
    (issueStore s .global va.toNat (vBytes (s.rv t)) (o = 1) h.toNat)

/-! ### The read-only path -/

/-- R218: `ldc` is refused in a quadrille window (17 R429). -/
def execLdc (t b : SReg) (z : BitVec 2) (x : BitVec 1) (h : BitVec 2) (off : BitVec 4) (s : State) : Out :=
  let n := sizeOf z
  let va := cmAddr (s.rs b) off n
  guarded s (globalTrap s va n true) (redWait s va.toNat n)
    (issueLoad (s.qualIf (decide (x = 1 ∧ z = 3))) .global (.s t (signOf z x)) (.s t) true va.toNat n false h.toNat)

/-- Removes the marked lines of an L1. -/
def dropMarked (k : Core) : Core :=
  { k with l1 := fmapVals (fun _ set => set.filter fun x => !x.2.marked) k.l1 }

/-- Removes every marked line of a core's cluster (R220). -/
def rocInvAt (s : State) (core : Nat) : State :=
  (clusterCores (clusterOf core)).foldl (fun s c => s.onCore c dropMarked) s

/-- Whether an acquiring load or atomic of an activation has not returned. -/
def acquireOut (k : Core) (act : Nat) : Bool := k.accs.any fun x => decide (x.act = act) && x.acq

/-- R220: it comes after every earlier acquire, so that a line marked before that acquire's value was fixed does not outlive it (11 R312;
log 83). -/
def execRocInv (s : State) : Out :=
  guarded s none (if acquireOut s.cc s.me.id then some s else none) (rocInvAt s s.cur)

/-! ### Tiles -/

/-- The executing activation's region as an owner. -/
def Act.own (a : Act) : Own := ⟨a.part, a.rp⟩

/-- Whether an entry belongs to an activation's region and, in an open reel, to its entrant (R238, 17 R450). -/
def Tile.mine (t : Tile) (a : Act) (ent : Option Nat) : Bool :=
  decide (t.owner = some a.own) && (t.ent.isNone || decide (t.ent = ent))

/-- A tile change applied to an entry (Table 7.12). -/
def tileStep (c : TileChg) (t : Tile) : Tile :=
  match c with
  | .fill => if t.st = 0 ∨ t.st = 2 then { t with st := 1 } else t
  | .ready => if t.st = 0 ∨ t.st = 1 then { t with st := 2 } else t
  | .drop => if t.st = 1 ∨ t.st = 2 then { t with st := 0 } else t
  | .free => Tile.reset

/-- The current activation's view of an entry: its own changes that are not performed included (R242). -/
def tileView (s : State) (n : Nat) : Tile :=
  (ownOps s s.cur s.me.prog).foldl (fun t op =>
    match op with
    | .tile c m => if m = n then tileStep c t else t
    | _ => t) ((s.cluster (clusterOf s.cur)).tile n)

/-- Whether the current activation owns an entry in its own view. -/
def tileOwned (s : State) (n : Nat) : Bool := (tileView s n).mine s.me (entrantOf s s.mypart s.me.rp s.cur)

def tileTrap (s : State) (aw : Bool) (n : Nat) : Option Trap :=
  if tileOwned s n then none else some (issueTrapAt s cTILE aw (BitVec.ofNat 64 n))

/-- The checks of `ld.s` and `st.s` (R207). -/
def spadTrap (s : State) (n : Nat) (off : Word) (size : Nat) : Option Trap :=
  (alignTrap s off size).orElse fun _ =>
    (tileTrap s false n).orElse fun _ =>
      if 2048 * (tileView s n).gran ≤ off.toNat then
        some (issueTrapAt s cACCESS false (BitVec.ofNat 64 (n * 2 ^ 21 ||| min off.toNat 0x1FFFFF)))
      else none

/-- Waits until a tile is in one of the states given, as the activation sees it (R207, R254); bytes that a swap has
not brought back are waited for (20 R473). -/
def tileWait (s : State) (n : Nat) (ok : List Nat) : Option State :=
  let t := tileView s n
  if ok.contains t.st && !t.refill then none else some (s.waitOn (.tile n ok))

/-- Waits until the bytes of a tile that a swap has not brought back are there, whatever its state (20 R473). -/
def refillWait (s : State) (n : Nat) : Option State := if (tileView s n).refill then some (s.waitOn (.tile n [0, 1, 2, 3])) else none

/-- R207: `ld.s` always zero-extends. -/
def execLdS (t : SReg) (tile : BitVec 8) (b : SReg) (z : BitVec 2) (s : State) : Out :=
  let n := sizeOf z
  let off := s.rs b
  let a := (tileView s tile.toNat).base * 2048 + off.toNat
  guarded s (spadTrap s tile.toNat off n) ((tileWait s tile.toNat [2]).orElse fun _ => redWaitAt s (placeOf s.cur .spad a) n)
    (issueLoad s .spad (.s t false) (.s t) false a n false 2)

/-- R207. -/
def execStS (t : SReg) (tile : BitVec 8) (b : SReg) (z : BitVec 2) (s : State) : Out :=
  let n := sizeOf z
  let off := s.rs b
  guarded s (spadTrap s tile.toNat off n) ((tileWait s tile.toNat [1, 2]).orElse fun _ => roomWait s n)
    (issueStore s .spad ((tileView s tile.toNat).base * 2048 + off.toNat) (leBytes n (s.rs t).toNat) false 2)

/-- Granules of a cluster that extents hold. -/
def gransUsed (c : Cluster) : List (Nat × Nat) := (c.tiles.filter (fun x => decide (x.2.gran ≠ 0))).map fun x => (x.2.base, x.2.gran)

/-- The lowest-addressed run of free granules (R240). -/
def freeRun (c : Cluster) (n : Nat) : Option Nat :=
  let used := gransUsed c
  (List.range (1025 - n)).find? fun b => used.all fun u => decide (u.1 + u.2 ≤ b ∨ b + n ≤ u.1)

/-- Claims an entry with an extent of zeros (R240). -/
def claimTile (s : State) (cl t base n : Nat) (o : Own) (ent : Option Nat) (st : Nat) : State :=
  s.used1.onCluster cl fun c =>
    { c with tiles := fset c.tiles t { owner := some o, ent := ent, st := st, base := base, gran := n, refill := false,
                                       claim := s.fresh },
             spad := c.spad.filter fun x => decide (x.1 < base * 2048 ∨ (base + n) * 2048 ≤ x.1) }

/-- Status of a claim (Table 7.13a) and the base of its extent; it tests the table as performed (DESIGN CHOICE, log 94). -/
def claimStatus (s : State) (t : Nat) (n : Nat) : Nat × Nat :=
  let c := s.cluster (clusterOf s.cur)
  let x := c.tile t
  let budget := fieldOf (hwPeek s s.mypart (s.me.rp + 16)) 48 9
  let held := (c.tiles.filter (fun y => decide (y.2.owner = some s.me.own))).length
  if n = 0 ∨ 1024 < n then (4, 0)
  else if x.owner.isSome ∨ x.st = 3 then (1, 0)
  else if budget ≤ held then (2, 0)
  else
    match freeRun c n with
    | some b => (0, b)
    | none => (3, 0)

/-- R240: performed at issue, after the wait of R229. -/
def execTileClaim (d a b : SReg) (s : State) : Out :=
  let t := bitsNat (s.rs a) 7 0
  let n := (s.rs b).toNat
  let r := claimStatus s t n
  guarded s none ((waitConfirm s).orElse fun _ => refillWait s t)
    (if r.1 = 0 then
      (((claimTile s (clusterOf s.cur) t r.2 n s.me.own (entrantOf s s.mypart s.me.rp s.cur) 0).onMe fun m =>
        { m with claims := m.claims ++ [(clusterOf s.cur, t, s.fresh)] }).ws d 0)
    else s.ws d (BitVec.ofNat 64 r.1))

/-- A buffered tile change (R241). -/
def tileChange (a : SReg) (c : TileChg) (s : State) : Out :=
  let n := bitsNat (s.rs a) 7 0
  guarded s (tileTrap s false n) ((refillWait s n).orElse fun _ => roomWait s 8) (rbAppend s 8 (.tile c n))

/-- R241. -/
def execTileFree (a : SReg) (s : State) : Out := tileChange a .free s
/-- R239. -/
def execTileFill (a : SReg) (s : State) : Out := tileChange a .fill s
/-- R239. -/
def execTileReady (a : SReg) (s : State) : Out := tileChange a .ready s
/-- R239. -/
def execTileDrop (a : SReg) (s : State) : Out := tileChange a .drop s

/-- Table 7.13. -/
def tileStatWord (t : Tile) (mine : Bool) : Word :=
  BitVec.ofNat 64 ((if t.owner.isSome then t.gran * 2 ^ 20 + t.base * 2 ^ 8 else 0) + (if mine then 4 else 0) + t.st % 4)

/-- R243. -/
def execTileStat (d a : SReg) (s : State) : Out :=
  let n := bitsNat (s.rs a) 7 0
  guarded s (tileTrap s false n) none (s.ws d (tileStatWord (tileView s n) (tileOwned s n)))

/-! ### `clean` and `up.resume` -/

/-- R234, R235: a range of 0 bytes has no effect. -/
def execClean (a b : SReg) (s : State) : Out :=
  let len := s.rs b
  guarded s (if 2 ^ 30 < len.toNat then some (issueTrapAt s cACCESS false len) else none)
    (if len = 0 then none else roomWait s 8)
    (if len = 0 then s else rbAppend s 8 (.clean (s.rs a).toNat len.toNat))

def fibreBase (n : Nat) : Nat := 0x1C000 + 0x480 * n

/-- R233: an empty slot has no effect, nor has one that no activation is parked in though software set its STATE (DESIGN CHOICE, log 89). -/
def execUpResume (a : SReg) (s : State) : Out :=
  let n := bitsNat (s.rs a) 2 0
  let k := s.cc
  guarded s none (waitConfirm s)
    (if lsWord k (fibreBase n + 0x470) % 2 = 1 ∧ (fget k.fibres n).isSome then
      enqueue (s.onCC fun k => lsPoke k (fibreBase n + 0x470) 0) s.cur (.fibre n)
        (fieldOf (lsWord k (fibreBase n + 0x468)) 8 3)
    else s)

end Sys2Proof.Machine
end

