-- ==== Sys2Proof/Machine/Access.lean ====
section
/-! DEFINITION. What becomes of accesses after issue (07 R202, R203, R210-R216, R221-R231, R234-R237, R496): loads
performed, drained stores performed, confirmation, late faults, page upcalls, walks, `clean`, hotness samples. -/

namespace Sys2Proof.Machine

/-! ### Requests on their way -/

/-- The outstanding access of a number: its core and itself. -/
def State.access (s : State) (id : Nat) : Option (Nat × Access) :=
  s.cores.findSome? fun (c, k) => (k.accs.find? (fun x => decide (x.id = id))).map fun x => (c, x)

def State.setAcc (s : State) (core id : Nat) (st : AccSt) : State :=
  s.onCore core fun k => { k with accs := k.accs.map fun x => if x.id = id then { x with st := st } else x }

/-- Undo entries that an unconfirmed access may still need (R228). -/
def trimUndo (k : Core) : Core :=
  match (k.accs.filter Access.open_).map (·.seq) with
  | [] => { k with undo := [] }
  | q :: qs => { k with undo := k.undo.filter fun u => decide (qs.foldl min q < u.seq) }

def State.dropAcc (s : State) (core id : Nat) : State :=
  s.onCore core fun k => trimUndo { k with accs := k.accs.filter fun x => decide (x.id ≠ id) }

def State.failAcc (s : State) (core id cause : Nat) (tval : Word) (level : Nat) : State :=
  s.setAcc core id (.failed cause tval level)

/-- An access fails where it stands: at its core, or in the saved state of a partition that is out (20 R475). -/
def State.failOf (s : State) (part core id cause : Nat) (tval : Word) : State :=
  s.onCoreOf part core fun k => { k with accs := k.accs.map fun x => if x.id = id then { x with st := .failed cause tval 0 } else x }

/-- The drained effect of a number. -/
def State.flight (s : State) (id : Nat) : Option Flight := s.flights.find? fun f => decide (f.id = id)
def State.dropFlight (s : State) (id : Nat) : State := { s with flights := s.flights.filter fun f => decide (f.id ≠ id) }

/-- Effects that wait for every earlier effect of their activation (Table 11.3, R235, R241, R350). -/
def RbOp.release : RbOp → Bool
  | .store _ _ _ rel _ => rel
  | .red _ _ _ _ rel _ => rel
  | .launch .. | .kill _ => false
  | _ => true

/-- Whether a drained effect may be performed now: earlier effects of the activation that it follows are performed. -/
def flightReady (s : State) (f : Flight) : Bool :=
  ((s.flights.takeWhile (fun g => decide (g.id ≠ f.id))).filter (fun g => decide (g.act = f.act))).all fun g =>
    !f.op.release &&
      (match f.range s, g.range s with
       | some (a, n), some (b, m) => !overlap a n b m
       | _, _ => true)

/-! ### Places (R200-R203, R212) -/

/-- Where an access lands. -/
inductive Loc where
  | home (pte : Word) (pa : Nat)
  | window (core off : Nat)
  | wait
  | fault (cause level : Nat)

/-- Translation under two permissions. -/
def xlate2 (s : State) (part va : Nat) (p q : Perm) : Xl :=
  match xlate s part va p with
  | .ok .. => xlate s part va q
  | x => x

/-- The port of a local-store window access (R202). -/
def windowLoc (s : State) (part core off n : Nat) : Loc :=
  if corePresent s core && decide ((s.core core).part = some part ∧ off + n ≤ 0x1C000) then .window core off
  else .fault cACCESS 0

/-- Routes an access that needs one or two permissions. Quadrille windows are reached by WINDOW_ACCESS. -/
def locate (s : State) (part va n : Nat) (p q : Perm) : Loc :=
  match vaKind va with
  | .translated =>
    match xlate2 s part va p q with
    | .ok pte _ pa => .home pte pa
    | .miss => .wait
    | .fault c l => .fault c l
  | .window core off => windowLoc s part core off n
  | .quad .. => .wait
  | .unassigned => .fault cACCESS 0

/-! ### L1 (R213, R218, R280) -/

/-- Places a line in an L1; a near-owned victim is written back, an unmarked one leaves the directory. -/
def l1Fill (s : State) (core part va : Nat) (data : BitVec 256) (rrpv : Nat) (marked own : Bool) : State :=
  let i := l1Set va
  let set : FMap L1Line := (fget (s.core core).l1 i).getD []
  -- an ordinary line takes the place of a marked copy of it
  let same := (set.find? fun x => decide (x.2.part = part ∧ x.2.tag = va / 32)).map (·.1)
  let (w, vals) := match same with
    | some w => (w, set.map fun x => (x.1, x.2.rrpv))
    | none => rripPick 8 (set.map fun x => (x.1, x.2.rrpv))
  let s := match fget set w with
    | some old =>
      let va' := old.tag * 32
      let h := homeOf s va'
      let s := if old.own then nearRecall s h old.part va' else s
      if old.marked then s
      else match lineFind (s.slice h) old.part va' with
        | some (lw, l) => s.onSlice h fun g => linePut g va' lw { l with sharers := l.sharers.filter (· ≠ core) }
        | none => s
    | none => s
  let line : L1Line := { part := part, tag := va / 32, data := data, rrpv := rrpv, marked := marked, own := own }
  s.onCore core fun k =>
    let set := fmapVals (fun w (l : L1Line) => { l with rrpv := (fget vals w).getD l.rrpv }) ((fget k.l1 i).getD [])
    { k with l1 := fset k.l1 i (fset set w line) }

/-- A hit sets the value to 0 (Table 7.4). -/
def l1Hit (s : State) (core va w : Nat) (l : L1Line) : State :=
  s.onCore core fun k =>
    let i := l1Set va
    { k with l1 := fset k.l1 i (fset ((fget k.l1 i).getD []) w { l with rrpv := 0 }) }

/-- The directory records a sharer. -/
def shareLine (s : State) (h part va core : Nat) : State :=
  match lineFind (s.slice h) part va with
  | some (w, l) => s.onSlice h fun g => linePut g va w { l with sharers := core :: l.sharers.filter (· ≠ core) }
  | none => s

/-! ### Reading and writing at a place -/

inductive Rd where
  | wait (s : State)
  | fault (s : State) (cause level : Nat)
  | ok (s : State) (b : List Byte)

/-- An uncorrectable DRAM error (20 R493): MEMERR is reported with the physical address. -/
def memErr (s : State) (part pa : Nat) : State :=
  report s (.ed (paEdge s pa)) none 6 cACCESS part (BitVec.ofNat 64 pa)

/-- Whether an access reads DRAM: its line is not in the slice. -/
def needsDram (s : State) (part va pa : Nat) : Bool :=
  !paHost pa && (lineFind (s.slice (homeOf s va)) part va).isNone

/-- A load of n bytes of one line by a core, through its L1 or the read-only path (R212, R213, R218). -/
def readPiece (s : State) (core part va n hint : Nat) (roc err : Bool) : Rd :=
  match vaKind va with
  | .translated =>
    let k := if roc then 4 * clusterOf core + va / 32 % 4 else core
    match l1Find (s.core k) part va roc with
    | some (w, l) => .ok (l1Hit s k va w l) (((lineBytes l.data).drop (va % 32)).take n)
    | none =>
      match xlate s part va .r with
      | .miss => .wait s
      | .fault c l => .fault (walkedTake s part va) c l
      | .ok pte _ pa =>
        match homeWait s part va pte pa false with
        | some s => .wait s
        | none =>
          let s := countReq (tlbTouch s part va) part va core (if roc then 3 else 0)
          if paHost pa then .ok s (physRead s pa n)
          else if err && needsDram s part va pa then .fault (memErr s part pa) cACCESS 0
          else
            let h := homeOf s va
            let (s, b) := homeRead s part va pa (pteRemote s pte) n hint
            let data := lineOf (lineData s h part va)
            let s := if roc then s else shareLine s h part va core
            .ok (l1Fill s k part va data hint roc false) b
  | .window c off =>
    match windowLoc s part c off n with
    | .window c off => .ok s (mread (s.core c).ls off n)
    | _ => .fault s cACCESS 0
  | .quad .. => .wait s
  | .unassigned => .fault s cACCESS 0

/-! ### Loads (R206, R209, R210, R212) -/

/-- The pieces that are each read whole (11 R291): two halves of 16 bytes. -/
def halves (a n : Nat) : List (Nat × Nat) := if n = 16 then [(a, 8), (a + 8, 8)] else [(a, n)]

/-- The pieces that a load reads in its space. -/
def loadPieces (x : Access) : List (Nat × Nat) :=
  match x.kind with
  | .load .global (.w4 _ sc) _ => [(x.va, 4), (sc, 4)]
  | .load .global (.stat _) _ => [(x.va + 8, 8), (x.va + 64, 8)]
  | .load .. => halves x.va x.size
  | _ => []

/-- The pieces of a load that are not read yet, with their numbers. -/
def Access.todo (x : Access) : List (Nat × Nat × Nat) :=
  ((loadPieces x).zipIdx.map fun p => (p.2, p.1)).filter fun p => (fget x.got p.1).isNone

/-- Addresses of global memory that an access reads as a load does. -/
def globalPieces (x : Access) : List (Nat × Nat) :=
  match x.kind with
  | .load .global .. => loadPieces x
  | _ => []

/-- Effects of a program that precede a bundle, oldest first (R209). -/
def olderOps (s : State) (core prog seq : Nat) : List RbOp :=
  flownOps s core prog ++ bufferedOps s core fun e => decide (e.seq < seq)

/-- Bytes of memory with the activation's own earlier stores over them. -/
def merged (ops : List RbOp) (sp : Space) (a : Nat) (b : List Byte) : List Byte :=
  b.mapIdx fun i x => (storedByte sp (a + i) ops).getD x

/-- The register value that a load's bytes give (R206), and the flags that a widening sets (03 R94). -/
def loadValue (dst : LdDst) (e4 : Bool) (bs : List (List Byte)) : Reg × BitVec 128 × Word :=
  let b := bs.getD 0 []
  match dst with
  | .s r sign =>
    let v := BitVec.ofNat (8 * b.length) (ofLe b)
    (.s r, (if sign then (v.signExtend 64).setWidth 128 else v.setWidth 128), 0)
  | .v r => (.v r, BitVec.ofNat 128 (ofLe bs.flatten), 0)
  | .w4 r _ =>
    let sc := BitVec.ofNat 32 (ofLe (bs.getD 1 []))
    let w := ofLe b
    let l := Flagged.all ((List.range 8).map fun e => widenQ4 (BitVec.ofNat 4 (w / 16 ^ e)) sc)
    (.v r, BitVec.ofNat 128 (l.val.foldr (fun x r => x + 65536 * r) 0), l.flags)
  | .e4 r =>
    let l := Flagged.all (b.map fun c => widenE4 e4 c)
    (.v r, BitVec.ofNat 128 (l.val.foldr (fun x r => x + 65536 * r) 0), l.flags)
  | .stat r =>
    (.s r, BitVec.ofNat 128 (rcbState (ofLe b) + min (ofLe (bs.getD 1 [])) (2 ^ 32 - 1) * 2 ^ 32), 0)

/-- Writes an interlocked result to an activation's live register (R36), if it waits for one (02 R51, DUAL). -/
def landReg (a : Act) (r : Reg) (v : BitVec 128) : Act :=
  if a.pend.contains r then { a with regs := a.regs.put r v, pend := a.pend.filter (· ≠ r) } else a

/-- Changes the activation of a number on a core. -/
def State.onActId (s : State) (core act : Nat) (f : Act → Act) : State :=
  match ctxOf (s.core core) act with
  | some x => s.onAct core x f
  | none => s

/-- Earlier accesses of the same activation. -/
def before_ (k : Core) (x : Access) : List Access :=
  (k.accs.takeWhile (fun y => decide (y.id ≠ x.id))).filter fun y => decide (y.act = x.act)

/-! ### Rows and scales of `mx.ldw` (06 R182) -/

/-- Addresses that an `mx.ldw` reads, each with its size. -/
def ldwPieces (q4 : Bool) (sa sb : Word) : List (Nat × Nat) :=
  let rpg := bitsNat sb 19 0
  let ds : Word := (BitVec.ofNat 44 (bitsNat sb 63 20)).signExtend 64
  let row := fun (r : Nat) => (sa + BitVec.ofNat 64 (r * rpg)).toNat
  if q4 then
    (List.range 64).flatMap fun r => [(row r, 8), ((sa + ds + BitVec.ofNat 64 (4 * r)).toNat, 4)]
  else (List.range 64).flatMap fun r => halves (row r) 16

def ldwPiecesOf : MxOp → List (Nat × Nat)
  | .ldw q4 _ sa sb => ldwPieces q4 sa sb
  | _ => []

/-- The x register that the pieces of an `mx.ldw` make, and the flags of its roundings. -/
def ldwValue (q4 e4 : Bool) (bs : List (List Byte)) : BitVec 16384 × Word :=
  let elems := fun (r e : Nat) =>
    if q4 then
      let g := ofLe (bs.getD (2 * r) [])
      widenQ4 (BitVec.ofNat 4 (g / 16 ^ e)) (BitVec.ofNat 32 (ofLe (bs.getD (2 * r + 1) [])))
    else widenE4 e4 ((bs.getD (2 * r + e / 8) []).getD (e % 8) 0)
  let rows := (List.range 64).map fun r => (Flagged.all ((List.range 16).map (elems r))).map fun l => l.foldr (fun x t => x + 65536 * t) 0
  let all := Flagged.all rows
  (BitVec.ofNat 16384 (all.val.foldr (fun x t => x + 2 ^ 256 * t) 0), all.flags)

/-- The request of an access that reads the rows and scales of an `mx.ldw`. -/
def ldwReq (k : Core) (x : Access) : Option MxReq :=
  match x.kind with
  | .ldw q => k.mxq.find? fun r => decide (r.id = q)
  | _ => none

/-- The pieces of an `mx.ldw` that are not read yet, with their numbers. -/
def ldwTodo (k : Core) (x : Access) : List (Nat × Nat × Nat) :=
  (((ldwReq k x).map fun r => (ldwPiecesOf r.op).zipIdx.map fun p => (p.2, p.1)).getD []).filter fun p => (fget x.got p.1).isNone

/-! ### When a load may be performed -/

/-- The partition and the region of the activation that made an access. -/
def ranIn (s : State) (x : Access) : Nat × Nat :=
  match s.findAct x.act with
  | some a => (a.part, a.rp)
  | none => (0, 0)

/-- The space that an access reads as a load does. -/
def Access.space (x : Access) : Option Space :=
  match x.kind with
  | .load sp _ _ => some sp
  | .ldw _ => some .global
  | _ => none

/-- The places of pieces of an access. -/
def placesOf (s : State) (core : Nat) (x : Access) (pieces : List (Nat × Nat)) : List (Nat × Nat) :=
  match x.space with
  | some .global => let r := ranIn s x; pieces.map fun p => (globalPlace s core r.1 r.2 p.1 p.2, p.2)
  | some sp => pieces.map fun p => (placeOf core sp p.1, p.2)
  | none => []

/-- The places that an outstanding load has still to read. -/
def unread (s : State) (core : Nat) (x : Access) : List (Nat × Nat) :=
  placesOf s core x ((x.todo ++ ldwTodo (s.core core) x).map (·.2))

/-- Whether a load may not be performed before an earlier one: they read one location, or lines of translated memory of which the
earlier misses (R291). -/
def sameLine (p q : Nat × Nat) : Bool :=
  if vaKind p.1 = .translated then p.1 / 32 == q.1 / 32 else overlap p.1 p.2 q.1 q.2

/-- Whether an earlier access that is not performed holds up the reading of places: a load of them, or an atomic on them. -/
def holdsUp (s : State) (core : Nat) (y : Access) (places : List (Nat × Nat)) : Bool :=
  y.live && (match y.kind with
    | .atom .. =>
      let r := ranIn s y
      places.any fun q => overlap (globalPlace s core r.1 r.2 y.va y.size) y.size q.1 q.2
    | _ => (unread s core y).any fun p => places.any fun q => sameLine p q)

/-- Rows and chunks of a request's scratchpad operand, with the operand. -/
def MxOp.opnd : MxOp → Option (Opnd × Nat × Nat)
  | .ld two tr _ sa sb => some (Opnd.of sa sb, if tr then (32, 2) else (64, if two then 2 else 1))
  | .ast bf16 _ sa sb => some (Opnd.of sa sb, 64, if bf16 then 4 else 8)
  | .ald _ sa sb => some (Opnd.of sa sb, 64, 8)
  | _ => none

/-- The places of a matrix request's scratchpad operand, chunk by chunk (06 R178). -/
def MxOp.places (s : State) (core : Nat) (op : MxOp) : List (Nat × Nat) :=
  match op.opnd with
  | some (o, rows, chunks) =>
    (List.range rows).flatMap fun r => (List.range chunks).map fun c =>
      (placeOf core .spad (o.byte (fun t => ((s.cluster (clusterOf core)).tile t).base) r c), 32)
  | none => []

/-- Whether a matrix request of the program, earlier than a bundle and not started, names places: its reads are loads, and its stores
are in program order (06 R198). -/
def mxHoldsUp (s : State) (x : Access) (places : List (Nat × Nat)) : Bool :=
  s.cores.any fun c => c.2.mxq.any fun r =>
    decide (r.prog = x.prog ∧ r.id < x.id ∧ ¬(r.act = x.act ∧ r.seq = x.seq)) && !r.started &&
      (r.op.places s c.1).any fun p => places.any fun q => overlap p.1 p.2 q.1 q.2

/-- Whether pieces of a load may be read: no earlier acquire is out (R210, R278), no earlier load or matrix request has still to read one
of their locations (R291), and the program's own effects and atomics on their bytes are performed (10 R281, 12 "One port performs the
activation's accesses in order"). -/
def loadReady (s : State) (core : Nat) (x : Access) (pieces : List (Nat × Nat)) : Bool :=
  let places := placesOf s core x pieces
  ((before_ (s.core core) x).all fun y => !y.acq && !holdsUp s core y places) && !mxHoldsUp s x places &&
    places.all fun p => !portBusy s x.prog p.1 p.2

/-- Flags that a result sets when it lands (03 R92): they also stand in what later bundles of the
activation recorded for undoing, and a waiting write of FLAGS clears none that its own bundle sets. -/
def landFlags (s : State) (core act seq : Nat) (f : Word) : State :=
  if f = 0 then s
  else
    (s.onActAll act fun a =>
        { a with flags := a.flags ||| f
                 flagsWr := a.flagsWr.map fun (v, o) => (v, if a.seq ≤ seq then o ||| f else o) }).onCore core fun k =>
      if k.running.map (·.2.id) ≠ some act then k else
      { k with undo := k.undo.map fun u => match u.item with
          | .flags o => if seq < u.seq then { u with item := .flags (o ||| f) } else u
          | _ => u }

/-- Ends a load with its bytes. -/
def landLoad (s : State) (core : Nat) (x : Access) (dst : LdDst) (bs : List (List Byte)) : State :=
  let (r, v, f) := loadValue dst x.e4 bs
  let s := if x.dual then s else s.onActId core x.act fun a => landReg a r v
  (landFlags s core x.act x.seq f).dropAcc core x.id

/-- The pieces that are read now: a single one that is left, else all of them, or one of them, a free choice (R291). -/
def choosePieces (s : State) (l : List (Nat × Nat × Nat)) : State × List (Nat × Nat × Nat) :=
  match l with
  | [] => (s, [])
  | [p] => (s, [p])
  | l => if s.freeBit then (s.used, l) else (s.used.used, [l.getD (Config.freeNat (s.free + 1) % l.length) (0, 0, 0)])

/-- Bytes of a piece as the activation sees them (R209): where it lies, with the earlier effects of the program over it. -/
def seenPiece (s : State) (core : Nat) (x : Access) (sp : Space) (a : Nat) (b : List Byte) : List Byte :=
  let (sp, a) := if sp = .global then (let r := ranIn s x; nearPlace s core r.1 r.2 a b.length) else (sp, a)
  merged (olderOps s core x.prog x.seq) sp a b

/-- Bytes of a piece of a port. -/
def portBytes (s : State) (core : Nat) (sp : Space) (a n : Nat) : List Byte :=
  match sp with
  | .ls => mread (s.core core).ls a n
  | _ => mread (s.cluster (clusterOf core)).spad a n

/-- Notes a piece of an access as read. -/
def State.gotPiece (s : State) (core id i : Nat) (b : List Byte) : State :=
  s.onCore core fun k => { k with accs := k.accs.map fun x => if x.id = id then { x with got := fset x.got i b } else x }

/-- The address of the access that a piece is of: halves are of a 16-byte access, aligned (R202). -/
def pieceVa (halved : Bool) (va : Nat) : Nat := if halved then va / 16 * 16 else va

/-- Whether an access reads 16 bytes in halves. -/
def Access.halved (k : Core) (x : Access) : Bool :=
  match x.kind with
  | .ldw _ => (ldwReq k x).any fun r => match r.op with
    | .ldw q4 .. => !q4
    | _ => false
  | _ => decide (x.size = 16)

/-- Reads pieces of global memory in turn, each noted once it is read. A piece that waits or fails ends the reading. -/
def readChosen (core : Nat) (x : Access) (hint : Nat) (roc err : Bool) : List (Nat × Nat × Nat) → State → State × Bool
  | [], s => (s, true)
  | (i, va, n) :: r, s =>
    match readPiece s core (((s.core core).part).getD 0) va n hint roc err with
    | .ok s b => readChosen core x hint roc err r (s.gotPiece core x.id i (seenPiece s core x .global va b))
    | .wait s => (s, false)
    | .fault s c l => (s.failAcc core x.id c (BitVec.ofNat 64 (pieceVa (x.halved (s.core core)) va)) l, false)

/-- The bytes of the pieces of an access that is read whole. -/
def gotBytes (x : Access) (n : Nat) : List (List Byte) := (List.range n).map fun i => (fget x.got i).getD []

/-- A load that is not an `mx.ldw` performed: the pieces chosen are read, and with the last its value lands. -/
def performLoad (s : State) (core : Nat) (x : Access) (sp : Space) (dst : LdDst) (roc err : Bool) : State :=
  let (s, ps) := choosePieces s x.todo
  let (s, ok) : State × Bool := match sp with
    | .global => readChosen core x x.hint roc err ps s
    | sp => (ps.foldl (fun (s : State) (p : Nat × Nat × Nat) => s.gotPiece core x.id p.1 (seenPiece s core x sp p.2.1 (portBytes s core sp p.2.1 p.2.2))) s, true)
  if !ok then s
  else
    match (s.core core).accs.find? (fun y => decide (y.id = x.id)) with
    | some x => if x.todo.isEmpty then landLoad s core x dst (gotBytes x (loadPieces x).length) else s
    | none => s

/-- Performs one piece of a started `mx.ldw`, a free choice among those not yet read; the last completes the access. -/
def performLdw (s : State) (core : Nat) (x : Access) (err : Bool) : State :=
  match ldwReq (s.core core) x with
  | none => s.dropAcc core x.id
  | some r =>
    let todo := ldwTodo (s.core core) x
    match todo[s.freeNat % max 1 todo.length]? with
    | none => s.dropAcc core x.id
    | some p =>
      if !r.started || !loadReady s core x [p.2] then s
      else
        let (s, ok) := readChosen core x 2 false err [p] s.used
        let x := ((s.core core).accs.find? (fun y => decide (y.id = x.id))).getD x
        if !ok || !(ldwTodo (s.core core) x).isEmpty then s
        else
          let q4 := match r.op with
            | .ldw q .. => q
            | _ => false
          let (v, fl) := ldwValue q4 r.e4 (gotBytes x (ldwPiecesOf r.op).length)
          (s.onCore core fun k =>
            { k with mxq := k.mxq.map fun y => if y.id = r.id then { y with res := .x [v], flags := fl } else y }).dropAcc core x.id

/-- R212: a load is performed at its home or port and its value lands. With `err` an uncorrectable error strikes the
DRAM read (20 R493). -/
def execLoadPerform (core id : Nat) (err : Bool) (s : State) : Out :=
  .next (match (s.core core).accs.find? (fun x => decide (x.id = id)) with
    | none => s
    | some x =>
      match x.st, x.kind with
      | .pending, .load sp dst roc => if loadReady s core x (x.todo.map (·.2)) then performLoad s core x sp dst roc err else s
      | .pending, .ldw _ => performLdw s core x err
      | _, _ => s)

/-! ### Confirmation of buffered effects (R228) -/

/-- Operations that the host coherence agent supports (Table 10.2). -/
def hostAtom (op : AtomOp) (ty : AtomTy) : Bool :=
  (ty == .i64 || ty == .n64) && (op == .add || op == .swap || op == .cas)

/-- A warning of an access whose bundle has issued: it counts unless the bundle has counted already (R52). -/
def warnLate (x : Access) (k : Core) : Core :=
  { warnCore { k with earned := if x.warned then wQUAL else 0 } wQUAL x.pc with earned := k.earned }

/-- `.near` to host memory executes as `.far` and warns when the home is known (R272). -/
def nearHostWarn (s : State) (core part : Nat) (x : Access) (near : Bool) : State :=
  match near, locate s part x.va 1 .r .w with
  | true, .home _ pa => if paHost pa then s.onCore core (warnLate x) else s
  | _, _ => s

/-- R228: a probe is answered. -/
def execAccessConfirm (core id : Nat) (s : State) : Out :=
  .next (match (s.core core).accs.find? (fun x => decide (x.id = id)) with
    | none => s
    | some x =>
      match x.st, x.kind with
      | .pending, .probe near red =>
        let part := ((s.core core).part).getD 0
        match locate s part x.va x.size (if red.isSome then .r else .w) .w with
        | .wait => s
        | .fault c l => (walkedTake s part x.va).failAcc core id c (BitVec.ofNat 64 x.va) l
        | .window .. => s.dropAcc core id
        | .home _ pa =>
          match red with
          | some (op, ty) =>
            let s := nearHostWarn s core part x near
            if paHost pa && !hostAtom op ty then s.failAcc core id cATOM (BitVec.ofNat 64 x.va) 0 else s.dropAcc core id
          | none => s.dropAcc core id
      | _, _ => s)

/-! ### Drained effects performed (R213, R496) -/

/-- R496: the effect is dropped with a DFAULT event. -/
def dropDrained (s : State) (f : Flight) (cause va : Nat) : State :=
  let die := match vaKind va with
    | .translated => homeOf s va / 32
    | _ => dieOf f.core
  (report s (.cd die) (some f.core) 9 cause f.part (BitVec.ofNat 64 va)).dropFlight f.id

/-- A drained global store at its place. -/
def storeAt (s : State) (f : Flight) (va : Nat) (b : List Byte) (hint : Nat) : State :=
  match locate s f.part va b.length .w .w with
  | .wait => s
  | .fault c _ => dropDrained (walkedTake s f.part va) f c va
  | .window core off => (lsStore s core off b).dropFlight f.id
  | .home pte pa =>
    match homeWait s f.part va pte pa true with
    | some s => s
    | none =>
      let s := countReq (tlbTouch s f.part va) f.part va f.core 1
      (homeWrite s (some f.core) f.part va pa (pteRemote s pte) b hint).dropFlight f.id

/-- A tile change that drains (R241): it takes effect only on an entry that the activation's region, and its entrant
while a reel is open, still owns. -/
def tileDrain (s : State) (f : Flight) (c : TileChg) (n : Nat) : State :=
  let cl := clusterOf f.core
  let t := (s.cluster cl).tile n
  if decide (t.owner = some ⟨f.part, f.rp⟩) && (t.ent.isNone || decide (t.ent = f.ent)) then
    match c with
    | .free => tileRelease s cl n
    | c => s.onCluster cl fun x => x.onTile n (tileStep c)
  else s

/-- Whether a drained store meets no fault where it goes. -/
def storeClear (s : State) (f : Flight) (sp : Space) (a n : Nat) : Bool :=
  match sp with
  | .global => match locate s f.part a n .w .w with
    | .home .. => true
    | .window .. => true
    | _ => false
  | _ => true

/-- Where a store of n bytes at an address is cut, a free choice among its aligned 8-byte parts (11 R291); 0 leaves it whole. -/
def storeCut (s : State) (a n : Nat) : Nat :=
  let c := 8 * (s.freeNat % ((n + 7) / 8 + 1)) - a % 8
  if c < n then c else 0

/-- A drained store that is longer than 8 bytes may be performed in parts, which then go on their own, in either order. -/
def cutFlight (s : State) (f : Flight) (sp : Space) (a : Nat) (b : List Byte) (rel : Bool) (hint c : Nat) : State :=
  let lo := { f with op := .store sp a (b.take c) rel hint }
  let hi := { lo with id := s.fresh, op := .store sp (a + c) (b.drop c) rel hint }
  let two := if Config.freeBit (s.free + 1) then [lo, hi] else [hi, lo]
  { s.used.used.used1 with flights := s.flights.flatMap fun g => if g.id = f.id then two else [g] }

/-- A drained store performed. -/
def storeNow (s : State) (f : Flight) (sp : Space) (a : Nat) (b : List Byte) (hint : Nat) : State :=
  match sp with
  | .global => storeAt s f a b hint
  | sp => (portStore s f.core sp a b).dropFlight f.id

/-- R213, R241, 13 R358: a drained store, tile change or barrier free is performed. -/
def execStorePerform (id : Nat) (s : State) : Out :=
  .next (match s.flight id with
    | none => s
    | some f =>
      if !flightReady s f then s
      else
        match f.op with
        | .store sp a b rel hint =>
          if 8 < b.length ∧ storeClear s f sp a b.length ∧ storeCut s a b.length ≠ 0 then cutFlight s f sp a b rel hint (storeCut s a b.length)
          else storeNow (if 8 < b.length then s.used else s) f sp a b hint
        | .tile c n => (tileDrain s f c n).dropFlight id
        | .barFree u =>
          let s := s.dropFlight id
          if ((s.die (u / 64)).bar (u % 64)).owner = some ⟨f.part, f.rp⟩ then barRelease s u else s
        | _ => s)

/-! ### Late faults (R230, 10 R277) -/

def Access.failedAs (x : Access) : Option (Nat × Word × Nat) :=
  match x.st with
  | .failed c t l => some (c, t, l)
  | _ => none

/-- Whether an access was made by the A-word of its bundle. -/
def Access.aw (x : Access) : Bool :=
  match x.kind with
  | .ldw _ => true
  | _ => false

/-- The oldest failed access of a core that no earlier access of its activation holds up, nor another one of its bundle: the other
word completes, or fails too (R230). -/
def lateOf (k : Core) : Option Access :=
  k.accs.find? fun x => x.failedAs.isSome && ((before_ k x).all fun y => !y.open_) &&
    k.accs.all fun y => decide (y.act ≠ x.act ∨ y.seq ≠ x.seq) || !y.live

/-- The register that an access will write. -/
def Access.dst (x : Access) : Option Reg :=
  if x.dual then none
  else match x.kind with
  | .load _ (.s r _) _ => some (.s r)
  | .load _ (.stat r) _ => some (.s r)
  | .load _ (.v r) _ => some (.v r)
  | .load _ (.w4 r _) _ => some (.v r)
  | .load _ (.e4 r) _ => some (.v r)
  | .atom _ _ _ _ _ d => some (.s d)
  | .claim _ d => some (.s d)
  | .arrive _ _ d _ => some (.s d)
  | .potStat _ _ d => some (.s d)
  | .gangStat _ _ _ _ d => some (.s d)
  | .potRead d => some (.s d)
  | _ => none

/-- Puts back what an undo entry holds. -/
def undoItem (a : Act) : UndoItem → Act
  | .reg r v => { a with regs := a.regs.put r v }
  | .flags v => { a with flags := v }
  | .nest n => { a with nest := n }
  | .status v => { a with status := v }

/-- The registers of bundles after a failed access restored, their buffered effects and requests discarded (R230). Accesses of the
bundle's other word that have failed too go with it: the fault is taken once, and its bundle makes them again. -/
def undoAfter (k : Core) (ctx : Nat) (x : Access) : Core :=
  let mine := decide (k.run = some ctx)
  let later := fun (q : Nat) (cword : Bool) => decide (x.seq < q) || (decide (q = x.seq) && cword && !x.aw)
  let gone := k.accs.filter fun y => decide (y.act = x.act) && (decide (y.id = x.id) || later y.seq (!y.aw) || (decide (y.seq = x.seq) && y.failedAs.isSome))
  let regs := gone.filterMap Access.dst ++
    (match x.kind with
     | .ldw q => ((k.mxq.find? (fun r => decide (r.id = q))).map fun r => match r.op with
         | .ldw _ d .. => [Reg.x d]
         | _ => []).getD []
     | _ => [])
  let undo := if mine then (k.undo.filter fun u => decide (x.seq < u.seq)).reverse else []
  let isAst := fun (op : RbOp) => match op with
    | .ast .. => true
    | _ => false
  let k := { k with
    acts := match fget k.acts ctx with
      | some a =>
        let a := undo.foldl (fun a u => undoItem a u.item) a
        let a := { a with pend := a.pend.filter (fun r => !regs.contains r), pc := x.pc, npc := x.pc, stepDue := false,
                          barWait := none, snap := x.before.getD a.snap }
        fset k.acts ctx a
      | none => k.acts
    undo := if mine then k.undo.filter (fun u => decide (u.seq ≤ x.seq)) else k.undo
    accs := k.accs.filter fun y => !gone.contains y
    rb := if mine then k.rb.filter (fun e => !later e.seq (!isAst e.op)) else k.rb
    mxq := match x.kind with
      | .ldw q => k.mxq.filter fun r => decide (r.id ≠ q)
      | _ => k.mxq
    fixed := if mine then [] else k.fixed }
  trimUndo k

/-- INFO's kind of a page fault (Table 7.8): 0 load, 1 store. -/
def Access.storeKind (x : Access) : Nat :=
  match x.kind with
  | .probe .. => 1
  | .atom .. => 1
  | _ => 0

/-- Frees the loader stage that an `mx.ldw` which faulted held. -/
def freeStage (s : State) (core : Nat) (x : Access) : State :=
  match x.kind with
  | .ldw q => s.onCluster (clusterOf core) fun c =>
      { c with stages := c.stages.map fun g => if g.busy = some (core, q) then { g with busy := none } else g }
  | _ => s

/-- A PAGE in user mode (R231): the buffer drains up to F, the snapshot is taken there, and the activation waits in its
context for a fibre slot. -/
def pagePark (s : State) (core ctx : Nat) (va kind level : Nat) (conly : Bool) : State :=
  match fget (s.core core).acts ctx with
  | none => s
  | some a =>
    if (s.core core).run = some ctx then
      parkRun ((commitAt s core a.pc).onAct core ctx fun a => { a with snap := { a.snap with conly := conly } }) core (.page va kind level conly)
    else s.onAct core ctx fun a =>
      { a with snap := { snapOf a a.pc with conly := conly }, attempts := 0, park := .page va kind level conly }

/-- Takes a late fault at its bundle. A C-word that is executed again alone finds its registers as its bundle's A-word left them (DESIGN
CHOICE, log 106). -/
def takeLate (s : State) (core ctx : Nat) (x : Access) (cause : Nat) (tval : Word) (level : Nat) : State :=
  match fget (s.core core).acts ctx with
  | none => s
  | some a =>
    let t : Trap := { code := cause, late := true, aw := x.aw, epc := x.pc, tval := tval }
    let parked := decide ((s.core core).run ≠ some ctx)
    if cause = cPAGE ∧ a.mode = 0 then
      if bitAt (s.core core).uvec 0 then pagePark s core ctx tval.toNat x.storeKind level (!x.aw)
      else faultDomain s core ctx t.fault
    else
      let s := trapEntry s core ctx t
      if parked && (fget (s.core core).acts ctx).isSome then wakeAct s core ctx id else s

/-- A `wait.any` one of whose arms failed waits no more: its other arms, its watches and its pending register go. -/
def endArms (s : State) (core ctx act : Nat) (d : SReg) : State :=
  ((cancelWatches s core ctx).onCore core fun k =>
    { k with accs := k.accs.filter fun y => decide (y.act ≠ act) || !y.kind.isArm }).onAct core ctx fun a =>
      { a with pend := a.pend.filter (· ≠ .s d) }

/-- A core after the bundles that follow a failed access are undone. -/
def undone (s : State) (core ctx : Nat) (x : Access) : State :=
  let s1 := freeStage (s.onCore core fun k => undoAfter k ctx x) core x
  match (fget (s.core core).acts ctx).map Act.park with
  | some (Park.waitAny _ _ _ d) => endArms s1 core ctx x.act d
  | _ => s1

/-- R230: an access of bundle F failed; later bundles are undone and the fault is taken at F. A user-mode PAGE is a commit point, and
is taken once the buffer has drained up to F (R231). -/
def execLateFault (core : Nat) (s : State) : Out :=
  .next (match lateOf (s.core core) with
    | none => s
    | some x =>
      match ctxOf (s.core core) x.act, x.failedAs with
      | some ctx, some (cause, tval, level) =>
        let s1 := undone s core ctx x
        let upcall := cause == cPAGE && bitAt (s.core core).uvec 0 && (fget (s1.core core).acts ctx).any fun a => decide (a.mode = 0)
        match (if (s.core core).run = some ctx && upcall then commitWait s1 core else none) with
        | some s2 => s2.onCore core fun k => { k with accs := x :: k.accs, draining := true }
        | none => takeLate s1 core ctx x cause tval level
      | _, _ => (s.onActAll x.act fun a => { a with snap := x.before.getD a.snap, park := .queued }).dropAcc core x.id)

/-! ### Page upcalls (R231, R232) -/

/-- The INFO word of Table 7.8. -/
def infoWord (kind level : Nat) (conly : Bool) (prio : Nat) : Nat :=
  kind + 4 * level + (if conly then 32 else 0) + 256 * prio

/-- The bytes of a fibre slot (Table 7.8). -/
def fibreBytes (a : Act) (va info : Nat) : List Byte :=
  ((List.range 63).flatMap fun i => leBytes 8 (a.regs.getS (BitVec.ofNat 6 (i + 1))).toNat) ++ leBytes 8 a.flags.toNat ++
  ((List.range 32).flatMap fun i => leBytes 16 (a.regs.getV (BitVec.ofNat 5 i)).toNat) ++
  ((List.range 8).flatMap fun i => leBytes 2 (a.regs.getK (BitVec.ofNat 3 i)).toNat) ++
  ((List.range 4).flatMap fun i => leBytes 8 (a.regs.getI (BitVec.ofNat 2 i)).toNat) ++
  leBytes 8 a.nest.desc.toNat ++ leBytes 8 a.nest.cur.toNat ++ leBytes 8 a.nest.fin.toNat ++
  leBytes 8 a.allow.toNat ++ leBytes 8 a.score.toNat ++ leBytes 8 a.pc ++ leBytes 8 va ++ leBytes 8 info ++ leBytes 8 1 ++ leBytes 8 0

/-- The activation that an upcall starts; it starts during the round of its entrant (17 R443). -/
def upcallAct (s : State) (core : Nat) (k : Core) (a : Act) (n va info : Nat) : Act :=
  let r := ((((Regs.zero.setS 1 (BitVec.ofNat 64 n)).setS 2 (BitVec.ofNat 64 va)).setS 3 (BitVec.ofNat 64 info)).setS 4 (pcWord a.pc)).setS 63 (BitVec.ofNat 64 a.rp)
  let pc := bitsNat k.uvec 56 3 * 8
  let b := { Act.zero with
    id := s.fresh, prog := a.prog, part := a.part, hdr := a.hdr, ring := a.ring, rp := a.rp, regs := r,
    status := setMode (a.status &&& 0x7300) 1, pc := pc, npc := pc, allow := startAllow s a.part a.rp core,
    extBase := a.extBase, extLen := a.extLen, counted := true, upcall := true }
  { b with snap := snapOf b pc }

/-- Whether a result of an activation is still to come. -/
def resultsOut (s : State) (a : Act) : Bool := !a.pend.isEmpty || !(mxReqsOf s a.id).isEmpty

/-- R231: the faulter goes to the lowest free fibre slot and the upcall starts in its context; with no free slot the
faulter stays parked. The slot holds register values, so results that are on their way land first. INFO.CONLY is 1 for a data access
(Table 7.8); an `mx.ldw` is performed again all the same (06 R182), so the activation itself keeps whether its C-word alone goes on
(log 32). -/
def execPageUpcall (core ctx : Nat) (s : State) : Out :=
  let k := s.core core
  .next (match fget k.acts ctx with
    | some a =>
      match a.park with
      | .page va kind level conly =>
        if resultsOut s a then s
        else match (List.range 8).find? (fun n => decide (lsWord k (fibreBase n + 0x470) % 2 = 0) && (fget k.fibres n).isNone) with
        | none => s
        | some n =>
          let info := infoWord kind level (decide (kind ≠ 2)) (bitsNat a.status 14 12)
          let up := upcallAct s core k a n va info
          let s := hwPoke s a.part (a.rp + 64) (hwPeek s a.part (a.rp + 64) + 1)
          let s := s.used1.onCore core fun k =>
            { k with ls := mwrite k.ls (fibreBase n) (fibreBytes a va info), fibres := fset k.fibres n { a with conly := conly || decide (kind = 2) },
                     acts := fset k.acts ctx { up with park := if k.run.isNone then .running else .queued },
                     run := if k.run.isNone then some ctx else k.run }
          if k.run.isNone then s else enqueue s core (.ctx ctx) (bitsNat a.status 14 12)
      | _ => s
    | none => s)

/-! ### Walks (R222-R225) -/

/-- Addresses that outstanding accesses, drained effects and fetches still have to translate. -/
def wantedOf (s : State) (core : Nat) (k : Core) : List (Nat × Nat) :=
  let part := k.part.getD 0
  (k.accs.flatMap fun x => match x.kind with
    | .ldw _ => (ldwTodo k x).map fun p => (part, p.2.1)
    | .claim d _ =>
      ((List.range 10).map fun i => (part, d + 8 * i)) ++
        (match xlate s part d .r with
         | .ok pte _ pa => [(part, ofLe (homeRead s part d pa (pteRemote s pte) 8 2).2)]
         | _ => [])
    | .arrive .. | .potRead _ | .potStat .. | .gangStat .. | .load .ls .. | .load .spad .. => []
    | _ => (part, x.va) :: (globalPieces x).map fun p => (part, p.1)) ++
  (match k.running with
   | some (_, a) => [(part, a.npc)]
   | none => []) ++
  ((s.flights.filter (fun f => decide (f.core = core))).filterMap fun f => f.op.range.map fun r => (f.part, r.1))

def wanted (s : State) : List (Nat × Nat) := s.cores.flatMap fun (c, k) => wantedOf s c k

/-- The outcome of a walk: a leaf that grants anything is cached; else the cause that the access takes. -/
def walkAny (s : State) (part va : Nat) : Xl :=
  match walk s part va .r with
  | .ok p l a => .ok p l a
  | x =>
    match walk s part va .w with
    | .ok p l a => .ok p l a
    | _ =>
      match walk s part va .x with
      | .ok p l a => .ok p l a
      | _ => x

/-- R222-R225: a walker of a slice translates an address that misses. With `err` one of the entries that it reads, a free choice, is
uncorrectable (20 R493). -/
def execPageWalk (slice part va : Nat) (err : Bool) (s : State) : Out :=
  .next (match vaKind va, xlate s part va .r with
    | .translated, .miss =>
      if homeOf s va ≠ slice ∨ !(wanted s).contains (part, va) then s
      else
        let noted := fun (s : State) c l => s.onSlice slice fun g =>
          { g with walked := g.walked ++ [{ part := part, va := va, cause := c, level := l }] }
        let path := if err ∧ (s.partn part).ptroot ≠ 0 then walkPath s va 4 (s.partn part).ptroot else []
        match path[s.freeNat % max 1 path.length]? with
        | some (l, a) => noted (memErr s.used part a) cACCESS l
        | none =>
          match walkAny s part va with
          | .ok pte level _ =>
            s.onSlice slice fun g => tlbInsert g { part := part, level := level, page := va / 2 ^ levelShift level, pte := pte }
          | .fault c l => noted s c l
          | .miss => s
    | _, _ => s)

/-- R216: an edge die ends its merge of one block's read misses with one burst; only timing and energy show it. -/
def execDramBurst (ed block : Nat) (s : State) : Out :=
  .next (s.onEdge ed fun e => { e with merge := e.merge.filter fun x => decide (x.1 ≠ block) })

/-! ### Near ownership (10 R280) -/

/-- The core and line that a near atomic or reduction of a number wants. -/
def nearWant (s : State) (id : Nat) : Option (Nat × Nat × Nat) :=
  match s.access id with
  | some (c, x) =>
    match x.kind, x.st with
    | .atom _ _ true _ _ _, .pending => some (c, ((s.core c).part).getD 0, x.va)
    | _, _ => none
  | none =>
    match s.flight id with
    | some f =>
      match f.op with
      | .red va _ _ _ _ true => some (f.core, f.part, va)
      | _ => none
    | none => none

/-- Whether a line holds a watch (R280, R283). -/
def lineWatched (g : Slice) (part va : Nat) : Bool := g.watches.any fun w => decide (w.part = part ∧ w.va / 32 = va / 32)

/-- Removes every marked copy of a line in the package. -/
def dropMarkedLine (s : State) (part va : Nat) : State :=
  let other := fun (x : Nat × L1Line) => !(x.2.marked && decide (x.2.part = part ∧ x.2.tag = va / 32))
  { s with cores := fmapVals (fun _ k => { k with l1 := fmapVals (fun _ set => set.filter other) k.l1 }) s.cores }

/-- R280: the home grants exclusive ownership of a line that holds no watch. With its `err` the DRAM read that it needs for an atomic is
uncorrectable (20 R493). -/
def execNearOwnershipGrant (core : Nat) (x : DramRead) (s : State) : Out :=
  .next (match nearWant s x.n with
    | none => s
    | some (c, part, va) =>
      if c ≠ core then s
      else
        match locate s part va 1 .r .w with
        | .home pte pa =>
          let h := homeOf s va
          if paHost pa || lineWatched (s.slice h) part va then s
          else
            match homeWait s part va pte pa true with
            | some s => s
            | none =>
              if x.err && needsDram s part va pa && (s.access x.n).isSome then
                (memErr s part pa).failAcc core x.n cACCESS (BitVec.ofNat 64 va) 0
              else
              let (s, _) := homeRead s part va pa (pteRemote s pte) 1 2
              let s := dropMarkedLine (dropSharers (proxyWrote s h part va (pteRemote s pte)) h part va none) part va
              let data := lineOf (lineData s h part va)
              let s := shareLine (l1Fill s core part va data 0 false true) h part va core
              match lineFind (s.slice h) part va with
              | some (w, l) => s.onSlice h fun g => linePut g va w { l with owner := some core }
              | none => s
        | _ => s)

/-- R280: the home recalls near ownership of a line. -/
def execNearRecall (part va : Nat) (s : State) : Out := .next (nearRecall s (homeOf s va) part va)

/-! ### `clean` (R234, R235, 11 R314) -/

/-- A line named by a `clean`: its copy at the home is written back and kept clean; other slices' copies of the physical
line, through whichever window of Table 1.3 they are named, go, with their sharers. A dirty copy that goes is written back first or
not, which the spec leaves open (R313). -/
def cleanLine (s : State) (part h : Nat) (keepOther : Bool) (va pa : Nat) : State :=
  let others := s.slices.flatMap fun (g, x) => x.lines.flatMap fun (_, set) =>
    (set.filter (fun y => decide (y.2.rm = none ∧ paLinear s y.2.pa = paLinear s pa ∧ ¬(g = h ∧ y.2.part = part ∧ y.2.tag = va / 32)))).map
      fun y => (g, y.2)
  let s := others.foldl (fun s (g, l) =>
    let a := l.tag * 32
    let s := dropSharers (nearRecall s g l.part a) g l.part a none
    match lineFind (s.slice g) l.part a with
    | some (w, l) =>
      let s := if l.dirty && keepOther then physWrite s pa (lineBytes l.data) else s
      s.onSlice g fun x => lineDrop x a w
    | none => s) s
  let s := nearRecall s h part va
  match lineFind (s.slice h) part va with
  | some (w, l) =>
    if l.dirty then (physWrite s pa (lineBytes l.data)).onSlice h fun g => linePut g va w { l with dirty := false } else s
  | none => s

/-- Linear addresses of the physical lines that slices hold. -/
def heldLines (s : State) : List Nat :=
  (s.slices.flatMap fun (_, x) => x.lines.flatMap fun (_, set) => (set.filter (fun y => y.2.rm.isNone)).map fun y => paLinear s y.2.pa).eraseDups

/-- A block in M goes home and stays in E (14 R375): the state after it, and its bytes. -/
def cleanBlock (part pkg : Nat) (s : State) (blk : Nat) : State × List Byte :=
  let va := blk * 128
  let h := homeOf s va
  let s := (blkLines va).foldl (fun s a => nearRecall s h part a) s
  (s.onSlice h fun g => setProxy g part va pkg .e, blkData (s.slice h) part va)

/-- The edge die that a block's train leaves by. -/
def blkEdge (s : State) (blk : Nat) : Nat := sliceEdge s (homeOf s (blk * 128))

/-- Cuts rising blocks into trains: contiguous, of one edge die, at most 32 (14 R368). -/
def trainRuns (s : State) : List Nat → List (List Nat)
  | [] => []
  | b :: r =>
    match trainRuns s r with
    | (c :: t) :: ts => if c = b + 1 ∧ blkEdge s c = blkEdge s b ∧ (c :: t).length < 32 then (b :: c :: t) :: ts else [b] :: (c :: t) :: ts
    | ts => [b] :: ts

/-- Blocks in M go home as one train. -/
def cleanRun (part pkg : Nat) (s : State) (blks : List Nat) : State :=
  let b := blks.headD 0
  let (s, data) := blks.foldl (fun (s, l) b => let (s, d) := cleanBlock part pkg s b; (s, l ++ [d])) (s, [])
  sendTrain s (blkEdge s b) part (b * 128) pkg data

/-- A `clean` in a page of another package (R234, 14 R375): blocks in M go home, and the home is asked, behind their trains, to
clean the range. -/
def cleanAway (s : State) (part lo hi pkg flight : Nat) : State :=
  let blks := ((s.slices.flatMap fun (_, x) => x.blocks).filter fun b =>
    decide (b.part = part ∧ b.st = .m ∧ lo / 128 ≤ b.blk ∧ b.blk * 128 < hi)).map (·.blk)
  let s := (trainRuns s ((List.range (hi / 128 + 1 - lo / 128)).map (lo / 128 + ·) |>.filter blks.contains)).foldl (cleanRun part pkg) s
  (((List.range 16).map (servingEdge s)).eraseDups).foldl (fun s e =>
    let id := (s.tagRun 1).getD s.fresh
    let s := sendFlit { s with fresh := id + 1 } e part (ctlFlit 1 pkg (id % 2 ^ 13) lo part (12 + 256 * (hi - lo)))
    { s with cleans := s.cleans ++ [{ id := id, part := part, va := lo, pkg := pkg, flight := flight, blks := blks, since := s.now }] }) s

/-- The part of a `clean` in one 64 KiB page: lines from `lo` below `hi`. With no flight it comes from another package, and only
lines of this one are cleaned. -/
def cleanPage (s : State) (part lo hi : Nat) (keepOther : Bool) (flight : Option Nat) : State :=
  match xlateAny s part lo with
  | .ok pte _ pa =>
    match pteRemote s pte with
    | some pkg =>
      match flight with
      | some id => cleanAway s part lo hi pkg id
      | none => s
    | none =>
      if paHost pa then s
      else
        let held := heldLines s
        let mine := ((List.range ((hi - lo) / 32)).map (32 * ·)).filter fun o => held.contains (paLinear s (pa + o))
        mine.foldl (fun s o => cleanLine s part (homeOf s (lo + o)) keepOther (lo + o) (pa + o)) s
  | _ => s

/-- A range widened to whole lines, page by page. -/
def cleanSpans (va len : Nat) : List (Nat × Nat) :=
  let lo := va / 32 * 32
  let hi := (va + len + 31) / 32 * 32
  (List.range (hi / 65536 + 1 - lo / 65536)).filterMap fun i =>
    let p := (lo / 65536 + i) * 65536
    let a := max lo p
    let b := min hi (p + 65536)
    if a < b ∧ vaKind a = .translated then some (a, b) else none

/-- R234: the range, page by page; nothing in it faults. -/
def cleanRange (s : State) (part va len : Nat) (keepOther : Bool) (flight : Option Nat) : State :=
  (cleanSpans va len).foldl (fun s p => cleanPage s part p.1 p.2 keepOther flight) s

/-- The linear address of an address in this package's memory. -/
def linearOf (s : State) (part va : Nat) : Option Nat :=
  match xlateAny s part va with
  | .ok pte _ pa => if (pteRemote s pte).isSome || paHost pa then none else some (paLinear s pa)
  | _ => none

/-- Other packages' copies, at the slices here, of blocks that lie in a range through another address (11 R311). -/
def synonymCopies (s : State) (part va len : Nat) : List (Nat × PeerCopy) :=
  let spans := (cleanSpans va len).filterMap fun p => (linearOf s part p.1).map fun x => (p.1, p.2, x)
  s.slices.flatMap fun (h, g) => (g.peers.filter fun c =>
    match linearOf s c.part (c.blk * 128) with
    | some x => spans.any fun p => !(decide (c.part = part) && overlap (c.blk * 128) 128 p.1 (p.2.1 - p.1)) && overlap x 128 p.2.2 (p.2.1 - p.1)
    | none => false).map fun c => (h, c)

/-- What a `clean` of a range of this package's memory waits for: other packages' copies through another address are recalled. -/
def cleanRecall (s : State) (part va len : Nat) : Option State :=
  match synonymCopies s part va len with
  | [] => none
  | l => some (l.foldl (fun s x => askPeers s x.1 x.2.part (x.2.blk * 128) true) s)

/-- Whether a drained `clean` waits for an answer of another package. -/
def cleanWaits (s : State) (id : Nat) : Bool := s.cleans.any fun c => decide (c.flight = id)

/-- R234, R235: a drained `clean` is performed after every earlier entry; one that another package has a part in is complete when
that has answered (14 R377). -/
def execCleanPerform (id : Nat) (s : State) : Out :=
  .next (match s.flight id with
    | none => s
    | some f =>
      match f.op with
      | .clean va len =>
        if cleanWaits s id || !flightReady s f || decide (2 ^ 13 < s.tagsOut.length + 8 * (cleanSpans va len).length) then s
        else
          match cleanRecall s f.part va len with
          | some s => s
          | none =>
            let s := cleanRange s.used f.part va len s.freeBit (some id)
            if cleanWaits s id then s else s.dropFlight id
      | _ => s)

/-! ### Hotness (R236, R237) -/

/-- Writes 8 bytes of a sample; none where it faults. -/
def sampleWrite (part va : Nat) (v : Nat) (s : Option State) : Option State :=
  s.bind fun s => (hwWrite s part va 8 v).toOption

/-- R237: a due sample is recorded: HEAD counts it, then the record, then SEQ. A sample whose writes fault is dropped. -/
def execHotnessSample (slice part : Nat) (s : State) : Out :=
  .next (match (s.slice slice).samples.find? (fun x => decide (x.1 = part)) with
    | none => s
    | some x =>
      let s := s.onSlice slice fun g => { g with samples := g.samples.erase x }
      let d := (s.partn part).hot.toNat
      if d = 0 then s
      else
        let base := ofLe (physRead s d 8)
        let log := ofLe (physRead s (d + 8) 8) % 32
        let i := ofLe (physRead s (d + 16) 8)
        let s := physWrite s (d + 16) (leBytes 8 (i + 1))
        let rec_ := base + 32 * (i % 2 ^ log)
        let w8 := x.2.2.1 + x.2.2.2 * 2 ^ 16 + slice * 2 ^ 20
        ((some s |> sampleWrite part rec_ (x.2.1 % 2 ^ 57) |> sampleWrite part (rec_ + 8) w8
            |> sampleWrite part (rec_ + 16) s.sinceBoot |> sampleWrite part (rec_ + 24) (i + 1)).getD s))

end Sys2Proof.Machine
end

