-- ==== Sys2Proof/Machine/Atomics.lean ====
section
/-! DEFINITION. Atomics and reductions (10 R271-R281), the nest fetcher's claim at its home (04 R125), `wait.any` and
watches (10 R282-R285), fences (11 R286-R288). -/

namespace Sys2Proof.Machine

/-! ### Operations (Tables 10.3, 10.4) -/

def AtomTy.of : BitVec 3 → AtomTy
  | 0 => .i32 | 1 => .n32 | 2 => .i64 | 3 => .n64 | _ => .f32

/-- Operations and types by number, as a request to another package names them (log 12). -/
def atomOps : List AtomOp := [.add, .swap, .cas, .and, .or, .xor, .min, .max]
def atomTys : List AtomTy := [.i32, .n32, .i64, .n64, .f32]

/-- f(op, old, v, w) on the bits of the type (Table 10.4). -/
def atomApply (op : AtomOp) (ty : AtomTy) (old v w : Word) : Word :=
  let b := 8 * ty.size
  let o := old.toNat % 2 ^ b
  let x := v.toNat % 2 ^ b
  let y := w.toNat % 2 ^ b
  let sgn := fun (n : Nat) => if n / 2 ^ (b - 1) % 2 = 1 then (n : Int) - 2 ^ b else n
  let less := match ty with
    | .i32 | .i64 => decide (sgn o < sgn x)
    | _ => decide (o < x)
  match op with
  | .add => if ty = .f32 then BitVec.ofNat 64 (Fmt.add .f32 .rn o x).val else BitVec.ofNat 64 ((o + x) % 2 ^ b)
  | .swap => BitVec.ofNat 64 x
  | .cas => BitVec.ofNat 64 (if o = x then y else o)
  | .and => BitVec.ofNat 64 (o &&& x)
  | .or => BitVec.ofNat 64 (o ||| x)
  | .xor => BitVec.ofNat 64 (o ^^^ x)
  | .min => if ty = .f32 then BitVec.ofNat 64 (Fmt.minmax .f32 false o x).val else BitVec.ofNat 64 (if less then o else x)
  | .max => if ty = .f32 then BitVec.ofNat 64 (Fmt.minmax .f32 true o x).val else BitVec.ofNat 64 (if less then x else o)

/-- The old value as sD receives it (R276). -/
def atomResult (ty : AtomTy) (old : Word) : Word :=
  match ty with
  | .i32 => sxNat (old.toNat % 2 ^ 32) 32
  | .n32 | .f32 => BitVec.ofNat 64 (old.toNat % 2 ^ 32)
  | .i64 | .n64 => old

/-! ### At issue -/

/-- Checks at issue (R273, R276). -/
def atomTrap (s : State) (va : Word) (ty : AtomTy) : Option Trap :=
  (globalTrap s va ty.size false).orElse fun _ =>
    if isWindow va.toNat && ty == .f32 then some (issueTrapAt s cATOM false va) else none

/-- Whether `.near` takes its fallback, as far as the address shows (R272). -/
def nearFalls (va : Nat) (p : BitVec 1) : Bool := decide (p = 1) && (isWindow va || isQuad va)

/-- An `atom.` form (R276, R277). -/
def atomIssue (op : AtomOp) (d a : SReg) (ty : BitVec 3) (o : BitVec 2) (p : BitVec 1) (s : State) : Out :=
  let va := s.rs a
  let t := AtomTy.of ty
  let fall := nearFalls va.toNat p
  let kind : AccKind := .atom op t (decide (p = 1) && !fall) (s.rs d) (s.rs (d + 1)) d
  guarded s (atomTrap s va t) (commitWait s s.cur)
    (commitSend (s.qualIf fall) kind va.toNat t.size (decide (o = 1 ∨ o = 3)) (decide (2 ≤ o.toNat)) d)

/-- A `red.` form (R279): `.acq` and `.ar` take the fallback `.rel`. -/
def redIssue (op : AtomOp) (d a : SReg) (ty : BitVec 3) (o : BitVec 2) (p : BitVec 1) (s : State) : Out :=
  let va := s.rs a
  let t := AtomTy.of ty
  let fall := nearFalls va.toNat p
  guarded s (atomTrap s va t) (roomWait s 16)
    (addAccess (rbAppend (s.qualIf (fall || decide (o = 1 ∨ o = 3))) 16
        (.red va.toNat op t (s.rs d) (decide (o ≠ 0)) (decide (p = 1) && !fall)))
      (.probe (decide (p = 1) && !fall) (some (op, t))) va.toNat t.size false false 2 none)

/-- R276. -/
def execAtomAdd (d a : SReg) (ty : BitVec 3) (o : BitVec 2) (p : BitVec 1) (s : State) : Out := atomIssue .add d a ty o p s
/-- R276. -/
def execAtomSwap (d a : SReg) (ty : BitVec 3) (o : BitVec 2) (p : BitVec 1) (s : State) : Out := atomIssue .swap d a ty o p s
/-- R276. -/
def execAtomCas (d a : SReg) (ty : BitVec 3) (o : BitVec 2) (p : BitVec 1) (s : State) : Out := atomIssue .cas d a ty o p s
/-- R276. -/
def execAtomAnd (d a : SReg) (ty : BitVec 3) (o : BitVec 2) (p : BitVec 1) (s : State) : Out := atomIssue .and d a ty o p s
/-- R276. -/
def execAtomOr (d a : SReg) (ty : BitVec 3) (o : BitVec 2) (p : BitVec 1) (s : State) : Out := atomIssue .or d a ty o p s
/-- R276. -/
def execAtomXor (d a : SReg) (ty : BitVec 3) (o : BitVec 2) (p : BitVec 1) (s : State) : Out := atomIssue .xor d a ty o p s
/-- R276. -/
def execAtomMin (d a : SReg) (ty : BitVec 3) (o : BitVec 2) (p : BitVec 1) (s : State) : Out := atomIssue .min d a ty o p s
/-- R276. -/
def execAtomMax (d a : SReg) (ty : BitVec 3) (o : BitVec 2) (p : BitVec 1) (s : State) : Out := atomIssue .max d a ty o p s
/-- R279. -/
def execRedAdd (d a : SReg) (ty : BitVec 3) (o : BitVec 2) (p : BitVec 1) (s : State) : Out := redIssue .add d a ty o p s
/-- R279. -/
def execRedAnd (d a : SReg) (ty : BitVec 3) (o : BitVec 2) (p : BitVec 1) (s : State) : Out := redIssue .and d a ty o p s
/-- R279. -/
def execRedOr (d a : SReg) (ty : BitVec 3) (o : BitVec 2) (p : BitVec 1) (s : State) : Out := redIssue .or d a ty o p s
/-- R279. -/
def execRedXor (d a : SReg) (ty : BitVec 3) (o : BitVec 2) (p : BitVec 1) (s : State) : Out := redIssue .xor d a ty o p s
/-- R279. -/
def execRedMin (d a : SReg) (ty : BitVec 3) (o : BitVec 2) (p : BitVec 1) (s : State) : Out := redIssue .min d a ty o p s
/-- R279. -/
def execRedMax (d a : SReg) (ty : BitVec 3) (o : BitVec 2) (p : BitVec 1) (s : State) : Out := redIssue .max d a ty o p s

/-! ### At the home -/

/-- What an indivisible operation at one place gives: it has to wait; it fails; it is done, with the old value. -/
inductive Atomic where
  | wait (s : State)
  | fault (s : State) (cause level : Nat)
  | done (s : State) (old : Word)

/-- A read and a write of n bytes at one place, indivisible (R271). `host` says whether the host agent supports it;
`near` that the core's L1 is to perform it. -/
def rmwAt (s : State) (core part va n : Nat) (near host err : Bool) (f : Word → Word) : Atomic :=
  match locate s part va n .r .w with
  | .wait => .wait s
  | .fault c l => .fault (walkedTake s part va) c l
  | .window c off =>
    let old := wordOfLe (mread (s.core c).ls off n)
    .done (lsStore s c off (leBytes n (f old).toNat)) old
  | .home pte pa =>
    if paHost pa then
      if host then
        let old := wordOfLe (physRead s pa n)
        .done (physWrite s pa (leBytes n (f old).toNat)) old
      else .fault s cATOM 0
    else
      let h := homeOf s va
      match near, l1Find (s.core core) part va false with
      | true, some (w, l) =>
        if l.own then
          let old := wordOfLe (((lineBytes l.data).drop (va % 32)).take n)
          let data := lineOf (patch (lineBytes l.data) (va % 32) (leBytes n (f old).toNat))
          .done (l1Hit s core va w { l with data := data }) old
        else if lineWatched (s.slice h) part va then farAt s h pte pa
        else .wait s
      | true, none => if lineWatched (s.slice h) part va then farAt s h pte pa else .wait s
      | false, _ => farAt s h pte pa
where
  farAt (s : State) (h : Nat) (pte : Word) (pa : Nat) : Atomic :=
    match homeWait s part va pte pa true with
    | some s => .wait s
    | none =>
      let s := countReq (tlbTouch s part va) part va core 2
      if err && needsDram s part va pa then .fault (memErr s part pa) cACCESS 0
      else
        let (s, b) := homeRead s part va pa (pteRemote s pte) n 2
        let old := wordOfLe b
        .done (dropSharers (homeWrite s none part va pa (pteRemote s pte) (leBytes n (f old).toNat)) h part va none) old

/-- An atomic is performed after what it follows (R278): every earlier effect for `.rel`, those on its bytes for the
others. -/
def atomReady (s : State) (core : Nat) (x : Access) : Bool :=
  (s.flights.filter (fun f => decide (f.act = x.prog))).all fun f =>
    !x.rel && (match f.range s with
      | some (a, n) => !overlap a n (globalPlace s core f.part f.rp x.va x.size) x.size
      | none => true)

/-- Loads of the machine for one activation, at one moment (04 R125). -/
def loadWord (core part va : Nat) (err : Bool) (s : State) : Rd :=
  match vaKind va with
  | .quad .. => .fault s cACCESS 0
  | _ => if va % 8 ≠ 0 then .fault s cALIGN 0 else readPiece s core part va 8 2 false err

/-- Reads words from an address up. -/
def loadWords (core part : Nat) (err : Bool) : Nat → Nat → State → List Nat → Rd × Nat × List Nat
  | 0, _, s, acc => (.ok s [], 0, acc)
  | n + 1, va, s, acc =>
    match loadWord core part va err s with
    | .ok s b => loadWords core part err n (va + 8) s (acc ++ [ofLe b])
    | x => (x, va, acc)

/-- The chunk that a claim takes (R125). -/
def claimChunk (total mn k p old : Nat) : Nat :=
  let rem := if total ≤ old then 0 else total - old
  min rem (max mn ((rem + k * p - 1) / (k * p)))

/-- R125: the descriptor's loads and checks and the counter's atomic, in the order of the pseudocode; it does not place the loads of the
steps, which come here with the counts', before the check of the product (DESIGN CHOICE, log 76). A descriptor or counter in a
quadrille window, which 17 R429 does not name for this form, fails late with ACCESS (DESIGN CHOICE, log 90). -/
def performClaim (s : State) (core : Nat) (x : Access) (desc : Nat) (err : Bool) : State :=
  let part := ((s.core core).part).getD 0
  let fail := fun (s : State) c (va l : Nat) => s.failAcc core x.id c (BitVec.ofNat 64 va) l
  match loadWords core part err 1 (desc + 8) s [] with
  | (.wait s, _, _) => s
  | (.fault s c l, va, _) => fail s c va l
  | (.ok s _, _, hs) =>
    let hdr := hs.getD 0 0
    let p := hdr % 2 ^ 16
    let k := hdr / 2 ^ 16 % 2 ^ 8
    let n := hdr / 2 ^ 24 % 8
    let mn := hdr / 2 ^ 32
    if n = 0 ∨ 4 < n ∨ p = 0 ∨ 4096 < p ∨ k = 0 ∨ mn = 0 then fail s cACCESS desc 0
    else
      match loadWords core part err (2 * n) (desc + 16) s [] with
      | (.wait s, _, _) => s
      | (.fault s c l, va, _) => fail s c va l
      | (.ok s _, _, ws) =>
        let counts := (List.range n).map fun d => ws.getD (2 * d) 0
        let steps := (List.range n).map fun d => ws.getD (2 * d + 1) 0
        let total := counts.foldl (· * ·) 1
        if 2 ^ 48 < total then fail s cACCESS desc 0
        else
          match loadWords core part err 1 desc s [] with
          | (.wait s, _, _) => s
          | (.fault s c l, va, _) => fail s c va l
          | (.ok s _, _, cs) =>
            let ctr := cs.getD 0 0
            if ctr % 8 ≠ 0 then fail s cALIGN ctr 0
            else if vaRefused (BitVec.ofNat 64 ctr) || isQuad ctr then fail s cACCESS ctr 0
            else
              match rmwAt s core part ctr 8 false false err (fun old => old + BitVec.ofNat 64 (claimChunk total mn k p old.toNat)) with
              | .wait s => s
              | .fault s c l => fail s c ctr l
              | .done s old =>
                let c := claimChunk total mn k p old.toNat
                let nest : Nest := { desc := BitVec.ofNat 64 desc, cur := old, fin := old + BitVec.ofNat 64 c, p := p, k := k,
                                     n := n, counts := counts.map (BitVec.ofNat 64), steps := steps.map (BitVec.ofNat 64) }
                (s.onActAll x.act fun a => { a with nest := nest, snap := { a.snap with nest := nest } }).setAcc core x.id
                  (.performed (BitVec.ofNat 64 c))

/-- A reduction that drained (R279), or the decrement of LIVE that an end makes (13 R337). One that its page's new home does not support
is dropped with code ATOM_TYPE (DESIGN CHOICE, log 93). -/
def performRed (s : State) (f : Flight) : State :=
  match f.op with
  | .red va op ty v _ near =>
    match rmwAt s f.core f.part va ty.size near (hostAtom op ty) false (fun old => atomApply op ty old v 0) with
    | .wait s => s
    | .fault s c _ => dropDrained s f c va
    | .done s _ => s.dropFlight f.id
  | .liveDec rcb =>
    if hwPeek s f.part (rcb + 64) = 1 then s else liveDecrement (s.dropFlight f.id) f.part rcb
  | _ => s

/-- R271, R276, R279, 04 R125: an atomic, claim or reduction is performed at its place; its reply is still to come. With
`err` the DRAM read that it needs is uncorrectable (20 R493). -/
def execAtomicPerform (id : Nat) (err : Bool) (s : State) : Out :=
  .next (match s.access id with
    | some (core, x) =>
      if !atomReady s core x then s
      else
        match x.st, x.kind with
        | .pending, .atom op ty near v w _ =>
          let part := ((s.core core).part).getD 0
          if isQuad x.va then s
          else
            match rmwAt s core part x.va ty.size near (hostAtom op ty) err (fun old => atomApply op ty old v w) with
            | .wait s => s
            | .fault s c l => (nearHostWarn s core part x near).failAcc core id c (BitVec.ofNat 64 x.va) l
            | .done s old => (nearHostWarn s core part x near).setAcc core id (.performed old)
        | .pending, .claim desc _ => performClaim s core x desc err
        | _, _ => s
    | none =>
      match s.flight id with
      | some f => if flightReady s f then performRed s f else s
      | none => s)

/-- R277: the reply reaches the core: the result is written into sD and into the snapshot alike. -/
def execAtomicReply (core id : Nat) (s : State) : Out :=
  .next (match (s.core core).accs.find? (fun x => decide (x.id = id)) with
    | none => s
    | some x =>
      match x.st, x.kind with
      | .performed old, .atom _ ty _ _ _ d => (s.onActAll x.act fun a => deliver a d (atomResult ty old)).dropAcc core id
      | .performed c, .claim _ d => (s.onActAll x.act fun a => deliver a d c).dropAcc core id
      | _, _ => s)

/-! ### `wait.any` (R282, R283) -/

/-- The slots that a descriptor names. -/
def waitSlots (s : State) (off : Nat) : List WSlot :=
  (List.range 4).map fun n =>
    { addr := (readLsWord s (off + 16 * n)).toNat, exp := readLsWord s (off + 16 * n + 8), armed := false, fired := false }

/-- Checks of the slots' addresses at issue. -/
def slotTrap (s : State) (sl : List WSlot) : Option Trap :=
  sl.findSome? fun x => if x.addr = 0 then none else globalTrap s (BitVec.ofNat 64 x.addr) 8 true

/-- Arms that leave with a wait: one access for each slot in use. -/
def armAll (before : Snap) : List (WSlot × Nat) → State → State
  | [], s => s
  | (x, n) :: r, s => armAll before r (if x.addr = 0 then s else addAccess s (.arm n) x.addr 8 false false 2 (some before))

/-- The trap of the descriptor's place, which needs no commit point. -/
def waitTrap (s : State) (v : Word) : Option Trap :=
  let off := bitsNat v 16 0
  if off % 64 ≠ 0 then some (issueTrapAt s cALIGN false v)
  else if (lsPlace s.me (BitVec.ofNat 64 off) 64).isNone then some (issueTrapAt s cACCESS false (lsTval s.me off 64 v))
  else none

/-- R283: the commit point, the checks of the slots, the arms, and the park. While a slot is not armed the deadline holds the timeout
itself. -/
def execWaitAny (d a b : SReg) (s : State) : Out :=
  let sl := waitSlots s (bitsNat (s.rs a) 16 0)
  if (waitTrap s (s.rs a)).isNone && (slotTrap s sl).isSome && (commitWait s s.cur).isNone then
    guarded (commitHere s) (slotTrap s sl) none s
  else
  guarded s (waitTrap s (s.rs a)) (commitWait s s.cur)
    (let b4 := beforeSnap s.me
     let s1 := commitHere s
     if sl.all (fun x => decide (x.addr = 0)) then s1.ws d 5
     else
       let s1 := armAll b4 sl.zipIdx s1
       parkMe (s1.pendReg (.s d)) (.waitAny sl (if s.rs b = 0 then none else some (s.rs b).toNat) false d))

/-- Whether every slot in use is armed or has fired. -/
def allArmed (sl : List WSlot) : Bool := sl.all fun x => decide (x.addr = 0) || x.armed || x.fired

/-- Notes the outcome of an arm; with the last one the timeout starts. -/
def noteArm (s : State) (core ctx n : Nat) (fired : Bool) : State :=
  s.onAct core ctx fun a =>
    match a.park with
    | .waitAny sl dl f d =>
      let sl := sl.mapIdx fun i x => if i = n then { x with armed := true, fired := x.fired || fired } else x
      { a with park := .waitAny sl (if allArmed sl then dl.map (· + s.now) else dl) f d }
    | _ => a

/-- R283: one slot is armed at its home or port; a word that differs from EXP, or a full table, fires it at once. -/
def execWatchArm (core ctx n : Nat) (s : State) : Out :=
  .next (match fget (s.core core).acts ctx with
    | none => s
    | some a =>
      match a.park, (s.core core).accs.find? (fun x => decide (x.act = a.id) && decide (x.st = .pending) &&
          (match x.kind with | .arm m => decide (m = n) | _ => false)) with
      | .waitAny sl _ _ _, some x =>
        let exp := (sl.map (·.exp)).getD n 0
        let w : Watch := { core := core, ctx := ctx, slot := n, part := a.part, va := x.va }
        match locate s a.part x.va 8 .r .r with
        | .wait => s
        | .fault c l => (walkedTake s a.part x.va).failAcc core x.id c (BitVec.ofNat 64 x.va) l
        | .window c off =>
          let full := decide (16 ≤ (s.core c).watches.length)
          if wordOfLe (mread (s.core c).ls off 8) ≠ exp || full then (noteArm s core ctx n true).dropAcc core x.id
          else ((noteArm s core ctx n false).onCore c fun k => { k with watches := k.watches ++ [w] }).dropAcc core x.id
        | .home pte pa =>
          if paHost pa then s.failAcc core x.id cACCESS (BitVec.ofNat 64 x.va) 0
          else
            match homeWait s a.part x.va pte pa false with
            | some s => s
            | none =>
              let h := homeOf s x.va
              let (s, b) := homeRead (tlbTouch s a.part x.va) a.part x.va pa (pteRemote s pte) 8 2
              let full := decide (256 ≤ (s.slice h).watches.length)
              if wordOfLe b ≠ exp || full then (noteArm s core ctx n true).dropAcc core x.id
              else ((noteArm s core ctx n false).onSlice h fun g => { g with watches := g.watches ++ [w] }).dropAcc core x.id
      | _, _ => s)

/-- Ends a wait with a code: every watch of it is cancelled and the activation is queued (R283). -/
def endWait (s : State) (core ctx : Nat) (d : SReg) (code : Word) : State :=
  wakeAct (cancelWatches s core ctx) core ctx fun a => deliver a d code

/-- Table 10.6, code 5: the timeout passed from the last arm with no slot fired. A wait that a swap has cancelled ends with 4 (20 R471). -/
def execWaitAnyTimeout (core ctx : Nat) (s : State) : Out :=
  .next (match ((fget (s.core core).acts ctx).map fun a => a.park : Option Park) with
    | some (.waitAny sl (some t) forced d) =>
      if !forced && allArmed sl && !sl.any (·.fired) && decide (t ≤ s.now) then endWait s core ctx d 5 else s
    | _ => s)

/-! ### Fences (R286-R288, Table 11.2) -/

/-- The narrowest scope whose release waits for a drained effect: 0 core, 1 cluster, 2 die, 3 package, 4 system. None
for effects that no row of Table 11.2 names. -/
def effectScope (s : State) (f : Flight) : Option Nat :=
  let mem := fun (va : Nat) =>
    match xlateHw s f.part va .w with
    | .ok _ _ pa => if paHost pa then 4 else 2
    | _ => 2
  match f.op with
  | .store .ls .. => some 0
  | .store .spad .. => some 1
  | .store .global va _ _ _ => some (mem va)
  | .red va .. => some (mem va)
  | .tile .. => some 1
  | .clean .. => some 3
  | _ => none

/-- Whether an effect of a program is not performed for a scope. -/
def effectsOut (s : State) (prog sc : Nat) : Bool :=
  s.flights.any fun f => decide (f.act = prog) && (match effectScope s f with
    | some n => decide (n ≤ sc)
    | none => false)

/-- Whether a read of the activation is not performed: loads, atomics, matrix operands (R287). -/
def readsOut (s : State) (core act : Nat) : Bool :=
  unconfirmed (s.core core) act || (mxReqsOf s act).any fun r => !r.started

/-- Whether a matrix request of a core, or of an activation, is not complete (09 R270, R287). -/
def mxOut (s : State) (core act : Nat) : Bool := !(s.core core).mxq.isEmpty || !(mxReqsOf s act).isEmpty

/-- Whether a drained `clean` of a program is not complete: every fence of package scope or wider waits for it (07 R235). -/
def cleanOut (s : State) (prog : Nat) : Bool :=
  s.flights.any fun f => decide (f.act = prog) && (match f.op with
    | .clean .. => true
    | _ => false)

/-- Whether a copy-engine command of the activation, on any core that it has run on, left the retire buffer and is not done. -/
def cpOut (s : State) (act : Nat) : Bool :=
  s.cores.any fun c => c.2.cps.any fun x => decide (x.2.owner = some act ∧ (x.2.st = .queued ∨ x.2.st = .running))

/-- A `fence` form: scope range, whether it joins matrix requests and engine commands, whether it ends with `roc.inv`. -/
def fenceForm (lo hi : Nat) (mx eng roc : Bool) (sc : BitVec 3) (o : BitVec 2) (s : State) : Out :=
  let scope := max lo (min hi sc.toNat)
  let ord := if o = 0 then 3 else o.toNat
  let act := s.me.id
  let prog := s.me.prog
  let commit := decide (2 ≤ scope)
  let wait := if mx && mxOut s s.cur act then some s
    else
      (if commit then commitWait s s.cur else none).orElse fun _ =>
        let s := if commit then commitHere s else s
        if (decide (3 ≤ scope) && cleanOut s prog) || (roc && acquireOut s.cc act) ||
           (decide (2 ≤ ord) && effectsOut s prog scope) || (decide (ord = 1 ∨ ord = 3) && readsOut s s.cur act) ||
           (eng && cpOut s act) then some s else none
  let s1 := s.qualIf (decide (o = 0) || decide (scope ≠ sc.toNat))
  let s1 := if commit then commitHere s1 else s1
  guarded s none wait (if roc then rocInvAt s1 s1.cur else s1)

/-- R286, R287. -/
def execFence (sc : BitVec 3) (o : BitVec 2) (s : State) : Out := fenceForm 0 4 false false false sc o s
/-- R286, R287: joins every earlier copy-engine command. -/
def execFenceEng (sc : BitVec 3) (o : BitVec 2) (s : State) : Out := fenceForm 2 4 false true false sc o s
/-- R286, R287: waits first for every earlier matrix request. -/
def execFenceMx (sc : BitVec 3) (o : BitVec 2) (s : State) : Out := fenceForm 1 4 true false false sc o s
/-- R286, R287: ends with `roc.inv`. -/
def execFenceRoc (sc : BitVec 3) (o : BitVec 2) (s : State) : Out := fenceForm 1 4 false false true sc o s
/-- R286, R287: all three. -/
def execFenceFull (sc : BitVec 3) (o : BitVec 2) (s : State) : Out := fenceForm 2 4 true true true sc o s

end Sys2Proof.Machine
end

