-- ==== Sys2Proof/Machine/Matrix.lean ====
section
/-! DEFINITION. The cluster matrix unit (06 R171-R198): matrix instructions at issue, requests started and completed in
the three stages, the arithmetic of K-steps and promotions (03 R95-R99). -/

namespace Sys2Proof.Machine

/-! ### Operands -/

/-- Bytes of row r of an x register. -/
def xRow (x : BitVec 16384) (r : Nat) : List Nat :=
  let row := (x.extractLsb' (256 * r) 256).toNat
  (List.range 32).map fun k => row / 256 ^ k % 256

/-- The 16 two-byte elements of row r. -/
def xHalves (x : BitVec 16384) (r : Nat) : List Nat :=
  let row := (x.extractLsb' (256 * r) 256).toNat
  (List.range 16).map fun k => row / 65536 ^ k % 65536

/-- An x register from the bytes of its rows. -/
def xOfRows (rows : List (List Byte)) : BitVec 16384 := BitVec.ofNat 16384 (rows.foldr (fun r t => ofLe r + 2 ^ 256 * t) 0)

/-- The 4,096 elements of an accumulator or partial register, row by row. -/
def accElems (v : BitVec 131072) : List Nat := (List.range 4096).map fun n => (v.extractLsb' (32 * n) 32).toNat
def accOf (l : List Nat) : BitVec 131072 := BitVec.ofNat 131072 (l.foldr (fun x t => x % 2 ^ 32 + 2 ^ 32 * t) 0)

/-! ### K-steps (R183, 03 R95, R99) -/

/-- Class of a multiplication form: 1 FP8, 2 INT8, 3 BF16, 4 complex. -/
def mmaClass (f : Nat) : Nat := if f ≤ 3 then 1 else if f = 4 then 2 else if f = 5 then 3 else 4

/-- Operand formats of a floating form. -/
def mmaFmts (f : Nat) (e4 : Bool) : Fmt × Fmt :=
  match f with
  | 0 => (.e4m3 e4, .e4m3 e4)
  | 1 => (.e5m2, .e5m2)
  | 2 => (.e4m3 e4, .e5m2)
  | 3 => (.e5m2, .e4m3 e4)
  | _ => (.bf16, .bf16)

/-- The operands of a K-step: rows of A, and columns of B. -/
structure MmaIn where
  a : List (List Nat)
  b : List (List Nat)

def mmaIn (m : MxState) (f : Nat) (xa xb : XReg) : MmaIn :=
  let x := fun (r : XReg) => m.x.get r.toFin
  match mmaClass f with
  | 1 | 2 => ⟨(List.range 64).map (xRow (x xa)), (List.range 64).map (xRow (x xb))⟩
  | 3 => ⟨(List.range 64).map fun i => xHalves (x xa) i ++ xHalves (x (xa + 1)) i,
          (List.range 64).map fun j => xHalves (x xb) j ++ xHalves (x (xb + 1)) j⟩
  | _ => ⟨(List.range 64).map fun i => xHalves (x xa) i ++ xHalves (x (xa + 1)) i,
          (List.range 32).map fun c => xHalves (x xb) c ++ xHalves (x (xb + 1)) c⟩

/-- A signed byte. -/
def sByte (n : Nat) : Int := if 128 ≤ n then (n : Int) - 256 else n

/-- Two rows of products for a complex element: real and imaginary (R99). -/
def cplxTerms (a b : List Nat) (imag : Bool) : List (Num × Bool) :=
  (List.range 16).flatMap fun h =>
    let ar := Fmt.bf16.read (a.getD (2 * h) 0)
    let ai := Fmt.bf16.read (a.getD (2 * h + 1) 0)
    let br := Fmt.bf16.read (b.getD (2 * h) 0)
    let bi := Fmt.bf16.read (b.getD (2 * h + 1) 0)
    if imag then [mulNum ar bi, mulNum ai br] else [mulNum ar br, mulNum ai.opp bi]

/-- Partial of element (i, j) of one K-step, with its flags. -/
def kElem (f : Nat) (e4 : Bool) (a b : List Nat) (imag : Bool) : Flagged Nat :=
  match mmaClass f with
  | 2 => ⟨(BitVec.ofInt 32 ((List.zipWith (fun x y => sByte x * sByte y) a b).foldl (· + ·) 0)).toNat, 0⟩
  | 4 => sumNum (cplxTerms a b imag) false
  | _ => let (fa, fb) := mmaFmts f e4; sumNum (products fa fb a b) false

/-- The partials of a K-step. -/
def kStep (f : Nat) (e4 : Bool) (i : MmaIn) : Flagged (List Nat) :=
  Flagged.all (i.a.flatMap fun a =>
    if f = 6 then i.b.flatMap fun b => [kElem f e4 a b false, kElem f e4 a b true]
    else i.b.map fun b => kElem f e4 a b false)

/-- Whether an operand element is zero: +0 or -0 in a floating type. -/
def zeroElem (f n : Nat) : Bool :=
  match mmaClass f with
  | 1 => decide (n % 128 = 0)
  | 2 => decide (n = 0)
  | _ => decide (n % 32768 = 0)

def rowZeros (f : Nat) (i : MmaIn) : BitVec 64 :=
  BitVec.ofNat 64 ((i.a.zipIdx.filter fun x => x.1.all (zeroElem f)).foldl (fun w x => w + 2 ^ x.2) 0)
def blockZero (f : Nat) (i : MmaIn) : Bool := i.b.all fun c => c.all (zeroElem f)

/-- Whether an A operand holds a NaN or an infinity. -/
def aSpecial (f : Nat) (e4 : Bool) (i : MmaIn) : Bool :=
  if f = 4 then false
  else i.a.any fun r => r.any fun n => let x := (mmaFmts f e4).1.read n; x.isNan || x.isInf

/-- Whether the whole K-step is skipped under FMT.ZS (R185); its value is the same. -/
def wholeSkip (f : Nat) (e4 zs : Bool) (i : MmaIn) : Bool := zs && blockZero f i && !aSpecial f e4 i

/-- A K-step added into a format context (R183). -/
def addPartial (cls : Nat) (x : MxCtx) (v : BitVec 131072) (rz : BitVec 64) (bz : Bool) : MxCtx × Word :=
  if x.pp = 0 then ({ part := v, pp := 1, cls := cls, rowz := rz, blkz := bz }, 0)
  else
    let l := Flagged.all (List.zipWith (fun p q =>
      if cls = 2 then (⟨(p + q) % 2 ^ 32, 0⟩ : Flagged Nat) else Fmt.f32.add .rn p q) (accElems x.part) (accElems v))
    ({ part := accOf l.val, pp := x.pp + 1, cls := cls, rowz := x.rowz &&& rz, blkz := x.blkz && bz }, l.flags)

/-! ### Promotion (R186, R187, 03 R97, R98) -/

def fpOne : Nat := 0x3F800000
def isNan32 (n : Nat) : Bool := (Fmt.f32.read n).isNan

/-- One element promoted. -/
def promElem (cls : Nat) (sa sb p acc : Nat) : Flagged Nat :=
  if cls = 2 then ⟨(p + acc) % 2 ^ 32, 0⟩
  else if cls = 1 then
    let s := Fmt.f32.mul .rn sa sb
    let r := Fmt.f32.fma .rn s.val p acc
    ⟨r.val, s.flags ||| r.flags ||| (if isNan32 sa || isNan32 sb then fSCALE else 0)⟩
  else Fmt.f32.add .rn p acc

/-- The pending partials of an accumulator promoted; with none pending nothing changes. -/
def promote (x : MxCtx) (acc : BitVec 131072) (zs : Bool) (sa : List Nat) (sb : Nat) : MxCtx × BitVec 131072 × Word :=
  if x.pp = 0 then (x, acc, 0)
  else
    let l := Flagged.all (((accElems x.part).zip (accElems acc)).mapIdx fun n pa =>
      let i := n / 64
      if x.cls = 1 ∧ zs ∧ (x.blkz ∨ x.rowz.getLsbD i) then (⟨pa.2, 0⟩ : Flagged Nat)
      else promElem x.cls (sa.getD i fpOne) sb pa.1 pa.2)
    ({ part := 0, pp := 0, cls := 0, rowz := 0, blkz := false }, accOf l.val, l.flags)

def unitScales : List Nat := List.replicate 64 fpOne

/-! ### At issue -/

/-- A trap of an A-word at issue. -/
def awTrap (s : State) (code : Nat) (tval : Word) : Trap := issueTrapAt s code true tval

/-- Rows and chunks of a scratchpad form. -/
def opndTrap (s : State) (sa sb : Word) (rows chunks : Nat) : Option Trap :=
  let o := Opnd.of sa sb
  let ts := o.tiles rows
  if o.off % 32 ≠ 0 then some (awTrap s cALIGN sa)
  else if o.rp % 32 ≠ 0 then some (awTrap s cALIGN sb)
  else if 5 < o.br ∨ 6 < o.rg then some (awTrap s cACCESS sb)
  else if ts.any (fun t => decide (255 < t)) then some (awTrap s cACCESS sb)
  else
    match ts.find? (fun t => !tileOwned s t) with
    | some t => some (awTrap s cTILE (BitVec.ofNat 64 t))
    | none =>
      match o.badChunk (fun t => (tileView s t).gran) rows chunks with
      | some (t, off) => some (awTrap s cACCESS (BitVec.ofNat 64 (t * 2 ^ 21 ||| off)))
      | none => none

/-- The wait for tiles that are not ready (R179). -/
def opndWait (s : State) (sa sb : Word) (rows : Nat) : Option State :=
  ((Opnd.of sa sb).tiles rows).findSome? fun t => tileWait s t [2]

/-- Whether a core's matrix queue has a free entry (R172). -/
def mxRoom (k : Core) : Bool := decide ((k.mxq.filter (fun r => !r.started)).length < 2)

/-- What every matrix instruction waits for at issue: confirmed accesses (R229) and a queue entry (R172). -/
def mxWait (s : State) : Option State :=
  (waitConfirm s).orElse fun _ => if mxRoom s.cc then none else some (s.waitOn .mxSlot)

/-- Registers that a request will write (R174). -/
def MxOp.dsts : MxOp → List Reg
  | .mma .. => []
  | .prom c _ => [.a c]
  | .ld two _ d _ _ => if two then [.x d, .x (d + 1)] else [.x d]
  | .ldw _ d _ _ => [.x d]
  | .ast .. => []
  | .ald c _ _ => [.a c]
  | .azero c => [.a c]
  | .stat d _ => [.s d]
  | .drop _ => []

/-- Queues a request with the format bits of its issue (R175). -/
def mxPush (s : State) (op : MxOp) : State :=
  let a := s.me
  let r : MxReq := { id := s.fresh, act := a.id, seq := a.seq, op := op, e4 := s.e4, zs := s.zs, started := false,
                     res := .none, flags := 0, committed := false, waitAt := none, prog := a.prog }
  let s := s.used1.onCC fun k => { k with mxq := k.mxq ++ [r] }
  op.dsts.foldl (fun s d => s.pendReg d) s

/-- Pending count and class of an accumulator as the activation's requests so far will leave them (R183). -/
def mxProject (a : Act) (q : List MxReq) (c : AccReg) : Nat × Nat :=
  let x := a.mx.ctx.get c.toFin
  (q.filter (fun r => decide (r.act = a.id))).foldl (fun (pp, cls) r =>
    match r.op with
    | .mma f d _ _ imp => if d = c then (if imp then 1 else pp + 1, mmaClass f) else (pp, cls)
    | .prom d _ => if d = c then (0, 0) else (pp, cls)
    | .ald d _ _ => if d = c then (0, 0) else (pp, cls)
    | .azero d => if d = c then (0, 0) else (pp, cls)
    | .drop d => if d = c then (0, 0) else (pp, cls)
    | _ => (pp, cls)) (x.pp, x.cls)

/-- A multiplication form (R183): a full partial, or one of another class, is promoted first, with WARN.QUAL. -/
def mmaIssue (f : Nat) (c : AccReg) (xa xb : XReg) (s : State) : Out :=
  let (pp, cls) := mxProject s.me (mxReqsOf s s.me.id) c
  let imp := decide (pp = 4 ∨ (0 < pp ∧ cls ≠ mmaClass f))
  guarded s none (mxWait s) (mxPush (s.qualIf imp) (.mma f c xa xb imp))

/-- R183. -/
def execMxMmaE4m3 (c : AccReg) (xa xb : XReg) (s : State) : Out := mmaIssue 0 c xa xb s
/-- R183. -/
def execMxMmaE5m2 (c : AccReg) (xa xb : XReg) (s : State) : Out := mmaIssue 1 c xa xb s
/-- R183. -/
def execMxMmxE4m3 (c : AccReg) (xa xb : XReg) (s : State) : Out := mmaIssue 2 c xa xb s
/-- R183. -/
def execMxMmxE5m2 (c : AccReg) (xa xb : XReg) (s : State) : Out := mmaIssue 3 c xa xb s
/-- R183. -/
def execMxMmaI8 (c : AccReg) (xa xb : XReg) (s : State) : Out := mmaIssue 4 c xa xb s
/-- R183. -/
def execMxMmaBf16 (c : AccReg) (xa xb : XReg) (s : State) : Out := mmaIssue 5 c xa xb s
/-- R183. -/
def execMxCmmaBf16 (c : AccReg) (xa xb : XReg) (s : State) : Out := mmaIssue 6 c xa xb s

/-- R186: the 256-byte scale vector is read from local store at issue, with no overflow commit point for a buffered reduction (DESIGN CHOICE,
log 112). -/
def execMxProm (c : AccReg) (sa sb : SReg) (s : State) : Out :=
  let off := bitsNat (s.rs sa) 16 0
  let t := if off % 4 ≠ 0 then some (awTrap s cALIGN (s.rs sa))
    else if (lsPlace s.me (BitVec.ofNat 64 off) 256).isNone then some (awTrap s cACCESS (lsTval s.me off 256 (s.rs sa))) else none
  let b := readLs s off 256
  let scales := (List.range 64).map fun i => BitVec.ofNat 32 (ofLe ((b.drop (4 * i)).take 4))
  guarded s t (mxWait s) (mxPush s (.prom c (some (scales, (s.rs sb).setWidth 32))))

/-- R187. -/
def execMxPromU (c : AccReg) (s : State) : Out := guarded s none (mxWait s) (mxPush s (.prom c none))

/-- A form with a scratchpad operand (R179). -/
def opndIssue (sa sb : SReg) (rows chunks : Nat) (op : Word → Word → MxOp) (s : State) : Out :=
  let a := s.rs sa
  let b := s.rs sb
  guarded s (opndTrap s a b rows chunks) ((mxWait s).orElse fun _ => opndWait s a b rows) (mxPush s (op a b))

/-- R181. -/
def execMxLd (xd : XReg) (sa sb : SReg) (s : State) : Out := opndIssue sa sb 64 1 (fun a b => .ld false false xd a b) s
/-- R181. -/
def execMxLd2 (xd : XReg) (sa sb : SReg) (s : State) : Out := opndIssue sa sb 64 2 (fun a b => .ld true false xd a b) s
/-- R181. -/
def execMxLdt (xd : XReg) (sa sb : SReg) (s : State) : Out := opndIssue sa sb 32 2 (fun a b => .ld false true xd a b) s
/-- R188. -/
def execMxAstF32 (c : AccReg) (sa sb : SReg) (s : State) : Out := opndIssue sa sb 64 8 (fun a b => .ast false c a b) s
/-- R188. -/
def execMxAstBf16 (c : AccReg) (sa sb : SReg) (s : State) : Out := opndIssue sa sb 64 4 (fun a b => .ast true c a b) s
/-- R188. -/
def execMxAldF32 (c : AccReg) (sa sb : SReg) (s : State) : Out := opndIssue sa sb 64 8 (fun a b => .ald c a b) s

/-- Checks of `mx.ldw` at issue (R182); an address that R200 refuses, or a quadrille window (17 R429), raises ACCESS. -/
def ldwTrap (s : State) (q4 : Bool) (sa sb : Word) : Option Trap :=
  let unit := if q4 then 8 else 16
  let rpg := bitsNat sb 19 0
  let sc := sa + (BitVec.ofNat 44 (bitsNat sb 63 20)).signExtend 64
  if sa.toNat % unit ≠ 0 then some (awTrap s cALIGN sa)
  else if rpg % unit ≠ 0 then some (awTrap s cALIGN (BitVec.ofNat 64 rpg))
  else if q4 ∧ sc.toNat % 4 ≠ 0 then some (awTrap s cALIGN sc)
  else
    match (ldwPieces q4 sa sb).find? (fun p => vaRefused (BitVec.ofNat 64 p.1) || isQuad p.1) with
    | some p => some (awTrap s cACCESS (BitVec.ofNat 64 p.1))
    | none => none

/-- R182: until every row and scale is confirmed it is an unconfirmed access of the activation. Its loads wait for a buffered reduction
that they cover (10 R279). -/
def ldwIssue (q4 : Bool) (xd : XReg) (sa sb : SReg) (s : State) : Out :=
  let a := s.rs sa
  let b := s.rs sb
  guarded s (ldwTrap s q4 a b) ((mxWait s).orElse fun _ => (ldwPieces q4 a b).findSome? fun p => redWait s p.1 p.2)
    (addAccess (mxPush s (.ldw q4 xd a b)) (.ldw s.fresh) a.toNat 0 false false 2 none)

/-- R182. -/
def execMxLdwQ4 (xd : XReg) (sa sb : SReg) (s : State) : Out := ldwIssue true xd sa sb s
/-- R182. -/
def execMxLdwE4m3 (xd : XReg) (sa sb : SReg) (s : State) : Out := ldwIssue false xd sa sb s

/-- R188. -/
def execMxAzero (c : AccReg) (s : State) : Out := guarded s none (mxWait s) (mxPush s (.azero c))

/-- R190: the next bundle is held until every earlier matrix request of the core has completed. -/
def execMxSync (s : State) : Out := guarded s none (waitConfirm s) (s.onMe fun a => { a with mxHold := s.fresh })

/-- R190. -/
def execMxStat (d : SReg) (c : AccReg) (s : State) : Out := guarded s none (mxWait s) (mxPush s (.stat d c))

/-- R190. -/
def execMxDrop (c : AccReg) (s : State) : Out := guarded s none (mxWait s) (mxPush s (.drop c))

/-! ### Requests started (R172-R174, R192) -/

/-- The stage of a request: 0 loader, 1 MAC array, 2 promotion (R171). -/
def MxOp.stage : MxOp → Option Nat
  | .mma .. => some 1
  | .prom .. => some 2
  | .azero _ => some 2
  | .ld .. | .ldw .. | .ast .. | .ald .. => some 0
  | .stat .. | .drop _ => none

/-- The accumulator of a request. -/
def MxOp.acc : MxOp → Option AccReg
  | .mma _ c .. => some c
  | .prom c _ => some c
  | .azero c => some c
  | .ast _ c .. => some c
  | .ald c .. => some c
  | .stat _ c => some c
  | .drop c => some c
  | _ => none

/-- Requests of a core before one. -/
def mxBefore (k : Core) (id : Nat) : List MxReq := k.mxq.takeWhile fun r => decide (r.id ≠ id)

/-- Whether an activation's matrix state is in its core, or may be taken there since no other activation's is (R194); that of one
which has left the core stands in the die context area (R196). -/
def mxHere (k : Core) (act : Nat) : Bool :=
  (k.acts.all fun x => x.2.id == act || !x.2.mxPlaced) || k.acts.all fun x => decide (x.2.id ≠ act)

/-- Whether an earlier acquiring access of the activation has not returned (10 R278). -/
def mxHeld (k : Core) (r : MxReq) : Bool := k.accs.any fun y => decide (y.act = r.act ∧ y.seq < r.seq) && y.acq

/-- Whether an earlier access of the program still has to reach the places of a request's operand: its scratchpad reads are loads, and
come in program order with the program's other accesses to them (R198, 11 R291). -/
def mxBehind (s : State) (core : Nat) (r : MxReq) : Bool :=
  let places := r.op.places s core
  !places.isEmpty &&
    (((s.core core).accs.any fun y =>
        decide (y.prog = r.prog ∧ y.id < r.id ∧ ¬(y.act = r.act ∧ y.seq = r.seq)) && holdsUp s core y places) ||
      places.any fun p => portBusy s r.prog p.1 p.2)

/-- Requests of an activation before one, on every core that it issued them on. -/
def mxEarlier (s : State) (r : MxReq) : List MxReq := (mxReqsOf s r.act).takeWhile fun q => decide (q.id ≠ r.id)

/-- The request of a core that waits for a stage: its oldest one not started, with its matrix state in place. One that uses no stage
holds the later ones until it has completed (DESIGN CHOICE, log 112). -/
def mxCandidate (s : State) (core stage : Nat) : Option MxReq :=
  let k := s.core core
  match k.mxq.find? (fun r => !r.started) with
  | none => none
  | some r =>
    if r.op.stage ≠ some stage || !mxHere k r.act || mxHeld k r || mxBehind s core r then none
    else
      match r.op with
      | .prom c _ =>
        -- a promotion starts when every pending K-step of its accumulator has its result (Table 6.7)
        if (mxEarlier s r).any (fun q => decide (q.op.acc = some c) && (match q.op with | .mma .. => true | _ => false))
        then none else some r
      | _ => some r

/-- Asks a die's governor for tokens (20 R464). -/
def askLeave (s : State) (die : Nat) (p : Pool) (n : Nat) : State :=
  s.onDie die fun d => { d with reqs := d.reqs ++ [{ pool := p, n := n, refused := false, since := s.now }] }

/-- Scratchpad bytes of a chunk, the activation's own earlier stores merged (R189). -/
def chunkBytes (s : State) (core : Nat) (ops : List RbOp) (o : Opnd) (r c : Nat) : List Byte :=
  let cl := s.cluster (clusterOf core)
  let a := o.byte (fun t => (cl.tile t).base) r c
  merged ops .spad a (mread cl.spad a 32)

/-- The 32 bytes of chunk c of row i of an accumulator. A signalling NaN that is rounded sets NV (DEDUCED from 03 R80,
log 112). -/
def astChunk (bf16 : Bool) (l : List Nat) (i c : Nat) : Flagged (List Byte) :=
  if bf16 then
    (Flagged.all ((List.range 16).map fun e => Fmt.f32.convert .bf16 .rn (l.getD (64 * i + 16 * c + e) 0))).map fun v =>
      v.flatMap fun x => leBytes 2 x
  else ⟨(List.range 8).flatMap fun e => leBytes 4 (l.getD (64 * i + 8 * c + e) 0), 0⟩

/-- What a request fixes when it starts. An `mx.ast` that starts before an `mma` which promotes its accumulator has completed takes the
earlier elements (DESIGN CHOICE, log 112). -/
def mxStart (s : State) (core : Nat) (m : MxState) (r : MxReq) : MxRes × Word :=
  let ops := olderOps s core r.prog r.seq
  match r.op with
  | .mma f _ xa xb _ =>
    let i := mmaIn m f xa xb
    let k := kStep f r.e4 i
    (.part (accOf k.val) (rowZeros f i) (blockZero f i), k.flags)
  | .ld two tr _ sa sb =>
    let o := Opnd.of sa sb
    if tr then
      let src := (List.range 32).map fun k => chunkBytes s core ops o k 0 ++ chunkBytes s core ops o k 1
      (.x [xOfRows ((List.range 64).map fun j => src.map fun row => row.getD j 0)], 0)
    else
      let x := fun c => xOfRows ((List.range 64).map fun i => chunkBytes s core ops o i c)
      (.x (if two then [x 0, x 1] else [x 0]), 0)
  | .ldw .. => (.bytes [], 0)
  | .ast bf16 c sa sb =>
    let o := Opnd.of sa sb
    let cl := s.cluster (clusterOf core)
    let l := accElems (m.acc.get c.toFin)
    let runs := (List.range 64).flatMap fun i => (List.range (if bf16 then 4 else 8)).map fun ch =>
      (astChunk bf16 l i ch).map fun b => (o.byte (fun t => (cl.tile t).base) i ch, b)
    let all := Flagged.all runs
    (.runs all.val, all.flags)
  | .ald _ sa sb =>
    let o := Opnd.of sa sb
    let l := (List.range 64).flatMap fun i => (List.range 8).flatMap fun ch =>
      let b := chunkBytes s core ops o i ch
      (List.range 8).map fun e => ofLe ((b.drop (4 * e)).take 4)
    (.acc (accOf l), 0)
  | _ => (.none, 0)

/-- Marks a request as started in its stage, with what it fixes. -/
def mxRun (s : State) (cl stage core : Nat) (r : MxReq) (m : MxState) : State :=
  let (res, fl) := mxStart s core m r
  let s := s.onCore core fun k =>
    let k := { k with
      mxq := k.mxq.map fun q => if q.id = r.id then { q with started := true, res := res, flags := fl, waitAt := none } else q
      acts := fmapVals (fun _ a => if a.id = r.act then { a with mxPlaced := true } else a) k.acts }
    match r.waitAt with
    | some t => addWait k (s.now - t)
    | none => k
  s.onCluster cl fun c =>
    { c with stages := c.stages.mapIdx fun i g => if i = stage then { busy := some (core, r.id), last := core % 4 } else g }

/-- Whether a stage is free: it serves no request, or one whose occupancy ends before its result is delivered (Table 6.7). -/
def stageFree (s : State) (g : Stage) : Bool :=
  match g.busy with
  | none => true
  | some (core, id) =>
    match (s.core core).mxq.find? (fun r => decide (r.id = id)) with
    | some r =>
      match r.op, r.res with
      | .mma .., _ => true
      | .ld .., _ => true
      | .ald .., _ => true
      | .ldw .., .x _ => true
      | _, _ => false
    | none => true

/-- The MAC array holds no token: 64 are asked for, and every core whose K-step waits counts the time (R192). -/
def mxAsk (s : State) (cluster core : Nat) : State :=
  let cl := s.cluster cluster
  let s := if cl.asked = 0 then askLeave (s.onCluster cluster fun c => { c with asked := 64 }) (cluster / 64) (.mx cluster core) 64 else s
  (clusterCores cluster).foldl (fun s c =>
    match mxCandidate s c 1 with
    | some r => s.onCore c fun k =>
        { k with mxq := k.mxq.map fun q => if q.id = r.id then { q with waitAt := q.waitAt.orElse fun _ => some s.now } else q }
    | none => s) s

/-- R172, R173, R192: a stage takes the request of the first waiting core after the core that it last served. With no leave token no
K-step starts; one that is not wholly skipped takes a token. -/
def execMxRequestStart (cluster stage : Nat) (s : State) : Out :=
  let cl := s.cluster cluster
  .next (match cl.stages[stage]? with
    | none => s
    | some g =>
      if !stageFree s g then s
      else
        match ([1, 2, 3, 4].map fun d => 4 * cluster + (g.last + d) % 4).findSome? (fun c => (mxCandidate s c stage).map fun r => (c, r)) with
        | none => s
        | some (core, r) =>
          match s.findAct r.act with
          | none => s.onCore core (keepReqs s.now fun q => decide (q.id ≠ r.id))
          | some a =>
            match r.op with
            | .mma f _ xa xb _ =>
              if cl.held = 0 then mxAsk s cluster core
              else
                let s := if wholeSkip f r.e4 r.zs (mmaIn a.mx f xa xb) then s else s.onCluster cluster fun c => { c with held := c.held - 1 }
                mxRun s cluster stage core r a.mx
            | _ => mxRun s cluster stage core r a.mx)

/-! ### Requests completed (R191, R195) -/

def MxState.setX (m : MxState) (d : XReg) (v : BitVec 16384) : MxState := { m with x := m.x.set d.toNat v d.isLt }
def MxState.setAcc (m : MxState) (c : AccReg) (v : BitVec 131072) : MxState := { m with acc := m.acc.set c.toNat v c.isLt }
def MxState.setCtx (m : MxState) (c : AccReg) (x : MxCtx) : MxState := { m with ctx := m.ctx.set c.toNat x c.isLt }

def emptyCtx : MxCtx := { part := 0, pp := 0, cls := 0, rowz := 0, blkz := false }

/-- Table 6.6. -/
def mxStatWord (x : MxCtx) : Word :=
  BitVec.ofNat 64 (if x.pp = 0 then 0 else x.pp + 16 * x.cls + (if x.blkz then 128 else 0))

/-- What a completed request does to a matrix state, and the flags that it sets. -/
def mxApply (r : MxReq) (m : MxState) : MxState × Word :=
  match r.op, r.res with
  | .mma f c _ _ imp, .part v rz bz =>
    let x := m.ctx.get c.toFin
    let (m, x, f1) :=
      if imp then
        let (x, acc, fl) := promote x (m.acc.get c.toFin) r.zs unitScales fpOne
        (m.setAcc c acc, x, fl)
      else (m, x, 0)
    let (x, f2) := addPartial (mmaClass f) x v rz bz
    (m.setCtx c x, r.flags ||| f1 ||| f2)
  | .prom c sc, _ =>
    let (sa, sb) := match sc with
      | some (l, b) => (l.map (·.toNat), b.toNat)
      | none => (unitScales, fpOne)
    let (x, acc, fl) := promote (m.ctx.get c.toFin) (m.acc.get c.toFin) r.zs sa sb
    ((m.setAcc c acc).setCtx c x, fl)
  | .ld _ _ d _ _, .x [v] => (m.setX d v, 0)
  | .ld _ _ d _ _, .x (v :: w :: _) => ((m.setX d v).setX (d + 1) w, 0)
  | .ldw _ d _ _, .x (v :: _) => (m.setX d v, r.flags)
  | .ast .., _ => (m, r.flags)
  | .ald c _ _, .acc v => ((m.setAcc c v).setCtx c emptyCtx, 0)
  | .azero c, _ => ((m.setAcc c 0).setCtx c emptyCtx, 0)
  | .drop c, _ => (m.setCtx c emptyCtx, 0)
  | _, _ => (m, 0)

/-- The completed request in an activation: live state, and its snapshot when it belongs to the committed part (R195). -/
def mxLand (r : MxReq) (a : Act) : Act :=
  let out := fun (l : List Reg) => l.filter fun x => !r.op.dsts.contains x
  let val := fun (g : Regs) (m : MxState) => match r.op with
    | .stat d c => g.setS d (mxStatWord (m.ctx.get c.toFin))
    | _ => g
  let (m, _) := mxApply r a.mx
  let a := { a with regs := val a.regs a.mx, mx := m, pend := out a.pend }
  if r.committed then
    let (sm, sf) := mxApply r a.snap.mx
    { a with snap := { a.snap with regs := val a.snap.regs a.snap.mx, mx := sm, flags := a.snap.flags ||| sf, pend := out a.snap.pend } }
  else a

/-- The bytes of an `mx.ast` of a committed part whose activation does not run: no later effect of it is buffered, and they are
stored (R195). -/
def astStore (s : State) (core : Nat) (r : MxReq) (runs : List (Nat × List Byte)) : Option State :=
  if r.committed then some (runs.foldl (fun s x => spadStore s (clusterOf core) x.1 x.2) s) else none

/-- The bytes of a completed `mx.ast` enter the retire buffer, at their place among its stores (R189, R198, 09 R270). Where they do not fit, the overflow commit
point comes first, which is that of a late fault where one drains (07 R231); none while it has to wait. -/
def astEnter (s : State) (core : Nat) (r : MxReq) (runs : List (Nat × List Byte)) : Option State :=
  let k := s.core core
  match k.running with
  | some (_, a) =>
    if a.id ≠ r.act then astStore s core r runs
    else
      let size := 32 * runs.length
      let put := fun (s : State) (c : Bool) =>
        s.onCore core fun k => { k with rb := putAst { seq := r.seq, size := size, op := .ast runs c, pc := a.pc } k.rb }
      if rbFits k size then some (put s r.committed)
      else if (unconfirmed k a.id && !(k.draining && (lateOf k).isSome)) || acquiring k a.id then none
      else
        let s := drain s core
        if (s.core core).rb.isEmpty then some (put (snapshot s core a.pc) true) else none
  | none => astStore s core r runs

/-- Whether a request may complete: it has started and its data is there, or it has no stage, no earlier acquire is out (10 R278), and
every earlier request of its core, and of its activation, is complete; and earlier requests on its accumulator are complete. -/
def mxDone (s : State) (core : Nat) (r : MxReq) : Bool :=
  (match r.op.stage with
   | none => (mxBefore (s.core core) r.id).isEmpty && (mxEarlier s r).isEmpty && !mxHeld (s.core core) r
   | some _ => r.started) &&
  (match r.op, r.res with
   | .ldw .., .x _ => true
   | .ldw .., _ => false
   | _, _ => true) &&
  (mxEarlier s r).all fun p => decide (p.op.acc = none ∨ p.op.acc ≠ r.op.acc)

/-- R191: a request completes: its result and its flags land, its stage is free if it still serves it. -/
def execMxRequestComplete (core id : Nat) (s : State) : Out :=
  .next (match (s.core core).mxq.find? (fun r => decide (r.id = id)) with
    | none => s
    | some r =>
      if !mxDone s core r then s
      else
        let s1 := match r.op, r.res with
          | .ast .., .runs v => astEnter s core r v
          | _, _ => some s
        match s1 with
        | none => s
        | some s =>
          let r := ((s.core core).mxq.find? (fun q => decide (q.id = id))).getD r
          let fl := ((s.findAct r.act).map fun a => (mxApply r a.mx).2).getD 0
          let s := landFlags (s.onActAll r.act (mxLand r)) core r.act r.seq fl
          let s := s.onCore core fun k => { k with mxq := k.mxq.filter fun q => decide (q.id ≠ id) }
          s.onCluster (clusterOf core) fun c =>
            { c with stages := c.stages.map fun g => if g.busy = some (core, id) then { g with busy := none } else g })

/-- R194, R195: the matrix state of the activation in a context, whose request is the core's next to start, is brought into the core;
the state that was there stays in the die context area. -/
def execMxStateCopy (core ctx : Nat) (s : State) : Out :=
  .next (match fget (s.core core).acts ctx with
    | none => s
    | some a =>
      if ((s.core core).mxq.find? (fun r => !r.started)).any (fun r => decide (r.act = a.id)) then
        s.onCore core fun k => { k with acts := fmapVals (fun x a => { a with mxPlaced := decide (x = ctx) }) k.acts }
      else s)

end Sys2Proof.Machine
end

