-- ==== Sys2Proof/Machine/Copy.lean ====
section
/-! DEFINITION. Copy-engine commands (08): issue and its checks, start, completion, waiting, polling, cancelling. -/

namespace Sys2Proof.Machine

/-! ### The engine's global accesses (R253) -/

/-- Where a piece of a global endpoint lies. -/
inductive EngLoc where
  | mem (pte : Word) (pa : Nat)
  | win (core off : Nat)
  | seg (pkg cl off : Nat)
  | fault (cause : Nat)

/-- Translation of a piece that lies in one line (R253, 17 R429). -/
def engLoc (s : State) (core part rp va n : Nat) (p : Perm) : EngLoc :=
  match vaKind va with
  | .translated =>
    match xlateHw s part va p with
    | .ok pte _ pa => .mem pte pa
    | .fault c _ => .fault c
    | .miss => .fault cPAGE
  | .window c off =>
    match windowLoc s part c off n with
    | .window c off => .win c off
    | _ => .fault cACCESS
  | .quad .. =>
    match quadPlace s core part rp va n with
    | .ok (pkg, cl, off) => .seg pkg cl off
    | .error (c, _) => .fault c
  | .unassigned => .fault cACCESS

/-- The pieces of a range, each in one line; addresses wrap at 2^64 (R247). -/
def linePieces : Nat → Nat → Nat → List (Nat × Nat)
  | 0, _, _ => []
  | k + 1, va, n =>
    let va := va % 2 ^ 64
    let m := min n (32 - va % 32)
    if n = 0 then [] else (va, m) :: linePieces k (va + m) (n - m)

/-- The pieces of n bytes. -/
def piecesOf (va n : Nat) : List (Nat × Nat) := linePieces (n / 32 + 2) va n

/-- What another package has answered an engine's read. -/
def engAsk (s : State) (core part : Nat) (p : Nat × Nat) : Option WinAsk :=
  s.asks.find? fun a => decide (a.who = .engRead core ∧ a.part = part ∧ a.va = p.1 ∧ a.size = p.2)

/-- What a piece has to wait for at its home, or at a port of another package: the state after the request for it. -/
def engWait (s : State) (core part rp : Nat) (write : Bool) (p : Nat × Nat) : Option State :=
  match engLoc s core part rp p.1 p.2 (if write then .w else .r) with
  | .mem pte pa => homeWait s part p.1 pte pa write
  | .seg pkg .. =>
    if pkg = s.pkg then none
    else if write then (if 2 ^ 13 < s.tagsOut.length + 8 then some s else none)
    else
      match engAsk s core part p with
      | some a => if a.got.isSome || a.bad.isSome then none else some s
      | none => some (askWindow s core part pkg (.engRead core) p.1 p.2 2 p.2)
  | _ => none

/-- A read that succeeds, or the cause and the address of its fault. -/
inductive EngRd where
  | ok (s : State) (b : List Byte)
  | fault (s : State) (cause va : Nat)

/-- What an uncorrectable error in an engine's access can strike (20 R493): a table entry of its walk, or the bytes that a read returns;
one of them, a free choice. -/
def engErr (s : State) (part va : Nat) (data : Option Nat) (err : Bool) : Option EngRd :=
  if !err || decide (vaKind va ≠ .translated) then none
  else
    let walk := if (s.slice (homeOf s va)).tlb.any (·.covers part va) || decide ((s.partn part).ptroot = 0) then []
      else (walkPath s va 4 (s.partn part).ptroot).map (·.2)
    let l := walk ++ (data.filter fun pa => needsDram s part va pa).toList
    (l[below l.length s.freeNat]?).map fun a => .fault (memErr s.used part a) cACCESS va

/-- The physical address that an engine's access is translated to. -/
def EngLoc.pa? : EngLoc → Option Nat
  | .mem _ pa => some pa
  | _ => none

/-- Reads one piece; a remote member's bytes are those that its package has answered (17 R429). A leaf that translated it stays in the TLB (07 R222). -/
def engRead (s : State) (core part rp : Nat) (err : Bool) (p : Nat × Nat) : EngRd :=
  let (va, n) := p
  let l := engLoc s core part rp va n .r
  (engErr s part va l.pa? err).getD
  (match l with
  | .mem pte pa =>
      let (s, b) := homeRead (countReq (tlbKeep s part va .r) part va core 4) part va pa (pteRemote s pte) n 2
      .ok s b
  | .win c off => .ok s (mread (s.core c).ls off n)
  | .seg pkg cl off =>
    if pkg = s.pkg then .ok s (mread (s.cluster cl).spad off n)
    else
      match engAsk s core part p with
      | some a =>
        let s := { s with asks := s.asks.filter fun b => decide (b.id ≠ a.id) }
        match a.got with
        | some b => .ok s b
        | none => .fault s (a.bad.getD cACCESS) va
      | none => .fault s cACCESS va
  | .fault c => .fault s c va)

def engReads (core part rp : Nat) (err : Bool) : List (Nat × Nat) → State → List Byte → EngRd
  | [], s, b => .ok s b
  | p :: r, s, b =>
    match engRead s core part rp err p with
    | .ok s c => engReads core part rp err r s (b ++ c)
    | .fault s c va => .fault s c va

/-- Writes one piece. -/
def engWrite (s : State) (core part rp va : Nat) (b : List Byte) (err : Bool := false) : EngRd :=
  (engErr s part va none err).getD
  (match engLoc s core part rp va b.length .w with
  | .mem pte pa => .ok (homeWrite (countReq (tlbKeep s part va .w) part va core 5) none part va pa (pteRemote s pte) b) []
  | .win c off => .ok (lsStore s c off b) []
  | .seg pkg cl off =>
    if pkg = s.pkg then .ok (spadStore s cl off b) []
    else .ok (askWindow s core part pkg (.engWrite core 512) va b.length 3 (b.length + 256 * ofLe b)) []
  | .fault c => .fault s c va)

def engWrites (core part rp : Nat) (err : Bool) : List (Nat × Nat) → List Byte → State → EngRd
  | [], _, s => .ok s []
  | (va, n) :: r, b, s =>
    match engWrite s core part rp va (b.take n) err with
    | .ok s _ => engWrites core part rp err r (b.drop n) s
    | x => x

/-- n bytes as they are now, where they can be read at once; nothing changes. -/
def engPeek (s : State) (core part rp va n : Nat) : List Byte :=
  let ps := piecesOf va n
  let ok := ps.all fun p =>
    (engWait s core part rp false p).isNone &&
      (match engLoc s core part rp p.1 p.2 .r with
       | .fault _ => false
       | .seg pkg .. => decide (pkg = s.pkg)
       | _ => true)
  if !ok then []
  else
    match engReads core part rp false ps s [] with
    | .ok _ b => b
    | .fault .. => []

/-! ### Completion-table entries (R248, R263) -/

def Core.cp (k : Core) (id : Nat) : CpEnt := (fget k.cps id).getD CpEnt.reset

def State.cpEnt (s : State) (core id : Nat) : CpEnt := (s.core core).cp id

def State.onCp (s : State) (core id : Nat) (f : CpEnt → CpEnt) : State :=
  s.onCore core fun k => { k with cps := fset k.cps id (f (k.cp id)) }

/-- Writes to other packages that are not named yet are those of a command. -/
def nameAsks (core id : Nat) (s : State) : State :=
  { s with asks := s.asks.map fun a => if a.who = .engWrite core 512 then { a with who := .engWrite core id } else a }

/-- Whether writes of a command to other packages have no answer yet. -/
def cpAsks (s : State) (core id : Nat) : Bool := s.asks.any fun a => decide (a.who = .engWrite core id)

/-- A freed entry keeps its generation. -/
def CpEnt.freed (e : CpEnt) : CpEnt := { CpEnt.reset with gen := e.gen }

/-- The entry that a command takes: the lowest free one, else the oldest done one of the activation. -/
def cpAlloc (k : Core) (act : Nat) : Option Nat :=
  match (List.range 512).find? (fun i => decide ((k.cp i).st = .free)) with
  | some i => some i
  | none =>
    let done := k.cps.filter fun x => decide (x.2.st = .done ∧ x.2.owner = some act)
    (done.find? (fun x => done.all fun y => decide (x.2.doneAt ≤ y.2.doneAt))).map (·.1)

/-! ### Issue (R248, R249) -/

/-- Endpoints of a form (Table 8.4) with the alignment that a whole address needs: 0 for one that R247 describes. -/
def CpForm.ends : CpForm → List (Nat × Nat)
  | .copy => [(0, 0), (2, 0)]
  | .gather => [(0, 0), (2, 4)]
  | .scatter => [(0, 4), (2, 0)]
  | .fill => [(0, 0)]
  | .mcast => [(2, 0)]
  | .walk => [(0, 0), (2, 1)]
  | .cow => [(2, 4)]

/-- Whole-address fields of a form with their alignments: AUX, AUX2, CW. -/
def CpForm.addrs (f : CpForm) : List (Nat × Nat) :=
  (f.ends.filter (fun x => decide (x.2 ≠ 0))) ++
    (if f = .copy ∨ f = .fill then [] else [(5, 1)]) ++ (if f = .cow then [(6, 32)] else []) ++ [(7, 16)]

/-- Checks of a descriptor in the order of Table 8.3, after those of its offset. Where several fields of one row fail, TVAL holds the
first of DST and SRC as endpoints, of an index array or table entry, AUX, AUX2 and CW (DESIGN CHOICE, log 84). -/
def cpCheck (s : State) (f : CpForm) (d : List Word) : Option Trap :=
  let g := fun i => d.getD i 0
  let rb := bitsNat (g 4) 31 0
  let rows := bitsNat (g 4) 47 32
  let plain := (f.ends.filter (fun x => decide (x.2 = 0))).map (·.1)
  let spads := plain.filter fun i => isSpad (g i)
  let trap := fun code v => some (issueTrapAt s code false v)
  if rb = 0 ∨ 2 ^ 24 < rb ∨ rows = 0 ∨ 2 ^ 30 < rows * rb ∨ (f = .cow ∧ rows ≠ 1) then trap cACCESS (g 4)
  else if rb % 32 ≠ 0 ∧ (f = .mcast ∨ spads ≠ []) then trap cACCESS (g 4)
  else
    match plain.find? (fun i => !isSpad (g i) && decide (bitsNat (g i) 62 57 ≠ 0)) with
    | some i => trap cACCESS (g i)
    | none =>
      match f.addrs.find? (fun x => decide (bitsNat (g x.1) 63 57 ≠ 0)) with
      | some x => trap cACCESS (g x.1)
      | none =>
        match f.addrs.find? (fun x => decide ((g x.1).toNat % x.2 ≠ 0)) with
        | some x => trap cALIGN (g x.1)
        | none =>
          match spads.findSome? (fun i => opndTrap s (g i) (g (i + 1)) rows (rb / 32)) with
          | some t => some { t with aw := false }
          | none =>
            if f ≠ .mcast then none
            else
              let o := Opnd.of (g 0) (g 1)
              if o.off % 32 ≠ 0 then trap cALIGN (g 0)
              else if o.rp % 32 ≠ 0 then trap cALIGN (g 1)
              else if 5 < o.br ∨ 6 < o.rg then trap cACCESS (g 1)
              else none

/-- The descriptor that the bundle reads (R248): buffered stores are merged. -/
def cpDesc (s : State) (a : Word) : List Word :=
  let b := readLs s (bitsNat a 16 0) 64
  (List.range 8).map fun i => wordOfLe ((b.drop (8 * i)).take 8)

/-- The trap of a command form (Table 8.3). -/
def cpTrap (s : State) (f : CpForm) (a : Word) : Option Trap :=
  let off := bitsNat a 16 0
  if off % 64 ≠ 0 then some (issueTrapAt s cALIGN false a)
  else if (lsPlace s.me (BitVec.ofNat 64 off) 64).isNone then some (issueTrapAt s cACCESS false (lsTval s.me off 64 a))
  else cpCheck s f (cpDesc s a)

/-- The wait of a command form: confirmation (R229), an entry, room in the retire buffer. -/
def cpIssueWait (s : State) : Option State :=
  (waitConfirm s).orElse fun _ =>
    if (cpAlloc s.cc s.me.id).isNone then some (s.waitOn .cpEntry) else roomWait s 64

/-- A handle (R248). -/
def cpHandle (core gen id : Nat) : Word := BitVec.ofNat 64 (core * 2 ^ 25 + gen * 2 ^ 9 + id)

/-- The effect of a command form at issue (R248). -/
def cpPut (f : CpForm) (d : SReg) (desc : List Word) (pat : Word) (s : State) : State :=
  let a := s.me
  let id := (cpAlloc s.cc a.id).getD 0
  let gen := (s.cpEnt s.cur id).gen + 1
  let e : CpEnt := { CpEnt.reset with
    gen := gen, st := .buffered, owner := some a.id, rcb := a.rp, part := a.part, ent := entrantOf s a.part a.rp s.cur,
    form := f, desc := desc, pattern := pat, act := a.prog, seq := a.seq }
  rbAppend ((s.onCp s.cur id fun _ => e).ws d (cpHandle s.cur gen.toNat id)) 64 (.cp id)

/-- A command form (R248). -/
def cpIssue (f : CpForm) (d a : SReg) (pat : Word) (s : State) : Out :=
  let v := s.rs a
  guarded s (cpTrap s f v) (cpIssueWait s) (cpPut f d (cpDesc s v) pat s)

/-- R251. -/
def execCpCopy (d a : SReg) (s : State) : Out := cpIssue .copy d a 0 s
/-- R251. -/
def execCpGather (d a : SReg) (s : State) : Out := cpIssue .gather d a 0 s
/-- R251. -/
def execCpScatter (d a : SReg) (s : State) : Out := cpIssue .scatter d a 0 s
/-- R251: the pattern is read at issue. -/
def execCpFill (d a b : SReg) (s : State) : Out := cpIssue .fill d a (s.rs b) s
/-- R258. -/
def execCpMcast (d a : SReg) (s : State) : Out := cpIssue .mcast d a 0 s
/-- R256. -/
def execCpWalk (d a : SReg) (s : State) : Out := cpIssue .walk d a 0 s
/-- R257. -/
def execCpCow (d a : SReg) (s : State) : Out := cpIssue .cow d a 0 s

/-! ### What a command moves (R251, R256-R259) -/

/-- An end of a piece of 32 bytes or fewer. -/
inductive CpPlace where
  | spad (cl a : Nat)
  | va (a : Nat)
  | bytes (b : List Byte)

/-- Chunks of 32 bytes in a row. -/
def CpEnt.perRow (e : CpEnt) : Nat := (e.rb + 31) / 32

/-- Bytes that a command moves: those of a multicast for each target. Byte c of row r for target n has the number
(n ROWS + r) RB + c. -/
def CpEnt.total (e : CpEnt) : Nat := if e.form = .mcast then e.targets.length * e.bytes else e.bytes

/-- The identifier or index of row r. -/
def CpEnt.idx (e : CpEnt) (r : Nat) : Nat := (e.group.getD r 0).toNat

/-- An endpoint of R247: byte c of row r. -/
def endPlace (s : State) (cl : Nat) (w sh : Word) (r c : Nat) : CpPlace :=
  if isSpad w then .spad cl ((Opnd.of w sh).byte (fun t => ((s.cluster cl).tile t).base) r (c / 32) + c % 32)
  else .va ((w.toNat + r * bitsNat sh 31 0 + c) % 2 ^ 64)

/-- The source of n bytes from byte c of row r. -/
def CpEnt.src (e : CpEnt) (s : State) (core r c n : Nat) : CpPlace :=
  let aux := (e.d 5).toNat
  match e.form with
  | .copy | .scatter | .mcast => endPlace s (clusterOf core) (e.d 2) (e.d 3) r c
  | .gather => .va ((aux + e.idx r * bitsNat (e.d 3) 31 0 + c) % 2 ^ 64)
  | .fill => .bytes ((List.range n).map fun b => BitVec.ofNat 8 (e.pattern.toNat / 256 ^ ((c + b) % 8)))
  | .walk => if e.idx r = 0xFFFFFFFF then .bytes (List.replicate n 0) else .va ((aux + e.idx r * e.rb + c) % 2 ^ 64)
  | .cow => .va ((aux + e.idx 0 * e.rb + c) % 2 ^ 64)

/-- The operand address and shape of target n of a multicast (R259). -/
def CpEnt.tgtOpnd (e : CpEnt) (t : Nat) : Opnd := { Opnd.of (e.d 0) (e.d 1) with t := t }

/-- The destination of byte c of row r, for target n of a multicast. -/
def CpEnt.dst (e : CpEnt) (s : State) (core n r c : Nat) : CpPlace :=
  let aux := (e.d 5).toNat
  match e.form with
  | .copy | .gather | .fill | .walk => endPlace s (clusterOf core) (e.d 0) (e.d 1) r c
  | .scatter => .va ((aux + e.idx r * bitsNat (e.d 1) 31 0 + c) % 2 ^ 64)
  | .cow => .va ((aux + e.idx 1 * e.rb + c) % 2 ^ 64)
  | .mcast =>
    let (cl, t) := e.targets.getD n (0, 0)
    .spad cl ((e.tgtOpnd t).byte (fun t => ((s.cluster cl).tile t).base) r (c / 32) + c % 32)

def CpPlace.pieces (n : Nat) : CpPlace → List (Nat × Nat)
  | .va a => piecesOf a n
  | _ => []

/-- Whether the issuing region, and its entrant while a reel is open, owns a tile (17 R450). -/
def CpEnt.owns (e : CpEnt) (t : Tile) : Bool :=
  decide (t.owner = some ⟨e.part, e.rcb⟩) && (t.ent.isNone || decide (t.ent = e.ent))

/-- Whether a multicast target takes the command's bytes (R259). -/
def CpEnt.targetOk (e : CpEnt) (s : State) (n : Nat) : Bool :=
  let (cl, t) := e.targets.getD n (0, 0)
  let o := e.tgtOpnd t
  let ts := o.tiles e.rows
  let tile := fun t => (s.cluster cl).tile t
  (clusterCores cl).any (fun c => corePresent s c && decide ((s.core c).part = some e.part)) &&
    ts.all (fun t => decide (t ≤ 255) && e.owns (tile t) && decide ((tile t).st = 1)) &&
    (o.badChunk (fun t => (tile t).gran) e.rows (e.rb / 32)).isNone

/-- A byte of the source: as it was at the start or as it is now (R252). -/
def mixBytes : List Byte → List Byte → State → State × List Byte
  | a :: as, b :: bs, s =>
    let x := if a = b then b else if s.freeBit then a else b
    let s := if a = b then s else s.used
    let (s, r) := mixBytes as bs s
    (s, x :: r)
  | _, bs, s => (s, bs)

/-- What became of one piece. -/
inductive CpMove where
  | moved (s : State)
  | waits (s : State)
  | faulted (s : State) (cause va : Nat)

/-- Target, row and byte of a byte's number. -/
def CpEnt.where_ (e : CpEnt) (x : Nat) : Nat × Nat × Nat := (x / e.bytes, x % e.bytes / e.rb, x % e.rb)

/-- Reads the n source bytes from a place. -/
def srcRead (s : State) (core : Nat) (e : CpEnt) (err : Bool) (n : Nat) : CpPlace → EngRd
  | .spad cl a => .ok s (mread (s.cluster cl).spad a n)
  | .bytes b => .ok s b
  | .va a => engReads core e.part e.rcb err (piecesOf a n) s []

/-- The bytes with those in front that were read ahead for their numbers, from x up. -/
def CpEnt.earlyOf (e : CpEnt) (x : Nat) (b : List Byte) : List Byte :=
  (List.range b.length).map fun i => ((e.early.find? fun y => decide (y.1 = x + i)).map (·.2)).getD (b.getD i 0)

/-- Moves n bytes from byte number x, which lie in one chunk of a row. Those that were read ahead are written as they were then. -/
def cpMove (s : State) (core : Nat) (e : CpEnt) (err : Bool) (x n : Nat) : CpMove :=
  let (t, r, c) := e.where_ x
  let src := e.src s core r c n
  let dst := e.dst s core t r c
  match ((src.pieces n).findSome? (engWait s core e.part e.rcb false)).orElse fun _ =>
      (dst.pieces n).findSome? (engWait s core e.part e.rcb true) with
  | some s => .waits s
  | none =>
    match srcRead s core e err n src with
    | .fault s c va => .faulted s c va
    | .ok s b =>
      let (s, b) := mixBytes (((e.srcAt.getD (r * e.perRow + c / 32) []).drop (c % 32)).take n) b s
      let b := e.earlyOf x b
      match dst with
      | .spad cl a => .moved (spadStore s cl a b)
      | .bytes _ => .moved s
      | .va a =>
        match engWrites core e.part e.rcb err (piecesOf a n) b s with
        | .ok s _ => .moved s
        | .fault s c va => .faulted s c va

/-- Reads n bytes ahead, from byte number x: they are written later as they are now (R252). -/
def cpAhead (s : State) (core id : Nat) (e : CpEnt) (err : Bool) (x n : Nat) : CpMove :=
  let (_, r, c) := e.where_ x
  let src := e.src s core r c n
  match (src.pieces n).findSome? (engWait s core e.part e.rcb false) with
  | some s => .waits s
  | none =>
    match srcRead s core e err n src with
    | .fault s c va => .faulted s c va
    | .ok s b =>
      .moved (s.onCp core id fun e => { e with early := ((List.range n).map fun i => (x + i, b.getD i 0)) ++ e.early })

/-- One token for each 4 KiB moved (R268). -/
def cpPay (k : Core) (n : Nat) : Core :=
  if 4096 ≤ k.moved + n then { k with moved := k.moved + n - 4096, cpHeld := k.cpHeld - 1 } else { k with moved := k.moved + n }

/-- Waits for leave: 64 tokens are asked for once (20 R464). -/
def cpAsk (s : State) (core : Nat) : State :=
  let s := if (s.core core).cpAsked = 0 then
      askLeave (s.onCore core fun k => { k with cpAsked := 64 }) (dieOf core) (.cp core) 64
    else s
  s.onCore core fun k => { k with cpWaitAt := k.cpWaitAt.orElse fun _ => some s.now }

/-- Ranges without the n numbers from x. -/
def cutRange (l : List (Nat × Nat)) (x n : Nat) : List (Nat × Nat) :=
  l.flatMap fun p => [(p.1, min p.2 x), (max p.1 (x + n), p.2)].filter fun q => decide (q.1 < q.2)

/-- Bytes that are still to be moved. -/
def CpEnt.leftBytes (e : CpEnt) : Nat := e.left.foldl (fun n p => n + (p.2 - p.1)) 0

/-- The piece that is moved next: no order is fixed (R251), so three free numbers choose a range, a byte in it and a length within one
chunk of the row, at most `most`. -/
def CpEnt.piece (e : CpEnt) (free most : Nat) : Nat × Nat :=
  let (a, b) := e.left.getD (below e.left.length (Config.freeNat free)) (0, 0)
  let x := a + below (b - a) (Config.freeNat (free + 1))
  let c := x % e.rb
  (x, 1 + below (min most (min (b - x) (min (32 - c % 32) (e.rb - c)))) (Config.freeNat (free + 2)))

/-- A multicast target that fails when its first byte arrives (R259). -/
def CpEnt.dropTarget (e : CpEnt) (t : Nat) : CpEnt :=
  { e with tmask := e.tmask + 2 ^ t, left := cutRange e.left (t * e.bytes) e.bytes }

/-- Notes bytes as moved. -/
def CpEnt.moved (e : CpEnt) (x n : Nat) : CpEnt :=
  let t := x / e.bytes
  { e with left := cutRange e.left x n, tseen := if e.tseen.testBit t then e.tseen else e.tseen + 2 ^ t }

/-- Runs a command for at most `fuel` bytes, piece by piece, until it is done, faults or has to wait. -/
def cpRun (core id : Nat) (err : Bool) : (fuel most : Nat) → State → State
  | 0, _, s => s
  | fuel + 1, most, s =>
    let e := s.cpEnt core id
    if e.left.isEmpty || e.fault.isSome || most = 0 then s
    else if (s.core core).cpHeld = 0 then cpAsk s core
    else
      let (x, n) := e.piece s.free most
      let s := s.used.used.used
      let t := x / e.bytes
      if e.form = .mcast ∧ !e.tseen.testBit t ∧ !e.targetOk s t then
        cpRun core id err fuel most (s.onCp core id fun e => e.dropTarget t)
      else
        match cpMove s core e err x n with
        | .waits s => s
        | .faulted s c va => s.onCp core id fun e => { e with fault := some (c, va) }
        | .moved s =>
          cpRun core id err fuel (most - n) (((nameAsks core id s).onCp core id fun e => e.moved x n).onCore core fun k => cpPay k n)

/-- Reads at most `fuel` pieces of a command ahead. -/
def cpLook (core id : Nat) (err : Bool) : (fuel : Nat) → State → State
  | 0, s => s
  | fuel + 1, s =>
    let e := s.cpEnt core id
    if e.left.isEmpty || e.fault.isSome then s
    else
      let (x, n) := e.piece s.free 32
      match cpAhead s.used.used.used core id e err x n with
      | .waits s => s
      | .faulted s c va => s.onCp core id fun e => { e with fault := some (c, va) }
      | .moved s => cpLook core id err fuel s

/-! ### Completion (R255, R260-R263) -/

/-- Status codes (Table 8.6). -/
def cpOK : Nat := 1
def cpCANCELLED : Nat := 2
def cpFAULT : Nat := 3
def cpSTALE : Nat := 4
def cpEMPTY : Nat := 5
def cpTSTATE : Nat := 6
def cpPARTIAL : Nat := 7

/-- A status word (Table 8.6). -/
def cpStatus (code fcause tmask : Nat) (hole : Bool) (value : Nat) : Word :=
  BitVec.ofNat 64 (code + 2 ^ 8 * fcause + 2 ^ 16 * tmask + (if hole then 2 ^ 31 else 0) + 2 ^ 32 * value)

/-- Sets *ready* each destination tile that is still *filling* (R255). -/
def cpReady (s : State) (core : Nat) (e : CpEnt) : State :=
  let ts : List (Nat × Nat) :=
    if e.form = .mcast then
      ((List.range e.targets.length).filter (fun n => decide (e.tmask / 2 ^ n % 2 = 0))).flatMap fun n =>
        let (cl, t) := e.targets.getD n (0, 0)
        ((e.tgtOpnd t).tiles e.rows).map fun t => (cl, t)
    else e.dstTiles.map fun t => (clusterOf core, t)
  ts.foldl (fun s (cl, t) => s.onCluster cl fun c => c.onTile t fun x => if x.st = 1 then { x with st := 2 } else x) s

/-- Writes the completion object (R260, R262): INFO, then STATUS; a write that faults is dropped and its cause is reported (Table
20.9), once. -/
def cpObject (s : State) (core : Nat) (e : CpEnt) (status info : Word) : State :=
  let cw := (e.d 7).toNat
  if cw = 0 then s
  else
    let put := fun (s : State) (a : Nat) (v : Word) =>
      match engWrite s core e.part e.rcb a (leBytes 8 v.toNat) with
      | .ok s _ => (s, none)
      | .fault s c _ => (s, some c)
    let (s, a) := put s (cw + 8) info
    let (s, b) := put s cw status
    match a.orElse fun _ => b with
    | some c => report s (.cd (dieOf core)) (some core) 5 c e.part (e.d 7)
    | none => s

/-- The new identifier of a `cp.cow` that has popped it (R261). -/
def CpEnt.value (e : CpEnt) : Nat := if e.form = .cow then e.idx 1 else 0

/-- Whether a command of the core would go on with leave. -/
def cpHungry (k : Core) : Bool := k.cps.any fun x => decide (x.2.st = .running) && !x.2.left.isEmpty && x.2.fault.isNone

/-- Completes a command: RDY, the completion object, the entry, and tiles that were given up meanwhile. -/
def cpFinish (s : State) (core id code fcause info : Nat) : State :=
  let e := s.cpEnt core id
  let st := cpStatus code fcause e.tmask e.hole e.value
  let iw := BitVec.ofNat 64 info
  let s := if e.rdy && (code == cpOK || code == cpPARTIAL) then cpReady s core e else s
  let s := cpObject s core e st iw
  let named := e.names core
  let s := s.used1.onCp core id fun e =>
    if e.owner.isNone then e.freed else { e with st := .done, status := st, info := iw, doneAt := s.fresh }
  let s := s.onCore core fun k => if cpHungry k then k else cpAwake k s.now
  let s := if (s.core core).cps.any fun x => decide (x.2.st = .running) then s
    else { s with asks := s.asks.filter fun a => decide (a.who ≠ .engRead core) || (a.got.isNone && a.bad.isNone) }
  named.foldl (fun s x => tileSettle s x.1 x.2) s

/-- What a completion waits for at the home of its completion object. -/
def cpObjWait (s : State) (core : Nat) (e : CpEnt) : Option State :=
  let cw := (e.d 7).toNat
  if cw = 0 then none else engWait s core e.part e.rcb true (cw, 16)

/-! ### Start (R250, R255-R258) -/

/-- Whether the engine finds the tiles of a command as they must be at hand-over (R255). -/
def CpEnt.tilesOk (e : CpEnt) (s : State) (core : Nat) : Bool :=
  let tile := fun t => (s.cluster (clusterOf core)).tile t
  e.dstTiles.all (fun t => e.owns (tile t) && decide ((tile t).st = 1)) &&
    e.srcTiles.all (fun t => e.owns (tile t) && decide ((tile t).st = 1 ∨ (tile t).st = 2))

/-- Whether bytes of a swapped-in tile of a command are not back yet (20 R473). -/
def CpEnt.refills (e : CpEnt) (s : State) (core : Nat) : Bool := (e.names core).any fun x => ((s.cluster x.1).tile x.2).refill

/-- 32-bit words that a command reads when it starts: indices, identifiers, the group entry. -/
def CpEnt.first (e : CpEnt) : Nat × Nat :=
  match e.form with
  | .gather | .walk => ((e.d 2).toNat, 4 * e.rows)
  | .scatter => ((e.d 0).toNat, 4 * e.rows)
  | .mcast => ((e.d 5).toNat, 64)
  | _ => (0, 0)

def words32 (b : List Byte) : List Word := (List.range (b.length / 4)).map fun i => BitVec.ofNat 64 (ofLe ((b.drop (4 * i)).take 4))

/-- The group entry as its first dword and one word for each target (Table 8.5). -/
def groupWords (b : List Byte) : List Word := wordOfLe (b.take 8) :: (words32 b).drop 2

/-- The block of `cp.cow` that decides what is copied (R257): the old identifier, the pop of the ring as one operation, the
new identifier. -/
inductive CowRes where
  | waits (s : State)
  | fault (s : State) (cause va : Nat)
  | empty (s : State) (hole : Bool) (old : Nat)
  | pair (s : State) (old new : Nat)

/-- A 4- or 8-byte word of the engine. -/
def engWord (s : State) (core : Nat) (e : CpEnt) (err : Bool) (va n : Nat) : EngRd := engReads core e.part e.rcb err (piecesOf va n) s []

def cowStart (s : State) (core : Nat) (e : CpEnt) (err : Bool) : CowRes :=
  let src := (e.d 2).toNat
  let ring := (e.d 6).toNat
  let wait := fun w (a n : Nat) => (piecesOf a n).findSome? (engWait s core e.part e.rcb w)
  match (((wait true src 4).orElse fun _ => wait true ring 32).orElse fun _ => wait false src 4).orElse fun _ => wait false ring 32 with
  | some s => .waits s
  | none =>
    match engWord s core e err src 4 with
    | .fault s c va => .fault s c va
    | .ok s b =>
      let old := ofLe b
      if old = 0xFFFFFFFF then .empty s true old
      else
        match engWord s core e err ring 32 with
        | .fault s c va => .fault s c va
        | .ok s b =>
          let w := fun i => ofLe ((b.drop (8 * i)).take 8)
          let h := w 0
          if w 1 ≤ h then .empty s false old
          else
            let slot := (w 3 + 4 * (h &&& w 2)) % 2 ^ 64
            match engWait s core e.part e.rcb false (slot, 4) with
            | some s => .waits s
            | none =>
              match engWrite s core e.part e.rcb ring (leBytes 8 (h + 1)) err with
              | .fault s c va => .fault s c va
              | .ok s _ =>
                if slot % 4 ≠ 0 then .fault s cALIGN slot
                else
                  match engWord s core e err slot 4 with
                  | .fault s c va => .fault s c va
                  | .ok s b => .pair s old (ofLe b)

/-- Source bytes as they are at the start, chunk by chunk (R252). -/
def cpSources (s : State) (core : Nat) (e : CpEnt) : List (List Byte) :=
  (List.range (e.rows * e.perRow)).map fun j =>
    let c := 32 * (j % e.perRow)
    let n := min 32 (e.rb - c)
    match e.src s core (j / e.perRow) c n with
    | .spad cl a => mread (s.cluster cl).spad a n
    | .va a => engPeek s core e.part e.rcb a n
    | .bytes b => b

/-- Everything that a command moves is to be moved, from its sources as they are. -/
def CpEnt.begin (e : CpEnt) (s : State) (core : Nat) : CpEnt :=
  { e with srcAt := cpSources s core e, left := if e.total = 0 then [] else [(0, e.total)] }

/-- The command is running, with what it read first; `cp.cow` has first to find what it copies. -/
def cpRunning (s : State) (core id : Nat) (g : List Word) (hole : Bool) : State :=
  s.onCp core id fun e =>
    let e := { e with st := .running, group := g, hole := hole }
    if e.form = .cow then e else e.begin s core

/-- The head leaves the issue queue. -/
def cpPop (s : State) (core : Nat) : State := s.onCore core fun k => { k with cpq := k.cpq.tail }

/-- Whether an effect that the activation drained before a command is still to be performed: the command observes it (11 R304). -/
def cpEarlier (s : State) (e : CpEnt) : Bool := s.flights.any fun f => decide (f.act = e.act ∧ f.born < e.mark)

/-- R250: the engine starts the command at the head of its queue, after every effect that drained before it. One that was cancelled there
never starts (R267). With its `err` an uncorrectable error strikes what it reads first (20 R493). -/
def execCpStart (x : DramRead) (s : State) : Out :=
  let core := x.n
  let k := s.core core
  .next (match k.cpq with
    | [] => s
    | id :: _ =>
      let e := k.cp id
      if e.st ≠ .queued then cpPop s core
      else if e.cancel then
        match cpObjWait s core e with
        | some s => s
        | none => cpFinish (cpPop s core) core id cpCANCELLED 0 0
      else if 512 ≤ (k.cps.filter (fun x => decide (x.2.st = .running))).length || e.refills s core || cpEarlier s e then s
      else if !e.tilesOk s core then
        match cpObjWait s core e with
        | some s => s
        | none => cpFinish (cpPop s core) core id cpTSTATE 0 0
      else if e.form = .cow then cpRunning (cpPop s core) core id [] false
      else
        let (va, n) := e.first
        let fail := fun (s : State) c va =>
          (cpRunning (cpPop s core) core id [] false).onCp core id fun e => { e with fault := some (c, va) }
        if e.form = .mcast ∧ va % 64 ≠ 0 then fail s cALIGN va
        else
          match (piecesOf va n).findSome? (engWait s core e.part e.rcb false) with
          | some s => s
          | none =>
            match engReads core e.part e.rcb x.err (piecesOf va n) s [] with
            | .fault s c va => fail s c va
            | .ok s b =>
              if e.form = .mcast then
                let g := groupWords b
                let cnt := bitsNat (g.getD 0 0) 19 16
                if cnt = 0 ∨ 14 < cnt then fail s cACCESS va else cpRunning (cpPop s core) core id g false
              else
                let g := words32 b
                cpRunning (cpPop s core) core id g (decide (e.form = .walk) && g.contains 0xFFFFFFFF))

/-! ### Running to completion (R257, R259, R260) -/

/-- INFO of a command that did not fault (R262). -/
def CpEnt.infoOf (e : CpEnt) : Nat :=
  match e.form with
  | .cow => e.idx 0
  | .mcast => bitsNat (e.group.getD 0 0) 15 0
  | _ => 0

/-- Ends a command whose bytes are moved or that has faulted; the table entry of `cp.cow` is stored last (R257), which the third word of its
group then notes. -/
def cpEndRun (s : State) (core id : Nat) (err : Bool) : State :=
  let e := s.cpEnt core id
  match e.fault with
  | some (c, va) => cpFinish s core id cpFAULT c va
  | none =>
    match e.form with
    | .cow =>
      let src := (e.d 2).toNat
      if e.group.length = 3 then cpFinish s core id cpOK 0 (e.idx 0)
      else
        match engWait s core e.part e.rcb true (src, 4) with
        | some s => s
        | none =>
          match engWrite s core e.part e.rcb src (leBytes 4 (e.idx 1)) err with
          | .ok s _ =>
            let s := (nameAsks core id s).onCp core id fun e => { e with group := e.group ++ [1] }
            if cpAsks s core id then s else cpFinish s core id cpOK 0 (e.idx 0)
          | .fault s c va => cpFinish s core id cpFAULT c va
    | .mcast => cpFinish s core id (if e.tmask = 0 then cpOK else cpPARTIAL) 0 e.infoOf
    | _ => cpFinish s core id cpOK 0 0

/-- R260: a running command moves bytes and, once all are moved or it has faulted, completes. How many it moves at once, and whether it
only reads some ahead, is open. With `err` an uncorrectable error strikes its DRAM reads (20 R493). -/
def execCpComplete (core id : Nat) (err : Bool) (s : State) : Out :=
  let e := s.cpEnt core id
  .next (if e.st ≠ .running ∨ e.cancel ∨ e.refills s core = true then s
    else
      match cpObjWait s core e with
      | some s => s
      | none =>
        if e.form = .cow ∧ e.group = [] ∧ e.fault.isNone then
          match cowStart s core e err with
          | .waits s => s
          | .fault s c va => cpFinish s core id cpFAULT c va
          | .empty s h old => cpFinish (s.onCp core id fun e => { e with hole := h }) core id cpEMPTY 0 old
          | .pair s old new =>
            (nameAsks core id s).onCp core id fun e => CpEnt.begin { e with group := [BitVec.ofNat 64 old, BitVec.ofNat 64 new] } s core
        else
          let n := 1 + below e.leftBytes s.freeNat
          let s := if s.freeBit then cpLook core id err n s.used else cpRun core id err n n s.used
          let e := s.cpEnt core id
          if (e.left.isEmpty ∨ e.fault.isSome) ∧ !cpAsks s core id then cpEndRun s core id err else s)

/-- R266: a cancelled command stops, after at most n more bytes: 64 cycles at 64 bytes in each. -/
def execCpCancelStop (core id n : Nat) (s : State) : Out :=
  let e := s.cpEnt core id
  .next (if e.st ≠ .running ∨ !e.cancel then s
    else
      match cpObjWait s core e with
      | some s => s
      | none =>
        let n := if e.refills s core then 0 else min n 4096
        cpFinish (cpRun core id false n n s) core id cpCANCELLED 0 e.infoOf)

/-! ### Waiting, polling and cancelling (R264-R266) -/

/-- The entry that a handle names; none where the status is STALE. -/
def cpNamed (s : State) (h : Word) : Option Nat :=
  let id := bitsNat h 8 0
  let e := s.cpEnt s.cur id
  if bitsNat h 36 25 = s.cur ∧ bitsNat h 24 9 = e.gen.toNat ∧ e.owner = some s.me.id then some id else none

/-- The overflow commit point that comes first where the entry is *buffered*. -/
def cpRelease (s : State) (id : Nat) : Option State :=
  if (s.cpEnt s.cur id).st ≠ .buffered then none
  else
    match commitWait s s.cur with
    | some s => some s
    | none => some (commitAt s s.cur s.pc)

/-- The final status of a done entry, which is freed. -/
def cpTake (s : State) (d : SReg) (id : Nat) : State :=
  let e := s.cpEnt s.cur id
  (s.ws d e.status).onCp s.cur id CpEnt.freed

/-- R264. -/
def execCpWait (d a : SReg) (s : State) : Out :=
  match cpNamed s (s.rs a) with
  | none => guarded s none (waitConfirm s) (s.ws d (BitVec.ofNat 64 cpSTALE))
  | some id =>
    guarded s none
      (((waitConfirm s).orElse fun _ => cpRelease s id).orElse fun _ =>
        if (s.cpEnt s.cur id).st ≠ .done then some (s.waitOn (.cpDone id)) else none)
      (cpTake s d id)

/-- R265. -/
def execCpPoll (d a : SReg) (s : State) : Out :=
  match cpNamed s (s.rs a) with
  | none => guarded s none (waitConfirm s) (s.ws d (BitVec.ofNat 64 cpSTALE))
  | some id =>
    guarded s none ((waitConfirm s).orElse fun _ => cpRelease s id)
      (if (s.cpEnt s.cur id).st = .done then cpTake s d id else s.ws d 0)

/-- Removes a command that has not started from the buffer and the issue queue; it completes with CANCELLED. -/
def cpStop (s : State) (core id : Nat) : State :=
  let s := s.onCore core fun k => { k with
    rb := k.rb.filter (fun e => decide (e.op ≠ .cp id)), cpq := k.cpq.filter (· ≠ id) }
  cpFinish s core id cpCANCELLED 0 0

/-- What `cp.cancel` waits for: the end of a running command, which it tells to stop; the completion object's home. -/
def cpCancelWait (s : State) (id : Nat) : Option State :=
  let e := s.cpEnt s.cur id
  match e.st with
  | .running => some ((s.onCp s.cur id fun e => { e with cancel := true }).waitOn (.cpDone id))
  | .buffered | .queued => cpObjWait s s.cur e
  | _ => none

/-- R266. -/
def execCpCancel (d a : SReg) (s : State) : Out :=
  match cpNamed s (s.rs a) with
  | none => guarded s none (waitConfirm s) (s.ws d (BitVec.ofNat 64 cpSTALE))
  | some id =>
    guarded s none ((waitConfirm s).orElse fun _ => cpCancelWait s id)
      (cpTake (if (s.cpEnt s.cur id).st = .done then s else cpStop s s.cur id) d id)

end Sys2Proof.Machine
end

