-- ==== Sys2Proof/Machine/Sched.lean ====
section
/-! DEFINITION. Messages, activations, the scheduler, retry, regions and barriers (13). Ends and failures of regions are in
Region.lean. -/

namespace Sys2Proof.Machine

/-! ### Sends (R318-R320) -/

/-- The header that two words hold. -/
def Hdr.ofWords (w0 w8 : Nat) : Hdr :=
  { ver := fieldOf w0 60 4, kind := fieldOf w0 57 3, rcb := fieldOf w0 6 51 * 64, prio := fieldOf w0 3 3,
    eoff := fieldOf w8 32 32, len := fieldOf w8 28 4, e4 := decide (fieldOf w8 27 1 = 1), spkg := fieldOf w8 21 6,
    src := fieldOf w8 0 12 }

/-- A block of a send: its offset, first word, length and control block, as the bundle reads them. -/
def sendBlk (b : Word) : Nat := bitsNat b 16 0
def sendW0 (s : State) (b : Word) : Word := readLsWord s (sendBlk b)
def sendLen (s : State) (b : Word) : Nat := bitsNat (sendW0 s b) 31 28
def sendRcb (s : State) (b : Word) : Nat :=
  let r := (readLsWord s (sendBlk b + 8)).toNat
  if r = 0 then s.me.rp else r

/-- Whether a core of this package cannot be a target: absent, or of another partition. -/
def notMine (s : State) (core : Nat) : Bool := !(corePresent s core && decide ((s.core core).part = some s.mypart))

/-- Traps of a send form in the order of R320; `tgt` is the target operand of `send.r`. -/
def sendTrap (s : State) (b : Word) (tgt : Option Word) : Option Trap :=
  let trap := fun c v => some (issueTrapAt s c false v)
  let w0 := sendW0 s b
  let rcb := sendRcb s b
  if sendBlk b % 16 ≠ 0 then trap cALIGN b
  else if 14 < sendLen s b then trap cACCESS w0
  else if bitsNat w0 63 32 % 8 ≠ 0 then trap cALIGN w0
  else if (lsPlace s.me (BitVec.ofNat 64 (sendBlk b)) (16 + 8 * sendLen s b)).isNone then
    trap cACCESS (lsTval s.me (sendBlk b) (16 + 8 * sendLen s b) b)
  else if rcb % 512 ≠ 0 then trap cALIGN (BitVec.ofNat 64 rcb)
  else
    match tgt with
    | some a => if bitsNat a 37 32 = s.pkg ∧ notMine s (bitsNat a 11 0) then trap cACCESS a else none
    | none => none

/-- The header of a send (R320). -/
def sendHdr (s : State) (b : Word) : Hdr :=
  let w0 := sendW0 s b
  { ver := 1, kind := 0, rcb := sendRcb s b, prio := bitsNat w0 5 3, eoff := bitsNat w0 63 32, len := sendLen s b, e4 := s.e4,
    spkg := s.pkg, src := s.cur }

/-- A send form: the message is buffered and its block probed like a store. -/
def sendForm (b : Word) (tgt : Option Word) (t : MsgTarget) (s : State) : Out :=
  let n := sendLen s b
  let pay := (List.range n).map fun i => readLsWord s (sendBlk b + 16 + 8 * i)
  guarded s (sendTrap s b tgt) (roomWait s (16 + 8 * n))
    (addAccess (rbAppend s (16 + 8 * n) (.msg (sendHdr s b) pay t)) (.probe false none) (sendRcb s b) 8 false false 2 none)

/-- R320. -/
def execSendR (a b : SReg) (s : State) : Out :=
  let v := s.rs a
  sendForm (s.rs b) (some v) (.core (bitsNat v 37 32) (bitsNat v 11 0)) s
/-- R320: the owner is chosen by the fold of R221. -/
def execSendA (a b : SReg) (s : State) : Out := sendForm (s.rs b) none (.owner (fold9 (s.rs a).toNat % 64)) s
/-- R320. -/
def execSendAny (b : SReg) (s : State) : Out := sendForm (s.rs b) none .any s

/-! ### Messages on their way (R321, R322, R378) -/

/-- The target core of a message (Table 13.4): package and core. -/
def msgTarget (s : State) (part rcb : Nat) : MsgTarget → Nat × Nat
  | .core pkg core => (pkg, core)
  | .owner h =>
    let w := hwPeek s part (rcb + 256 + 4 * h / 8 * 8) / 2 ^ (32 * (h % 2)) % 2 ^ 32
    if fieldOf w 31 1 = 1 then (fieldOf w 12 6, fieldOf w 0 12) else (s.pkg, (placeCores s part rcb).headD 0xFFF)
  | .any =>
    let cs := placeCores s part rcb
    let n := fun c => (s.core c).report
    (s.pkg, (cs.find? (fun c => cs.all fun d => decide (n c ≤ n d))).getD 0xFFF)

/-- A core number with its package in the layout of COREID. -/
def coreIdWord (pkg core : Nat) : Word := BitVec.ofNat 64 (pkg * 2 ^ 32 + core)

/-- A message is dropped with an MSGDROP event: at its block's home, or by the edge die that received it from another package (R321,
R322). -/
def msgDropped (s : State) (part rcb pkg core : Nat) (edge : Option Nat := none) : State :=
  match edge with
  | none => report s (.cd (homeOf s rcb / 32)) (some core) 3 0 part (coreIdWord pkg core)
  | some e => report s (.ed e) none 3 0 part (coreIdWord pkg core)

/-- The edge die that received a message from another package. -/
def Msg.edge (m : Msg) : Option Nat := if 4096 ≤ m.port ∧ m.port < 4104 then some (m.port - 4096) else none

/-- The wait for a control block that another package holds. -/
def rcbWait (s : State) (part rcb : Nat) : Option State :=
  match xlateHw s part rcb .w with
  | .ok pte _ pa => homeWait s part rcb pte pa true
  | _ => none

/-- Whether every report that `send.any` compares was taken within the last 64 cycles (R321). -/
def reportsFresh (s : State) (part rcb : Nat) (tgt : MsgTarget) : Bool :=
  match tgt with
  | .any => (placeCores s part rcb).all fun c => decide (s.now ≤ (s.core c).reportAt + 64)
  | _ => true

/-- R321: a drained message counts itself in LIVE, has its priority lowered to the limit, and leaves for its target. One for a package that
its partition does not span is dropped (20 R469). -/
def execMessageRelease (id : Nat) (s : State) : Out :=
  .next (match s.flight id with
    | none => s
    | some f =>
      match f.op with
      | .msg hdr pay tgt =>
        if !flightReady s f || !reportsFresh s f.part hdr.rcb tgt then s
        else
          match xlateHw s f.part hdr.rcb .w with
          | .ok .. =>
            match rcbWait s f.part hdr.rcb with
            | some s => s
            | none =>
              let (pkg, core) := msgTarget s f.part hdr.rcb tgt
              let w := hwPeek s f.part (hdr.rcb + 8)
              let s := s.dropFlight id
              if rcbState w ≠ stRunning ∨ !s.joined f.part pkg then msgDropped s f.part hdr.rcb pkg core
              else
                let s := hwPoke s f.part (hdr.rcb + 64) (hwPeek s f.part (hdr.rcb + 64) + 1)
                let hdr := { hdr with prio := min hdr.prio (rcbPrio w) }
                let out := decide (pkg ≠ s.pkg)
                let m : Msg := { id := s.fresh, hdr := hdr, pay := pay, part := f.part, core := core,
                                 far := farFrom (dieOf f.core) core, sender := f.core,
                                 port := if out then 12288 + servingEdge s (dieOf f.core) else egressPort s (dieOf f.core) core f.core,
                                 act := none, st := .travelling, dest := if out then some pkg else none }
                { s.used1 with msgs := s.msgs ++ [m] }
          | .fault c _ => dropDrained s f c hdr.rcb
          | .miss => s
      | _ => s)

/-! ### Landing (R323-R327) -/

/-- The ring that a message lands in (Table 13.6). -/
def Msg.ring (m : Msg) : Nat :=
  if m.far then 3
  else if m.hdr.kind = 0 then (if m.hdr.prio < 4 then 0 else 1)
  else 2

def ringData : Nat := 1728

/-- Where a record of z bytes goes (R325): bytes of pad before it, and its position. -/
def ringPlace (head tail z : Nat) : Option (Nat × Nat) :=
  let f := ringData - (tail - head)
  let q := tail % ringData
  if z ≤ f ∧ q + z ≤ ringData then some (0, q)
  else if ringData < q + z ∧ ringData - q + z ≤ f then some (ringData - q, 0)
  else none

/-- The run-queue entry that a landing message may take (R331): reserved or not. -/
def queueRoom (k : Core) (ring : Nat) : Option Bool :=
  let msgs := k.queue.filter fun q => match q.kind with
    | .msg .. => true
    | _ => false
  let r := (msgs.filter (·.resv)).length
  let o := (msgs.filter (fun q => !q.resv)).length
  if ring = 3 ∧ r < 8 then some true else if o < 24 then some false else none

/-- Writes a record with its pad, and queues it. -/
def landAt (k : Core) (now : Nat) (m : Msg) (pad pos z : Nat) (resv : Bool) : Core :=
  let n := m.ring
  let b := ringBase n
  let tail := lsWord k (b + 8)
  let k := if pad = 0 then k else
    { lsPoke (lsPoke k (b + 64 + tail % ringData) (2 ^ 60 + 3 * 2 ^ 57)) (b + 72 + tail % ringData) 0 with
      recs := k.recs ++ [{ ring := n, pos := tail % ringData, size := pad, done := true, act := none }] }
  let bytes := leBytes 8 m.hdr.word0 ++ leBytes 8 (m.hdr.word8 0) ++ m.pay.flatMap fun w => leBytes 8 w.toNat
  let k := lsPoke { k with ls := mwrite k.ls (b + 64 + pos) bytes } (b + 8) (tail + pad + z)
  { k with
    recs := k.recs ++ [{ ring := n, pos := pos, size := z, done := false, act := m.act }]
    queue := k.queue ++ [{ kind := .msg n pos, prio := m.hdr.prio, since := now, aged := 0, resv := resv }] }

def State.dropMsg (s : State) (id : Nat) : State := { s with msgs := s.msgs.filter fun m => decide (m.id ≠ id) }

/-- A refusal is counted in the ring and in the region, and the message waits to be sent again (R326). -/
def refuseMsg (s : State) (m : Msg) (wait : Nat) : State :=
  let b := ringBase m.ring
  let s := s.onCore m.core fun k => lsPoke k (b + 16) (lsWord k (b + 16) + 1)
  let s := hwPoke s m.part (m.hdr.rcb + 80) (hwPeek s m.part (m.hdr.rcb + 80) + 1)
  { s with msgs := s.msgs.map fun x => if x.id = m.id then { x with st := .refused wait (s.now + wait) } else x }

/-- The ring header of a core whose partition is swapped out: a refusal is counted in the bank that holds it (20 R475). -/
def refuseOut (s : State) (m : Msg) (wait : Nat) : State :=
  let b := ringBase m.ring + 16
  let bump := fun (x : Memory) => mwrite x b (leBytes 8 (ofLe (mread x b 8) + 1))
  let s := if (s.core m.core).shadowOf = some m.part then s.onCore m.core fun k => { k with shadow := bump k.shadow }
    else s.onPart m.part fun p => { p with cores := p.cores.map fun x => if x.1 = m.core then (x.1, { x.2 with ls := bump x.2.ls }) else x }
  let s := hwPoke s m.part (m.hdr.rcb + 80) (hwPeek s m.part (m.hdr.rcb + 80) + 1)
  { s with msgs := s.msgs.map fun x => if x.id = m.id then { x with st := .refused wait (s.now + wait) } else x }

/-- A message arrives at its core: it lands, is refused, or is dropped (R322, R325, R351, 20 R475). -/
def arriveHere (s : State) (m : Msg) (wait : Nat) : State :=
  let k := s.core m.core
  let ended := fun (s : State) => match m.act with
    | some a => endCps true a.id s
    | none => s
  if k.swapping then refuseMsg s m wait
  else if (s.partn m.part).st = 1 then refuseOut s m wait
  else if !(corePresent s m.core && decide (k.part = some m.part)) then
    msgDropped (liveDecrement (ended (s.dropMsg m.id)) m.part m.hdr.rcb) m.part m.hdr.rcb s.pkg m.core m.edge
  else if regionState s m.part m.hdr.rcb ≠ stRunning then msgDropped (ended (s.dropMsg m.id)) m.part m.hdr.rcb s.pkg m.core m.edge
  else
    let z := (16 + 8 * m.pay.length + 15) / 16 * 16
    let b := ringBase m.ring
    match ringPlace (lsWord k b) (lsWord k (b + 8)) z, queueRoom k m.ring with
    | some (pad, pos), some resv => (s.dropMsg m.id).onCore m.core fun k => landAt k s.now m pad pos z resv
    | _, _ => refuseMsg s m wait

/-- A message for another package enters the control queue of its edge die, or is refused by a full one (14 R371; log 62). -/
def depart (s : State) (m : Msg) (pkg wait : Nat) : State :=
  let e := m.port % 4096
  let q := (fget (s.edge e).ctlQ pkg).getD []
  if q.isEmpty || decide (q.length < Config.ctlQueueFlits) then
    countMsg (sendFlit (s.dropMsg m.id) e m.part (msgFlit m.hdr m.pay m.part pkg m.core)) m.part pkg true
  else
    let s := hwPoke (noteFull s e) m.part (m.hdr.rcb + 80) (hwPeek s m.part (m.hdr.rcb + 80) + 1)
    { s with msgs := s.msgs.map fun x => if x.id = m.id then { x with st := .refused wait (s.now + wait) } else x }

/-- A message arrives where it goes: its core, or the edge die of its sender. -/
def arrive (s : State) (m : Msg) (wait : Nat) : State :=
  match m.dest with
  | none => arriveHere s m wait
  | some pkg => depart s m pkg wait

/-- Whether an earlier message to the same core has not landed and goes first: one from the same sender (R322), or a refused one at the
same port (R326). -/
def msgBehind (s : State) (m : Msg) : Bool :=
  (s.msgs.takeWhile (fun x => decide (x.id ≠ m.id))).any fun x =>
    decide (x.core = m.core ∧ x.dest = m.dest ∧ (x.sender = m.sender ∨ (x.port = m.port ∧ x.st ≠ .travelling)))

def State.msg (s : State) (id : Nat) : Option Msg := s.msgs.find? fun m => decide (m.id = id)

/-- R325: a travelling message arrives. -/
def execMessageLand (id : Nat) (s : State) : Out :=
  .next (match s.msg id with
    | none => s
    | some m => if m.st = .travelling ∧ !msgBehind s m then arrive s m 64 else s)

/-- R326: a refused message is sent again after its wait, which doubles up to 4,096 cycles. -/
def execMessageRetry (id : Nat) (s : State) : Out :=
  .next (match s.msg id with
    | none => s
    | some m =>
      match m.st with
      | .refused w due => if due ≤ s.now ∧ !msgBehind s m then arrive s m (min 4096 (2 * w)) else s
      | .travelling => s)

/-- R321: a core refreshes the count of its run-queue entries that `send.any` compares. -/
def execRunQueueReport (core : Nat) (s : State) : Out :=
  .next (s.onCore core fun k => { k with report := k.queue.length, reportAt := s.now })

/-! ### Dispatch (R328-R332, R336) -/

/-- The extent of an activation of a region (R330). -/
def extentLen (s : State) (part rcb : Nat) : Nat := min (fieldOf (hwPeek s part (rcb + 16)) 32 6 * 4096) 0x1C000

/-- What a queue entry would start or resume: its ring and the extent that it needs; and the region it belongs to. -/
structure Ready where
  ring : Nat
  ext : Option Nat
  rcb : Nat
  ctx : Option Nat

def readyOf (s : State) (core : Nat) (q : QEnt) : Ready :=
  let k := s.core core
  let part := k.part.getD 0
  match q.kind with
  | .msg ring pos =>
    let rcb := msgRcb k ring pos
    let r := (k.recs.find? (fun r => decide (r.ring = ring ∧ r.pos = pos ∧ ¬ r.done = true))).bind (·.act)
    { ring := ring, ext := some ((r.map (·.extLen)).getD (extentLen s part rcb)), rcb := rcb, ctx := none }
  | .ctx n => { ring := 0, ext := none, rcb := ((fget k.acts n).map (·.rp)).getD 0, ctx := some n }
  | .fibre n =>
    let a := fget k.fibres n
    { ring := (a.map (·.ring)).getD 0, ext := none, rcb := (a.map (·.rp)).getD 0, ctx := none }

/-- Whether an entry has a usable context and extent. -/
def usable (s : State) (core : Nat) (q : QEnt) : Bool :=
  let r := readyOf s core q
  (r.ctx.isSome || (ctxFor s core r.ring).isSome) &&
    (match r.ext with
     | some n => (freeExtent s core n).isSome
     | none => true)

/-- Full times of 2^16 cycles that an entry has waited; `aged` are those that have been counted. -/
def QEnt.age (q : QEnt) (now : Nat) : Nat := max q.aged ((now - q.since) / 65536)

/-- Effective priority (R331). -/
def QEnt.eff (q : QEnt) (now : Nat) : Nat := min 7 (q.prio + q.age now)

/-- Whether a core is reserved for the region of an entry (R332). -/
def reservedFor (s : State) (core : Nat) (q : QEnt) : Bool :=
  let part := (s.core core).part.getD 0
  let rcb := (readyOf s core q).rcb
  decide (regionState s part rcb = stRunning) && (reservedCores s part rcb).contains core

/-- The entry that a dispatch takes (R331, R332): highest effective priority, then the reserving region, then the oldest. -/
def bestEntry (s : State) (core : Nat) : Option QEnt :=
  let us := (s.core core).queue.filter (usable s core)
  let key := fun q => 2 * q.eff s.now + (if reservedFor s core q then 1 else 0)
  us.find? fun q => us.all fun p => decide (key p ≤ key q)

/-- STATUS with a context and a priority. -/
def statusCtx (st : Word) (ctx : Nat) : Word := (st &&& ~~~(0x300 : Word)) ||| BitVec.ofNat 64 (256 * ctx)

/-- The activation that a message starts (R328). -/
def startAct (s : State) (core ctx ring : Nat) (h : Hdr) (pay : List Word) (base len : Nat) : Act :=
  let part := (s.core core).part.getD 0
  let r := (pay.zipIdx).foldl (fun (r : Regs) (v, i) => r.setS (BitVec.ofNat 6 (i + 1)) v) Regs.zero
  let r := (r.setS 61 (BitVec.ofNat 64 (len / 16 * 16))).setS 63 (BitVec.ofNat 64 h.rcb)
  let pc := (hwPeek s part (h.rcb + 32) + h.eoff) % 2 ^ 64
  let a := { Act.zero with
    id := s.fresh, prog := s.fresh, part := part, hdr := h, ring := ring, rp := h.rcb, regs := r,
    status := BitVec.ofNat 64 (h.prio * 2 ^ 12 + ctx * 2 ^ 8), allow := startAllow s part h.rcb core,
    pc := pc, npc := pc, extBase := base, extLen := len, counted := true }
  { a with snap := snapOf a pc }

/-- Puts an activation into a context and runs it. -/
def runAct (s : State) (core ctx : Nat) (a : Act) : State :=
  s.onCore core fun k =>
    { k with acts := fset k.acts ctx { a with park := .running }, run := some ctx, fixed := [], sfuAt := none, waitFrom := none,
             lastIssue := s.now }

/-- A record's payload. -/
def recPay (k : Core) (ring pos n : Nat) : List Word :=
  (List.range n).map fun i => BitVec.ofNat 64 (lsWord k (ringBase ring + 80 + pos + 8 * i))

/-- Dispatches a landed message (R327, R328, R336), or a migrated context (R339). -/
def dispatchMsg (s : State) (core ring pos ctx base : Nat) : State :=
  let k := s.core core
  let w8 := lsWord k (ringBase ring + 72 + pos)
  let h := Hdr.ofWords (lsWord k (ringBase ring + 64 + pos)) w8
  let moved := (k.recs.find? (fun r => decide (r.ring = ring ∧ r.pos = pos ∧ ¬ r.done = true))).bind (·.act)
  let pay := recPay k ring pos h.len
  let s1 := s.onCore core fun k => consumeMsg k ring pos
  match moved with
  | some a => runAct s1 core ctx { a with ring := ring, extBase := base, status := statusCtx a.status ctx }
  | none =>
    let a := startAct s core ctx ring h pay base (extentLen s (k.part.getD 0) h.rcb)
    let s1 := runAct s1.used1 core ctx a
    if h.e4 ≠ bitAt k.fmt 0 then
      trapEntry s1 core ctx { code := cFMT, late := false, aw := false, epc := a.pc, tval := BitVec.ofNat 64 w8 }
    else s1

/-- An activation as its fibre slot holds it (07 R233, Table 7.8). -/
def fibreAct (k : Core) (n ctx : Nat) (a : Act) : Act :=
  let b := fibreBase n
  let w := fun o => BitVec.ofNat 64 (lsWord k (b + o))
  let r := (List.range 63).foldl (fun (r : Regs) i => r.setS (BitVec.ofNat 6 (i + 1)) (w (8 * i))) a.regs
  let r := (List.range 32).foldl (fun (r : Regs) i => r.setV (BitVec.ofNat 5 i) (BitVec.ofNat 128 (ofLe (mread k.ls (b + 0x200 + 16 * i) 16)))) r
  let r := (List.range 8).foldl (fun (r : Regs) i => r.setK (BitVec.ofNat 3 i) (BitVec.ofNat 16 (ofLe (mread k.ls (b + 0x400 + 2 * i) 2)))) r
  let r := (List.range 4).foldl (fun (r : Regs) i => r.setI (BitVec.ofNat 2 i) (w (0x410 + 8 * i))) r
  let pc := bitsNat (w 0x458) 56 3 * 8
  { a with
    regs := r, flags := w 0x1F8 &&& 0x7F, nest := { a.nest with desc := w 0x430, cur := w 0x438, fin := w 0x440 },
    allow := w 0x448 &&& 0x7FFFFFFFFFFF, score := w 0x450, pc := pc, npc := pc, conly := bitAt (w 0x468) 5 && a.conly,
    status := statusCtx ((a.status &&& ~~~(0x7000 : Word)) ||| BitVec.ofNat 64 (bitsNat (w 0x468) 10 8 * 4096)) ctx }

/-- Takes an entry out of the run queue. -/
def unqueue (k : Core) (q : QEnt) : Core := { k with queue := k.queue.erase q }

/-- R331: the core dispatches the entry of highest effective priority, once a detected error that struck in the drain before has been
taken (R342). -/
def execDispatch (core : Nat) (s : State) : Out :=
  let k := s.core core
  .next (if k.run.isSome || !corePresent s core || k.swapping || k.part.isNone || k.errDue.isSome then s
    else
      match bestEntry s core with
      | none => s
      | some q =>
        match q.kind with
        | .ctx n =>
          match fget k.acts n with
          | some a => runAct (s.onCore core fun k => unqueue k q) core n a
          | none => s.onCore core fun k => unqueue k q
        | .fibre n =>
          match fget k.fibres n, ctxFor s core (((fget k.fibres n).map (·.ring)).getD 0) with
          | some a, some x =>
            let s := s.onCore core fun k => { unqueue k q with fibres := ferase k.fibres n }
            runAct s core x (fibreAct k n x a)
          | _, _ => s.onCore core fun k => unqueue k q
        | .msg ring pos =>
          let r := readyOf s core q
          match ctxFor s core ring, freeExtent s core (r.ext.getD 0) with
          | some x, some b => dispatchMsg s core ring pos x b
          | _, _ => s)

/-! ### Pre-emption, ageing, long waits, waking (R331, R333, R334) -/

/-- The priority of an activation (Table 4.12). -/
def Act.prio (a : Act) : Nat := bitsNat a.status 14 12

/-- Whether the running activation of a core gives way at this boundary to a queued entry of higher effective priority (R333); not in
runtime or system mode, nor before a trap that it owes (04 R143). -/
def preemptDue (s : State) (core : Nat) (a : Act) : Bool :=
  decide (a.mode = 0 ∧ a.park = .running) && !a.stepDue && a.flagsWr.isNone && (bestEntry s core).any fun q => decide (a.prio < q.eff s.now)

/-- R333, 04 R143: the running user-mode activation gives way to a queued entry of higher effective priority. -/
def execPreemption (core : Nat) (s : State) : Out :=
  .next (match (s.core core).running with
    | none => s
    | some (x, a) =>
      if !preemptDue s core a then s
      else
        match commitWait s core with
        | some s => s
        | none => enqueue (parkRun (commitAt s core a.pc) core .queued) core (.ctx x) a.prio)

/-- R331: a queued entry has waited another 2^16 cycles. -/
def execPriorityAgeing (core n : Nat) (s : State) : Out :=
  .next (s.onCore core fun k =>
    { k with queue := k.queue.mapIdx fun i q =>
        if i = n ∧ q.since + 65536 * (q.aged + 1) ≤ s.now then { q with aged := q.aged + 1 } else q })

/-- Whether a wait at issue has lasted 256 cycles (R334). -/
def parkDue (s : State) (core : Nat) : Bool := (s.core core).waitFrom.any fun t => decide (t + 256 ≤ s.now)

/-- R334: a wait at issue that has lasted 256 cycles parks the activation; its bundle is tried again later. -/
def execIssueWaitPark (core : Nat) (s : State) : Out :=
  .next (match (s.core core).running with
    | none => s
    | some (_, a) =>
      if !parkDue s core then s
      else
        match commitWait s core with
        | some s => s
        | none => parkRun (commitAt s core a.pc) core .issue)

/-- An entry of the tile table as an activation of a core sees it whose retire buffer is empty (R242). -/
def parkedTile (s : State) (core : Nat) (a : Act) (n : Nat) : Tile :=
  (flownOps s core a.prog).foldl (fun t op =>
    match op with
    | .tile c m => if m = n then tileStep c t else t
    | _ => t) ((s.cluster (clusterOf core)).tile n)

/-- Whether what an activation waits for at issue is there (R334). -/
def waitOver (s : State) (core : Nat) (a : Act) : Bool :=
  match a.waitFor with
  | some (.tile n ok) => let t := parkedTile s core a n; ok.contains t.st && !t.refill
  | some .cpEntry => (cpAlloc (s.core core) a.id).isSome
  | some (.cpDone id) => decide (((s.core core).cp id).st = .done)
  | some .mxSlot => mxRoom (s.core core)
  | some .barrier => (match a.barWait with
    | some (_, none) => false
    | _ => true)
  | none => true

/-- R334: a parked activation whose condition holds is queued. Ends of barrier, pot, window and round waits queue theirs in
their own steps. -/
def execActivationWake (core ctx : Nat) (s : State) : Out :=
  .next (match fget (s.core core).acts ctx with
    | none => s
    | some a =>
      match a.park with
      | .waitAny sl _ forced d =>
        match sl.findIdx? (·.fired) with
        | some n => if allArmed sl then endWait s core ctx d (BitVec.ofNat 64 n) else s
        | none => if forced then endWait s core ctx d 4 else s
      | .fabWait _ _ true d => wakeAct s core ctx fun a => deliver a d 0x42
      | .issue => if waitOver s core a then wakeAct s core ctx id else s
      | _ => s)

/-! ### Activation instructions (R337-R340) -/

/-- R337: a commit point; LIVE is decremented after every effect, and context, extent and table entries are free. -/
def execActEnd (s : State) : Out :=
  let a := s.me
  guarded s none (commitWait s s.cur)
    (match s.cc.run with
     | some x =>
       let s := drain s s.cur
       pushFlight (endAct s s.cur x false) s.cur a.part a.prog a.rp none (.liveDec a.rp)
     | none => s)

/-- Activations that have migrated away and whose replies a core still forwards (R339). -/
def forwards (k : Core) : Nat :=
  (((k.accs.map (·.act)).filter (fun i => k.acts.all fun x => decide (x.2.id ≠ i))).eraseDups).length

/-- The move of an activation to another core (R339). -/
def migrate (s : State) (dest : Nat) : State :=
  match s.cc.run with
  | none => s
  | some x =>
    let s := commitAt s s.cur s.me.npc
    let a := s.me
    let hdr : Hdr := { ver := 1, kind := 4, rcb := a.rp, prio := a.prio, eoff := 0, len := 0, e4 := a.hdr.e4, spkg := s.pkg, src := s.cur }
    let m : Msg := { id := s.fresh, hdr := hdr, pay := [], part := a.part, core := dest, far := farFrom (dieOf s.cur) dest,
                     port := egressPort s (dieOf s.cur) dest s.cur, sender := s.cur, act := some { a with pc := a.npc, mxPlaced := false, park := .queued }, st := .travelling }
    let t := { s.used1 with msgs := s.msgs ++ [m] }
    -- an error that struck in the drain is taken after the snapshot, before the activation leaves (R342)
    if s.cc.errDue.isSome then s
    else bookRestarts (t.onCC fun k => { k with acts := ferase k.acts x, run := none, fixed := [], undo := [] })

/-- What `act.migrate` waits for: its commit point, then every store of the activation acknowledged, the drained ones among them, and
a forwarding entry (R339). -/
def migrateWait (s : State) (dest : Nat) : Option State :=
  if dest = s.cur then commitWait s s.cur
  else (settleWait s).orElse fun _ => if 8 ≤ forwards s.cc then some s else none

/-- R339. A target equal to the executing core has only the commit point. -/
def execActMigrate (a : SReg) (s : State) : Out :=
  let v := s.rs a
  let dest := bitsNat v 11 0
  guarded s (if bitsNat v 37 32 ≠ s.pkg ∨ notMine s dest then some (issueTrapAt s cACCESS false v) else none)
    (migrateWait s dest)
    (if dest = s.cur then commitAt s s.cur s.me.npc else migrate s dest)

/-- R340. -/
def execActFail (a : SReg) (s : State) : Out :=
  let v := s.rs a
  let m := s.me
  guarded s (if s.mode = 2 then some (issueTrapAt s cACCESS false v) else none) (waitConfirm s)
    (match s.cc.run with
     | some x => faultDomain s s.cur x { code := bitsNat m.cause 7 0, late := bitAt m.cause 8, aw := bitAt m.cause 9,
                                         epc := m.epc.toNat, tval := m.tval, sw := bitsNat v 15 0 }
     | none => s)

/-- Table 13.7. -/
def actInfoWord (a : Act) : Word :=
  BitVec.ofNat 64 (a.extBase / 4096 * 2 ^ 40 + a.hdr.spkg * 2 ^ 32 + a.hdr.kind * 2 ^ 24 + bitsNat a.status 9 8 * 2 ^ 22 +
    a.ring * 2 ^ 20 + a.hdr.len * 2 ^ 16 + (if a.hdr.e4 then 2 ^ 15 else 0) + a.hdr.prio * 2 ^ 12 + a.hdr.src)

/-- R338. -/
def execActInfo (d : SReg) (s : State) : Out := guarded s none none (s.ws d (actInfoWord s.me))

/-! ### Retry (R343, R344) -/

/-- A detected error in a core: it discards the attempt, but one that strikes in the drain of a commit point is taken after the
snapshot (R342). -/
def errorAt (s : State) (core x : Nat) : State :=
  if (s.core core).draining then
    s.onCore core fun k => { k with errDue := k.errDue.orElse fun _ => (fget k.acts x).map (·.id) }
  else attemptFailed s core x

/-- Takes the error that struck in the drain of a commit point: its snapshot stands, whether the activation goes on or has parked. -/
def takeError (s : State) (core act : Nat) : State :=
  let t := s.onCore core fun k => { k with errDue := none }
  match ctxOf (s.core core) act with
  | some x => attemptFailed t core x
  | none => t

/-- R343: a detected error strikes a core between commit points; one that struck in a drain is taken (R342). -/
def execDetectedError (core : Nat) (s : State) : Out :=
  .next (match (s.core core).errDue, (s.core core).draining, (s.core core).run with
    | some i, false, _ => takeError s core i
    | _, _, some x => errorAt s core x
    | _, _, none => s)

/-- Whether a running activation has issued no bundle for 2^24 cycles (R343). -/
def watchdogDue (s : State) (core : Nat) : Bool := (s.core core).run.isSome && decide ((s.core core).lastIssue + 2 ^ 24 ≤ s.now)

/-- R343: the watchdog expires after 2^24 cycles without a bundle, but once in a drain. -/
def execWatchdogExpiry (core : Nat) (s : State) : Out :=
  .next (match (s.core core).run with
    | some x => if watchdogDue s core && (s.core core).errDue.isNone then errorAt s core x else s
    | none => s)

/-- An activation as its snapshot holds it. -/
def restoreSnap (a : Act) : Act :=
  let p := a.snap
  { a with
    regs := p.regs, flags := p.flags, nest := p.nest, status := p.status, cause := p.cause, epc := p.epc, tval := p.tval,
    allow := p.allow, score := p.score, pc := p.pc, npc := p.pc, mx := p.mx, pend := p.pend, mxPlaced := false,
    flagsWr := p.flagsWr, stepDue := false, conly := p.conly, taken := false, claims := [], barClaims := [], potClaims := [],
    upcall := false, barWait := none, waitFor := none }

/-- Whether requests of the committed part of an attempt are complete (06 R195, 10 R277). -/
def restartReady (s : State) (x : Nat × Act × Nat) : Bool :=
  (match x.2.1.park with
   | .barrier .. | .qdOpen .. | .qdExit .. | .round .. => false
   | _ => true) &&
  (s.cores.all fun c => c.2.accs.all fun y => decide (y.act ≠ x.2.1.id)) && (mxReqsOf s x.2.1.id).isEmpty &&
    s.flights.all fun f => decide (f.act ≠ x.2.1.prog) || (match f.op with
      | .store .ls .. => false
      | _ => true)

/-- R344: the extent is copied, and the activation goes on from its snapshot on the core that is kept for it. With `err` the copy meets
an uncorrectable error. -/
def execRetryRestart (core : Nat) (err : Bool) (s : State) : Out :=
  .next (match s.restarts.find? (fun x => restartReady s x && (s.core core).resv.any fun r => decide (r.1 = x.2.1.id)) with
    | none => s
    | some x =>
      let a := x.2.1
      match (s.core core).resv.find? (fun r => decide (r.1 = a.id)) with
      | some (_, ctx, b, _) =>
        let bytes := mread (s.core x.1).ls a.extBase a.extLen
        let r := restoreSnap a
        let s := { s with restarts := s.restarts.erase x }
        let s := s.onCore core fun k =>
          { k with ls := mwrite k.ls b bytes, resv := k.resv.filter fun r => decide (r.1 ≠ a.id),
                   acts := fset k.acts ctx { r with extBase := b, status := statusCtx r.status ctx, park := .queued } }
        if err then faultDomain s core ctx { code := cRETRY, late := false, aw := false, epc := a.pc, tval := 0, sw := 0 }
        else bookRestarts (enqueue s core (.ctx ctx) r.prio)
      | none => s)

/-! ### Launches (R347-R350) -/

/-- The block's words after inheritance (R347): words 8, 16, 24, 48. -/
structure Budget where
  w8 : Nat
  w16 : Nat
  allow : Nat
  place : Nat

/-- Copies a field of another word. -/
def copyField (c : Bool) (w o lo len : Nat) : Nat := if c then putField w lo len (fieldOf o lo len) else w

/-- The values that a block will hold. -/
def inherit (s : State) (part rcb : Nat) (parent : Option Nat) : Budget :=
  let w := fun o => hwPeek s part (rcb + o)
  match parent with
  | none => { w8 := w 8, w16 := w 16, allow := w 24, place := w 48 }
  | some p =>
    let q := fun o => hwPeek s part (p + o)
    let i := fun n => decide (rcbInh (w 8) / 2 ^ n % 2 = 1)
    { w8 := copyField (i 6) (copyField (i 5) (copyField (i 4) (w 8) (q 8) 2 3) (q 8) 5 2) (q 8) 7 3
      w16 := copyField (i 2) (copyField (i 1) (copyField (i 0) (w 16) (q 16) 0 32) (q 16) 32 6) (q 16) 48 9
      allow := if i 3 then q 24 else w 24
      place := if i 7 then q 48 else w 48 }

def Budget.cmin (b : Budget) : Nat := fieldOf b.w16 0 16
def Budget.cmax (b : Budget) : Nat := fieldOf b.w16 16 16
def Budget.lsb (b : Budget) : Nat := fieldOf b.w16 32 6
def Budget.tiles (b : Budget) : Nat := fieldOf b.w16 48 9

/-- Cores of a placement that are present (R347). -/
def placed (s : State) (part place : Nat) : List Nat := (partCores s part).filter fun c => decide (place / 2 ^ granOf c % 2 = 1)

/-- Cores of this package that a block's minimum takes: those of a quadrille are one for each member here (17 R426). -/
def cminHere (s : State) (part rcb kind cmin : Nat) : Nat :=
  if kind = 1 then min cmin ((quadMembers s part (hwPeek s part (rcb + 88))).filter fun m => decide (m.1 = s.pkg)).length else cmin

/-- CMIN of the running and pending regions of a partition other than one block. -/
def cminSum (s : State) (part rcb : Nat) : Nat :=
  let live := (((knownBlocks s part).flatMap (chainOf s part 8)).eraseDups).filter fun r =>
    decide (r ≠ rcb) && (let st := regionState s part r; decide (st = stPending ∨ st = stRunning))
  live.foldl (fun n r => n + cminHere s part r (rcbKind (hwPeek s part (r + 8))) (fieldOf (hwPeek s part (r + 16)) 0 16)) 0

/-- A member cluster that a quadrille can use: one of this package's partition, or one of a package that the partition spans
(20 R469). -/
def memberOk (s : State) (part : Nat) (m : Nat × Nat) : Bool :=
  if m.1 = s.pkg then (clusterCores m.2).any fun c => corePresent s c && decide ((s.core c).part = some part)
  else (s.partn part).span.getLsbD m.1

/-- Whether the members of a parameter block can be read. -/
def membersRead (s : State) (part p m : Nat) : Bool :=
  (List.range m).all fun i => match hwRead s part (p + 32 + 8 * i) 8 with
    | .ok _ => true
    | .error _ => false

/-- The parameter checks of a quadrille (17 R426); PLACE is held against the members of this package. -/
def quadParamsOk (s : State) (part rcb : Nat) (b : Budget) : Bool :=
  let p := hwPeek s part (rcb + 88)
  match hwRead s part p 8 with
  | .error _ => false
  | .ok (_, w) =>
    let m := fieldOf w 0 7
    let g := fieldOf w 16 10
    let ms := quadMembers s part p
    decide (p % 64 = 0 ∧ 1 ≤ m ∧ m ≤ 64 ∧ 1 ≤ g ∧ g ≤ 512 ∧ ms.eraseDups.length = m ∧ b.cmin = m ∧ b.cmax ≤ 4 * m) &&
      membersRead s part p m && ms.all (memberOk s part) &&
      ms.all fun x => decide (x.1 ≠ s.pkg ∨ b.place / 2 ^ granOf (4 * x.2) % 2 = 1)

/-- The parameter checks of a reel (17 R439). -/
def reelParamsOk (s : State) (part rcb : Nat) (parent : Option Nat) (b : Budget) : Bool :=
  let p := hwPeek s part (rcb + 88)
  let w := hwPeek s part p
  let e := fieldOf w 0 7
  let a0 := hwPeek s part (p + 8) % 2 ^ 47
  let qdb := hwPeek s part (p + 16)
  [2, 4, 8, 16, 32, 64].contains e && decide (a0 ≠ 0 ∧ fieldOf w 32 32 % 8 = 0 ∧ b.cmin % e = 0) &&
    (decide (qdb = 0) ||
      (decide (parent = some qdb ∧ b.cmin / e ≤ 4) &&
        s.quads.any fun q => decide (q.part = part ∧ q.rcb = qdb ∧ e ≤ q.m) && q.open_))

/-- The first of checks 1 to 7 of a launch that fails (Table 13.10); 0 when all pass. `kind` is the kind that `qd.open` and `reel.open`
demand. -/
def launchChecks (s : State) (part rcb : Nat) (parent pred : Option Nat) (kind : Option Nat) (b : Budget) : Nat :=
  let st := fun r => regionState s part r
  let going := fun r => decide (st r = stPending ∨ st r = stRunning)
  let q := fun o => hwPeek s part (parent.getD 0 + o)
  let k := rcbKind b.w8
  let root := (s.partn part).root.toNat
  if going rcb || (parent.isNone && decide (root ≠ 0) && going root) then 1
  else if (k = 3 ∧ parent.isSome) ∨ (kind = some 3 ∧ k ≠ 3) ∨ rcbFdom b.w8 = 3 ∨ b.cmin = 0 ∨ b.cmax < b.cmin ∨ b.lsb = 0 ∨ 32 < b.lsb ∨ 256 < b.tiles ∨
      fieldOf (hwPeek s part (rcb + 40)) 0 32 % 8 ≠ 0 ∨ hwPeek s part (rcb + 32) % 65536 ≠ 0 then 2
  else if parent.isSome ∧ rcbDepth (q 8) = 7 then 3
  else if (match parent with
      | some _ => decide (fieldOf (q 16) 16 16 < b.cmax ∨ fieldOf (q 16) 32 6 < b.lsb ∨ fieldOf (q 16) 48 9 < b.tiles ∨
          rcbPrio (q 8) < rcbPrio b.w8 ∨ b.place ||| q 48 ≠ q 48 ∨ (q 24 ≠ 0 ∧ q 24 < b.allow))
      | none => decide ((partCores s part).length < b.cmax ∨
          b.place ||| (s.partn part).gran.toNat ≠ (s.partn part).gran.toNat)) then 4
  else if (placed s part b.place).length < cminHere s part rcb k b.cmin ∨
      (partCores s part).length < cminSum s part rcb + cminHere s part rcb k b.cmin then 5
  else if (match pred with
      | some p => !going p
      | none => false) then 6
  else if (match kind with
      | some w => decide (w ≠ k)
      | none => false) || (k == 1 && !quadParamsOk s part rcb b) || (k == 2 && !reelParamsOk s part rcb parent b) then 7
  else 0

/-- Check 10: the parent of a launch runs. -/
def parentRuns (s : State) (part : Nat) (parent : Option Nat) : Bool :=
  match parent with
  | some p => decide (regionState s part p = stRunning)
  | none => true

/-- The launch status (Table 13.10) of a block; 0 when every check passes. -/
def launchStatus (s : State) (part rcb : Nat) (parent pred : Option Nat) (kind : Option Nat) (b : Budget) : Nat :=
  let c := launchChecks s part rcb parent pred kind b
  if c ≠ 0 then c else if parentRuns s part parent then 0 else 10

/-- DONE as a launch writes it (Table 13.9). -/
def launchDone (s : State) (part rcb endc code : Nat) : State :=
  let n := fieldOf (hwPeek s part (rcb + 72)) 32 32 + 1
  hwPoke s part (rcb + 72) (endc + 256 * code + n % 2 ^ 32 * 2 ^ 32)

/-- What a launch makes sure of in its partition: no core keeps an older copy of a bundle (04 R106), and no L1 a marked line
(07 R219). -/
def freshCopies (s : State) (part : Nat) : State :=
  let kept := fun (x : Nat × L1Line) => !(x.2.marked && decide (x.2.part = part))
  { s with cores := fmapVals (fun _ k =>
      { k with icache := k.icache.filter fun l => decide (l.part ≠ part), l1 := fmapVals (fun _ set => set.filter kept) k.l1 }) s.cores }

/-- The launch of a block whose checks have passed (R347). -/
def launchGo (s : State) (part rcb : Nat) (parent pred : Option Nat) (src : Option Nat) (e4 : Bool) (b : Budget) : State :=
  let depth := match parent with
    | some p => rcbDepth (hwPeek s part (p + 8)) + 1
    | none => 0
  let s := hwPoke s part rcb (parent.getD 0)
  let s := hwPoke s part (rcb + 8) (putField b.w8 10 3 depth)
  let s := hwPoke (hwPoke (hwPoke s part (rcb + 16) b.w16) part (rcb + 24) b.allow) part (rcb + 48) b.place
  let s := hwPoke (hwPoke s part (rcb + 64) b.cmin) part (rcb + 80) 0
  let s := [96, 104, 112, 120].foldl (fun s o => hwPoke s part (rcb + o) 0) s
  let s := freshCopies (launchDone s part rcb 0 0) part
  let s := { s with triggered := s.triggered.filter fun o => decide (o ≠ ⟨part, rcb⟩) }
  match pred with
  | some p =>
    if s.triggered.contains ⟨part, p⟩ then startRegion s part rcb src e4
    else
      let s := rcbPut s part rcb 8 13 3 stPending
      { s with pendingRegions := s.pendingRegions ++ [{ own := ⟨part, rcb⟩, pred := p, src := src.getD 0, e4 := e4 }] }
  | none => startRegion s part rcb src e4

/-- Launches a block: the state after it and the launch status (R347). -/
def launchAt (s : State) (part rcb : Nat) (parent pred : Option Nat) (kind src : Option Nat) (e4 : Bool) : State × Nat :=
  let b := inherit s part rcb parent
  let code := launchStatus s part rcb parent pred kind b
  if code ≠ 0 then (launchDone s part rcb 4 code, code) else (launchGo s part rcb parent pred src e4 b, 0)

/-- Traps of forms that name control blocks. -/
def blockTrap (s : State) (v : Word) : Option Trap := if v.toNat % 512 ≠ 0 then some (issueTrapAt s cALIGN false v) else none

/-- Probes a control block like a store (07 R228). -/
def probeBlock (s : State) (rcb : Nat) : State := addAccess s (.probe false none) rcb 8 false false 2 none

/-- R348. -/
def execRegionLaunch (a : SReg) (s : State) : Out :=
  let v := s.rs a
  guarded s (blockTrap s v) (roomWait s 16) (probeBlock (rbAppend s 16 (.launch v.toNat false 0)) v.toNat)

/-- R348: a predecessor of 0 names the executing region. -/
def execRegionLaunchEarly (a b : SReg) (s : State) : Out :=
  let v := s.rs a
  let w := s.rs b
  let p := if w = 0 then s.me.rp else w.toNat
  guarded s ((blockTrap s v).orElse fun _ => blockTrap s w) (roomWait s 16)
    (probeBlock (probeBlock (rbAppend s 16 (.launch v.toNat true p)) v.toNat) p)

/-- R352. -/
def execRegionKill (a : SReg) (s : State) : Out :=
  let v := s.rs a
  guarded s (blockTrap s v) (roomWait s 8) (probeBlock (rbAppend s 8 (.kill v.toNat)) v.toNat)

/-- R353: dword 8 and LIVE are read as `.acq` loads. -/
def execRegionStat (d a : SReg) (s : State) : Out :=
  let v := s.rs a
  guarded s (globalTrap s (v + 8) 8 false) (redWait s (v.toNat + 8) 64)
    (issueLoad s .global (.stat d) (.s d) false v.toNat 8 true 2)

/-- R349. -/
def execLaunchTrig (s : State) : Out := guarded s none (roomWait s 8) (rbAppend s 8 .trig)

/-- Whether an earlier store of a launcher into the code of a block is not performed: the launch makes its bundles visible (04 R106). -/
def codeFlying (s : State) (f : Flight) (rcb : Nat) : Bool :=
  (s.flights.takeWhile (fun g => decide (g.id ≠ f.id))).any fun g => decide (g.act = f.act) && (match g.range s with
    | some (a, n) => overlap a n (hwPeek s f.part (rcb + 32)) (2 ^ 32)
    | none => false)

/-- R347, R496: a drained launch is performed, unless its block, or the predecessor that it names, no longer translates. -/
def execLaunchPerform (id : Nat) (s : State) : Out :=
  .next (match s.flight id with
    | none => s
    | some f =>
      match f.op with
      | .launch rcb early pred =>
        let p := if early then pred else rcb
        if !flightReady s f || codeFlying s f rcb then s
        else
          match xlateHw s f.part rcb .w, xlateHw s f.part p .w with
          | .ok .., .ok .. =>
            match (rcbWait s f.part rcb).orElse fun _ => rcbWait s f.part p with
            | some s => s
            | none => (launchAt s f.part rcb (some f.rp) (if early then some pred else none) none (some f.core)
                (bitAt (s.core f.core).fmt 0)).1.dropFlight id
          | .fault c _, _ => dropDrained s f c rcb
          | _, .fault c _ => dropDrained s f c p
          | _, _ => s
      | _ => s)

/-- R349: a drained trigger is performed. -/
def execLaunchTrigger (id : Nat) (s : State) : Out :=
  .next (match s.flight id with
    | none => s
    | some f =>
      match f.op with
      | .trig => if flightReady s f then fireTrigger (s.dropFlight id) ⟨f.part, f.rp⟩ else s
      | _ => s)

/-- R352: a drained kill ends a strict descendant that is pending or running. -/
def execRegionKillPerform (id : Nat) (s : State) : Out :=
  .next (match s.flight id with
    | none => s
    | some f =>
      match f.op with
      | .kill rcb =>
        if !flightReady s f then s
        else
          match xlateHw s f.part rcb .w with
          | .ok .. =>
            match rcbWait s f.part rcb with
            | some s => s
            | none =>
              let st := regionState s f.part rcb
              let s := s.dropFlight id
              if rcb ≠ f.rp ∧ inRegion s f.part rcb f.rp ∧ (st = stPending ∨ st = stRunning) then failRegion s f.part rcb 3 else s
          | .fault c _ => dropDrained s f c rcb
          | .miss => s
      | _ => s)

/-- R350: the decrement that brings a region's LIVE to 0 is performed, and the region completes. -/
def execRegionComplete (part rcb : Nat) (s : State) : Out :=
  .next (match s.flights.find? (fun f => decide (f.part = part ∧ f.op = .liveDec rcb) && flightReady s f) with
    | none => s
    | some f => if hwPeek s part (rcb + 64) = 1 then liveDecrement (s.dropFlight f.id) part rcb else s)

/-! ### Barriers (R354-R359) -/

/-- The unit that a barrier number names, 64 c + n. -/
def barUnit (a : Word) : Nat := bitsNat a 9 0

def State.bar (s : State) (u : Nat) : Bar := (s.die (u / 64)).bar (u % 64)
def State.setBar (s : State) (u : Nat) (b : Bar) : State := s.onDie (u / 64) fun d => { d with bars := fset d.bars (u % 64) b }

/-- A unit on an absent die raises ACCESS at issue (R354). -/
def barTrap (s : State) (a : Word) : Option Trap :=
  if cdPresent s (barUnit a / 64) then none else some (issueTrapAt s cACCESS false a)

/-- R355. -/
def execBarInit (d a b : SReg) (s : State) : Out :=
  let u := barUnit (s.rs a)
  let n := (s.rs b).toNat
  guarded s (barTrap s (s.rs a)) (waitConfirm s)
    (if n = 0 ∨ 4096 < n then s.ws d 2
    else if (s.bar u).owner.isSome then s.ws d 1
    else
      ((s.used1.setBar u { s.bar u with owner := some s.me.own, exp := n, cnt := 0, claim := s.fresh }).onMe fun m =>
        { m with barClaims := m.barClaims ++ [(u, s.fresh)] }).ws d 0)

/-- An arrival: a commit point that sends the arrival; `bar.arrive` then waits for the phase. -/
def arriveForm (block : Bool) (d a b : SReg) (s : State) : Out :=
  let v := s.rs a
  let n := s.rs b
  let t := (barTrap s v).orElse fun _ =>
    if n = 0 ∨ 4096 < n.toNat then some (issueTrapAt s cACCESS false n) else none
  guarded s t (commitWait s s.cur)
    (let s := commitSend s (.arrive (barUnit v) n.toNat d block) v.toNat 8 false true d
     if block then parkMe s (.barrier (barUnit v) 0 d false) else s)

/-- R356. -/
def execBarArrive (d a b : SReg) (s : State) : Out := arriveForm true d a b s
/-- R356. -/
def execBarArriveNb (d a b : SReg) (s : State) : Out := arriveForm false d a b s

/-- Releases every waiter of a unit whose phase has advanced: `bar.arrive` returns the phase that it saw, `bar.wait` the new one. -/
def barPhase (s : State) (u : Nat) : State := barRelay s u (·.setWidth 64) ((s.bar u).phase.setWidth 64)

/-- R356: an arrival acts at its unit, after every effect that drained before it. -/
def execBarrierArrival (core id : Nat) (s : State) : Out :=
  .next (match (s.core core).accs.find? (fun x => decide (x.id = id)) with
    | none => s
    | some x =>
      match x.st, x.kind with
      | .pending, .arrive u n d block =>
        let b := s.bar u
        let a := (s.findAct x.act).getD Act.zero
        if !atomReady s core x then s
        else if b.owner ≠ some ⟨a.part, a.rp⟩ then s.failAcc core id cACCESS (BitVec.ofNat 64 x.va) 0
        else if b.exp < b.cnt + n then s.failAcc core id cBARRIER (BitVec.ofNat 64 (n * 2 ^ 32 + b.cnt * 2 ^ 16 + u)) 0
        else
          let full := decide (b.cnt + n = b.exp)
          let s := s.setBar u (if full then { b with cnt := 0, phase := b.phase + 1 } else { b with cnt := b.cnt + n })
          let s := (if block then
              s.onActAll x.act fun a => { a with park := .barrier u b.phase d true }
            else s.onActAll x.act fun a => deliver a d (b.phase.setWidth 64)).dropAcc core id
          if full then barPhase s u else s
      | _, _ => s)

/-- R357: waits while the unit's phase is the one named; a wait that has been released returns what released it. -/
def execBarWait (d a b : SReg) (s : State) : Out :=
  let v := s.rs a
  let u := barUnit v
  let bar := s.bar u
  let mine := decide (bar.owner = some s.me.own)
  let result : Option Word := match s.me.barWait with
    | some (w, r) => if w = u then r else none
    | none => none
  let waits := result.isNone && mine && decide (bar.phase = (s.rs b).setWidth 16)
  guarded s (barTrap s v)
    (if waits then some (s.waitOn .barrier |>.onMe fun m => { m with barWait := some (u, none) }) else none)
    (match result with
     | some r => s.ws d r
     | none =>
       if !mine then trapMe s { code := cACCESS, late := true, aw := false, epc := s.pc, tval := v }
       else s.ws d (bar.phase.setWidth 64))

/-- R358. -/
def execBarFree (a : SReg) (s : State) : Out :=
  let v := s.rs a
  guarded s (barTrap s v) (roomWait s 8) (rbAppend s 8 (.barFree (barUnit v)))

end Sys2Proof.Machine
end

