-- ==== Sys2Proof/Machine/Swap.lean ====
section
/-! DEFINITION. Partitions that come and go: halting the cores of a partition (20 R471), the move of core and cluster state
(20 R472-R474), leave tokens returned (20 R467), and the answer to whoever asked (20 R470, R487). -/

namespace Sys2Proof.Machine

/-! ### Answers (R470, R487) -/

/-- Host command status codes (R487). -/
def hsOK : Nat := 0
def hsBADVER : Nat := 1
def hsBADCMD : Nat := 2
def hsBADARG : Nat := 3
def hsSTATE : Nat := 4
def hsRESET : Nat := 5

/-- Writes a reply into the host's memory: the result dwords, then dword 0 (R486, R487). -/
def hostReply (s : State) (h : HostReq) (status : Nat) (res : List Word) : State :=
  let a := h.reply % 2 ^ 47
  let d0 := status + 2 ^ 8 * min h.ver.toNat 1 + 2 ^ 16 * h.tag.toNat
  let host := mwrite s.host (a + 8) (res.flatMap fun w => leBytes 8 w.toNat)
  { s with host := mwrite host a (leBytes 8 d0) }

/-- Tells whoever waits for a swap or a kill its status. -/
def swapAnswer (s : State) (w : Swap) (status : Nat) : State :=
  let s := { s with swaps := s.swaps.filter (· ≠ w) }
  let s := match w.core with
    | some (act, d) => s.onActAll act fun a => deliver a d (BitVec.ofNat 64 status)
    | none => s
  match w.req with
  | some h => hostReply s h hsOK (if w.kill then [] else [BitVec.ofNat 64 status])
  | none => s

/-! ### Halting (R471) -/

/-- The cores of granules that are present. -/
def granCores (s : State) (g : BitVec 64) : List Nat :=
  ((List.range 64).filter (fun q => g.getLsbD q && cdPresent s (q / 4))).flatMap fun q => (List.range 64).map (64 * q + ·)

/-- The clusters of granules that are present. -/
def granClusters (s : State) (g : BitVec 64) : List Nat :=
  ((List.range 64).filter (fun q => g.getLsbD q && cdPresent s (q / 4))).flatMap fun q => (List.range 16).map (16 * q + ·)

/-- Cores that hold a resident partition. -/
def residentCores (s : State) (p : Nat) : List Nat :=
  ((s.cores.filter (fun x => decide (x.2.part = some p))).map (·.1))

/-- Halting of a partition's cores begins. -/
def beginHalt (s : State) (p : Nat) : State :=
  { s with cores := fmapVals (fun _ k => if k.part = some p then { k with swapping := true } else k) s.cores }

/-- Drains what a halting core's running activation has buffered, as far as its commit point lets it. -/
def haltDrain (s : State) (c : Nat) : State :=
  match (s.core c).running with
  | some (_, a) => if a.mode = 2 then s else (commitWait s c).getD s
  | none => s

/-- Whether an access is a pot read, which stays pending at its home (15 R415). -/
def Access.potRd (x : Access) : Bool :=
  match x.kind with
  | .potRead _ => true
  | _ => false

/-- Whether a command has moved whole 64-byte blocks of a row sequence or target: it stops only there (R471). One that has faulted only
has to end. -/
def CpEnt.at64 (e : CpEnt) : Bool :=
  decide (e.st ≠ .running) || e.fault.isSome ||
    e.left.all fun p => decide (p.1 % max 1 e.bytes % 64 = 0 ∧ p.2 % max 1 e.bytes % 64 = 0)

/-- Whether a core has halted: it is out of system mode, at its commit point, its running commands stand at 64-byte boundaries, and
nothing that it issued is out. -/
def coreHalted (s : State) (p c : Nat) : Bool :=
  let k := s.core c
  (match k.running with
   | some (_, a) => decide (a.mode ≠ 2) && (commitWait s c).isNone && a.flagsWr.isNone
   | none => true) &&
  k.errDue.isNone && k.rb.isEmpty && k.mxq.isEmpty && k.accs.all (·.potRd) && (k.cps.all fun x => x.2.at64) && s.flights.all fun f => decide (f.part ≠ p ∨ f.core ≠ c ∨ f.sent.isSome)

/-- The commit point of a core that has halted. -/
def haltCommit (s : State) (c : Nat) : State :=
  match (s.core c).running with
  | some (_, a) => commitAt s c a.pc
  | none => s

/-- A parked activation at a swap: its watches are cancelled, a wait ends with its own code when it resumes (R471). -/
def forceWait (a : Act) : Act :=
  match a.park with
  | .waitAny sl t _ d => { a with park := .waitAny sl t true d, mxPlaced := false }
  | .fabWait q t _ d => { a with park := .fabWait q t true d, mxPlaced := false }
  | _ => { a with mxPlaced := false }

/-- Removes every watch of a partition. -/
def dropWatches (s : State) (p : Nat) : State :=
  let keep := fun (w : Watch) => decide (w.part ≠ p)
  { s with
    slices := fmapVals (fun _ g => { g with watches := g.watches.filter keep }) s.slices
    cores := fmapVals (fun _ k => { k with watches := k.watches.filter keep }) s.cores }

/-! ### Leave tokens returned (R467) -/

/-- Requests of the pools of some cores and clusters leave the governor. -/
def dropLeave (s : State) (cores clusters : List Nat) : State :=
  let keep := fun (r : GovReq) => match r.pool with
    | .mx cl _ => !clusters.contains cl
    | .cp c => !cores.contains c
    | .pot .. => true
  { s with dies := fmapVals (fun _ d => { d with reqs := d.reqs.filter keep }) s.dies }

/-! ### Core and cluster state that moves (Table 20.4) -/

/-- What a swap saves of a core; its local store stays behind, in a bank of the core. -/
def savedCore (now : Nat) (k : Core) : Core :=
  let k := cpAwake k now
  { k with cycleWas := k.cycle now, cycleAt := now, swapping := false, halted := false, acts := fmapVals (fun _ a => forceWait a) k.acts, ls := [], shadow := [], shadowOf := none,
           watches := [], l1 := [], icache := [], fixed := [], undo := [], sfuAt := none, waitFrom := none, cpHeld := 0, cpAsked := 0,
           draining := false }

/-- What stays in a core that no partition holds: caches and banks. -/
def bareCore (k : Core) : Core :=
  { Core.reset with halted := k.halted, l1 := k.l1, icache := k.icache, shadow := k.shadow, shadowOf := k.shadowOf }

/-- What a swap saves of a cluster: tile entries and bytes. -/
def savedCluster (c : Cluster) : Cluster := { Cluster.reset with spad := c.spad, tiles := c.tiles }

/-- What stays in a cluster. -/
def bareCluster (c : Cluster) : Cluster := { Cluster.reset with stages := c.stages.map fun g => { g with busy := none } }

/-- The local store of a partition that is out, as its saved core holds it. -/
def putSavedLs (x : Part) (c : Nat) (m : Memory) : Part :=
  { x with cores := x.cores.map fun y => if y.1 = c then (c, { y.2 with ls := m }) else y }

/-- The shadow bank of a core is taken up into the saved state of the partition that it holds: an incoming partition goes on
with it (R472), another one's is written to its context area (R474). -/
def spillBank (s : State) (p c : Nat) : State :=
  let k := s.core c
  match k.shadowOf with
  | some r => if r = p then s else (s.onPart r fun x => putSavedLs x c k.shadow).onCore c fun k => { k with shadow := [], shadowOf := none }
  | none => s

/-- One core of an outgoing partition: its state is saved, and its bank becomes the shadow bank (R472). -/
def coreOut (s : State) (p c : Nat) : State :=
  let k := s.core c
  let s := s.onPart p fun x => { x with cores := fset x.cores c (savedCore s.now k) }
  s.onCore c fun k => { bareCore k with shadow := k.ls, shadowOf := some p }

/-- One core of an incoming partition (R472); its CYCLE goes on from the count that was saved (04 R130). -/
def coreIn (s : State) (q c : Nat) : State :=
  let saved := (fget (s.partn q).cores c).getD Core.reset
  let s := s.onPart q fun x => { x with cores := ferase x.cores c }
  s.onCore c fun k =>
    { saved with part := some q, halted := k.halted, l1 := k.l1, icache := k.icache, lastIssue := s.now,
                 cycleAt := if (fget (s.partn q).cores c).isSome then s.now else 0, shadow := k.shadow, shadowOf := k.shadowOf }

/-- Every core and cluster of an outgoing partition (R472, R473). -/
def partOut (s : State) (p : Nat) : State :=
  let cores := granCores s (s.partn p).gran
  let clusters := granClusters s (s.partn p).gran
  let s := dropLeave (dropWatches s p) cores clusters
  let s := clusters.foldl (fun s cl =>
    let c := s.cluster cl
    (s.onPart p fun x => { x with clusters := fset x.clusters cl (savedCluster c) }).onCluster cl bareCluster) s
  let s := cores.foldl (fun s c => coreOut s p c) s
  s.onPart p fun x => { x with st := 1, outAt := s.now }

/-- A tile whose bytes are not back yet. -/
def awaitRefill (x : Nat × Tile) : Nat × Tile := (x.1, { x.2 with refill := decide (x.2.gran ≠ 0) })

/-- One cluster of an incoming partition (R473). -/
def clusterIn (s : State) (q cl : Nat) : State :=
  let c := (fget (s.partn q).clusters cl).getD Cluster.reset
  let s := s.onPart q fun x => { x with clusters := ferase x.clusters cl }
  s.onCluster cl fun k => { k with spad := c.spad, tiles := c.tiles.map awaitRefill }

/-- A round of a reel was paused while its partition was out (17 Table 17.8). -/
def resumeReel (q away : Nat) (r : Reel) : Reel := if r.part = q then { r with since := r.since + away } else r

/-- Every core and cluster of an incoming partition (R472, R473): tile bytes are refilled later. -/
def partIn (s : State) (q : Nat) : State :=
  let s := (granClusters s (s.partn q).gran).foldl (fun s cl => clusterIn s q cl) s
  let s := (granCores s (s.partn q).gran).foldl (fun s c => coreIn s q c) s
  let s := { s with reels := s.reels.map (resumeReel q (s.now - (s.partn q).outAt)) }
  s.onPart q fun x => { x with st := 2, was := true }

/-- An admission that is not complete gives up what it has reserved before its partition is swapped (17 R437): it starts again after. -/
def dropPartial (s : State) (p : Nat) : State :=
  let some_ := s.quads.filter fun q => decide (q.part = p) && q.home.isNone && !q.open_ && !q.closed
  some_.foldl (fun s q =>
    setQuad (q.reserved.foldl (fun s i => freeSegment s q i) (quadRelease s q)) { q with reserved := [], asked := false, granted := false }) s

/-- Whether a partition holds members here that are reserved for an admission of another package (17 R437). -/
def holdsHere (s : State) (p : Nat) : Bool := s.quads.any fun q => decide (q.part = p ∧ q.qid = 4096)

/-- Such members are given back before the partition is swapped: their home is asked, once, to release them; where it has opened the window
meanwhile, the admission is complete. -/
def giveBack (s : State) (p : Nat) : State :=
  (s.quads.filter fun q => decide (q.part = p ∧ q.qid = 4096) && !q.asked).foldl (fun s q =>
    match q.home with
    | some g => setQuad (quadFlit s q g 26 0) { q with asked := true }
    | none => s) s

/-- The move of a swap once halting has ended. -/
def exchange (s : State) (p q : Nat) : State :=
  let s := dropPartial s p
  let all := (if p < 32 then granCores s (s.partn p).gran else []) ++ (if q < 32 then granCores s (s.partn q).gran else [])
  let s := all.foldl (fun s c => spillBank s p c) s
  let s := if p < 32 then partOut s p else s
  if q < 32 then partIn s q else s

/-! ### A partition that is out, as if it were resident -/

/-- The saved state of a core laid over it. -/
def layCore (s : State) (p c : Nat) : State :=
  let k := s.core c
  let saved := (fget (s.partn p).cores c).getD Core.reset
  s.setCore c { saved with part := some p, l1 := k.l1, icache := k.icache, cycleAt := s.now,
                           ls := if k.shadowOf = some p then k.shadow else saved.ls }

/-- It is taken up again. -/
def liftCore (s : State) (p c : Nat) : State :=
  let k := s.core c
  s.onPart p fun x => { x with cores := fset x.cores c { savedCore s.now k with ls := k.ls } }

/-- What was resident on a core comes back. -/
def backCore (held : FMap Core) (s : State) (p c : Nat) : State :=
  let now := s.core c
  let old := (fget held c).getD Core.reset
  s.setCore c { old with l1 := now.l1, icache := now.icache, shadow := if old.shadowOf = some p then now.ls else old.shadow }

/-- Applies a change that ends regions to a partition that is swapped out: its state is laid over its granules and taken up
again, while what is resident there stands aside. -/
def underPart (s : State) (p : Nat) (f : State → State) : State :=
  if (s.partn p).st ≠ 1 then f s
  else
    let cores := granCores s (s.partn p).gran
    let clusters := granClusters s (s.partn p).gran
    let heldCores := s.cores.filter fun x => cores.contains x.1
    let heldClusters := s.clusters.filter fun x => clusters.contains x.1
    let s := cores.foldl (fun s c => layCore s p c) s
    let s := clusters.foldl (fun s cl => s.onCluster cl fun _ => (fget (s.partn p).clusters cl).getD Cluster.reset) s
    let s := cores.foldl (fun s c => liftCore s p c) (f s)
    let s := clusters.foldl (fun s cl => s.onPart p fun x => { x with clusters := fset x.clusters cl (savedCluster (s.cluster cl)) }) s
    let s := cores.foldl (fun s c => backCore heldCores s p c) s
    clusters.foldl (fun s cl => s.onCluster cl fun _ => (fget heldClusters cl).getD Cluster.reset) s

/-! ### Agreement at a rotation boundary (R430, R470) -/

/-- The packages of a span other than this one. -/
def spanFar (s : State) (p : Nat) : Bool := decide (p < 32) && (List.range 64).any fun g => decide (g ≠ s.pkg) && (s.partn p).span.getLsbD g

/-- Marks one swap as agreed. -/
def agreeOne (w x : Swap) : Swap := if x = w then { w with agreed := true } else x

/-- A rotation begins: every package of a waiting swap may agree (free), or its time is over. -/
def agreeSwaps (s : State) : State :=
  (s.swaps.filter (fun w => !w.agreed)).foldl (fun s w =>
    if s.freeBit then
      let s := { s.used with swaps := s.swaps.map fun x => agreeOne w x }
      if w.p < 32 then beginHalt s w.p else s
    else if w.since + s.fto ≤ s.rot then swapAnswer s.used w 5
    else s.used) s

end Sys2Proof.Machine
end

