-- ==== Sys2Proof/Machine/Far.lean ====
section
/-! DEFINITION. Quadrilles and reels across packages (17 R424-R456): what a package is told of those whose control blocks another package
holds, what it tells in turn, and what stops, kills and releases the activations of an entrant. Payload layouts are the model's (log 12). -/

namespace Sys2Proof.Machine

/-! Quadrilles of other packages (17 R425-R434) -/

/-- The quadrille of a block that another package has told this one of; under number 4096 what is reserved here for its admission. -/
def quadCopy (s : State) (pkg part rcb : Nat) (held : Bool) : Option Quad :=
  s.quads.find? fun q => decide (q.part = part ∧ q.rcb = rcb ∧ q.home = some pkg) && (decide (q.qid = 4096) == held)

/-- What the home of a quadrille says of one of its members; with the last one the window is open here (17 R427). -/
def quadMember (s : State) (pkg part rcb v : Nat) : State :=
  let qid := fieldOf v 0 12
  let m := fieldOf v 12 7
  let i := fieldOf v 19 6
  let c := (fieldOf v 43 6, fieldOf v 49 10)
  let q : Quad := (quadCopy s pkg part rcb false).getD
    { id := s.fresh, part := part, rcb := rcb, params := 0, qid := qid, m := m, tseg := fieldOf v 25 8, gran := fieldOf v 33 10,
      members := List.replicate m (64, 0), reserved := [], open_ := false, closed := false, det := 0, dep := 0, src := none, e4 := false,
      home := some pkg }
  let q := { q with members := q.members.set i c, masks := fset q.masks (1024 * c.1 + c.2) (fieldOf v 59 4) }
  let s := { s.used1 with quads := (s.quads.filter fun x => decide (x.id ≠ q.id)) ++ [q] }
  if q.members.any fun x => decide (x.1 = 64) then s
  else
    let s := q.members.foldl (fun s x =>
      if x.1 = s.pkg then s.onCluster x.2 fun c => c.onTile q.tseg fun t =>
        if t.owner = some ⟨part, rcb⟩ then { t with st := 2 } else t
      else s) s
    let s := match quadCopy s pkg part rcb true with
      | some h => { s with quads := s.quads.filter fun x => decide (x.id ≠ h.id) }
      | none => s
    setQuad s { q with open_ := true }

/-- DET, DEP and whether the window has closed, as the home says. -/
def quadTold (s : State) (pkg part rcb v : Nat) : State :=
  match quadCopy s pkg part rcb false with
  | none => s
  | some q =>
    let q := { q with det := BitVec.ofNat 64 (fieldOf v 0 64), dep := BitVec.ofNat 64 (fieldOf v 64 64) }
    let gone := (List.range q.m).filter fun i => q.dep.getLsbD i
    let s := gone.foldl (fun s i => match q.members[i]? with
      | some (p, cl) => if p = s.pkg ∧ ((s.cluster cl).tile q.tseg).owner = some ⟨part, rcb⟩ then tileRelease s cl q.tseg else s
      | none => s) s
    if fieldOf v 128 1 = 1 then closeQuad (setQuad s q) q else setQuad s q

/-- A member on another package has detached or departed (17 R431, R434). -/
def quadLeft (s : State) (pkg part rcb v : Nat) : State :=
  let i := v % 64
  match s.quads.find? fun q => decide (q.part = part ∧ q.rcb = rcb) && q.home.isNone && q.open_ with
  | none => s
  | some q =>
    if (q.members[i]?).map (·.1) ≠ some pkg then s
    else if v / 64 % 2 = 1 then memberDepart s q i else memberDetach s q i

/-- Another package has reserved the member that it was asked for, and says which of its cores are present (17 R427). -/
def quadGranted (s : State) (pkg part rcb tag mask : Nat) : State :=
  { s with quads := s.quads.map fun q =>
      match q.next with
      | some i =>
        let m := q.members.getD i (0, 0)
        if q.part = part ∧ q.rcb = rcb ∧ q.home = none ∧ q.id % 2 ^ 13 = tag ∧ q.asked = true ∧ m.1 = pkg then
          { q with granted := true, masks := fset q.masks (1024 * m.1 + m.2) mask }
        else q
      | none => q }

/-- The home gives up what it has reserved here for an admission (17 R435, R437). -/
def quadReleased (s : State) (pkg part rcb : Nat) : State :=
  let s := { s with inbox := s.inbox.filter fun x => !(decide (x.pkg = pkg ∧ x.part = part) && (match x.what with
    | .quadAsk r .. => decide (r = rcb)
    | _ => false)) }
  match quadCopy s pkg part rcb true with
  | none => s
  | some q =>
    let s := q.reserved.foldl (fun s i => freeSegment s q i) s
    { s with quads := s.quads.filter fun x => decide (x.id ≠ q.id) }

/-- A package whose partition is to be swapped gives back what it has reserved for an admission that waits here (17 R437); it is asked for
again afterwards. -/
def quadGivenUp (s : State) (pkg part rcb : Nat) : State :=
  match s.quads.find? fun q => decide (q.part = part ∧ q.rcb = rcb) && q.home.isNone && !q.open_ && !q.closed with
  | none => s
  | some q =>
    let mine := fun i => decide ((q.members.getD i (0, 0)).1 = pkg)
    let asked := q.asked && !q.next.any mine && !q.reserved.any mine
    quadFlit (setQuad s { q with reserved := q.reserved.filter fun i => !mine i, asked := asked, granted := q.granted && asked }) q pkg 24 0

/-- A region of another package is over: what was told of its quadrille and its reel is forgotten. -/
def gangForgotten (s : State) (pkg part rcb : Nat) : State :=
  let mine := s.quads.filter fun q => decide (q.part = part ∧ q.rcb = rcb ∧ q.home = some pkg)
  let s := mine.foldl closeQuad s
  let gone := fun (r : Reel) => decide (r.part = part ∧ r.rcb = rcb ∧ r.home = some pkg)
  let s := (s.reels.filter gone).foldl forgetEnts s
  { s with quads := s.quads.filter (fun q => !mine.contains q), reels := s.reels.filter fun r => !gone r }

/-- A region of this package has ended on another one, where its last activation was: its quadrille and its reel end, and its trigger
fires. -/
def gangEnded (s : State) (part rcb : Nat) : State :=
  fireTrigger (dropReels (endQuads s part fun r => decide (r = rcb)) fun r => decide (r.part = part ∧ r.rcb = rcb)) ⟨part, rcb⟩

/-- A quadrille number that another package has taken, or freed. -/
def qidTold (s : State) (pkg part qid : Nat) (taken : Bool) : State :=
  let rest := s.qids.filter fun x => decide (x ≠ (part, pkg, qid))
  { s with qids := if taken then rest ++ [(part, pkg, qid)] else rest }

/-- The window base (R427). -/
def Quad.w (q : Quad) : Nat := if q.open_ then 0x0101000000000000 + q.qid * 2 ^ 26 else 0

/-- Table 17.3, read at the home of a quadrille; the member index is that of the core that reads. -/
def quadField (q : Quad) (k : Nat) : Word :=
  match k with
  | 0 => BitVec.ofNat 64 q.w
  | 2 => q.det
  | 3 => q.dep
  | _ => BitVec.ofNat 64 (q.m + q.gran * 2 ^ 16 + q.tseg * 2 ^ 32)

/-- Table 17.7, read at the home of a reel for an entrant; what its fields read as for none is free. -/
def reelField (s : State) (r : Reel) (e : Option Nat) (k : Nat) : Word :=
  let mine := fun (f : Nat → Word) => match e with
    | some e => f e
    | none => BitVec.ofNat 64 s.freeNat
  match k with
  | 0 => mine (BitVec.ofNat 64)
  | 1 => BitVec.ofNat 64 r.round
  | 2 => r.alive
  | 3 => r.fin
  | 4 => BitVec.ofNat 64 r.allowance
  | 5 => mine fun e => BitVec.ofNat 64 ((r.held.getD e []).length)
  | _ => mine fun e => r.scores.getD e 0

/-- Another package reads a field of a quadrille (34) or of a reel (47) here (17 R436, R453). One that is no more has no answer of its own:
the read fails with ACCESS. -/
def gangAsked (s : State) (pkg part tag rcb code v : Nat) : State :=
  let k := v % 256
  let value : Option Word :=
    if code = 34 then
      (s.quads.find? fun q => decide (q.part = part ∧ q.rcb = rcb ∧ q.home = none)).map fun q => quadField q k
    else
      (s.reels.find? fun r => decide (r.part = part ∧ r.rcb = rcb ∧ r.home = none)).map fun r =>
        reelField s r (if v / 256 < 64 then some (v / 256) else none) k
  sendFlit s.used (sliceEdge s (homeOf s rcb)) part (ctlFlit 3 pkg tag rcb part (8 + 256 * (match value with
    | some w => 1 + 2 * w.toNat
    | none => 2 * (cACCESS + 256 * rcb))))

/-! Reels of other packages (17 R440-R456) -/

/-- Replaces a reel. -/
def setReel (s : State) (r : Reel) : State := { s with reels := s.reels.map fun x => if x.id = r.id then r else x }

/-- The copy of a reel of another package. -/
def farReel (s : State) (pkg part rcb : Nat) : Option Reel :=
  s.reels.find? fun r => decide (r.part = part ∧ r.rcb = rcb ∧ r.home = some pkg)

/-- A reel whose home is here. -/
def ownReel (s : State) (part rcb : Nat) : Option Reel :=
  s.reels.find? fun r => decide (r.part = part ∧ r.rcb = rcb ∧ r.home = none)

/-- What the home of a reel says of one of its entrants (17 R440); with the first one this package has a copy of the reel. -/
def reelTold (s : State) (pkg part rcb v : Nat) : State :=
  let i := fieldOf v 0 6
  let e := fieldOf v 6 7
  let cl := fieldOf v 19 10
  let cores := ((List.range 4).filter (fieldOf v 29 4).testBit).map fun j => farCore s (fieldOf v 13 6) (4 * cl + j)
  let r : Reel := (farReel s pkg part rcb).getD
    { id := s.fresh, part := part, rcb := rcb, params := 0, e := e, sc := fieldOf v 33 2, geoff := 0, a0 := fieldOf v 35 47,
      cap := fieldOf v 82 64, qdb := 0, rto := 0, round := 0, alive := BitVec.ofNat 64 (2 ^ e - 1), fin := 0, scores := [],
      held := List.replicate e [], since := s.now, late := false, home := some pkg }
  let r := { r with held := r.held.set i cores }
  { s.used1 with reels := (s.reels.filter fun x => decide (x.id ≠ r.id)) ++ [r] }

/-- A package tells the home of a reel of its part: tiles of an entrant (44), messages from and to a package (48), then, in force with it, the
round and what has stopped (43). -/
def reelReported (s : State) (pkg part rcb code v : Nat) : State :=
  match ownReel s part rcb with
  | none => s
  | some r =>
    let p := (fget r.parts pkg).getD { round := 0, stopped := 0, e4 := 0, counts := [], tiles := [] }
    let p := match code with
      | 44 => { p with stopped := 0, tiles := fset p.tiles (v % 64) (v / 64) }
      | 48 => { p with stopped := 0, counts := fset p.counts (v % 64) (v / 64 % 2 ^ 64, v / 2 ^ 70) }
      | _ => { p with round := v % 256, stopped := BitVec.ofNat 64 (v / 256), e4 := BitVec.ofNat 64 (v / 2 ^ 72) }
    setReel s { r with parts := fset r.parts pkg p }

/-- A score of an entrant reaches the home (17 R444). -/
def setScore (s : State) (r : Reel) (e : Nat) (v : Word) : State :=
  paramWrite (setReel s { r with scores := r.scores.set e v }) r.part (r.params + 64 + 8 * e) v.toNat

/-- What the home of a reel tells the other packages: kind 0 of a new round, 1 of the close with a winner, 2 of a change within a round. -/
def reelNews (s : State) (r : Reel) (kind w : Nat) : State :=
  if r.home.isSome then s
  else (s.peersOf r.part).foldl (fun s p => gangFlit s r.part r.rcb p r.id 42
    (kind + 4 * ((if r.late then 1 else 0) + 2 * (r.round % 256 + 2 ^ 8 * (w + 2 ^ 6 * (r.alive.toNat + 2 ^ 64 * r.fin.toNat)))))) s

/-- An entrant is finished (17 R446). -/
def setFin (s : State) (r : Reel) (e : Nat) : State :=
  let r := { r with fin := r.fin ||| BitVec.ofNat 64 (2 ^ e) }
  reelNews (paramWrite (setReel s r) r.part (r.params + 48) r.fin.toNat) r 2 0

/-! ### Entrants that have stopped (17 R446, 18 R455) -/

/-- Whether an activation is at the barrier, or counts as there (R447). -/
def atBarrier (late : Bool) (a : Act) : Bool :=
  match a.park with
  | .round .. => true
  | .running | .queued => false
  | _ => late

/-- Activations of an entrant: core and activation, those in fibre slots and those that wait to restart included. -/
def entrantActs (s : State) (r : Reel) (e : Nat) : List (Nat × Act) :=
  (((allActs s).map fun x => (x.1, x.2.2)) ++ ((allFibres s).map fun x => (x.1, x.2.2)) ++ (s.restarts.map fun x => (x.1, x.2.1))).filter fun x =>
    decide (x.2.part = r.part) && (r.held.getD e []).contains x.1 && decide ((reelOf s x.2.part x.2.rp).map (·.id) = some r.id)

/-- Whether a message to a core is on its way, refused, or landed and not dispatched (R446). -/
def messageFor (s : State) (part core : Nat) : Bool :=
  s.msgs.any (fun m => decide (m.part = part ∧ m.core = core ∧ m.dest = none)) ||
  (s.core core).queue.any (fun q => match q.kind with
    | .msg .. => true
    | _ => false) ||
  s.flights.any fun f => decide (f.part = part) && (match f.op with
    | .msg h _ t => decide (msgTarget s part h.rcb t = (s.pkg, core))
    | _ => false)

/-- R446. -/
def stopped (s : State) (r : Reel) (e : Nat) : Bool :=
  (entrantActs s r e).all (fun x => atBarrier r.late x.2) && (r.held.getD e []).all fun c => !messageFor s r.part c

/-- Whether what every activation that has arrived at a reel's barrier drained is performed (18 R455). -/
def arrivalsDone (s : State) (r : Reel) : Bool :=
  (heldActs s ++ (allFibres s).map fun x => x.2.2).all fun a =>
    decide (a.part ≠ r.part) || !atBarrier r.late a || decide ((reelOf s a.part a.rp).map (·.id) ≠ some r.id) || !hasFlights s a.prog

/-- The alive entrants. -/
def Reel.live (r : Reel) : List Nat := (List.range r.e).filter fun e => r.alive.getLsbD e

/-! ### Killing, passing, releasing (17 R448-R452) -/

/-- R449. -/
def killEntrant (s : State) (r : Reel) (e : Nat) : State :=
  let cores := r.held.getD e []
  let mine := fun (c : Nat) (a : Act) =>
    decide (a.part = r.part) && cores.contains c && decide ((reelOf s a.part a.rp).map (·.id) = some r.id)
  let acts := (allActs s).filter fun x => mine x.1 x.2.2
  let fibs := (allFibres s).filter fun x => mine x.1 x.2.2
  let rst := s.restarts.filter fun x => mine x.1 x.2.1
  let msgs := (landedMsgs s r.part).filter fun x => cores.contains x.1 && inRegion s r.part x.2.2.2 r.rcb
  let minus := fun (s : State) (c : Nat) (a : Act) => pushFlight s c a.part a.prog a.rp none (.liveDec a.rp)
  let s := acts.foldl (fun s x => minus (endAct s x.1 x.2.1 true) x.1 x.2.2) s
  let s := fibs.foldl (fun s x => minus (endCps true x.2.2.id (clearFibre s x.1 x.2.1)) x.1 x.2.2) s
  let s := rst.foldl (fun s x => minus (dropWork (endCps true x.2.1.id s) x.1 x.2.1.id) x.1 x.2.1) { s with restarts := s.restarts.filter fun x => !rst.contains x }
  let s := msgs.foldl (fun s x => liveDecrement (dropLanded s x.1 x.2.1 x.2.2.1) r.part x.2.2.2) s
  if r.qdb = 0 then s
  else
    match s.quads.find? (fun q => decide (q.part = r.part ∧ q.rcb = r.qdb)) with
    | some q => memberDepart s q e
    | none => s

/-- Tiles that an entrant of a reel holds: cluster and number. -/
def entrantTiles (s : State) (r : Reel) (e : Nat) : List (Nat × Nat) :=
  s.clusters.flatMap fun (cl, c) =>
    (c.tiles.filter fun t => match t.2.owner with
      | some o => decide (o.part = r.part ∧ t.2.ent = some e ∧ (reelOf s o.part o.rcb).map (·.id) = some r.id)
      | none => false).map fun t => (cl, t.1)

/-- Passes the tiles of a loser to a survivor (R450). -/
def passTiles (s : State) (r : Reel) (l sv : Nat) : State :=
  (entrantTiles s r l).foldl (fun s (cl, t) =>
    tileSettle (s.onCluster cl fun c => c.onTile t fun x => { x with ent := some sv, st := 3 }) cl t) s

/-- Passes the cores. -/
def Reel.passCores (r : Reel) (l sv : Nat) : Reel :=
  { r with held := (r.held.set sv (r.held.getD sv [] ++ r.held.getD l [])).set l [] }

/-- Sets the allowance of an activation, in its snapshot and in its fibre slot too. -/
def setAllow (s : State) (a : Act) (v : Word) : State :=
  let s := s.onActAll a.id fun a => { a with allow := v, snap := { a.snap with allow := v } }
  (allFibres s).foldl (fun s x =>
    if x.2.2.id = a.id then s.onCore x.1 fun k => lsPoke k (fibreBase x.2.1 + 0x448) v.toNat else s) s

/-- Releases one activation from the barrier; one that kept its wait resumes it (R447). -/
def releaseAct (s : State) (r : Reel) (closing : Bool) (a : Act) : State :=
  match a.park with
  | .round (some d) done => wakeId s a.id fun a => deliver a d (if done && closing then 1 else BitVec.ofNat 64 r.round)
  | .round none _ => wakeId s a.id id
  | .waitAny sl dl _ d => if r.late then s.onActAll a.id fun a => { a with park := .waitAny sl dl true d } else s
  | .fabWait q dl _ d => if r.late then s.onActAll a.id fun a => { a with park := .fabWait q dl true d } else s
  | _ => s

/-- Releases the activations of an entrant with their new allowance; `old` is the reel as the round ended. -/
def releaseEntrant (s : State) (old r : Reel) (closing : Bool) (e : Nat) (v : Word) : State :=
  (entrantActs s old e).foldl (fun s x =>
    let s := setAllow s x.2 v
    if r.fin.getLsbD e && !closing then s else releaseAct s { r with late := old.late } closing x.2) s

/-- Releases what waits at the barrier of a reel and no entrant holds; the outcome of its `reel.done` is free. -/
def releaseOthers (s : State) (r : Reel) (closing : Bool) : State :=
  (allActs s).foldl (fun s (c, _, a) =>
    if a.part ≠ r.part ∨ (reelOf s a.part a.rp).map (·.id) ≠ some r.id ∨ (r.entrant c).isSome then s
    else
      match a.park with
      | .round (some d) true => if closing then wakeId s.used a.id fun a => deliver a d (BitVec.ofNat 64 s.freeNat) else s
      | .round (some d) false => wakeId s a.id fun a => deliver a d (BitVec.ofNat 64 r.round)
      | .round none _ => wakeId s a.id id
      | _ => s) s

/-! ### What the home of a reel tells this package -/

/-- Kills the part here of a loser, and passes what it holds here to a survivor. -/
def reelPassed (s : State) (pkg part rcb v : Nat) : State :=
  match farReel s pkg part rcb with
  | none => s
  | some r =>
    let l := v % 64
    let sv := v / 64 % 64
    let s := passTiles (killEntrant s r l) r l sv
    setReel s { r.passCores l sv with alive := r.alive &&& ~~~(BitVec.ofNat 64 (2 ^ l)) }

/-- A new round of a reel of another package starts here. -/
def farRound (s : State) (old r : Reel) : State :=
  releaseOthers (r.live.foldl (fun s e => releaseEntrant s old r false e (BitVec.ofNat 64 r.allowance)) (setReel s r)) r false

/-- A reel of another package closes here. -/
def farClose (s : State) (old : Reel) (w : Nat) : State :=
  let s := releaseOthers (releaseEntrant (forgetEnts s old) old old true w 0) old true
  { s with reels := s.reels.filter fun x => decide (x.id ≠ old.id) }

/-- What the home of a reel says of its state. -/
def reelNewsTold (s : State) (pkg part rcb v : Nat) : State :=
  match farReel s pkg part rcb with
  | none => s
  | some r =>
    let n := { r with late := decide (fieldOf v 2 1 = 1), round := fieldOf v 3 8, alive := BitVec.ofNat 64 (fieldOf v 17 64),
                      fin := BitVec.ofNat 64 (fieldOf v 81 64) }
    match v % 4 with
    | 0 => farRound s r n
    | 1 => farClose s { n with late := r.late } (fieldOf v 11 6)
    | _ => setReel s n

/-- A request about a quadrille or a reel of another package, or of this one (log 12). -/
def gangTold (s : State) (pkg part tag rcb code v : Nat) : State :=
  match code with
  | 21 => quadMember s pkg part rcb v
  | 22 => quadTold s pkg part rcb v
  | 23 => quadLeft s pkg part rcb v
  | 24 => quadReleased s pkg part rcb
  | 25 => gangForgotten s pkg part rcb
  | 26 => quadGivenUp s pkg part rcb
  | 27 => gangEnded s part rcb
  | 32 => qidTold s pkg part v true
  | 33 => qidTold s pkg part v false
  | 34 | 47 => gangAsked s pkg part tag rcb code v
  | 40 => reelTold s pkg part rcb v
  | 41 => reelPassed s pkg part rcb v
  | 42 => reelNewsTold s pkg part rcb v
  | 43 | 44 | 48 => reelReported s pkg part rcb code v
  | 45 => match ownReel s part rcb with
    | some r => setScore s r (v % 64) (BitVec.ofNat 64 (v / 64))
    | none => s
  | 46 => match ownReel s part rcb with
    | some r => setFin s r (v % 64)
    | none => s
  | _ => s

end Sys2Proof.Machine
end

