-- ==== Sys2Proof/Machine/Fabric.lean ====
section
/-! DEFINITION. The Whisk fabric (14): slots, links and lanes, flits sent and received, blocks of other packages, and the
`fab.` forms. Payload layouts of control flits are the model's (log 12). -/

namespace Sys2Proof.Machine

/-! ### The rotor schedule (R360-R362) -/

/-- Core cycles in a microsecond (Table 1.3). -/
def usCycles : Nat := 2100
/-- Core cycles of a guard, 0.2 µs. -/
def guardCycles : Nat := 420

/-- The peer of position p of n in slot t (R362). -/
def peerIn (n p t : Nat) : Nat := if p = n - 1 then t else if p = t then n - 1 else (2 * t + (n - 1) - p) % (n - 1)

/-- The peer of this package now. -/
def peerNow (s : State) : Nat := peerIn s.domain s.pkg s.slot

/-- The slot in which two positions meet. -/
def meetSlot (n p q : Nat) : Option Nat := (List.range (n - 1)).find? fun t => decide (peerIn n p t = q)

def slotEnd (s : State) : Nat := s.slotAt + s.slotLen * usCycles

/-- The cycles of a remote timeout: FTO rotations (Table 14.4). -/
def ftoCycles (s : State) : Nat := s.fto * (s.domain - 1) * s.slotLen * usCycles

/-- Whether a slot starts, or its guard ends, before another bundle issues. -/
def fabricDue (s : State) (now : Nat) : Bool :=
  s.booted && (decide (slotEnd s ≤ now) || (s.guard && decide (s.slotAt + guardCycles ≤ now)))

/-- R361: the next slot starts. A changed SLOT is taken up at a rotation boundary that every package of the domain has agreed on; whether
this one is it is free (R386). -/
def execFabricSlotStart (s : State) : Out :=
  .next (if s.now < slotEnd s then s
    else
      let last := decide (s.domain - 1 ≤ s.slot + 1)
      let change := last && decide (s.slotNext ≠ s.slotLen)
      let s := { (if change then s.used else s) with
        slotAt := slotEnd s
        slot := if last then 0 else s.slot + 1
        rot := if last then s.rot + 1 else s.rot
        slotLen := if change && s.freeBit then s.slotNext else s.slotLen
        guard := true
        links := fmapVals (fun _ l => { l with slotCtl := 0, slotAll := 0 }) s.links }
      if last then agreeSwaps s else s)

/-- R377: trains that a package has refused, or that found no tags, leave again in a slot with it. -/
def retryTrains (s : State) (pkg : Nat) : State :=
  let l := s.trains.filter fun t => decide (t.pkg = pkg ∧ t.tag = none)
  l.foldl pushTrain { s with trains := s.trains.filter fun t => !l.contains t }

/-- R361, R393: the guard ends, and waits for the current peer that are not forced return the slot. -/
def execGuardEnd (s : State) : Out :=
  .next (if !s.guard || decide (s.now < s.slotAt + guardCycles) then s
    else
      let q := peerNow s
      let s := retryTrains s q
      (allActs s).foldl (fun s (c, x, a) =>
        match a.park with
        | .fabWait p _ false d => if p = q then wakeAct s c x fun a => deliver a d (BitVec.ofNat 64 s.slot) else s
        | _ => s) { s with guard := false })

/-! ### Flits (R364, R365) -/

/-- The header of a flit as 48 bits (Table 14.2). -/
def flitHeader (f : Flit) : Nat :=
  (if f.bulk then 2 ^ 47 else 0) + f.typ.toNat * 2 ^ 44 + f.seq.toNat * 2 ^ 32 + f.ack.toNat * 2 ^ 20 + f.dst.toNat * 2 ^ 14 +
    f.tag.toNat

def crcBit (c : BitVec 16) (b : Bool) : BitVec 16 := (c <<< 1) ^^^ (if c.msb != b then 0x1021 else 0)

/-- The CRC-16 of bytes in order, bit 7 of each first (PRESUMED, log 12). -/
def crcBytes (c : BitVec 16) (l : List Byte) : BitVec 16 :=
  l.foldl (fun c b => (List.range 8).foldl (fun c i => crcBit c (b.getLsbD (7 - i))) c) c

/-- The CRC of a flit with a seed. -/
def flitCrc (seed : BitVec 16) (f : Flit) : BitVec 16 := crcBytes seed (leBytes 6 (flitHeader f) ++ leBytes 128 f.payload.toNat)

/-- The seed of a control flit that c control flits precede. -/
def ctlSeed (c : Nat) : BitVec 16 := 0xFFFF ^^^ BitVec.ofNat 16 (c % 4096)

/-! ### Links -/

def countUp (k : Link) (c n : Nat) : Link :=
  if h : c < 12 then { k with ctr := k.ctr.set c (k.ctr[c] + BitVec.ofNat 64 n) h } else k

/-- Lanes in service. -/
def lanesUp (k : Link) : Nat := (k.lanes.toList.filter (· == .up)).length

/-- The time of a flit in 80ths of a cycle (R366): 2.125 ns on 8 lanes, 8 / 7 of that on 7. -/
def flitTime (k : Link) : Nat := if lanesUp k = 8 then 357 else 408

/-- When a link's next flit starts, in 80ths of a cycle: as soon as the link is free. -/
def flitStart (s : State) (k : Link) : Nat := max k.busyTo (80 * s.now)

/-- Whether a link starts a flit now: in this cycle, and it ends before the slot does (R367). -/
def slotRoom (s : State) (k : Link) : Bool :=
  decide (k.busyTo < 80 * (s.now + 1) ∧ flitStart s k + flitTime k ≤ 80 * slotEnd s)

/-- The first flit of a queue that a link carries. -/
def headFor (s : State) (l dst : Nat) (q : FMap (List (Nat × Flit))) : Option (Nat × Flit) :=
  ((fget q dst).getD []).find? fun x => decide (streamLink s x.1 (linkEdge l) dst x.2.bulk = some l)

def unsend (q : FMap (List (Nat × Flit))) (dst : Nat) (x : Nat × Flit) : FMap (List (Nat × Flit)) :=
  fset q dst (((fget q dst).getD []).erase x)

/-- Takes a bulk flit out of its send queue, which has room again. -/
def unsendBulk (s : State) (e dst : Nat) (x : Nat × Flit) : State :=
  refill (s.onEdge e fun g => { g with bulkQ := unsend g.bulkQ dst x }) e dst

/-- Whether a line reply for position d may be relayed through the current peer (R373). -/
def relayOk (s : State) (part d : Nat) : Bool :=
  match meetSlot s.domain (peerNow s) d, meetSlot s.domain s.pkg d with
  | some m, some o => bitAt (s.partn part).fab 0 && decide (s.slot < m ∧ (o < s.slot ∨ m < o))
  | _, _ => false

/-- The first line reply that a link may send as a first-hop relay. -/
def relayHead (s : State) (l : Nat) : Option (Nat × Nat × Flit) :=
  let g := s.edge (linkEdge l)
  g.bulkQ.findSome? fun (d, _) =>
    if d = peerNow s then none
    else (headFor s l d g.bulkQ).bind fun x => if x.2.typ = 0 && relayOk s x.1 d then some (d, x.1, x.2) else none

/-- What a link keeps for a position. -/
def Link.conn (k : Link) (p : Nat) : Conn := (fget k.conns p).getD Conn.reset

def Link.onConn (k : Link) (p : Nat) (f : Conn → Conn) : Link := { k with conns := fset k.conns p (f (k.conn p)) }

/-- A control flit as its connection numbers it. -/
def ctlOut (c : Conn) (n : Nat) (f : Flit) : Flit :=
  let f := { f with ack := BitVec.ofNat 12 c.rxSeq }
  { f with crc := flitCrc (ctlSeed n) f }

/-- A control flit of a partition leaves for a position; 32 marks a flit of no partition. -/
def sendCtl (peer part : Nat) (f : Flit) (k : Link) : Link :=
  countUp ({ k with slotCtl := k.slotCtl + 1, slotAll := k.slotAll + 1 }.onConn peer fun c =>
    { c with txCtl := (c.txCtl + 1) % 4096,
             ctlSent := (c.ctlSent ++ [(part, ctlOut c c.txCtl f)]).drop (c.ctlSent.length + 1 - 4096) }) 0 1

/-- A bulk flit leaves; it stays in the replay window until it is acknowledged. -/
def sendBulk (peer part : Nat) (f : Flit) (k : Link) : Link :=
  countUp ({ k with slotAll := k.slotAll + 1 }.onConn peer fun c =>
    let f := { f with seq := BitVec.ofNat 12 c.txSeq, ack := BitVec.ofNat 12 c.rxSeq }
    { c with txSeq := (c.txSeq + 1) % 4096, replay := c.replay ++ [(part, { f with crc := flitCrc 0xFFFF f })] }) 0 1

/-- A flit is sent again. -/
def sendAgain (peer : Nat) (f : Flit) (rest : List (Nat × Flit)) (k : Link) : Link :=
  let k := countUp ({ k with slotAll := k.slotAll + 1, slotCtl := k.slotCtl + (if f.bulk then 0 else 1) }.onConn peer fun c =>
    { c with resend := rest }) 0 1
  if f.bulk then countUp k 2 1 else k

/-- A NAK leaves. -/
def sendNak (peer : Nat) (f : Flit) (rest : List Flit) (k : Link) : Link := (sendCtl peer 32 f k).onConn peer fun c => { c with naks := rest }

/-- The flit that a link sends next (R372), chosen when nothing has to be sent again. -/
def sendNext (s : State) (l peer : Nat) : State :=
  let e := linkEdge l
  let g := s.edge e
  let k := s.link l
  let c := k.conn peer
  let ctl := headFor s l peer g.ctlQ
  let idle := sendCtl peer 32 (ctlFlit 0 peer 0 0 0 0)
  let second := ((fget g.relayQ peer).getD []).head?
  let direct := headFor s l peer g.bulkQ
  let relay := relayHead s l
  let room := decide (c.replay.length < 2048)
  let bulkWaits := room && (second.isSome || direct.isSome || relay.isSome)
  let full := decide (0 < k.slotCtl ∧ k.slotAll ≤ 8 * k.slotCtl)
  match ctl, full && bulkWaits with
  | some x, false => (s.onEdge e fun g => { g with ctlQ := unsend g.ctlQ peer x }).onLink l (sendCtl peer x.1 x.2)
  | _, _ =>
    if !room then s.onLink l idle
    else
      match second with
      | some x => (s.onEdge e fun g => { g with relayQ := unsend g.relayQ peer x }).onLink l (sendBulk peer x.1 x.2)
      | none =>
        match direct, relay with
        | some x, none => (unsendBulk s e peer x).onLink l (sendBulk peer x.1 x.2)
        | some x, some (d, p, f) =>
          if k.direct < 7 then
            (unsendBulk s e peer x).onLink l fun k => { sendBulk peer x.1 x.2 k with direct := k.direct + 1 }
          else
            (unsendBulk s e d (p, f)).onLink l fun k =>
              { countUp (sendBulk peer p f k) 8 1 with direct := 0 }
        | none, some (d, p, f) =>
          (unsendBulk s e d (p, f)).onLink l fun k => countUp (sendBulk peer p f k) 8 1
        | none, none => s.onLink l idle

/-- Whether a link starts flits now: it is up to the current peer, and the slot has room. -/
def linkSends (s : State) (link : Nat) : Bool :=
  let k := s.link link
  linkUp_ s link && !k.training && !s.guard && slotRoom s k && (fget k.vers (peerNow s)).isSome

/-- One flit leaves a link: one to be sent again, the next of its streams, or an idle one. -/
def sendOne (s : State) (link : Nat) : State :=
  let peer := peerNow s
  let c := (s.link link).conn peer
  match c.naks, c.resend with
  | f :: r, _ => s.onLink link (sendNak peer f r)
  | [], x :: r => s.onLink link (sendAgain peer x.2 r)
  | [], [] => noteFull (sendNext s link peer) (linkEdge link)

/-- R372: a link that can start a flit sends one. -/
def execFlitBoundary (link : Nat) (s : State) : Out :=
  .next (if linkSends s link then
      sendOne (s.onLink link fun k => { k with busyTo := flitStart s k + flitTime k }) link
    else s)

/-! ### Retraining and lanes (R382-R385) -/

/-- Control flits of a connection that have not arrived when its link goes down, which its two ends tell each other as it is trained
again (log 64): those that were to be sent again, and as many of those sent as a free choice says. -/
def Conn.lost (c : Conn) (n : Nat) : List (Nat × Flit) :=
  let again := (c.resend.filter fun x => !x.2.bulk).length
  c.ctlSent.drop (c.ctlSent.length - max again (n % (c.ctlSent.length + 1)))

/-- Bulk flits go back to the front of a queue; what it has no room for waits, in front of what waits already (R371). -/
def putBack (qmax d : Nat) (xs : List (Nat × Flit)) (g : Edge) : Edge :=
  let q := xs ++ (fget g.bulkQ d).getD []
  let n := if qmax < 40 then 2 ^ qmax / 136 else q.length
  let h := q.drop n ++ (fget g.held d).getD []
  { g with bulkQ := fset g.bulkQ d (q.take n), held := if h.isEmpty then g.held else fset g.held d h }

/-- Flits of a link that retires go back to the front of their queues (R382): control flits that have not arrived, bulk flits that are
not acknowledged. -/
def requeue (s : State) (l p : Nat) : State :=
  let c := (s.link l).conn p
  let n := s.freeNat
  let to_ := fun (xs : List (Nat × Flit)) (d : Nat) => xs.filter fun x => decide (x.2.dst.toNat = d)
  let dsts := fun (xs : List (Nat × Flit)) => (xs.map (·.2.dst.toNat)).eraseDups
  let front := fun (xs q : FMap (List (Nat × Flit))) => xs.foldl (fun q x => if x.2.isEmpty then q else fset q x.1 (x.2 ++ (fget q x.1).getD [])) q
  let ctl := (c.lost n).filter fun x => decide (x.1 ≠ 32)
  let bulk := c.replay.filter fun x => decide (x.1 ≠ 32)
  let second := c.replay.filter fun x => decide (x.1 = 32)
  noteFull (s.used.onEdge (linkEdge l) fun g =>
    (dsts bulk).foldl (fun g d => putBack s.qmax d (to_ bulk d) g)
      { g with ctlQ := front [(p, ctl)] g.ctlQ, relayQ := front ((dsts second).map fun d => (d, to_ second d)) g.relayQ }) (linkEdge l)

/-- A link retires: its streams go on on the remaining links, with what is not acknowledged first (R382). -/
def retire (s : State) (l : Nat) : State :=
  let s := ((s.link l).conns.map (·.1)).foldl (fun s p => requeue s l p) s
  report (s.onLink l fun k => { k with retired := true, conns := [] }) (.ed (linkEdge l)) none 7 0 0 (BitVec.ofNat 64 l)

/-- A link retrains, or retires when its count would exceed 8 (R382). -/
def retrain (s : State) (l : Nat) : State :=
  let k := s.link l
  if k.retired || k.training then s
  else if 8 ≤ (k.ctr[5]).toNat then retire s l
  else s.onLink l fun k => { countUp (countUp k 4 1) 5 1 with training := true, decayAt := if k.ctr[5] = 0 then s.now else k.decayAt }

/-- R382. -/
def execLinkRetrain (link : Nat) (s : State) : Out := .next (if linkUp_ s link then retrain s link else s)

/-- A connection of a trained link: control counts start again (R365); control flits that have not arrived, then the bulk flits that
are not acknowledged, are sent first (R382). -/
def Conn.trained (n : Nat) (c : Conn) : Conn :=
  let ctl := (c.lost n).zipIdx.map fun (x, i) => (x.1, ctlOut c i x.2)
  { c with resend := ctl ++ c.replay, txCtl := ctl.length % 4096, rxCtl := 0, ctlSent := ctl, naks := [], fails := 0, gapTo := none,
           ctlNaked := false }

/-- R382: the link returns, and its unacknowledged flits are sent first. -/
def execLinkRetrainEnd (link : Nat) (s : State) : Out :=
  .next (if (s.link link).training then
      s.used.onLink link fun k => { k with training := false, conns := fmapVals (fun p c => c.trained (s.freeNat / (p + 1))) k.conns }
    else s)

/-- R382: the count loses 1 every 10 s. -/
def execLeakyBucketDecay (link : Nat) (s : State) : Out :=
  .next (s.onLink link fun k =>
    if k.ctr[5] ≠ 0 ∧ k.decayAt + 10 * 1000000 * usCycles ≤ s.now then
      { k with ctr := k.ctr.set 5 (k.ctr[5] - 1), decayAt := s.now }
    else k)

/-- R383: an error window of a lane ends with a count. -/
def execLaneErrorWindow (link lane errs : Nat) (s : State) : Out :=
  let k := s.link link
  .next (if h : lane < 8 then
      match k.lanes[lane] with
      | .up =>
        if errs * 10 ^ 8 ≤ s.berth * 2 ^ 27 then s
        else if lanesUp k < 8 then retrain s link
        else s.onLink link fun k => countUp { k with lanes := k.lanes.set lane .train } 6 1
      | .check =>
        if errs * 10 ^ 8 < s.berth * 2 ^ 23 then s.onLink link fun k => countUp { k with lanes := k.lanes.set lane .up } 7 1
        else s.onLink link fun k => { k with lanes := k.lanes.set lane .train }
      | .train => s
    else s)

/-- R383: a lane's retraining ends and its check window begins. -/
def execLaneRetrainEnd (link lane : Nat) (s : State) : Out :=
  .next (if h : lane < 8 then
      (match (s.link link).lanes[lane] with
       | .train => s.onLink link fun k => { k with lanes := k.lanes.set lane .check }
       | _ => s)
    else s)

/-- R385: a link comes up to the current peer, at the lower of the two offered versions. -/
def execLinkUp (link ver : Nat) (s : State) : Out :=
  .next (if link < 288 ∧ edPresent s (linkEdge link) ∧ 1 ≤ ver then
      s.onLink link fun k => { k with vers := fset k.vers (peerNow s) (min 1 ver) }
    else s)

/-- R382: Trivet restores a retired link. -/
def restoreLink (s : State) (l : Nat) : State := s.onLink l fun k => if k.retired then { k with retired := false, training := false } else k

/-- R382. -/
def execLinkRestore (link : Nat) (s : State) : Out := .next (restoreLink s link)

/-! ### Replay (R380, R381) -/

/-- Whether a flit that a NAK names is still to be sent again, so that the NAK says nothing of its replay. -/
def Conn.stillToSend (c : Conn) (bulk : Bool) (back : Nat) : Bool :=
  decide (back ≤ (c.resend.filter fun x => x.2.bulk == bulk).length) && decide (0 < back)

/-- A NAK names the first missing flit: what follows it is sent again; when the replay of one flit fails three times, the link
retrains. -/
def nakLink (s : State) (l : Nat) (bulk : Bool) (n : Nat) : State :=
  let p := peerNow s
  let c := (s.link l).conn p
  if bulk then
    let first := (c.txSeq + 4096 - c.replay.length % 4096) % 4096
    let again := c.replay.drop ((n + 4096 - first) % 4096)
    if c.stillToSend true again.length then s
    else
      let fails := if c.nakAt = n then c.fails + 1 else 0
      let s := s.onLink l fun k => k.onConn p fun c =>
        { c with resend := c.resend.filter (fun x => !x.2.bulk) ++ again, nakAt := n, fails := fails }
      if 3 ≤ fails then retrain s l else s
  else
    let back := (c.txCtl + 4096 - n % 4096) % 4096
    if c.stillToSend false back then s
    else
      s.onLink l fun k => countUp (k.onConn p fun c =>
        { c with resend := c.ctlSent.drop (c.ctlSent.length - back) ++ c.resend.filter (·.2.bulk) }) 3 1

/-- R380, R381. -/
def execNak (link : Nat) (bulk : Bool) (n : Nat) (s : State) : Out := .next (if linkUp_ s link then nakLink s link bulk n else s)

/-! ### Flits received (R364, R370, R373, R378, R379) -/

/-- Fields of a control payload (log 12). -/
def ctlVa (p : BitVec 1024) : Nat := p.toNat % 2 ^ 64
def ctlPart (p : BitVec 1024) : Nat := p.toNat / 2 ^ 64 % 32
def ctlCode (p : BitVec 1024) : Nat := p.toNat / 2 ^ 72 % 256
def ctlData (p : BitVec 1024) : Nat := p.toNat / 2 ^ 80

/-- A post header's payload (R379). -/
def postHeader (h : Word) (b : PostBlk) (src part blocks pkg tag : Nat) : Flit :=
  ctlFlit 1 pkg tag h.toNat part (4 + 256 * (b.slot + 2 ^ 16 * ((if b.bf16 then 1 else 0) + 2 * (b.gen.toNat +
    2 ^ 32 * (b.first + 2 ^ 32 * (b.count + 2 ^ 32 * (b.cw + 2 ^ 64 * (src + 2 ^ 12 * blocks))))))))

def postOf (d : Nat) : PostBlk × Nat × Nat :=
  ({ slot := d % 2 ^ 16, bf16 := decide (d / 2 ^ 16 % 2 = 1), gen := BitVec.ofNat 32 (d / 2 ^ 17), src := 0,
     first := fieldOf d 49 32, count := fieldOf d 81 32, cw := fieldOf d 113 64 }, fieldOf d 177 12, d / 2 ^ 189)

/-- Something arrived from another package. -/
def addInbox (s : State) (pkg part tag : Nat) (w : InWhat) : State :=
  { s.used1 with inbox := s.inbox ++ [{ id := s.fresh, pkg := pkg, part := part, tag := tag, what := w }] }

/-- A message that arrives from another package (R319, R378); the edge die drops one of a package that its partition is not joined with (20
R469), for the region that it names is not of this package's partition. -/
def inMessage (s : State) (link : Nat) (f : Flit) : State :=
  let b := leBytes 128 f.payload.toNat
  let w := fun i => ofLe ((b.drop (8 * i)).take 8)
  let h := { Hdr.ofWords (w 0) (w 1) with ver := 1 }
  let m : Msg := { id := s.fresh, hdr := h, pay := (List.range h.len).map (fun i => BitVec.ofNat 64 (w (2 + i))),
                   part := fieldOf (w 1) 12 5, core := f.tag.toNat % 4096, far := true, port := 4096 + linkEdge link,
                   sender := 4096 + linkEdge link,
                   act := none, st := .travelling }
  let s := countMsg s m.part (peerNow s) false
  if s.joined m.part (peerNow s) then { s.used1 with msgs := s.msgs ++ [m] }
  else report s (.ed (linkEdge link)) none 3 0 m.part (coreIdWord s.pkg m.core)

/-- Requests of a `clean` are over; the effect is complete when none of its requests is left. -/
def cleanDone (s : State) (isOver : CleanReq → Bool) : State :=
  let done := s.cleans.filter isOver
  let s := { s with cleans := s.cleans.filter fun c => !isOver c }
  done.foldl (fun s c => if cleanWaits s c.flight then s else s.dropFlight c.flight) s

/-! Blocks and their headers (R368, R379) -/

/-- The four lines of a block. -/
def blockLines (p : BitVec 1024) : List (BitVec 256) := (List.range 4).map fun i => p.extractLsb' (256 * i) 256

/-- A block of a write-back train is applied at its home (R368), where it is translated to this package's memory. -/
def applyBlock (s : State) (part va : Nat) (data : BitVec 1024) : Option State :=
  match xlateHw s part va .w with
  | .ok pte _ pa =>
    if (pteRemote s pte).isSome then none
    else some (((blockLines data).zipIdx).foldl (fun s (d, i) =>
      homeWrite s none part (va + 32 * i) (pa + 32 * i) none (lineBytes d)) s)
  | _ => none

/-- Bytes that the blocks of a read's values still lack. -/
def PotRdSt.lacks (st : PotRdSt) (bf16 : Bool) : Bool :=
  match st with
  | .arriving _ n _ _ _ _ _ d => decide (d.length < n * (if bf16 then 2 else 4))
  | _ => false

/-- A read of a pot of another package whose values have all arrived is answered (15 R408). -/
def potArrived (r : PotRd) : PotRd :=
  match r.st with
  | .arriving mask n gen sat short closed flags d =>
    if r.st.lacks r.bf16 then r
    else
      let b := if r.bf16 then 2 else 4
      { r with st := .answered mask ((List.range n).map fun i => BitVec.ofNat 32 (ofLe ((d.drop (b * i)).take b))) gen sat short closed flags }
  | _ => r

/-- A block of the values of a pot read. -/
def potBlock (s : State) (id : Nat) (b : List Byte) : State :=
  { s with potReads := s.potReads.map fun r =>
      if r.id = id then
        potArrived { r with st := match r.st with
          | .arriving m n g x y z w d => .arriving m n g x y z w (d ++ b)
          | st => st }
      else r }

/-- What a block of a package with a tag goes to: the values of a pot read where bit 13 of the tag is set, else a train, or a post, or the
rest of a discarded one. -/
def blockOwner (s : State) (pkg tag : Nat) : Option (Inbound ⊕ PotRd) :=
  if 2 ^ 13 ≤ tag then
    (s.potReads.find? fun r => r.far.isNone && decide (r.id % 2 ^ 13 = tag % 2 ^ 13 ∧ bitsNat r.handle 63 58 = pkg) && r.st.lacks r.bf16).map
      Sum.inr
  else
    (s.inbox.find? fun x => decide (x.pkg = pkg) && (match x.what with
      | .train _ n come _ => decide (come < n ∧ (x.tag + come) % 2 ^ 13 = tag)
      | .post _ _ _ n d _ => decide (d.length < 128 * n ∧ x.tag = tag)
      | .lost _ n => decide (0 < n ∧ x.tag = tag)
      | _ => false)).map Sum.inl

def State.dropInbox (s : State) (id : Nat) : State := { s with inbox := s.inbox.filter fun x => decide (x.id ≠ id) }

/-- Replaces what an arrival is. -/
def State.setInbox (s : State) (id : Nat) (w : InWhat) : State :=
  { s with inbox := s.inbox.map fun y => if y.id = id then { y with what := w } else y }

/-- A block of a train is applied; one that the home cannot accept yet is noted, and its sender, which the home answers after the last block,
keeps it (R377). -/
def inTrain (s : State) (x : Inbound) (va n come refused : Nat) (data : BitVec 1024) : State :=
  let b := va + 128 * come
  let (s, refused) := match (if s.joined x.part x.pkg then applyBlock s x.part b data else none) with
    | some s => (s, refused)
    | none => (addInbox s x.pkg x.part x.tag (.owed b), refused + 2 ^ come)
  if n ≤ come + 1 then
    sendFlit (s.dropInbox x.id) (sliceEdge s (homeOf s va)) x.part (ctlFlit 3 x.pkg x.tag va x.part (14 + 256 * refused))
  else s.setInbox x.id (.train va n (come + 1) refused)

/-- The home has answered a train: blocks that it could not accept are kept, and leave again (R377). -/
def trainAnswered (s : State) (pkg tag refused : Nat) : State :=
  match s.trains.find? fun t => decide (t.pkg = pkg) && (match t.tag with
      | some g => decide (g % 2 ^ 13 = tag)
      | none => false) with
  | none => s
  | some t =>
    let kept := (t.blocks.zipIdx).filterMap fun (b, i) =>
      if refused.testBit i then some { t with id := s.fresh + i, va := t.va + 128 * i, blocks := [b], tag := none } else none
    { s with fresh := s.fresh + t.blocks.length, trains := (s.trains.filter fun y => decide (y.id ≠ t.id)) ++ kept }

/-- The header of a train arrives: its blocks are not owed any more, but on their way. -/
def inHeader (s : State) (pkg part tag va n : Nat) : State :=
  let s := { s with inbox := s.inbox.filter fun x => !(decide (x.pkg = pkg ∧ x.part = part) && (match x.what with
    | .owed a => decide (blkOf va ≤ blkOf a ∧ blkOf a < blkOf va + n)
    | _ => false)) }
  addInbox s pkg part tag (.train va n 0 0)

/-- What is left of a discarded post: its completion object to be written, its blocks to be taken away. -/
def State.setLost (s : State) (id : Nat) (obj : Option (Word × PostBlk × Nat)) (blocks : Nat) : State :=
  if obj.isNone && blocks == 0 then s.dropInbox id else s.setInbox id (.lost obj blocks)

/-- R379: a post of another package whose blocks have not all arrived within FTO of its header is discarded. -/
def losePost (s : State) (x : Inbound) (h : Word) (b : PostBlk) (src blocks : Nat) : State :=
  s.setLost x.id (if b.cw = 0 then none else some (h, b, src)) blocks

/-- A block goes to the train, post or read whose tag it carries; one that comes before its header is kept. -/
def inBlock (s : State) (pkg tag : Nat) (data : BitVec 1024) : State :=
  match blockOwner s pkg tag with
  | none => addInbox s pkg 0 tag (.early data)
  | some (.inr r) => potBlock s r.id (leBytes 128 data.toNat)
  | some (.inl x) =>
    match x.what with
    | .train va n come refused => inTrain s x va n come refused data
    | .post h b src n d t =>
      if t + ftoCycles s ≤ s.now then losePost s x h b src (n - d.length / 128 - 1)
      else s.setInbox x.id (.post h b src n (d ++ leBytes 128 data.toNat) t)
    | .lost o n => s.setLost x.id o (n - 1)
    | _ => s

/-- Blocks that came before a header are given to it, oldest first. -/
def feedEarly (s : State) (pkg : Nat) : State :=
  (s.inbox.filter fun x => decide (x.pkg = pkg)).foldl (fun s x =>
    match x.what with
    | .early data => inBlock (s.dropInbox x.id) pkg x.tag data
    | _ => s) s

/-! Answers to pot requests (15 R408, R412) -/

/-- A drained effect on a window that its port refuses fails its bundle late (R428, Table 17.4); it is dropped where its activation is
gone. -/
def windowLate (s : State) (f : Flight) (e : Nat × Word) (va n : Nat) : State :=
  match f.src with
  | some (act, seq, pc) =>
    match s.cores.find? (fun c => c.2.acts.any fun x => decide (x.2.id = act)) with
    | some (c, _) =>
      let x : Access := { id := s.fresh, act := act, seq := seq, pc := pc, kind := .probe false none, va := va, size := n, acq := false,
                          rel := false, hint := 2, e4 := false, dual := false, st := .failed e.1 e.2 0, before := none, prog := f.act }
      (s.used1.dropFlight f.id).onCore c fun k => { k with accs := x :: k.accs }
    | none => dropDrained s f e.1 va
  | none => dropDrained s f e.1 va

/-- The values and the dword of a pot read, as its home answers it. -/
def potReplied (d : Nat) (r : PotRd) : PotRd :=
  let bit := fun i => decide (fieldOf d i 1 = 1)
  let word := fun i => BitVec.ofNat 64 (fieldOf d i 64)
  potArrived { r with st := .arriving (word 0) (fieldOf d 163 15) (BitVec.ofNat 32 (fieldOf d 64 32)) (bit 96) (bit 97) (bit 98) (word 99) [] }

/-- Whether a read has been asked of a package with a tag. -/
def PotRd.askedOf (r : PotRd) (pkg tag : Nat) : Bool :=
  r.far.isNone && decide (r.id % 2 ^ 13 = tag ∧ bitsNat r.handle 63 58 = pkg) && (match r.st with
    | .asked _ => true
    | _ => false)

/-- The answer to a read reaches this package. -/
def potReply (s : State) (pkg tag d : Nat) : State :=
  feedEarly { s with potReads := s.potReads.map fun r => if r.askedOf pkg tag then potReplied d r else r } pkg

/-- Since when an access has been asked of another package. -/
def Access.askedAt (x : Access) : Option Nat :=
  match x.st with
  | .asked t => some t
  | _ => none

/-- The `pot.stat` that an answer is for: its core, itself, its handle and register. -/
def statAsked (s : State) (pkg tag : Nat) : Option (Nat × Access × Word × SReg) :=
  s.cores.findSome? fun (c, k) => k.accs.findSome? fun x =>
    match x.kind with
    | .potStat h _ d => if x.askedAt.isSome ∧ x.id % 2 ^ 13 = tag ∧ bitsNat h 63 58 = pkg then some (c, x, h, d) else none
    | _ => none

/-- A `pot.stat` lands. -/
def landStat (s : State) (core : Nat) (x : Access) (d : SReg) (v : Word) : State :=
  (s.onActId core x.act fun a => landReg a (.s d) (v.setWidth 128)).dropAcc core x.id

/-- A read or a `pot.stat` that the home refuses: the handle is stale, or the elements do not lie in the pot (15 R408). -/
def potRefused (s : State) (pkg tag : Nat) : State :=
  match s.potReads.find? fun r => r.askedOf pkg tag with
  | some r => State.failOf { s with potReads := s.potReads.filter fun x => decide (x.id ≠ r.id) } r.part r.core r.id cACCESS r.handle
  | none =>
    match statAsked s pkg tag with
    | some (c, x, h, _) => s.failAcc c x.id cACCESS h 0
    | none => s

/-- The package that a post goes to. -/
def Flight.potPkg (f : Flight) : Nat :=
  match f.op with
  | .post h .. => bitsNat h 63 58
  | _ => 64

/-- LEAVE.REFUSE counts refusals (20 Table 20.3). -/
def addRefuses (k : Core) (n : Nat) : Core :=
  { k with leaveW := (k.leaveW &&& 0xFFFFFFFF0000FFFF) ||| BitVec.ofNat 64 (min 65535 (bitsNat k.leaveW 31 16 + n) * 2 ^ 16) }

/-- A post of a core here is over at its home: its wait for leave and its refusals count (15 R420, 20 R466). -/
def postOver (s : State) (pkg tag v : Nat) : State :=
  let mine := fun (x : Nat × Flight × Nat) => decide (x.1 % 2 ^ 13 = tag ∧ x.2.1.potPkg = pkg)
  let s := (s.posts.filter mine).foldl (fun s x =>
    s.onCoreOf x.2.1.part x.2.1.core fun k => addRefuses (addWait k (v % 2 ^ 64)) (v / 2 ^ 64)) s
  { s with posts := s.posts.filter fun x => !mine x }

/-! Answers of ports of other packages (17 R428, R429) -/

/-- A piece of a load from a port of another package has come; with the last one the load lands. -/
def pieceCame (s : State) (core : Nat) (x : Access) (i va : Nat) (b : List Byte) : State :=
  match x.st, x.kind with
  | .pending, .load _ dst _ =>
    let s := s.gotPiece core x.id i (seenPiece s core x .global va b)
    match (s.core core).accs.find? (fun y => decide (y.id = x.id)) with
    | some x => if x.todo.isEmpty then landLoad s core x dst (gotBytes x (loadPieces x).length) else s
    | none => s
  | _, _ => s

/-- A port of another package has performed what it was asked for. -/
def askDone (s : State) (a : WinAsk) (v : Nat) : State :=
  match a.who with
  | .piece id i => match s.access id with
    | some (c, x) => pieceCame s c x i a.va (leBytes a.size v)
    | none => s
  | .atom id => match s.access id with
    | some (c, x) => if x.st = .pending then s.setAcc c id (.performed (wordOfLe (leBytes a.size v))) else s
    | none => s
  | .stat id => match s.access id with
    | some (c, x) => match x.kind with
      | .gangStat _ _ _ _ d => landStat s c x d (BitVec.ofNat 64 v)
      | _ => s
    | none => s
  | .flight id => s.dropFlight id
  | .engRead _ => { s with asks := s.asks ++ [{ a with got := some (leBytes a.size v) }] }
  | .engWrite .. => s

/-- A port of another package refuses what it was asked for: it fails late (17 R428), or its command fails (08 R253), or the write of a
completion object is dropped and reported (08 R262). -/
def askFailed (s : State) (a : WinAsk) (cause : Nat) (tval : Word) : State :=
  let fail := fun (id : Nat) => match s.access id with
    | some (c, x) => if x.st = .pending then s.failAcc c id cause (if cause = cACCESS then BitVec.ofNat 64 x.va else tval) 0 else s
    | none => s
  match a.who with
  | .piece id _ => fail id
  | .atom id => fail id
  | .stat id => fail id
  | .flight id => match s.flight id with
    | some f => windowLate s f (cause, tval) a.va a.size
    | none => s
  | .engRead _ => { s with asks := s.asks ++ [{ a with bad := some cause }] }
  | .engWrite core cp =>
    if cp < 512 then s.onCoreOf a.part core fun k =>
      { k with cps := fmapVals (fun i e => if i = cp ∧ e.st = .running ∧ e.fault = none then { e with fault := some (cause, a.va) } else e) k.cps }
    else report s (.cd (dieOf core)) (some core) 5 cause a.part (BitVec.ofNat 64 a.va)

/-- The answer to a request to a port of another package: bit 0 says that it was performed; else the cause and TVAL follow (log 12). -/
def askAnswered (s : State) (pkg tag v : Nat) : State :=
  match s.asks.find? fun a => decide (a.id % 2 ^ 13 = tag ∧ a.pkg = pkg) && a.got.isNone && a.bad.isNone with
  | none => s
  | some a =>
    let s := { s with asks := s.asks.filter fun b => decide (b.id ≠ a.id) }
    if v % 2 = 1 then askDone s a (v / 2) else askFailed s a (v / 2 % 256) (BitVec.ofNat 64 (v / 2 ^ 9))

/-- A response without data (R368). -/
def inResponse (s : State) (pkg part tag va code v : Nat) : State :=
  match code with
  | 0 => s.onSlice (homeOf s va) fun g =>
      { g with peers := g.peers.filter fun p => decide (¬(p.part = part ∧ p.blk = blkOf va ∧ p.pkg = pkg)) }
  | 1 => postOver s pkg tag v
  | 2 => cleanDone s fun c => decide (c.pkg = pkg ∧ c.id % 2 ^ 13 = tag)
  | 4 => potReply s pkg tag v
  | 6 =>
    match statAsked s pkg tag with
    | some (c, x, _, d) => landStat s c x d (BitVec.ofNat 64 v)
    | none => s
  | 7 => potRefused s pkg tag
  | 8 => askAnswered s pkg tag v
  | 9 => quadGranted s pkg part va tag v
  | 14 => trainAnswered s pkg tag v
  | _ => s

/-- A request: for a block, a window, a pot, a `clean`, or about a quadrille or reel. One of a package that its partition is not joined with
has no effect here (20 R469); blocks of a post are taken away. -/
def inRequest (s : State) (pkg part tag va code v : Nat) : State :=
  let h := BitVec.ofNat 64 va
  if !s.joined part pkg then
    (if code = 4 then feedEarly (addInbox s pkg part tag (.lost none (postOf v).2.2)) pkg else s)
  else match code with
  | 0 => addInbox s pkg part tag (.request false va)
  | 1 => addInbox s pkg part tag (.request true va)
  | 2 | 3 | 11 => addInbox s pkg part tag (.window code va v)
  | 4 =>
    let (b, src, blocks) := postOf v
    feedEarly (addInbox s pkg part tag (.post h b src blocks [] s.now)) pkg
  | 5 => addInbox s pkg part tag (.potOp h (.potClose h))
  | 7 => addInbox s pkg part tag (.potOp h (.potReset h (BitVec.ofNat 32 v)))
  | 8 => addInbox s pkg part tag (.potOp h (.potSeal h))
  | 9 => addInbox s pkg part tag (.potOp h (.potExp h (BitVec.ofNat 64 v)))
  | 12 => addInbox s pkg part tag (.clean va v)
  | 6 | 10 | 13 => addInbox s pkg part tag (.potAsk code h v)
  | 20 => addInbox s pkg part tag (.quadAsk va (fieldOf v 0 10) (fieldOf v 10 8) (fieldOf v 18 10))
  | _ => gangTold s pkg part tag va code v

/-- An intact control flit is delivered. -/
def inControl (s : State) (link pkg : Nat) (f : Flit) : State :=
  let va := ctlVa f.payload
  let part := ctlPart f.payload
  let code := ctlCode f.payload
  let tag := f.tag.toNat
  match f.typ.toNat with
  | 1 => inRequest s pkg part tag va code (ctlData f.payload)
  | 2 => addInbox s pkg part tag (.invalidate va)
  | 3 => inResponse s pkg part tag va code (ctlData f.payload)
  | 4 => inMessage s link f
  | 5 => nakLink s link (decide (code = 1)) va
  | 6 => feedEarly (inHeader s pkg part tag va code) pkg
  | _ => s

/-- An intact bulk flit is delivered, or kept for its second hop (R373). -/
def inBulk (s : State) (link pkg : Nat) (f : Flit) : State :=
  if f.dst.toNat ≠ s.pkg then
    (s.onEdge (linkEdge link) fun g =>
      { g with relayQ := fset g.relayQ f.dst.toNat ((fget g.relayQ f.dst.toNat).getD [] ++ [(32, f)]) }).onLink link fun k => countUp k 9 1
  else if f.typ = 0 then
    addInbox s pkg 0 (f.tag.toNat % 2 ^ 13) (.reply (blockLines f.payload) (f.tag.getLsbD 13) (f.tag.toNat % 2 ^ 13))
  else inBlock s pkg f.tag.toNat f.payload

/-- Flits that the other side has acknowledged leave the replay window; the replay of one of them has not failed. -/
def takeAck (c : Conn) (ack : Nat) : Conn :=
  let first := (c.txSeq + 4096 - c.replay.length % 4096) % 4096
  let n := (ack + 4096 - first) % 4096
  if c.replay.length < n then c
  else
    let c := { c with replay := c.replay.drop n }
    if (c.nakAt + 4096 - first) % 4096 < n then { c with nakAt := 4096, fails := 0 } else c

/-- What becomes of a bulk flit: it is the next one, or one that has arrived before, or it shows an error or a gap that is to be
reported, or one that has been. -/
inductive BulkIn where
  | next | again | gap | waits
deriving DecidableEq, Repr

/-- R380: a CRC error, or a gap in SEQ, is reported once; flits that were already on their way follow it, and a flit that does not
show that the replay has failed too. -/
def bulkIn (c : Conn) (fl : Flit) : BulkIn :=
  let seq := fl.seq.toNat
  let ahead := fun (a b : Nat) => decide (0 < (a + 4096 - b) % 4096 ∧ (a + 4096 - b) % 4096 ≤ 2048)
  if fl.crc ≠ flitCrc 0xFFFF { fl with crc := 0 } then .gap
  else if seq = c.rxSeq then .next
  else if ahead c.rxSeq seq then .again
  else
    match c.gapTo with
    | some m => if ahead seq m then .waits else .gap
    | none => .gap

/-- A bulk flit arrives at a link; every intact one counts (Table 14.5). -/
def receiveBulk (s : State) (link pkg : Nat) (fl : Flit) : State :=
  let whole := decide (fl.crc = flitCrc 0xFFFF { fl with crc := 0 })
  let on := fun (f : Conn → Conn) => s.onLink link fun k => if whole then countUp (k.onConn pkg fun c => takeAck (f c) fl.ack.toNat) 1 1
    else k.onConn pkg f
  match bulkIn ((s.link link).conn pkg) fl with
  | .next =>
    inBulk (s.onLink link fun k => countUp (k.onConn pkg fun c =>
      takeAck { c with rxSeq := (c.rxSeq + 1) % 4096, gapTo := none } fl.ack.toNat) 1 1) link pkg fl
  | .again => on id
  | .gap => on fun c =>
      { c with gapTo := some (if whole then fl.seq.toNat else c.rxSeq)
               naks := c.naks ++ [ctlFlit 5 pkg 0 c.rxSeq 0 1] }
  | .waits => on fun c => { c with gapTo := some fl.seq.toNat }

/-- A control flit arrives at a link. From a failed one on every control flit is discarded (R381); whether another that fails is the
one that was sent again is free. -/
def receiveCtl (s : State) (link pkg : Nat) (fl : Flit) : State :=
  let c := (s.link link).conn pkg
  if fl.crc = flitCrc (ctlSeed c.rxCtl) { fl with crc := 0 } then
    inControl (s.onLink link fun k => countUp (k.onConn pkg fun c =>
      takeAck { c with rxCtl := (c.rxCtl + 1) % 4096, ctlNaked := false } fl.ack.toNat) 1 1) link pkg fl
  else if c.ctlNaked && !s.freeBit then s.used
  else
    (if c.ctlNaked then s.used else s).onLink link fun k => k.onConn pkg fun c =>
      { c with naks := c.naks ++ [ctlFlit 5 pkg 0 c.rxCtl 0 0], ctlNaked := true }

/-- R364: a flit arrives, its CRC and place in order are checked, and it is delivered or asked for again. -/
def execFlitReceive (link : Nat) (fl : Flit) (s : State) : Out :=
  .next (if !linkUp_ s link || (s.link link).training then s
    else if fl.bulk then receiveBulk s link (peerNow s) fl
    else receiveCtl s link (peerNow s) fl)

/-! ### Blocks of other packages (R375-R377) -/

def State.inbound (s : State) (id : Nat) : Option Inbound := s.inbox.find? fun x => decide (x.id = id)

/-- One line of a block that arrived at its proxy. -/
def putRemoteLine (s : State) (h part va pkg : Nat) (d : BitVec 256) : State :=
  match lineFind (s.slice h) part va with
  | some (w, l) => s.onSlice h fun g => linePut g va w { l with data := d, dirty := false }
  | none =>
    lineFill s h { part := part, tag := va / 32, pa := va, rm := some pkg, data := d, dirty := false, rrpv := 2, sharers := [],
                   owner := none }

/-- R375: a line reply reaches the proxy that asked: the block enters S, E or M. -/
def execProxyLineReply (id : Nat) (s : State) : Out :=
  .next (match s.inbound id with
    | some x =>
      match x.what with
      | .reply data e tag =>
        let s := s.dropInbox id
        match s.rreqs.find? (fun r => decide (r.id % 2 ^ 13 = tag ∧ r.pkg = x.pkg)) with
        | none => s
        | some r =>
          let b := blkOf r.va * 128
          let s := { s with rreqs := s.rreqs.filter fun q => decide (q.id ≠ r.id) }
          let s := (data.zipIdx).foldl (fun s (d, i) => putRemoteLine s r.slice r.part (b + 32 * i) r.pkg d) s
          s.onSlice r.slice fun g => setProxy g r.part r.va r.pkg (if r.excl then .m else if e then .e else .s)
      | _ => s
    | none => s)

/-- Where a window request of another package is performed: a scratchpad, a local store, or a shadow bank. -/
inductive WinPlace where
  | spad (cl off : Nat)
  | ls (core off : Nat)
  | shadow (core off : Nat)
deriving DecidableEq, Repr

def WinPlace.read (s : State) (n : Nat) : WinPlace → List Byte
  | .spad cl off => mread (s.cluster cl).spad off n
  | .ls c off => mread (s.core c).ls off n
  | .shadow c off => mread (s.core c).shadow off n

def WinPlace.write (s : State) (b : List Byte) : WinPlace → State
  | .spad cl off => spadStore s cl off b
  | .ls c off => lsStore s c off b
  | .shadow c off => s.onCore c fun k => { k with shadow := mwrite k.shadow off b }

/-- The place of n bytes of a window for a joined partition; or the cause and TVAL with which the request fails (07 R202, 17 R428). A core
whose partition is swapped out serves it at the shadow bank that holds the partition (20 R475). -/
def winPlace (s : State) (part va n : Nat) : Except (Nat × Nat) WinPlace :=
  let bad : Except (Nat × Nat) WinPlace := .error (cACCESS, va)
  match vaKind va with
  | .window c off =>
    if 0x1C000 < off + n ∨ !corePresent s c then bad
    else if (s.core c).part = some part then .ok (.ls c off)
    else if (s.partn part).st = 1 ∧ (s.core c).shadowOf = some part then .ok (.shadow c off)
    else bad
  | _ =>
    let a := va % 2 ^ 26
    match s.quads.find? (fun q => decide (q.part = part ∧ q.qid = va / 2 ^ 26 % 4096) && q.open_) with
    | none => bad
    | some q =>
      let i := a / q.segBytes
      match q.members[i]? with
      | none => bad
      | some (pkg, cl) =>
        if q.segBytes < a % q.segBytes + n then bad
        else if q.dep.getLsbD i then .error (cDEPARTED, i)
        else if pkg ≠ s.pkg then bad
        else .ok (.spad cl (((s.cluster cl).tile q.tseg).base * 2048 + a % q.segBytes))

/-- A window request of another package is served at its port (17 R429): 2 reads n bytes, 3 writes them, 11 is an atomic. The answer says what
was read, or why the port refuses. -/
def serveWindow (s : State) (x : Inbound) (code va data : Nat) : State :=
  let ty := atomTys.getD (data / 8 % 8) .n64
  let n := if code = 11 then ty.size else data % 256
  let answer := fun (s : State) (port v : Nat) => sendFlit s (servingEdge s port) x.part (ctlFlit 3 x.pkg x.tag va x.part (8 + 256 * v))
  match winPlace s x.part va n with
  | .error (c, t) => answer s 0 (2 * (c + 256 * t))
  | .ok w =>
    let port := match w with
      | .spad cl _ => cl / 64
      | .ls c _ | .shadow c _ => dieOf c
    if code = 2 then answer s port (1 + 2 * ofLe (w.read s n))
    else if code = 3 then answer (w.write s (leBytes n (data / 256))) port 1
    else
      let old := wordOfLe (w.read s n)
      let new := atomApply (atomOps.getD (data % 8) .add) ty old (BitVec.ofNat 64 (data / 64)) (BitVec.ofNat 64 (data / 2 ^ 70))
      answer (w.write s (leBytes n new.toNat)) port (1 + 2 * old.toNat)

/-- Notes a member reserved here for an admission of another package (17 R427). -/
def noteHeld (s : State) (x : Inbound) (rcb cl tseg gran : Nat) : State :=
  match quadCopy s x.pkg x.part rcb true with
  | some q => setQuad s { q with members := q.members ++ [(s.pkg, cl)], reserved := List.range (q.m + 1), m := q.m + 1 }
  | none =>
    let q : Quad := { id := s.fresh, part := x.part, rcb := rcb, params := 0, qid := 4096, m := 1, tseg := tseg, gran := gran,
                      members := [(s.pkg, cl)], reserved := [0], open_ := false, closed := false, det := 0, dep := 0, src := none, e4 := false,
                      home := some x.pkg }
    { s.used1 with quads := s.quads ++ [q] }

/-- Another package's quadrille asks for a member here: the segment is reserved once it can be (17 R427), and not while the partition is to be
swapped (R437). -/
def quadReserve (s : State) (x : Inbound) (rcb cl tseg gran : Nat) : State :=
  let c := s.cluster cl
  let t := c.tile tseg
  if t.owner.isSome ∨ t.st = 3 ∨ 4 ≤ quadsOn s cl ∨ (s.partn x.part).st ≠ 2 ∨ s.swaps.any (fun w => decide (w.p = x.part)) = true ∨
      !memberOk s x.part (s.pkg, cl) then s
  else
    match freeRun c gran with
    | some b =>
      sendFlit (noteHeld (claimTile (s.dropInbox x.id) cl tseg b gran ⟨x.part, rcb⟩ none 0) x rcb cl tseg gran) (sliceEdge s (homeOf s rcb)) x.part
        (ctlFlit 3 x.pkg x.tag rcb x.part (9 + 256 * coreMask s cl))
    | none => s

/-- Whether a watch of a partition is armed in a block. -/
def watched (s : State) (h part va : Nat) : Bool :=
  (s.slice h).watches.any fun w => decide (w.part = part ∧ blkOf w.va = blkOf va)

/-- R376: the home serves another package's request for a block, once copies in its way are gone. A request whose translation
fails has no reply. A copy that may be written goes back at once where a word of the block is watched, so that the write fires its slot (10
R283; log 107). A `clean` is performed after the trains that came before it, and answered. A member of a quadrille is reserved (17 R427). -/
def execHomeRemoteRequest (id : Nat) (s : State) : Out :=
  .next (match s.inbound id with
    | some x =>
      match x.what with
      | .request excl va =>
        let b := blkOf va * 128
        let h := homeOf s b
        match xlateHw s x.part b (if excl then .w else .r) with
        | .ok pte _ pa =>
          if (pteRemote s pte).isSome then s.dropInbox id
          else
            let others := (s.slice h).peers.filter fun p => decide (p.part = x.part ∧ p.blk = blkOf va ∧ p.pkg ≠ x.pkg)
            let inWay := others.filter (fun p => excl || p.excl)
            let again := (s.slice h).peers.any fun p => decide (p.part = x.part ∧ p.blk = blkOf va ∧ p.pkg = x.pkg) && p.asked
            if again || trainComing s x.part b || bulkFull s (sliceEdge s h) x.pkg 1 then s
            else if !inWay.isEmpty then
              let new := inWay.filter fun p => !p.asked
              let s := new.foldl (fun s p => sendFlit s (sliceEdge s h) x.part (ctlFlit 2 p.pkg p.tag b x.part 0)) s
              s.onSlice h fun g => { g with peers := g.peers.map fun p => if new.contains p then { p with asked := true } else p }
            else
              let own := excl || others.isEmpty
              let (s, bytes) := (blkLines va).foldl (fun (s, acc) a =>
                let (s, d) := homeRead s x.part a (pa + (a - b)) none 32 2
                let s := if own then dropSharers s h x.part a none else s
                (s, acc ++ d)) (s.dropInbox id, [])
              let back := own && watched s h x.part va
              let mine : PeerCopy := { part := x.part, blk := blkOf va, pkg := x.pkg, excl := own, asked := back, tag := x.tag }
              let s := s.onSlice h fun g =>
                let rest := g.peers.filter (fun p => decide (¬(p.part = x.part ∧ p.blk = blkOf va ∧ p.pkg = x.pkg)))
                { g with peers := rest ++ [mine] }
              let s := sendFlit s (sliceEdge s h) x.part (bulkFlit 0 x.pkg (x.tag % 2 ^ 13 + (if own && !excl then 2 ^ 13 else 0))
                (BitVec.ofNat 1024 (ofLe bytes)))
              if back then sendFlit s (sliceEdge s h) x.part (ctlFlit 2 x.pkg x.tag b x.part 0) else s
        | _ => s.dropInbox id
      | .window code va data => serveWindow (s.dropInbox id) x code va data
      | .clean va n =>
        let before := s.inbox.takeWhile fun y => decide (y.id ≠ id)
        if before.any (fun y => decide (y.pkg = x.pkg) && (match y.what with
            | .train .. => true
            | .owed _ => true
            | _ => false)) then s
        else
          match cleanRecall s x.part va n with
          | some s => s
          | none =>
            let s := cleanRange (s.dropInbox id).used x.part va n s.freeBit none
            sendFlit s (sliceEdge s (homeOf s va)) x.part (ctlFlit 3 x.pkg x.tag va x.part 2)
      | .quadAsk rcb cl tseg gran => quadReserve s x rcb cl tseg gran
      | _ => s
    | none => s)

/-- R375: the home's invalidation reaches the proxy: an M block goes back as a train, then a response without data. Watches of words of
the block fire, since another package writes there (10 R283). One that overtakes the reply that it takes back waits for it. -/
def execHomeInvalidate (id : Nat) (s : State) : Out :=
  .next (match s.inbound id with
    | some x =>
      match x.what with
      | .invalidate va =>
        let h := homeOf s va
        if s.rreqs.any fun r => decide (r.part = x.part ∧ r.pkg = x.pkg ∧ blkOf r.va = blkOf va ∧ r.id % 2 ^ 13 = x.tag) then s
        else
          let t := markFired (s.slice h).watches x.part (blkOf va * 128) 128 (evictBlock (s.dropInbox id) h x.part va)
          sendFlit t (sliceEdge s h) x.part (ctlFlit 3 x.pkg x.tag (blkOf va * 128) x.part 0)
      | _ => s
    | none => s)

/-- Places of the bytes that a command has still to move, piece by piece: whether each is written, and its pieces in lines. -/
def CpEnt.ahead (e : CpEnt) (s : State) (core : Nat) : List (Bool × Nat × Nat) :=
  (List.range (e.total / max 1 e.rb * e.perRow)).flatMap fun j =>
    let c := 32 * (j % e.perRow)
    let n := min 32 (e.rb - c)
    let x := j / e.perRow * e.rb + c
    if !(e.left.any fun p => overlap p.1 (p.2 - p.1) x n) then []
    else
      let (t, r, c) := e.where_ x
      ((e.src s core r c n).pieces n).map (fun p => (false, p)) ++ ((e.dst s core t r c).pieces n).map fun p => (true, p)

/-- Addresses of a block that a command of the engine would wait for next, and whether its completion object is one of them. -/
def cpNeeds (s : State) (core : Nat) (e : CpEnt) (mine : Nat → Bool) : List Nat × Bool :=
  let waits := fun (w : Bool) (p : Nat × Nat) => mine p.1 && (engWait s core e.part e.rcb w p).isSome
  let of := fun (w : Bool) (ps : List (Nat × Nat)) => (ps.filter (waits w)).map (·.1)
  let entry := of true (piecesOf (e.d 2).toNat 4)
  let now : List Nat :=
    match e.st with
    | .queued => if e.form = .cow then [] else of false (piecesOf e.first.1 e.first.2)
    | .running =>
      if e.fault.isSome then []
      else if e.form = .cow ∧ e.group = [] then entry ++ of true (piecesOf (e.d 6).toNat 32)
      else if e.left.isEmpty then (if e.form = .cow then entry else [])
      else ((e.ahead s core).filter fun p => waits p.1 p.2).map (·.2.1)
    | _ => []
  (now, decide ((e.st = .queued ∨ e.st = .running) ∧ e.d 7 ≠ 0) && waits true ((e.d 7).toNat, 16))

/-- A command whose access had no reply (R377): it has faulted with ACCESS; a completion object is not written, and CWFAULT is
raised (08 R262). -/
def cpTimedOut (s : State) (core id : Nat) (mine : Nat → Bool) : State :=
  let e := s.cpEnt core id
  let (now, obj) := cpNeeds s core e mine
  let s := if obj then
      report (s.onCp core id fun e => { e with desc := e.desc.set 7 0 }) (.cd (dieOf core)) (some core) 5 cACCESS e.part (e.d 7)
    else s
  match now with
  | [] => s
  | va :: _ =>
    if e.st = .queued then (cpRunning (cpPop s core) core id [] false).onCp core id fun e => { e with fault := some (cACCESS, va) }
    else s.onCp core id fun e => { e with fault := some (cACCESS, va) }

/-- A post without its completion object. -/
def RbOp.noObj : RbOp → RbOp
  | .post h b d => .post h { b with cw := 0 } d
  | op => op

/-- A post that waits for the block of its completion object: one that is performed here, or, with `lost`, one that has had no answer. -/
def RbOp.objOf (lost : Bool) (pkg : Nat) (mine : Nat → Bool) : RbOp → Option (Word × Nat)
  | .post h b _ => if (lost || decide (bitsNat h 63 58 = pkg)) && decide (b.cw ≠ 0) && mine b.cw then some (h, b.cw) else none
  | _ => none

/-- Posts whose completion object's block had no reply: the write is dropped, with its event, and the post goes on (15 R405). -/
def objTimedOut (s : State) (part : Nat) (mine : Nat → Bool) : State :=
  let event := fun (s : State) (h : Word) (core : Option Nat) (cw : Nat) =>
    report s (.cd (potSlice h / 32)) core 5 cACCESS part (BitVec.ofNat 64 cw)
  let s := s.flights.foldl (fun s f =>
    match if f.part = part then f.op.objOf false s.pkg mine else none with
    | some (h, cw) => event { s with flights := s.flights.map fun g => if g.id = f.id then { g with op := g.op.noObj } else g } h
        (if f.sent.isSome then none else some f.core) cw
    | none => s) s
  let s := s.posts.foldl (fun s x =>
    match if x.2.1.part = part ∧ x.2.2 + ftoCycles s ≤ s.now then x.2.1.op.objOf true s.pkg mine else none with
    | some (h, cw) => event { s with posts := s.posts.map fun y => if y.1 = x.1 then (y.1, { y.2.1 with op := y.2.1.op.noObj }, y.2.2) else y } h
        (some x.2.1.core) cw
    | none => s) s
  s.inbox.foldl (fun s x =>
    match x.what with
    | .lost (some (h, b, _)) n => if x.part = part ∧ mine b.cw = true then event (s.setLost x.id none n) h none b.cw else s
    | _ => s) s

/-- What waits for a block of another package completes with ACCESS (R377): accesses, the fetch of a running activation, commands
of the engine. -/
def blockTimedOut (s : State) (part blk : Nat) : State :=
  let mine := fun (va : Nat) => decide (vaKind va = .translated ∧ blkOf va = blk)
  let s := s.cores.foldl (fun s (c, k) =>
    if k.part ≠ some part then s
    else
      let s := (k.accs.filter fun x => decide (x.st = .pending)).foldl (fun s x =>
        match ((if x.kind.toMemory then [x.va] else []) ++ (globalPieces x).map (·.1) ++ (ldwTodo k x).map (·.2.1)).find? mine with
        | some va => s.failAcc c x.id cACCESS (BitVec.ofNat 64 va) 0
        | none => s) s
      let s := match k.running with
        | some (_, a) => if mine a.pc then s.onCore c fun k => { k with ftoFetch := some (a.id, a.pc) } else s
        | none => s
      (k.cps.filter fun x => decide (x.2.st = .running ∨ (x.2.st = .queued ∧ k.cpq.head? = some x.1))).foldl
        (fun s x => cpTimedOut s c x.1 mine) s) s
  let s := objTimedOut s part mine
  { s with flights := s.flights.filter fun f => !(decide (f.part = part) && (match f.op.range with
      | some (a, _) => mine a
      | none => false)) }

/-- Blocks of a `clean` that is given up are in M again (R377). -/
def cleanTimedOut (s : State) (c : CleanReq) : State :=
  let s := c.blks.foldl (fun s b =>
    let h := homeOf s (b * 128)
    if proxyState (s.slice h) c.part (b * 128) = .e then s.onSlice h fun g => setProxy g c.part (b * 128) c.pkg .m else s) s
  cleanDone s fun x => decide (x.flight = c.flight ∧ x.va = c.va)

/-- When a read of a pot of another package is given up: FTO after its limit at the home could have passed, which a limit of all ones
never does (log 85). -/
def PotRd.deadline (s : State) (r : PotRd) : Option Nat :=
  match r.st with
  | .asked t => if r.limit = 0xFFFFFFFF then none else some (t + r.limit + ftoCycles s)
  | _ => none

/-- A pot read, or a `pot.stat`, that another package was asked for and has not answered completes with ACCESS (R377). -/
def potTimedOut (s : State) (id : Nat) : State :=
  match s.potReads.find? fun r => decide (r.id = id) && (match r.deadline s with
      | some t => decide (t ≤ s.now)
      | none => false) with
  | some r =>
    report (State.failOf { s with potReads := s.potReads.filter fun x => decide (x.id ≠ id) } r.part r.core id cACCESS r.handle) (.cd (dieOf r.core))
      none 4 cACCESS r.part r.handle
  | none =>
    match s.access id with
    | some (c, x) =>
      match x.kind, x.st with
      | .potStat h _ _, .asked t =>
        if t + ftoCycles s ≤ s.now then
          report (s.failAcc c id cACCESS h 0) (.cd (dieOf c)) none 4 cACCESS (((s.core c).part).getD 0) h
        else s
      | _, _ => s
    | none => s

/-- R377: a remote request has no reply after FTO: what waits for it completes with ACCESS, a `clean` completes, and an RTO event is
raised. -/
def execRemoteRequestTimeout (id : Nat) (s : State) : Out :=
  .next (match s.rreqs.find? (fun r => decide (r.id = id)) with
    | some r =>
      if s.now < r.since + ftoCycles s then s
      else
        let s := { s with rreqs := s.rreqs.filter fun q => decide (q.id ≠ id) }
        blockTimedOut (report s (.cd (r.slice / 32)) none 4 cACCESS r.part (BitVec.ofNat 64 r.va)) r.part (blkOf r.va)
    | none =>
      match s.cleans.find? (fun c => decide (c.id = id)) with
      | some c =>
        if s.now < c.since + ftoCycles s then s
        else report (cleanTimedOut s c) (.cd (homeOf s c.va / 32)) none 4 cACCESS c.part (BitVec.ofNat 64 c.va)
      | none =>
        match s.asks.find? (fun a => decide (a.id = id) && a.got.isNone && a.bad.isNone) with
        | some a =>
          if s.now < a.since + ftoCycles s then s
          else askFailed (report { s with asks := s.asks.filter fun b => decide (b.id ≠ id) } (.cd (dieOf a.core)) none 4 cACCESS a.part (BitVec.ofNat 64 a.va)) a
            cACCESS (BitVec.ofNat 64 a.va)
        | none => potTimedOut s id)

/-! ### Fabric instructions (R388-R393) -/

/-- Blocks of a prefetch that their proxies ask for (R389). -/
def prefetch (s : State) (va n : Nat) : State :=
  let blks := ((List.range (n / 128 + 2)).map fun i => (va / 128 + i) * 128).filter fun b =>
    decide (n ≠ 0 ∧ b < va + n ∧ vaKind b = .translated)
  blks.foldl (fun s b =>
    match xlateHw s s.mypart b .r with
    | .ok pte _ _ =>
      match pteRemote s pte with
      | some pkg => if proxyState (s.slice (homeOf s b)) s.mypart b = .i then askBlock s (homeOf s b) s.mypart b pkg false else s
      | none => s
    | _ => s) s

/-- R389: acts at issue and never faults. -/
def execFabPf (a b : SReg) (s : State) : Out :=
  guarded s none none (prefetch s (s.rs a).toNat (min (s.rs b).toNat 4096))

/-- Table 14.7. -/
def fabSlotWord (s : State) : Word :=
  BitVec.ofNat 64 (s.domain * 2 ^ 48 + s.rot % 2 ^ 24 * 2 ^ 24 + (if s.guard then 2 ^ 22 else 0) + s.slot % 64 * 2 ^ 16 +
    (s.now - s.slotAt) % 2 ^ 16)

/-- R390. -/
def execFabSlot (d : SReg) (s : State) : Out := guarded s none none (s.ws d (fabSlotWord s))

/-- Table 14.8. -/
def fabPeerWord (s : State) (q : Nat) : Word :=
  let vers := (List.range 288).filterMap fun l => if edPresent s (linkEdge l) then fget (s.link l).vers q else none
  let meet := if q = s.pkg ∨ s.domain ≤ q then 0x3F else (meetSlot s.domain s.pkg q).getD 0x3F
  let links := ((List.range 288).filter (linkUp_ s)).length
  BitVec.ofNat 64 (vers.headD 0 * 2 ^ 28 + links * 2 ^ 16 + (if vers.isEmpty then 0 else 256) + meet)

/-- R391. -/
def execFabPeer (d a : SReg) (s : State) : Out := guarded s none none (s.ws d (fabPeerWord s (bitsNat (s.rs a) 5 0)))

/-- A counter of a link (Table 14.5). -/
def linkCounter (k : Link) (now c : Nat) : Word :=
  if c = 11 then (if k.retired then 1 else 0) else if c = 10 then k.qfull now else k.ctr.toList.getD c 0

/-- R392. -/
def execFabCtr (d a : SReg) (s : State) : Out :=
  let v := s.rs a
  let l := bitsNat v 8 0
  let c := bitsNat v 15 12
  guarded s (if s.mode = 0 ∨ 288 ≤ l ∨ 12 ≤ c then some (issueTrapAt s cACCESS false v) else none) none
    (s.ws d (linkCounter (s.link l) s.now c))

/-- R393: the park comes after the overflow commit point, with its snapshot at the `fab.wait`. -/
def execFabWait (d a b : SReg) (s : State) : Out :=
  let q := bitsNat (s.rs a) 5 0
  let n := (s.rs b).toNat
  if q = s.pkg ∨ s.domain ≤ q then guarded s none none (s.ws d 0x41)
  else if peerNow s = q ∧ s.guard = false then guarded s none none (s.ws d (BitVec.ofNat 64 s.slot))
  else
    guarded s none (commitWait s s.cur)
      (parkMe ((commitHere s).pendReg (.s d)) (.fabWait q (if n = 0 then none else some (s.now + n)) false d))

/-- R393: the timeout of a `fab.wait` that is not forced has passed. -/
def execFabWaitTimeout (core ctx : Nat) (s : State) : Out :=
  .next (match ((fget (s.core core).acts ctx).map fun a => a.park : Option Park) with
    | some (.fabWait _ (some t) false d) => if t ≤ s.now then wakeAct s core ctx fun a => deliver a d 0x40 else s
    | _ => s)

end Sys2Proof.Machine
end

