-- ==== Sys2Proof/Machine/Pot.lean ====
section
/-! DEFINITION. Stockpots (15): the `pot.` forms at issue, and posts, state changes and reads at their home slice. Requests to a
pot of another package leave as control flits, and its answers come back as such; what it answers an open is free (log 12, log 40). -/

namespace Sys2Proof.Machine

/-! ### Blocks and checks at issue (Tables 15.4 to 15.7) -/

/-- The block offset of an operand, and a dword of the block. -/
def potBlk (b : Word) : Nat := bitsNat b 16 0
def potWord (s : State) (b : Word) (i : Nat) : Word := readLsWord s (potBlk b + 8 * i)

/-- The checks of a block offset (Table 15.6, rows 1 and 2). -/
def potBlkTrap (s : State) (b : Word) : Option Trap :=
  if potBlk b % 32 ≠ 0 then some (issueTrapAt s cALIGN false b)
  else if (lsPlace s.me (BitVec.ofNat 64 (potBlk b)) 32).isNone then some (issueTrapAt s cACCESS false (lsTval s.me (potBlk b) 32 b))
  else none

/-- The check of a handle's form (Table 15.6, row 3). -/
def potHandleTrap (s : State) (h : Word) : Option Trap :=
  if bitsNat h 44 32 ≠ 0 ∨ bitsNat h 31 0 = 0 then some (issueTrapAt s cACCESS false h) else none

/-- Bytes of an element of a contribution or of a read. -/
def potBytes (bf16 : Bool) : Nat := if bf16 then 2 else 4

/-- The checks of `pot.post`, in the order of Table 15.6. -/
def postTrap (s : State) (h b : Word) : Option Trap :=
  let w0 := potWord s b 0
  let w1 := potWord s b 1
  let cw := potWord s b 2
  let n := bitsNat w1 63 48
  let acc := fun v => some (issueTrapAt s cACCESS false v)
  (potBlkTrap s b).orElse fun _ => (potHandleTrap s h).orElse fun _ =>
    if bitsNat w1 16 0 % 16 ≠ 0 ∨ bitsNat w1 47 32 % 4 ≠ 0 ∨ n % 4 ≠ 0 ∨ n < 4 ∨ 16384 < n then acc w1
    else if (lsPlace s.me (BitVec.ofNat 64 (bitsNat w1 16 0)) (n * potBytes (bitAt w0 6))).isNone then
      acc (lsTval s.me (bitsNat w1 16 0) (n * potBytes (bitAt w0 6)) w1)
    else if cw.toNat % 16 ≠ 0 then some (issueTrapAt s cALIGN false cw)
    else if bitsNat cw 62 57 ≠ 0 then acc cw
    else none

/-- The block of a post, its data located in the core's local store (Table 15.5a). -/
def postBlk (s : State) (b : Word) : PostBlk :=
  let w0 := potWord s b 0
  let w1 := potWord s b 1
  let n := bitsNat w1 63 48
  { slot := bitsNat w0 5 0, bf16 := bitAt w0 6, gen := w0.extractLsb' 32 32,
    src := (lsPlace s.me (BitVec.ofNat 64 (bitsNat w1 16 0)) (n * potBytes (bitAt w0 6))).getD 0,
    first := bitsNat w1 47 32, count := n, cw := (potWord s b 2).toNat }

/-- R402. -/
def execPotPost (a b : SReg) (s : State) : Out :=
  let h := s.rs a
  let v := s.rs b
  guarded s (postTrap s h v) (roomWait s 32) (rbAppend s 32 (.post h (postBlk s v) []))

/-- The checks of a read (R408). -/
def readTrap (s : State) (h b : Word) : Option Trap :=
  let w1 := potWord s b 1
  let w2 := potWord s b 2
  (potBlkTrap s b).orElse fun _ => (potHandleTrap s h).orElse fun _ =>
    if bitsNat w1 16 0 % 16 ≠ 0 then some (issueTrapAt s cACCESS false w1)
    else if bitsNat w2 15 0 % 4 ≠ 0 ∨ bitsNat w2 31 16 % 4 ≠ 0 then some (issueTrapAt s cACCESS false w2)
    else none

/-- A read: the commit point that sends it, and the park (R408). -/
def potReadForm (sealing : Bool) (d a b : SReg) (s : State) : Out :=
  let h := s.rs a
  let v := s.rs b
  let w1 := potWord s v 1
  let w2 := potWord s v 2
  let need := potWord s v 0
  guarded s (readTrap s h v) (commitWait s s.cur)
    (let s1 := commitSend s (.potRead d) 0 8 false false d
     let id := s1.fresh - 1
     let r : PotRd := { id := id, core := s.cur, act := s.me.id, part := s.mypart, handle := h, need := need,
                        dst := bitsNat w1 16 0, blk := potBlk v, bf16 := bitAt w1 17, limit := bitsNat w1 63 32,
                        first := bitsNat w2 15 0, count := bitsNat w2 31 16, sealing := sealing, since := none, st := .travelling, prog := s.me.prog }
     parkMe { s1 with potReads := s1.potReads ++ [r] } (.potRead id))

/-- R408. -/
def execPotRead (d a b : SReg) (s : State) : Out := potReadForm false d a b s
/-- R408. -/
def execPotReadSeal (d a b : SReg) (s : State) : Out := potReadForm true d a b s

/-! ### Opening (R397, R419) -/

/-- The bytes of pot store that a pot takes (R419). -/
def potSize (d : Nat) (fast : Bool) : Nat := (d * (if fast then 4 else 12) + 2047) / 2048 * 2048

/-- Bytes in use and bytes of a slice's pot store. -/
def potUsed (g : Slice) : Nat := ((g.pots.map (·.2)).filter (·.isOpen)).foldl (fun n p => n + potSize p.d p.fast) 0
def potStore (g : Slice) : Nat := g.ways * 131072

/-- The next incarnation of an entry, skipping 0. -/
def nextInc (n : Nat) : Nat := if (n + 1) % 2 ^ 32 = 0 then 1 else (n + 1) % 2 ^ 32

def potHandle (pkg slice ent inc : Nat) : Word := BitVec.ofNat 64 (pkg * 2 ^ 58 + slice * 2 ^ 49 + ent * 2 ^ 45 + inc)

/-- Opens a pot at a slice: the state after it, and the result. -/
def potOpenAt (s : State) (part h d l : Nat) (fast : Bool) (g0 : BitVec 32) (e : Word) : State × Word :=
  let g := s.slice h
  if d < 4 ∨ 16384 < d ∨ d % 4 ≠ 0 then (s, BitVec.ofNat 64 (3 * 2 ^ 32))
  else
    match (List.range 16).find? (fun n => !((fget g.pots n).getD Pot.reset).isOpen) with
    | none => (s, BitVec.ofNat 64 (2 ^ 32))
    | some n =>
      if potStore g < potUsed g + potSize d fast then (s, BitVec.ofNat 64 (2 * 2 ^ 32))
      else
        let inc := nextInc ((fget g.pots n).getD Pot.reset).inc
        let p : Pot := { isOpen := true, inc := inc, d := d, fast := fast, l := l, g := g0, e := e,
                         landed := Vector.replicate 16 0, sum := List.replicate d 0, sat := false, rej := 0, part := part }
        (s.onSlice h fun g => { g with pots := fset g.pots n p }, potHandle s.pkg h n inc)

/-- The package that holds the page of an address, when it is another one. -/
def vaRemote (s : State) (part va : Nat) : Option Nat :=
  match xlateHw s part va .r with
  | .ok pte _ _ => pteRemote s pte
  | _ => none

/-- Opens a pot where PLACE says; what another package's slice answers is free. -/
def potOpenPlace (s : State) (core part place d l : Nat) (fast : Bool) (g0 : BitVec 32) (e : Word) : State × Word :=
  match vaRemote s part place with
  | none => potOpenAt s part (homeOf s place) d l fast g0 e
  | some pkg =>
    let s := sendFlit s (servingEdge s (dieOf core)) part
      (ctlFlit 1 pkg 0 place part (10 + 256 * (d + 2 ^ 16 * ((if fast then 1 else 0) + 2 * (l + 16 * (g0.toNat + 2 ^ 32 * e.toNat))))))
    let f := fun k => Config.freeNat (s.free + k)
    let v := if f 0 % 4 = 0 then potHandle pkg (f 1 % 512) (f 2 % 16) (f 3 % (2 ^ 32 - 1) + 1) else BitVec.ofNat 64 (f 0 % 4 * 2 ^ 32)
    ({ s with free := s.free + 4 }, v)

/-- R397. A discarded attempt closes the pots that it opened (`potClaims`). -/
def execPotOpen (d b : SReg) (s : State) : Out :=
  let v := s.rs b
  let w0 := potWord s v 0
  let e := potWord s v 1
  let place := potWord s v 2
  let t := (potBlkTrap s v).orElse fun _ =>
    if bitsNat place 62 57 ≠ 0 then some (issueTrapAt s cACCESS false place) else none
  let r := potOpenPlace s s.cur s.mypart place.toNat (bitsNat w0 15 0) (bitsNat w0 23 20) (bitAt w0 16) (w0.extractLsb' 32 32) e
  guarded s t (waitConfirm s)
    (if r.2.toNat % 2 ^ 32 = 0 then r.1.ws d r.2
    else (r.1.onMe fun m => { m with potClaims := m.potClaims ++ [r.2] }).ws d r.2)

/-! ### Buffered state changes -/

/-- R398. -/
def execPotClose (a : SReg) (s : State) : Out := guarded s none (roomWait s 8) (rbAppend s 8 (.potClose (s.rs a)))
/-- R411. -/
def execPotSeal (a : SReg) (s : State) : Out := guarded s none (roomWait s 8) (rbAppend s 8 (.potSeal (s.rs a)))
/-- R400. -/
def execPotExp (a b : SReg) (s : State) : Out := guarded s none (roomWait s 8) (rbAppend s 8 (.potExp (s.rs a) (s.rs b)))
/-- R399. -/
def execPotReset (a b : SReg) (s : State) : Out :=
  guarded s none (roomWait s 8) (rbAppend s 8 (.potReset (s.rs a) ((s.rs b).setWidth 32)))

/-- R412: a selector that Table 15.8 does not list raises ACCESS. -/
def execPotStat (d a b : SReg) (s : State) : Out :=
  let v := s.rs b
  let k := bitsNat v 7 0
  guarded s (if k < 4 ∨ (16 ≤ k ∧ k < 32) then none else some (issueTrapAt s cACCESS false v)) (waitConfirm s)
    ((addAccess s (.potStat (s.rs a) v d) 0 8 false false 2 none).pendReg (.s d))

/-! ### Reads at the home (R408, R409, R411) -/

/-- Elements of a pot as a read returns them, with the reader's flags (03 R103, R104). -/
def potVals (p : Pot) (first n : Nat) (bf16 : Bool) : Flagged (List (BitVec 32)) :=
  (Flagged.all (((p.sum.drop first).take n).map fun q =>
    if p.fast then
      let c := q.toNat % 2 ^ 32
      if bf16 then
        let r := Fmt.f32.convert .bf16 .rn c
        ⟨r.val, r.flags &&& (fNX ||| fOF ||| fUF)⟩
      else ⟨c, 0⟩
    else gridRead bf16 q)).map fun l => l.map (BitVec.ofNat 32)

/-- The next generation, its row cleared (R408, R411). -/
def Pot.sealed (p : Pot) : Pot :=
  { p with g := p.g + 1, landed := p.landed.set ((p.g + 1).toNat % 16) 0 (Nat.mod_lt _ (by decide)) }

/-- Elements that a read names. -/
def PotRd.n (r : PotRd) (p : Pot) : Nat := if r.count = 0 then p.d - r.first else r.count

def setRead (s : State) (r : PotRd) : State := { s with potReads := s.potReads.map fun x => if x.id = r.id then r else x }
def dropRead (s : State) (id : Nat) : State := { s with potReads := s.potReads.filter fun r => decide (r.id ≠ id) }

/-- Takes the sum, the mask and the generation, and seals (R408), in one step. -/
def answerRead (s : State) (r : PotRd) (p : Pot) : State :=
  let v := potVals p r.first (r.n p) r.bf16
  let s := setRead s { r with st := .answered p.mask v.val p.g p.sat (potShort p r.need) false v.flags }
  if r.sealing then setPot s r.handle p.sealed else s

/-- Whether the limit of a read has passed. -/
def readExpired (s : State) (r : PotRd) : Bool :=
  decide (r.limit ≠ 0xFFFFFFFF) && (match r.since with
    | some t => decide (t + r.limit ≤ s.now)
    | none => false)

/-- Answers the reads that wait at a pot and have what they need, or have passed their limit, oldest first (Table 15.9). -/
def settleReads (s : State) (h : Word) : State :=
  s.potReads.foldl (fun s r =>
    match r.st with
    | .waiting =>
      if r.handle ≠ h then s
      else
        match potAt s r.part h with
        | some p => if !potShort p r.need || readExpired s r then answerRead s r p else s
        | none => s
    | _ => s) s

/-- The pot entry that an effect of an activation names. -/
def RbOp.pot : RbOp → Option Word
  | .post h .. => some h
  | .potClose h => some h
  | .potReset h _ => some h
  | .potSeal h => some h
  | .potExp h _ => some h
  | _ => none

/-- Whether operations of the reader on the same pot are still on their way (R406). -/
def potBefore (s : State) (r : PotRd) : Bool := s.flights.any fun f => decide (f.act = r.prog ∧ f.op.pot = some r.handle)

/-- A read is refused: the activation takes ACCESS late. -/
def refuseRead (s : State) (r : PotRd) (tval : Word) : State :=
  match r.far with
  | some (pkg, tag) => sendFlit (dropRead s r.id) (sliceEdge s (potSlice r.handle)) r.part (ctlFlit 3 pkg tag 0 r.part 7)
  | none => (dropRead s r.id).failOf r.part r.core r.id cACCESS tval

/-- A read of a pot of another package is asked for there, once its tag is free. -/
def remoteRead (s : State) (r : PotRd) : State :=
  if !s.tagFree r.id then s
  else setRead (sendFlit s (servingEdge s (dieOf r.core)) r.part (ctlFlit 1 (potPkg r.handle) (r.id % 2 ^ 13) r.handle.toNat r.part
    (6 + 256 * (r.need.toNat + 2 ^ 64 * (r.first + 2 ^ 16 * (r.count + 2 ^ 16 * (r.limit + 2 ^ 32 *
      ((if r.bf16 then 1 else 0) + (if r.sealing then 2 else 0))))))))) { r with st := .asked s.now }

/-- Reads that wait at a slice. -/
def waitingAt (s : State) (h : Nat) : Nat :=
  (s.potReads.filter fun r => (match r.st with
    | .waiting => true
    | _ => false) && decide (potSlice r.handle = h)).length

/-- A read arrives at its home (R408). -/
def arriveRead (s : State) (r : PotRd) : State :=
  if potBefore s r then s
  else if potPkg r.handle ≠ s.pkg then remoteRead s r
  else
    let s := settleReads s r.handle
    match potAt s r.part r.handle with
    | none => refuseRead s r r.handle
    | some p =>
      if p.d < r.first + r.n p ∨ p.d < r.first then refuseRead s r r.handle
      else
        let r := { r with since := some (r.since.getD s.now) }
        if !potShort p r.need || readExpired s r then answerRead s r p
        else if 64 ≤ waitingAt s (potSlice r.handle) then setRead s { r with st := .held (s.now + 64) }
        else setRead s { r with st := .waiting }

def State.potRd (s : State) (id : Nat) : Option PotRd := s.potReads.find? fun r => decide (r.id = id)

/-- Table 15.8. -/
def potStatWord (s : State) (h : Word) (p : Pot) (k : Nat) : Word :=
  if k = 0 then p.g.setWidth 64
  else if k = 1 then p.e
  else if k = 2 then p.rej
  else if k = 3 then
    BitVec.ofNat 64 (p.d + (if p.fast then 2 ^ 16 else 0) + p.l * 2 ^ 20 + (if p.sat then 2 ^ 24 else 0) +
      (min 63 (s.potReads.filter (fun r => decide (r.st = .waiting ∧ r.handle = h))).length) * 2 ^ 25)
  else if p.l < k - 16 then 0
  else p.landed.get (Fin.ofNat 16 (p.g - BitVec.ofNat 32 (k - 16)).toNat)

/-- R412 at the home; a pot of another package is asked there. -/
def performStat (s : State) (core : Nat) (x : Access) (h sel : Word) (d : SReg) : State :=
  if potPkg h ≠ s.pkg then
    if !s.tagFree x.id then s
    else (sendFlit s (servingEdge s (dieOf core)) ((s.core core).part.getD 0)
      (ctlFlit 1 (potPkg h) (x.id % 2 ^ 13) h.toNat ((s.core core).part.getD 0) (13 + 256 * sel.toNat))).setAcc core x.id (.asked s.now)
  else
    match potAt s ((s.core core).part.getD 0) h with
    | none => s.failAcc core x.id cACCESS h 0
    | some p => landStat s core x d (potStatWord s h p (bitsNat sel 7 0))

/-- R408, R412: a read, or a `pot.stat`, reaches its home; a read that waits and has what it needs is performed. -/
def execPotReadPerform (id : Nat) (s : State) : Out :=
  .next (match s.potRd id with
    | some r =>
      match r.st with
      | .travelling => arriveRead s r
      | .waiting => settleReads s r.handle
      | _ => s
    | none =>
      match s.access id with
      | some (core, x) =>
        match x.st, x.kind with
        | .pending, .potStat h sel d => performStat s core x h sel d
        | _, _ => s
      | none => s)

/-- R408: the limit of a waiting read passes. -/
def execPotReadLimit (id : Nat) (s : State) : Out :=
  .next (match s.potRd id with
    | some r => if readExpired s r then settleReads s r.handle else s
    | none => s)

/-- R408: a read that found the table full is sent again after 64 cycles. -/
def execPotReadResend (id : Nat) (s : State) : Out :=
  .next (match s.potRd id with
    | some r =>
      match r.st with
      | .held t => if t ≤ s.now then arriveRead s r else s
      | _ => s
    | none => s)

/-! ### Replies (R408, R414, R415) -/

/-- Where an activation is: its core, its context if it is in one, and itself. -/
def whereIs (s : State) (act : Nat) : Option (Nat × Option Nat × Act) :=
  (s.cores.findSome? fun (c, k) => (k.acts.find? (fun x => decide (x.2.id = act))).map fun x => (c, some x.1, x.2)).orElse fun _ =>
    (s.restarts.find? (fun x => decide (x.2.1.id = act))).map fun x => (x.1, none, x.2.1)

/-- The bytes that a reply writes. -/
def valBytes (bf16 : Bool) (l : List (BitVec 32)) : List Byte := l.flatMap fun v => leBytes (potBytes bf16) v.toNat

/-- What a reply does to the activation: sD and flags, in the snapshot too. -/
def takeRead (d : SReg) (mask flags : Word) (a : Act) : Act :=
  let inSnap := a.snap.pend.contains (.s d)
  let a := deliver a d mask
  { a with flags := a.flags ||| flags, snap := if inSnap then { a.snap with flags := a.snap.flags ||| flags } else a.snap }

/-- The register that a pot read writes. -/
def readDst (s : State) (core id : Nat) : Option SReg :=
  ((s.core core).accs.find? (fun x => decide (x.id = id))).bind fun x =>
    match x.kind with
    | .potRead d => some d
    | _ => none

/-- The reply to a read that another package made: what it returns as a control flit, then the values. -/
def replyFar (s : State) (r : PotRd) (pkg tag : Nat) (mask : Word) (vals : List (BitVec 32)) (gen : BitVec 32) (sat short closed : Bool)
    (flags : Word) : State :=
  let e := sliceEdge s (potSlice r.handle)
  let b := valBytes r.bf16 vals
  let bit := fun (x : Bool) (n : Nat) => if x then n else 0
  let s := sendFlit (dropRead s r.id) e r.part (ctlFlit 3 pkg tag 0 r.part
    (4 + 256 * (mask.toNat + 2 ^ 64 * (gen.toNat + 2 ^ 32 * (bit sat 1 + bit short 2 + bit closed 4 + 8 * (flags.toNat + 2 ^ 64 * vals.length))))))
  (List.range ((b.length + 127) / 128)).foldl (fun s i =>
    sendFlit s e r.part (bulkFlit 1 pkg (2 ^ 13 + tag) (BitVec.ofNat 1024 (ofLe ((b.drop (128 * i)).take 128))))) s

/-- Whether earlier effects of the reader still have to reach the bytes that a reply writes. -/
def replyBusy (s : State) (r : PotRd) (core : Nat) (a : Act) (n : Nat) : Bool :=
  let busy := fun off n => match lsPlace a (BitVec.ofNat 64 off) n with
    | some p => portBusy s r.prog (placeOf core .ls p) n
    | none => false
  (decide (n ≠ 0) && busy r.dst n) || busy r.blk 32

/-- R408: the reply reaches the core: values and the dword at offset 24 go to local store, the mask to sD. -/
def execPotReadReply (id : Nat) (s : State) : Out :=
  .next (match s.potRd id with
    | none => s
    | some r =>
      match r.st with
      | .answered mask vals gen sat short closed flags =>
        match r.far with
        | some (pkg, tag) =>
          if bulkFull s (sliceEdge s (potSlice r.handle)) pkg 1 then s else replyFar s r pkg tag mask vals gen sat short closed flags
        | none =>
        match readDst s r.core id, whereIs s r.act with
        | some d, some (core, ctx, a) =>
          if (s.partn r.part).st ≠ 2 || replyBusy s r core a (valBytes r.bf16 vals).length then s
          else
            let b := valBytes r.bf16 vals
            match (if b.isEmpty then some 0 else lsPlace a (BitVec.ofNat 64 r.dst) b.length), lsPlace a (BitVec.ofNat 64 r.blk) 32 with
            | some da, some ba =>
              let w := gen.toNat + (if sat then 2 ^ 32 else 0) + (if short then 2 ^ 33 else 0) + (if closed then 2 ^ 34 else 0)
              let s := lsStore (if b.isEmpty then s else lsStore s core da b) core (ba + 24) (leBytes 8 w)
              let s := (dropRead s id).dropAcc r.core id
              match ctx with
              | some x => wakeAct s core x (takeRead d mask flags)
              | none => s.onActAll r.act (takeRead d mask flags)
            | _, _ => refuseRead s r (BitVec.ofNat 64 r.dst)
        | _, _ => if (s.partn r.part).st = 2 then dropRead s id else s
      | _ => s)

/-! ### Posts and state changes at the home (R398-R406, R411) -/

/-- Post status codes (Table 15.5). -/
def pstOK : Nat := 1
def pstDUP : Nat := 2
def pstLATE : Nat := 3
def pstEARLY : Nat := 4
def pstNOSLOT : Nat := 5
def pstRANGE : Nat := 6
def pstSTALE : Nat := 7
def pstLOST : Nat := 8

/-- Element n of a contribution, as an FP32 or BF16 code. -/
def postElem (bf16 : Bool) (data : List Byte) (n : Nat) : Nat := ofLe ((data.drop (potBytes bf16 * n)).take (potBytes bf16))

/-- An element after one contribution, and whether it saturated (03 R101, R104). -/
def potAcc (fast bf16 : Bool) (q : BitVec 96) (c : Nat) : BitVec 96 × Bool :=
  if fast then
    let r := Fmt.f32.add .rn (q.toNat % 2 ^ 32) (if bf16 then c * 65536 else c)
    (BitVec.ofNat 96 r.val, decide (r.flags &&& fOF ≠ 0))
  else
    let (g, a) := toGrid (if bf16 then .bf16 else .f32) c
    let (q, b) := gridAdd q g
    (q, a || b)

/-- Adds a contribution to a pot. -/
def Pot.add (p : Pot) (b : PostBlk) (data : List Byte) : Pot :=
  let r := p.sum.mapIdx fun i q =>
    if b.first ≤ i ∧ i < b.first + b.count then potAcc p.fast b.bf16 q (postElem b.bf16 data (i - b.first)) else (q, false)
  { p with sum := r.map (·.1), sat := p.sat || r.any (·.2) }

/-- The row of a generation. -/
def Pot.row (p : Pot) (g : BitVec 32) : Word := p.landed.get (Fin.ofNat 16 g.toNat)

/-- The status of a post at an open pot (R404). -/
def postStatus (p : Pot) (b : PostBlk) : Nat :=
  let age := (p.g - b.gen).toNat
  if !p.e.getLsbD b.slot then pstNOSLOT
  else if p.d < b.first + b.count then pstRANGE
  else if 2 ^ 31 ≤ age then pstEARLY
  else if p.l < age then pstLATE
  else if (p.row b.gen).getLsbD b.slot then pstDUP
  else pstOK

/-- The pot after a post (R404). -/
def Pot.posted (p : Pot) (b : PostBlk) (data : List Byte) : Pot :=
  if postStatus p b = pstOK then
    { p.add b data with landed := p.landed.set (b.gen.toNat % 16) (p.row b.gen ||| BitVec.ofNat 64 (2 ^ b.slot)) (Nat.mod_lt _ (by decide)) }
  else { p with rej := p.rej + 1 }

/-- The core that a flight's events name: none for a post of another package. -/
def Flight.here (f : Flight) : Option Nat := if f.sent.isSome then none else some f.core

/-- Writes a dword of a completion object: the state after it, and the cause when it cannot be written. -/
def objPut (s : State) (f : Flight) (va v : Nat) : State × Option Nat :=
  match engLoc s f.core f.part f.rp va 8 .w with
  | .mem pte pa => (homeWrite s none f.part va pa (pteRemote s pte) (leBytes 8 v), none)
  | .win c off => (lsStore s c off (leBytes 8 v), none)
  | .seg .. =>
    match engWrite s f.core f.part f.rp va (leBytes 8 v) with
    | .ok s _ => (s, none)
    | .fault s c _ => (s, some c)
  | .fault c => (s, some c)

/-- Writes a completion object: INFO, then STATUS; a fault drops the write and is reported (R405). -/
def postComplete (s : State) (f : Flight) (h : Word) (cw status info : Nat) : State :=
  if cw = 0 then s
  else
    let (s, a) := objPut s f (cw + 8) info
    let (s, b) := objPut s f cw status
    match a.orElse fun _ => b with
    | some c => report s (.cd (potSlice h / 32)) f.here 5 c f.part (BitVec.ofNat 64 cw)
    | none => s

/-- The answer to a post of another package, with the cycles that it waited for leave and how often it was refused (R420, 20 R466; log 12). -/
def postAnswer (s : State) (f : Flight) (h : Word) : State :=
  match f.sent with
  | some tag => sendFlit s (sliceEdge s (potSlice h)) f.part (ctlFlit 3 (f.act - 2 ^ 40) tag 0 f.part (1 + 256 * (f.waited % 2 ^ 64 + 2 ^ 64 * f.refusals)))
  | none => s

/-- R404: a post takes its effect at its home. -/
def postAt (s : State) (f : Flight) (h : Word) (b : PostBlk) (data : List Byte) : State :=
  let s := (settleReads s h).dropFlight f.id
  match potAt s f.part h with
  | none => postAnswer (postComplete s f h b.cw pstSTALE 0) f h
  | some p =>
    let s := setPot s h (p.posted b data)
    postAnswer (postComplete s f h b.cw (postStatus p b) p.g.toNat) f h

/-- Tokens that a post needs (R420). -/
def postTokens (b : PostBlk) : Nat := b.count / 1024

/-- Whether a post waits at the governor. -/
def postAsked (s : State) (die id : Nat) : Bool :=
  (s.die die).reqs.any fun r => match r.pool with
    | .pot i _ => decide (i = id)
    | _ => false

/-- A post that leaves for another package, once a tag is free: its header, then its blocks (R403, R379). -/
def sendPost (s : State) (f : Flight) (h : Word) (b : PostBlk) (data : List Byte) : State :=
  let e := servingEdge s (dieOf f.core)
  let pkg := potPkg h
  match s.tagRun 1 with
  | none => s
  | some id =>
    let tag := id % 2 ^ 13
    let n := if s.joined f.part pkg then (data.length + 127) / 128 else 0
    let s := sendFlit { s with fresh := id + 1, posts := s.posts ++ [(id, f, s.now)] } e f.part (postHeader h b f.core f.part n pkg tag)
    ((List.range n).foldl (fun s i => sendFlit s e f.part (bulkFlit 1 pkg tag (BitVec.ofNat 1024 (ofLe ((data.drop (128 * i)).take 128))))) s).dropFlight f.id

/-- What a post waits for at the home of its completion object. -/
def postObjWait (s : State) (f : Flight) (b : PostBlk) : Option State :=
  if b.cw = 0 then none else engWait s f.core f.part f.rp true (b.cw, 16)

/-- A drained post is performed, once its leave tokens are granted. -/
def performPost (s : State) (f : Flight) (h : Word) (b : PostBlk) (data : List Byte) : State :=
  if potPkg h ≠ s.pkg then
    if bulkFull s (servingEdge s (dieOf f.core)) (potPkg h) 1 then s else sendPost s f h b data
  else
    let die := potSlice h / 32
    if postTokens b ≠ 0 ∧ ¬ f.leaveOk = true ∧ cdPresent s die then
      if postAsked s die f.id then s else askLeave s die (.pot f.id (f.here.getD 4096)) (postTokens b)
    else
      match postObjWait s f b with
      | some s => s
      | none => postAt s f h b data

/-- A drained state change is performed; a pot of another package is sent the request. -/
def performChange (s : State) (f : Flight) (h : Word) (code v : Nat) (g : Pot → Pot) : State :=
  let s := s.dropFlight f.id
  if potPkg h ≠ s.pkg then sendFlit s (servingEdge s (dieOf f.core)) f.part (ctlFlit 1 (potPkg h) 0 h.toNat f.part (code + 256 * v))
  else
    let s := settleReads s h
    match potAt s f.part h with
    | some p => setPot s h (g p)
    | none => s

/-- The pot that a request of another package names. -/
def Inbound.pot (x : Inbound) : Option Word :=
  match x.what with
  | .post h .. => some h
  | .potOp h _ => some h
  | .potAsk 6 h _ => some h
  | .potAsk 13 h _ => some h
  | _ => none

/-- What another package asks of a pot here: to open one, to read it, or a field of it. -/
def potAsked (s : State) (x : Inbound) (code : Nat) (h : Word) (v : Nat) : State :=
  let answer := fun (s : State) (h code v : Nat) => sendFlit s (sliceEdge s h) x.part (ctlFlit 3 x.pkg x.tag 0 x.part (code + 256 * v))
  let s := { s with inbox := s.inbox.filter fun y => decide (y.id ≠ x.id) }
  if code = 10 then
    let home := homeOf s h.toNat
    let (s, w) := potOpenAt s x.part home (fieldOf v 0 16) (fieldOf v 17 4) (decide (fieldOf v 16 1 = 1)) (BitVec.ofNat 32 (fieldOf v 21 32))
      (BitVec.ofNat 64 (fieldOf v 53 64))
    answer s home 5 w.toNat
  else if code = 13 then
    match potAt s x.part h with
    | some p => answer s (potSlice h) 6 (potStatWord s h p (v % 256)).toNat
    | none => answer s (potSlice h) 7 0
  else
    let r : PotRd := { id := x.id, core := 0, act := 2 ^ 40 + x.pkg, part := x.part, handle := h, need := BitVec.ofNat 64 v, dst := 0, blk := 0,
                       bf16 := decide (fieldOf v 128 1 = 1), limit := fieldOf v 96 32, first := fieldOf v 64 16, count := fieldOf v 80 16,
                       sealing := decide (fieldOf v 129 1 = 1), since := none, st := .travelling, far := some (x.pkg, x.tag) }
    { s with potReads := s.potReads ++ [r] }

/-- A post of another package whose blocks have all arrived, or a state change, takes its place among the drained effects, after
what its package sent to that pot before (R379). -/
def acceptPost (s : State) (x : Inbound) : State :=
  let first := (s.inbox.takeWhile (fun y => decide (y.id ≠ x.id))).all fun y => decide (y.pkg ≠ x.pkg ∨ y.pot ≠ x.pot)
  let accept := fun (op : RbOp) (src : Nat) =>
    let f : Flight := { id := x.id, core := src, part := x.part, act := 2 ^ 40 + x.pkg, rp := 0, ent := none, op := op,
                        leaveOk := false, sent := some x.tag }
    { s with inbox := s.inbox.filter (fun y => decide (y.id ≠ x.id)), flights := s.flights ++ [f] }
  match x.what with
  | .post h b src n data _ =>
    if data.length < 128 * n || !first then s else accept (.post h b (data.take (b.count * potBytes b.bf16))) src
  | .potOp _ op => if first then accept op 0 else s
  | .potAsk code h v => if code = 10 || first then potAsked s x code h v else s
  | _ => s

/-- R398-R406, R411: a drained post or state change takes its effect at its pot's home. -/
def execPotPostPerform (id : Nat) (s : State) : Out :=
  .next (match s.flight id with
    | some f =>
      if !flightReady s f then s
      else
        match f.op with
        | .post h b data => performPost s f h b data
        | .potClose h => closePot (settleReads (s.dropFlight id) h) f.core f.part h
        | .potReset h g => performChange s f h 7 g.toNat fun p =>
            { p with g := g, landed := Vector.replicate 16 0, sum := List.replicate p.d 0, sat := false, rej := 0 }
        | .potSeal h => performChange s f h 8 0 Pot.sealed
        | .potExp h e => performChange s f h 9 e.toNat fun p => { p with e := e }
        | _ => s
    | none =>
      match s.inbound id with
      | some x => acceptPost s x
      | none => s)

/-- R379, Table 15.5: a post to another package has no answer, or a post of another package lacks blocks, after FTO: LOST. -/
def execPostTrainTimeout (id : Nat) (s : State) : Out :=
  .next (match s.posts.find? (fun x => decide (x.1 = id)) with
    | some (_, f, t) =>
      if s.now < t + ftoCycles s then s
      else
        match f.op with
        | .post h b _ =>
          match postObjWait s f b with
          | some s => s
          | none => postComplete { s with posts := s.posts.filter fun x => decide (x.1 ≠ id) } f h b.cw pstLOST 0
        | _ => s
    | none =>
      match s.inbound id with
      | some x =>
        match x.what with
        | .post h b src n d t => if s.now < t + ftoCycles s ∨ 128 * n ≤ d.length then s else losePost s x h b src (n - d.length / 128)
        | .lost (some (h, b, src)) n =>
          let f : Flight := { id := id, core := src, part := x.part, act := 2 ^ 40 + x.pkg, rp := 0, ent := none, op := .trig,
                              leaveOk := false, sent := some x.tag }
          match postObjWait s f b with
          | some s => s
          | none => (postComplete s f h b.cw pstLOST (((potAt s x.part h).map (fun p => p.g.toNat)).getD 0)).setLost id none n
        | _ => s
      | none => s)

end Sys2Proof.Machine
end

