-- ==== Sys2Proof/Machine/Gang.lean ====
section
/-! DEFINITION. Quadrilles and reels (17): the `qd.` and `reel.` forms, admission, accesses to a quadrille window, the round
barrier and the end of a round. -/

namespace Sys2Proof.Machine

/-! ### Launches by `qd.open` and `reel.open` (R435, R441) -/

/-- A control block that cannot be written: the form fails late, with the snapshot before it (R423). -/
def gangFault (s : State) (v : Word) (cause level : Nat) : State :=
  let s := addAccess (drain s s.cur) (.probe false none) v.toNat 8 false false 2 (some (beforeSnap s.me))
  s.failAcc s.cur (s.fresh - 1) cause v level

/-- A launch at the commit point, of a block that must have a kind, after every effect of the activation. -/
def gangLaunch (kind : Nat) (d a : SReg) (s : State) : Out :=
  let v := s.rs a
  guarded s (blockTrap s v) ((settleWait s).orElse fun _ => rcbWait s s.mypart v.toNat)
    (match xlateHw s s.mypart v.toNat .w with
     | .fault c l => gangFault s v c l
     | _ =>
       let r := launchAt (drain s s.cur) s.mypart v.toNat (some s.me.rp) none (some kind) (some s.cur) s.e4
       if r.2 ≠ 0 ∨ kind = 2 then commitAt (r.1.ws d (BitVec.ofNat 64 r.2)) s.cur s.me.npc
       else parkMe (commitAt (r.1.pendReg (.s d)) s.cur s.me.npc) (.qdOpen v.toNat d))

/-- R435: parks until the admission, or the failure, of the quadrille. -/
def execQdOpen (d a : SReg) (s : State) : Out := gangLaunch 1 d a s
/-- R441. -/
def execReelOpen (d a : SReg) (s : State) : Out := gangLaunch 2 d a s

/-! ### Admission (R427) -/

/-- The core that gets the entry message of a member: the lowest-numbered present one. -/
def memberCore (s : State) (q : Quad) (m : Nat × Nat) : Nat := (memberCores s q m).headD (4 * m.2)

/-- Sends entry message i of a quadrille to its member. -/
def quadEntry (s : State) (q : Quad) (i : Nat) : State :=
  let m := q.members.getD i (0, 0)
  entryTo s q.part q.rcb q.src q.e4 m.1 (memberCore s q m) i q.m

/-- The home tells another package what it needs of an open quadrille, member by member (log 12). -/
def quadShare (s : State) (q : Quad) (p : Nat) : State :=
  (q.members.zipIdx).foldl (fun s (m, i) =>
    quadFlit s q p 21 (q.qid + 2 ^ 12 * (q.m + 2 ^ 7 * (i + 2 ^ 6 * (q.tseg + 2 ^ 8 * (q.gran + 2 ^ 10 * (m.1 + 2 ^ 6 * (m.2 +
      2 ^ 10 * (if m.1 = s.pkg then coreMask s m.2 else (fget q.masks (1024 * m.1 + m.2)).getD 15))))))))) s

/-- Every member is reserved: segments are zeroed and ready, the window opens, entry messages go out. -/
def openQuad (s : State) (q : Quad) : State :=
  let s := q.members.foldl (fun s m =>
    if m.1 = s.pkg then claimTile s m.2 q.tseg ((s.cluster m.2).tile q.tseg).base q.gran ⟨q.part, q.rcb⟩ none 2 else s) s
  let q := { q with open_ := true, det := 0, dep := 0 }
  let s := paramWrite (paramWrite (paramWrite (setQuad s q) q.part (q.params + 8) q.w) q.part (q.params + 16) 0) q.part (q.params + 24) 0
  let s := rcbPut s q.part q.rcb 8 13 3 stRunning
  let s := (s.peersOf q.part).foldl (fun s p => quadShare s q p) (wakeOpens s q.part q.rcb (BitVec.ofNat 64 q.w))
  (List.range q.m).foldl (fun s i => quadEntry s q i) s

/-- R427: the next member is reserved when it can be; with the last one the quadrille is admitted. A member of another package is asked
for, and counts once that package has answered (log 12). One that is none of the partition's clusters any more is not reserved. -/
def execQdAdmission (id : Nat) (s : State) : Out :=
  .next (match s.quads.find? (fun q => decide (q.id = id ∧ q.home = none) && !q.open_ && !q.closed) with
    | none => s
    | some q =>
      if (s.partn q.part).st ≠ 2 then s
      else
        match q.next with
        | none => openQuad s q
        | some i =>
          let m := q.members.getD i (0, 0)
          let took := fun (s : State) =>
            let q := { q with reserved := q.reserved ++ [i], asked := false, granted := false }
            if q.reserved.length = q.m then openQuad (setQuad s q) q else setQuad s q
          if !memberOk s q.part m then s
          else if m.1 ≠ s.pkg then
            if !q.asked then setQuad (quadFlit s q m.1 20 (m.2 + 2 ^ 10 * (q.tseg + 2 ^ 8 * q.gran))) { q with asked := true }
            else if q.granted then took s else s
          else
            let c := s.cluster m.2
            let t := c.tile q.tseg
            if t.owner.isSome ∨ t.st = 3 ∨ 4 ≤ quadsOn s m.2 then s
            else
              match freeRun c q.gran with
              | some b => took (claimTile s m.2 q.tseg b q.gran ⟨q.part, q.rcb⟩ none 0)
              | none => s)

/-! ### Detaching, leaving, reading (R431, R432, R436) -/

/-- ACCESS with TVAL = `rp` (R424). -/
def rpTrap (s : State) : Trap := issueTrapAt s cACCESS false (s.rs 63)

/-- The executing activation's quadrille, and the member that its cluster is. -/
def myQuad (s : State) : Option Quad := quadOf s s.mypart s.me.rp
def myMember (s : State) (q : Quad) : Option Nat := memberOf s q (clusterOf s.cur)

def memberTrap (s : State) : Option Trap :=
  match myQuad s with
  | none => some (rpTrap s)
  | some q => if (myMember s q).isNone then some (rpTrap s) else none

/-- A request to a control block's home overtakes effects of the activation on their way, or not (log 44). -/
def gangWait (s : State) : Option State :=
  (commitWait s s.cur).orElse fun _ => if hasFlights s s.me.prog && s.freeBit then some s.used else none

/-- R431. -/
def execQdDetach (s : State) : Out :=
  guarded s (memberTrap s) (gangWait s)
    (let s1 := drain s s.cur
     let s1 := match myQuad s with
       | some q => match myMember s q with
         | some i => memberDetach s1 q i
         | none => s1
       | none => s1
     commitAt s1 s.cur s.me.npc)

/-- R432. -/
def execQdExit (d : SReg) (s : State) : Out :=
  guarded s (memberTrap s) (gangWait s)
    (let s1 := drain s s.cur
     match myQuad s with
     | none => s1
     | some q =>
       let i := (myMember s q).getD 0
       let s1 := if q.dep.getLsbD i then s1 else memberDetach s1 q i
       match s1.quads.find? (fun x => decide (x.id = q.id) && !x.closed) with
       | some q => parkMe (commitAt (s1.pendReg (.s d)) s.cur s.me.npc) (.qdExit q.rcb d)
       | none =>
         let dep := ((s1.quads.find? (fun x => decide (x.id = q.id))).map (·.dep)).getD q.dep
         commitAt (s1.ws d dep) s.cur s.me.npc)

/-- Table 17.3. -/
def qdStatWord (s : State) (q : Quad) (k : Nat) : Word :=
  if k = 1 then ((myMember s q).map (BitVec.ofNat 64)).getD (BitVec.ofInt 64 (-1)) else quadField q k

/-- R436. A field that the home on another package holds is read there. -/
def execQdStat (d a : SReg) (s : State) : Out :=
  let v := s.rs a
  let k := bitsNat v 7 0
  match myQuad s with
  | none => guarded s (some (rpTrap s)) none s
  | some q =>
    guarded s (if 4 < k then some (issueTrapAt s cACCESS false v) else none) (commitWait s s.cur)
      (match q.home with
       | some p => if k = 1 then commitAt (s.ws d (qdStatWord s q k)) s.cur s.me.npc
         else commitSend s (.gangStat q.rcb p k 0x1000 d) 0 8 true false d
       | none => commitAt (s.ws d (qdStatWord s q k)) s.cur s.me.npc)

/-! ### Window accesses (R428, R429, R437) -/

/-- What an access finds at its port: a scratchpad here, which it reaches at once, or another package, which it asks; or a refusal, with the
cause and TVAL. -/
inductive WinAt where
  | here (cl off : Nat)
  | far (pkg : Nat)
  | bad (cause : Nat) (tval : Word)

/-- The port of n bytes of a window for an access of a region. -/
def windowAt (s : State) (core part rp va n : Nat) : WinAt :=
  match quadPlace s core part rp va n with
  | .error (c, t) => .bad c t
  | .ok (pkg, cl, off) => if pkg = s.pkg then .here cl off else .far pkg

/-- Reads pieces of a window in turn, each noted once it is read; one of another package is asked for. A piece that is refused ends the
reading. -/
def windowReads (core part rp : Nat) (x : Access) : List (Nat × Nat × Nat) → State → Except (Nat × Word) State
  | [], s => .ok s
  | (i, va, n) :: r, s =>
    match windowAt s core part rp va n with
    | .bad c t => .error (c, if c = cACCESS then BitVec.ofNat 64 x.va else t)
    | .here cl off => windowReads core part rp x r (s.gotPiece core x.id i (seenPiece s core x .global va (mread (s.cluster cl).spad off n)))
    | .far pkg => windowReads core part rp x r (askWindow s core part pkg (.piece x.id i) va n 2 n)

/-- A read and a write at a port here, indivisible (R281): the state after it, and the old value. -/
def spadRmw (s : State) (cl off : Nat) (op : AtomOp) (ty : AtomTy) (v w : Word) : State × Word :=
  let old := wordOfLe (mread (s.cluster cl).spad off ty.size)
  (spadStore s cl off (leBytes ty.size (atomApply op ty old v w).toNat), old)

/-- What another package is told of an atomic (log 12). -/
def atomCode (op : AtomOp) (ty : AtomTy) (v w : Word) : Nat :=
  atomOps.idxOf op + 8 * (atomTys.idxOf ty + 8 * (v.toNat + 2 ^ 64 * w.toNat))

/-- An outstanding access to a window. -/
def windowAcc (s : State) (core : Nat) (x : Access) : State :=
  let part := ((s.core core).part).getD 0
  let rp := ((s.findAct x.act).map (·.rp)).getD 0
  match x.st, x.kind with
  | .pending, .load .global dst _ =>
    if !loadReady s core x (x.todo.map (·.2)) then s
    else
      let (s, ps) := choosePieces s x.todo
      match windowReads core part rp x ps s with
      | .error e => s.failAcc core x.id e.1 e.2 0
      | .ok s =>
        match (s.core core).accs.find? (fun y => decide (y.id = x.id)) with
        | some x => if x.todo.isEmpty then landLoad s core x dst (gotBytes x (loadPieces x).length) else s
        | none => s
  | .pending, .probe .. =>
    match windowAt s core part rp x.va x.size with
    | .bad c t => s.failAcc core x.id c t 0
    | _ => s.dropAcc core x.id
  | .pending, .atom op ty _ v w _ =>
    if !atomReady s core x then s
    else
      match windowAt s core part rp x.va ty.size with
      | .bad c t => s.failAcc core x.id c t 0
      | .here cl off => let (s, old) := spadRmw s cl off op ty v w; s.setAcc core x.id (.performed old)
      | .far pkg => askWindow s core part pkg (.atom x.id) x.va ty.size 11 (atomCode op ty v w)
  | _, _ => s

/-- A drained effect on a window. One of another package is asked for there, and is over with its answer. -/
def windowFlight (s : State) (f : Flight) : State :=
  match f.op with
  | .store .global va b _ _ =>
    match windowAt s f.core f.part f.rp va b.length with
    | .bad c t => windowLate s f (c, t) va b.length
    | .here cl off => (spadStore s cl off b).dropFlight f.id
    | .far pkg => askWindow s f.core f.part pkg (.flight f.id) va b.length 3 (b.length + 256 * ofLe b)
  | .red va op ty v _ _ =>
    match windowAt s f.core f.part f.rp va ty.size with
    | .bad c t => windowLate s f (c, t) va ty.size
    | .here cl off => (spadRmw s cl off op ty v 0).1.dropFlight f.id
    | .far pkg => askWindow s f.core f.part pkg (.flight f.id) va ty.size 11 (atomCode op ty v 0)
  | _ => s

/-- A field of a quadrille or reel that another package holds is asked for. -/
def gangRead (s : State) (core : Nat) (x : Access) : State :=
  match x.st, x.kind with
  | .pending, .gangStat rcb pkg k e _ =>
    askWindow s core (((s.core core).part).getD 0) pkg (.stat x.id) rcb 8 (if 0x1000 ≤ e then 34 else 47) (k + 256 * e)
  | _, _ => s

/-- R428, R429: a window access is performed at its member's scratchpad port, or fails there; a `qd.stat` or `reel.stat` reads its home. -/
def execWindowAccess (id : Nat) (s : State) : Out :=
  .next (match s.access id with
    | some (core, x) => if x.kind.toMemory && isQuad x.va then windowAcc s core x else gangRead s core x
    | none =>
      match s.flight id with
      | some f =>
        match f.op.range with
        | some (va, _) => if isQuad va && flightReady s f then windowFlight s f else s
        | none => s
      | none => s)

/-! ### Reel forms (R444, R446, R453) -/

/-- The executing activation's reel, and its entrant. -/
def myReel (s : State) : Option Reel := reelOf s s.mypart s.me.rp

/-- A core tells the home of its reel, on another package, what it does. -/
def tellReel (s : State) (r : Reel) (pkg code v : Nat) : State :=
  sendFlit s (servingEdge s (dieOf s.cur)) r.part (ctlFlit 1 pkg 0 r.rcb r.part (code + 256 * v))

/-- R444: the score reaches the home after the effects that drained before it (18 R456). -/
def execReelScore (a : SReg) (s : State) : Out :=
  let v := s.rs a
  match myReel s with
  | none => guarded s (some (rpTrap s)) none s
  | some r =>
    guarded s none (settleWait s)
      (let s1 := (drain s s.cur).onMe fun m => { m with score := v }
       let s1 := match r.entrant s.cur, r.home with
         | some e, none => setScore s1 r e v
         | some e, some p => tellReel s1 r p 45 (e + 64 * v.toNat)
         | none, _ => s1
       commitAt s1 s.cur s.me.npc)

/-- R446: the executing entrant is finished, and the activation waits at the barrier. -/
def execReelDone (d : SReg) (s : State) : Out :=
  match myReel s with
  | none => guarded s (some (rpTrap s)) none s
  | some r =>
    guarded s none (commitWait s s.cur)
      (let s1 := drain s s.cur
       let s1 := match r.entrant s.cur, r.home with
         | some e, none => setFin s1 r e
         | some e, some p => tellReel (setReel s1 { r with fin := r.fin ||| BitVec.ofNat 64 (2 ^ e) }) r p 46 e
         | none, _ => s1
       parkMe (commitAt (s1.pendReg (.s d)) s.cur s.me.npc) (.round (some d) true))

/-- R446. -/
def execReelSync (d : SReg) (s : State) : Out :=
  match myReel s with
  | none => guarded s (some (rpTrap s)) none s
  | some _ =>
    guarded s none (commitWait s s.cur)
      (parkMe (commitAt ((drain s s.cur).pendReg (.s d)) s.cur s.me.npc) (.round (some d) false))

/-- R453. The home of a reel on another package is asked. -/
def execReelStat (d a : SReg) (s : State) : Out :=
  let v := s.rs a
  let k := bitsNat v 7 0
  match myReel s with
  | none => guarded s (some (rpTrap s)) none s
  | some r =>
    guarded s (if 6 < k then some (issueTrapAt s cACCESS false v) else none) (commitWait s s.cur)
      (match r.home with
       | some p => commitSend s (.gangStat r.rcb p k ((r.entrant s.cur).getD 64) d) 0 8 true false d
       | none => commitAt (s.used.ws d (reelField s r (r.entrant s.cur) k)) s.cur s.me.npc)

/-! ### The round barrier (R443, R446, R447) -/

/-- The open reel and the alive entrant that an activation of a core belongs to. -/
def entrantHere (s : State) (core : Nat) (a : Act) : Option (Reel × Nat) :=
  match reelOf s a.part a.rp with
  | some r =>
    match r.entrant core with
    | some e => if r.alive.getLsbD e then some (r, e) else none
    | none => none
  | none => none

/-- Whether an activation has to go to the barrier at its next instruction boundary: its allowance is used up, its entrant has
finished, or the round's timeout has passed. -/
def mustBarrier (s : State) (core : Nat) (a : Act) : Bool :=
  match entrantHere s core a with
  | some (r, e) => (decide (a.allow = 0) && decide (a.mode = 0)) || r.fin.getLsbD e || r.late
  | none => false

/-- R443: the overflow commit point, and the barrier. -/
def execAllowanceExhausted (core : Nat) (s : State) : Out :=
  .next (match (s.core core).running with
    | none => s
    | some (_, a) =>
      if !mustBarrier s core a || a.stepDue || a.flagsWr.isSome || decide (a.park ≠ .running) then s
      else
        match commitWait s core with
        | some s => s
        | none => parkRun (commitAt s core a.pc) core (.round none false))

/-- R447. -/
def execRoundTimeout (id : Nat) (s : State) : Out :=
  .next (match s.reels.find? (fun r => decide (r.id = id)) with
    | none => s
    | some r => 
      if r.rto ≠ 0 ∧ r.home = none ∧ r.late = false ∧ (s.partn r.part).st = 2 ∧ r.since + r.rto ≤ s.now then
        let r := { r with late := true }
        reelNews (setReel s r) r 2 0
      else s)

/-- Other packages that hold cores of alive entrants of a reel. -/
def Reel.hosts (s : State) (r : Reel) : List Nat :=
  ((r.live.flatMap fun e => (r.held.getD e []).map fun c => (nearCore s c).1).eraseDups).filter (· ≠ s.pkg)

/-- Messages of a partition sent to a package and had from it. -/
def msgCount (s : State) (part pkg : Nat) : Nat × Nat := (fget s.msgCounts (64 * part + pkg)).getD (0, 0)

/-- Whether a message of a partition to another package has still to leave. -/
def msgsLeave (s : State) (part : Nat) : Bool :=
  s.msgs.any (fun m => decide (m.part = part) && m.dest.isSome) || s.flights.any fun f => decide (f.part = part) && (match f.op with
    | .msg h _ t => decide ((msgTarget s part h.rcb t).1 ≠ s.pkg)
    | _ => false)

/-- Whether the alive entrants of a reel have stopped on the other packages, as those have told (R446): each has told of this round, and the
messages that it has had are those that the others have sent it (log 109). -/
def farStopped (s : State) (r : Reel) : Bool :=
  let hosts := r.hosts s
  let part := fun p => fget r.parts p
  let counts := fun (p q : Nat) => if p = s.pkg then msgCount s r.part q else
    (((part p).bind fun t => fget t.counts q)).getD (0, 0)
  (hosts.isEmpty || !msgsLeave s r.part) &&
    hosts.all (fun p => match part p with
      | some t => decide (t.round = r.round % 256) && r.live.all fun e =>
          !(r.held.getD e []).any (fun c => decide ((nearCore s c).1 = p)) || t.stopped.getLsbD e
      | none => false) &&
    (s.pkg :: hosts).all fun p => hosts.all fun q => decide (p = q) || decide ((counts p q).1 = (counts q p).2) && decide ((counts p q).2 = (counts q p).1)

def roundOver (s : State) (r : Reel) : Bool :=
  decide ((s.partn r.part).st = 2) && r.live.all (stopped s r) && arrivalsDone s r && farStopped s r

/-- What this package tells the home of a reel of its part in it. -/
def reelPart (s : State) (r : Reel) : ReelPart :=
  let mine := fun e => (r.held.getD e []).filter (· < 4096)
  let bits := fun (p : Nat → Bool) => BitVec.ofNat 64 (r.live.foldl (fun n e => if !(mine e).isEmpty && p e then n + 2 ^ e else n) 0)
  { round := r.round % 256
    stopped := if arrivalsDone s r && !msgsLeave s r.part then bits (stopped s r) else 0
    e4 := bits fun e => bitAt (s.core ((mine e).foldl min 4095)).fmt 0
    counts := (s.peersOf r.part).map fun q => (q, msgCount s r.part q)
    tiles := r.live.map fun e => (e, (entrantTiles s r e).length) }

/-- Tells the home of a reel, where something has changed. -/
def reelReport (s : State) (r : Reel) (pkg : Nat) : State :=
  let p := reelPart s r
  if (s.partn r.part).st ≠ 2 ∨ fget r.parts s.pkg = some p then s
  else
    let say := fun (s : State) code v => gangFlit s r.part r.rcb pkg r.id code v
    let s := p.tiles.foldl (fun s x => say s 44 (x.1 + 64 * x.2)) s
    let s := p.counts.foldl (fun s x => say s 48 (x.1 + 64 * (x.2.1 % 2 ^ 64 + 2 ^ 64 * x.2.2))) s
    setReel (say s 43 (p.round + 256 * (p.stopped.toNat + 2 ^ 64 * p.e4.toNat))) { r with parts := fset r.parts s.pkg p }

/-! ### Ranking (R445) -/

/-- Whether one score is better than another. -/
def better (sc : Nat) (a b : Word) : Bool :=
  match sc with
  | 0 => decide (b.toInt < a.toInt)
  | 1 => decide (a.toInt < b.toInt)
  | _ =>
    let x := Fmt.f32.read (a.toNat % 2 ^ 32)
    let y := Fmt.f32.read (b.toNat % 2 ^ 32)
    if y.isNan then !x.isNan else if x.isNan then false else if sc = 2 then y.lt x else x.lt y

/-- Places an entrant behind every one that it is not better than. -/
def rankIn (sc : Nat) (scores : List Word) (e : Nat) : List Nat → List Nat
  | [] => [e]
  | x :: r => if better sc (scores.getD e 0) (scores.getD x 0) then e :: x :: r else x :: rankIn sc scores e r

/-- Alive entrants, best first; ties to the lower index. -/
def Reel.ranks (r : Reel) : List Nat := r.live.foldl (fun l e => rankIn r.sc r.scores e l) []

/-! ### Killing, passing, GROW (R449-R451) -/

/-- What a GROW message says (R451). -/
structure Grow where
  taker : Nat
  core : Nat × Nat
  loser : Word
  cores : List Nat
  tiles : Nat

/-- The lowest of a list of cores of a reel, by package and core. -/
def lowest (s : State) (l : List Nat) : Nat × Nat :=
  let n := (l.map fun c => let (p, x) := nearCore s c; 4096 * p + x).foldl min (4096 * 63 + 4095)
  (n / 4096, n % 4096)

/-- Sends a GROW message from the home slice of the reel's block; it counts in LIVE. Whether a core of another package has FMT.E4 that package
has told (log 109). -/
def sendGrow (s : State) (r : Reel) (closed : Bool) (g : Grow) : State :=
  let w8 := hwPeek s r.part (r.rcb + 8)
  let s := hwPoke s r.part (r.rcb + 64) (hwPeek s r.part (r.rcb + 64) + 1)
  let (pkg, core) := g.core
  let (lp, lc) := lowest s g.cores
  let pay := [BitVec.ofNat 64 g.taker, BitVec.ofNat 64 r.round, if closed then 0 else BitVec.ofNat 64 r.allowance, g.loser,
    coreIdWord lp lc, BitVec.ofNat 64 g.cores.length, BitVec.ofNat 64 ((if closed then 1 else 0) + 256 * g.tiles)]
  if pkg = s.pkg then hwMessage s r.part (homeOf s r.rcb) core 2 r.rcb (rcbPrio w8) r.geoff (bitAt (s.core core).fmt 0) lp lc pay
  else hwMessageTo s r.part r.rcb pkg core 2 r.geoff (((fget r.parts pkg).map fun t => t.e4.getLsbD g.taker).getD false) lp lc pay

/-- Kills a loser and passes what it held, here and on the other packages: the state, the reel, what the survivor is told. -/
def beat (s : State) (r : Reel) (l sv : Nat) : State × Reel × Grow :=
  let s := killEntrant s r l
  let far := r.parts.foldl (fun n p => n + (fget p.2.tiles l).getD 0) 0
  let n := (entrantTiles s r l).length + far
  let g : Grow := { taker := sv, core := lowest s (r.held.getD sv []), loser := BitVec.ofNat 64 l, cores := r.held.getD l [], tiles := n }
  let r' := { r.passCores l sv with alive := r.alive &&& ~~~(BitVec.ofNat 64 (2 ^ l)) }
  let s := (s.peersOf r.part).foldl (fun s p => gangFlit s r.part r.rcb p r.id 41 (l + 64 * sv)) s
  (setReel (passTiles s r l sv) r', r', g)

/-! ### The end of a round (R448, R452) -/

/-- Entrants beaten one after another. -/
def beatAll : List (Nat × Nat) → State → Reel → List Grow → State × Reel × List Grow
  | [], s, r, gs => (s, r, gs)
  | (l, sv) :: rest, s, r, gs =>
    let (s, r, g) := beat s r l sv
    beatAll rest s r (gs ++ [g])

/-- The reel goes on with a new round. -/
def nextRound (s : State) (old : Reel) (ranks : List Nat) : State :=
  let h := ranks.length / 2
  let pairs := (ranks.drop h).zip (ranks.take h)
  let (s, r, gs) := beatAll pairs s old []
  let new := { r with round := old.round + 1, since := s.now, late := false }
  let s := reelNews (reelCopy (setReel s new) new false) new 0 0
  let s := (ranks.take h).foldl (fun s e => releaseEntrant s old new false e (BitVec.ofNat 64 new.allowance)) s
  gs.foldl (fun s g => sendGrow s new false g) (releaseOthers s new false)

/-- The reel closes with a winner (R452). -/
def closeReel (s : State) (old : Reel) (w : Nat) (losers : List Nat) : State :=
  let (s, r, gs) := beatAll (losers.map fun l => (l, w)) s old []
  let s := rcbPut (reelNews (reelCopy s r true) r 1 w) r.part r.rcb 8 0 2 0
  let s := forgetEnts s r
  let s := releaseOthers (releaseEntrant s old r true w 0) old true
  let s := { s with reels := s.reels.filter fun x => decide (x.id ≠ r.id) }
  let one : Word := match losers with
    | [l] => BitVec.ofNat 64 l
    | _ => BitVec.ofInt 64 (-1)
  let g : Grow := { taker := w, core := lowest s (old.held.getD w []), loser := one,
                    cores := gs.flatMap (·.cores), tiles := gs.foldl (fun n g => n + g.tiles) 0 }
  sendGrow s r true g

/-- R448: every alive entrant has stopped, and the ranking unit ends the round. Of a reel of another package this one tells its part. -/
def execRoundEnd (id : Nat) (s : State) : Out :=
  .next (match s.reels.find? (fun r => decide (r.id = id)) with
    | none => s
    | some r =>
      if let some p := r.home then reelReport s r p
      else if !roundOver s r then s
      else
        match r.ranks with
        | [] => s
        | w :: rest => if r.fin.getLsbD w || decide (rest.length ≤ 1) then closeReel s r w rest else nextRound s r (w :: rest))

end Sys2Proof.Machine
end

