-- ==== Sys2Proof/Machine/Image.lean ====
section
/-! DEFINITION. The launch of an image (02 R70-R73): a launcher that runs on a core builds the control block, maps and fills the
sections, claims and fills the tiles of the `.tiles` directives, opens the pots of the `.pot` directives, and launches. -/

namespace Sys2Proof.Machine

/-- Writes a byte of a section, whatever its page permits: the launcher maps the page (R71); none where no page is mapped. -/
def putByte (s : State) (part va : Nat) (b : Byte) : Option State :=
  match xlateAny s part va with
  | .ok pte _ pa => some (homeWrite (oweRecall s part va) none part va pa (pteRemote s pte) [b])
  | _ => none

/-- Writes bytes of a section in turn; false when one could not be written. -/
def putBytes (part : Nat) : List Byte → Nat → State → State × Bool
  | [], _, s => (s, true)
  | b :: r, va, s =>
    match putByte s part va b with
    | some s => putBytes part r (va + 1) s
    | none => ((putBytes part r (va + 1) s).1, false)

/-- The bytes at an address as the launcher reads them; none where translation fails. -/
def getBytes (s : State) (part va n : Nat) : Option (List Byte) :=
  (List.range n).mapM fun i => match hwRead s part (va + i) 1 with
    | .ok (_, v) => some (BitVec.ofNat 8 v)
    | .error _ => none

/-- One after another, with whether each of them could be done. -/
def doAll {α : Type} (f : α → State → State × Bool) (l : List α) (x : State × Bool) : State × Bool :=
  l.foldl (fun x a => let y := f a x.1; (y.1, x.2 && y.2)) x

/-- The page-table entries, the dwords of the block, and the sections (R71, steps 1 and 2), and whether every one could be written. -/
def imageBuild (part : Nat) (img : Image) (s : State) : State × Bool :=
  let page := fun (x : Nat × Word) (s : State) => if paOk s x.1 ∧ x.1 % 8 = 0 then (physWrite s x.1 (leBytes 8 x.2.toNat), true) else (s, false)
  let dword := fun (x : Nat × Word) (s : State) =>
    match hwWrite s part (img.rcb + x.1 % 512 / 8 * 8) 8 x.2.toNat with
    | .ok s => (s, true)
    | .error _ => (s, false)
  doAll (fun x s => putBytes part x.2 x.1 s) img.sections (doAll dword img.block (doAll page img.pages (s, true)))

/-- The clusters of a placement, rising. -/
def placedClusters (s : State) (part place : Nat) : List Nat := ((placed s part place).map clusterOf).eraseDups

/-- Claims entry i of a `.tiles` directive in a cluster, and fills it (R72). -/
def imageTile (part parent rcb : Nat) (t : ImageTiles) (cl i : Nat) (s : State) : Option State :=
  let n := t.first + i
  let x := (s.cluster cl).tile n
  if x.owner.isSome ∨ x.st = 3 then none
  else
    (freeRun (s.cluster cl) t.grans).bind fun b =>
      let s := claimTile s cl n b t.grans ⟨part, rcb⟩ (entrantOf s part parent (4 * cl)) (if t.init.isSome then 2 else 0)
      match t.init with
      | none => some s
      | some a => (getBytes s part (a + i * t.grans * 2048) (t.grans * 2048)).map fun l =>
          s.onCluster cl fun c => { c with spad := mwrite c.spad (b * 2048) l }

/-- Every entry of a directive in every cluster of the placement. -/
def imageTiles (part parent rcb budget : Nat) (cls : List Nat) (t : ImageTiles) (s : State) : Option State :=
  if budget < t.count then none
  else cls.foldl (fun s cl => (List.range t.count).foldl (fun s i => s.bind (imageTile part parent rcb t cl i)) s) (some s)

/-- Opens a pot of a `.pot` directive and writes its handle (15 R397). -/
def imagePot (core part : Nat) (p : ImagePot) (s : State) : Option State :=
  let (s, h) := potOpenPlace s core part p.addr p.d p.l p.fast 0 p.e
  if h.toNat % 2 ^ 32 = 0 then none else (hwWrite s part p.addr 8 h.toNat).toOption

/-- Steps 3 and 4 of R71: the state after them, or the failure status. -/
def imageClaims (core part parent : Nat) (img : Image) (b : Budget) (s : State) : State ⊕ Nat :=
  match img.tiles.foldl (fun (o : Option State) t => o.bind (imageTiles part parent img.rcb b.tiles (placedClusters s part b.place) t)) (some s) with
  | none => .inr 8
  | some s =>
    match img.pots.foldl (fun (o : Option State) p => o.bind (imagePot core part p)) (some s) with
    | none => .inr 9
    | some s => .inl s

/-- Whether an image has the form that the directives allow (R72). -/
def imageOk (img : Image) : Bool :=
  decide (img.rcb % 512 = 0) && (img.tiles.all fun t => decide (t.first + t.count ≤ 256 ∧ 1 ≤ t.grans ∧ t.count * t.grans ≤ 1024)) &&
    img.pots.all fun p => decide (p.addr % 8 = 0)

/-- R71: the region of the activation that runs on a core launches an image as a child. Claims and pots of a launch that fails are
undone. Table 13.10 has no status for a failure of step 1 or 2: it is free (log 86). -/
def imageLaunch (core : Nat) (img : Image) (s : State) : State :=
  match (s.core core).running with
  | none => s
  | some (_, a) =>
    if !imageOk img then s
    else
      let p := a.part
      let built := imageBuild p img s
      let s := built.1
      let b := inherit s p img.rcb (some a.rp)
      let fail := fun c => launchDone s p img.rcb 4 c
      let c := launchChecks s p img.rcb (some a.rp) none none b
      if !built.2 then launchDone s.used p img.rcb 4 (1 + s.freeNat % 255)
      else if c ≠ 0 then fail c
      else
        match imageClaims core p a.rp img b s with
        | .inr c => fail c
        | .inl t =>
          if !parentRuns s p (some a.rp) then fail 10
          else launchGo t p img.rcb (some a.rp) none (some core) (bitAt (s.core core).fmt 0) b

end Sys2Proof.Machine
end

