-- ==== Sys2Proof/Machine/Vector.lean ====
section
/-! DEFINITION. Packed SIMD: lanes and masks (05 R145-R151), mask operations (R152), moves (R153), integer, logic,
shift and compare (R154-R157), floating point (R158-R160), permutes (R161), reductions and dot products
(R162-R164), conversions (R165). -/

namespace Sys2Proof.Machine

/-! ### Lanes -/

/-- Lane j of width w (R145). -/
def lane (v : BitVec 128) (w j : Nat) : BitVec w := v.extractLsb' (w * j) w

/-- A register from the values of its lanes, lane 0 first. -/
def ofLanes (w : Nat) (l : List Nat) : BitVec 128 := BitVec.ofNat 128 (l.foldr (fun x r => x % 2 ^ w + 2 ^ w * r) 0)

/-- Lane width of a size code. -/
def widthOf (z : BitVec 2) : Nat := 8 * 2 ^ z.toNat

/-- Whether a mask field makes lane j active (R146). -/
def State.active (s : State) (m : BitVec 3) (j : Nat) : Bool := decide (m = 0) || (s.rk m).getLsbD j

/-- Writes active lanes of a register; inactive lanes keep the value at issue and raise no flag (R146). -/
def State.lanesF (s : State) (d : VReg) (m : BitVec 3) (w : Nat) (f : Nat → Flagged Nat) : State :=
  let old := s.rv d
  let r := Flagged.all ((List.range (128 / w)).map fun j =>
    if s.active m j then f j else Flagged.pure (lane old w j).toNat)
  (s.wv d (ofLanes w r.val)).orFlags r.flags

/-- Writes active lanes with a result that sets no flag. -/
def State.lanes (s : State) (d : VReg) (m : BitVec 3) (w : Nat) (f : Nat → Nat) : State :=
  s.wv d (ofLanes w ((List.range (128 / w)).map fun j => if s.active m j then f j else (lane (s.rv d) w j).toNat))

/-- A two-operand integer form. -/
def State.vop (s : State) (d a b : VReg) (m : BitVec 3) (w : Nat) (f : BitVec w → BitVec w → BitVec w) : State :=
  s.lanes d m w fun j => (f (lane (s.rv a) w j) (lane (s.rv b) w j)).toNat

/-- A saturating form. -/
def State.vsat (s : State) (d a b : VReg) (m : BitVec 3) (w : Nat) (f : BitVec w → BitVec w → Flagged Int) : State :=
  s.lanesF d m w fun j => (f (lane (s.rv a) w j) (lane (s.rv b) w j)).map fun x => (BitVec.ofInt w x).toNat

/-- Bits of a mask register, bit j where lane j is active and its condition holds (R157). -/
def State.vcmpI (s : State) (d : KReg) (a b : VReg) (m : BitVec 3) (w : Nat) (f : BitVec w → BitVec w → Bool) : State :=
  s.wk d (BitVec.ofNat 16 (bitsOf ((List.range (128 / w)).filter fun j =>
    s.active m j && f (lane (s.rv a) w j) (lane (s.rv b) w j))))

/-- A floating-point form of two operands and the old lane (R149, R158). -/
def State.vfp (s : State) (fmt : Fmt) (d a b : VReg) (m : BitVec 3) (f : Nat → Nat → Nat → Flagged Nat) : State :=
  let w := fmt.width
  s.lanesF d m w fun j => f (lane (s.rv a) w j).toNat (lane (s.rv b) w j).toNat (lane (s.rv d) w j).toNat

/-- A floating-point form with a scalar operand (R160). -/
def State.vfps (s : State) (d a : VReg) (sb : SReg) (m : BitVec 3) (f : Nat → Nat → Nat → Flagged Nat) : State :=
  let x := (lo32 (s.rs sb)).toNat
  s.lanesF d m 32 fun j => f (lane (s.rv a) 32 j).toNat x (lane (s.rv d) 32 j).toNat

/-- An integer form with a scalar operand (R160). -/
def State.vops (s : State) (d a : VReg) (sb : SReg) (m : BitVec 3) (f : BitVec 32 → BitVec 32 → BitVec 32) : State :=
  s.lanes d m 32 fun j => (f (lane (s.rv a) 32 j) (lo32 (s.rs sb))).toNat

/-- A floating-point compare (R159): flags of active lanes only. -/
def State.vcmpFp (s : State) (fmt : Fmt) (d : KReg) (a b : VReg) (m : BitVec 3) (p : BitVec 2) : State :=
  let w := fmt.width
  let r := Flagged.all ((List.range (128 / w)).map fun j =>
    if s.active m j then fmt.cmp p (lane (s.rv a) w j).toNat (lane (s.rv b) w j).toNat else Flagged.pure false)
  (s.wk d (BitVec.ofNat 16 (bitsOf ((List.range (128 / w)).filter fun j => r.val.getD j false)))).orFlags r.flags

/-- a * b + d of lane codes under a rounding mode; `n` negates the product (R158). -/
def fmaCode (f : Fmt) (rm : RMode) (n : Bool) (a b d : Nat) : Flagged Nat :=
  let x := f.read a
  f.fmaNum rm (if n then x.opp else x) (f.read b) (f.read d)

/-- Active lanes of a register. -/
def State.actives (s : State) (a : VReg) (m : BitVec 3) (w : Nat) : List (BitVec w) :=
  ((List.range (128 / w)).filter (s.active m)).map fun j => lane (s.rv a) w j

/-- Lane 0 of a register, every other bit 0 (R162). -/
def State.wlow (s : State) (d : VReg) (v : Nat) : State := s.wv d (BitVec.ofNat 128 v)

/-- A sum of FP32 codes in the tree of R163: adjacent pairs, until one value is left. -/
def treeSum : Nat → List Nat → Flagged Nat
  | 0, l => Flagged.pure (l.headD 0)
  | n + 1, l =>
    let rec pairs : List Nat → List (Flagged Nat)
      | a :: b :: r => Fmt.f32.add .rn a b :: pairs r
      | [a] => [Flagged.pure a]
      | [] => []
    let p := Flagged.all (pairs l)
    let r := treeSum n p.val
    ⟨r.val, p.flags ||| r.flags⟩

/-- A minimum or maximum of FP32 codes under R150, from an identity. -/
def foldMinMax (mx : Bool) (z : Nat) (l : List Nat) : Flagged Nat :=
  l.foldl (fun r x => let y := Fmt.f32.minmax mx r.val x; ⟨y.val, r.flags ||| y.flags⟩) ⟨z, 0⟩

/-- An integer dot product into 32-bit lanes (R164). -/
def State.vdotI (s : State) (d a b : VReg) (m : BitVec 3) (w : Nat) (f : BitVec w → Int) : State :=
  s.lanes d m 32 fun i =>
    let n := 32 / w
    let t : Int := ((List.range n).map fun k => f (lane (s.rv a) w (n * i + k)) * f (lane (s.rv b) w (n * i + k))).sum
    (BitVec.ofInt 32 ((lane (s.rv d) 32 i).toInt + t)).toNat

/-- A floating-point dot product into FP32 lanes (R164): one rounding of the exact sum; an exact zero is -0 only when
every term is -0 (log 15). A NaN in the old lane, which is no product, sets NV only when it signals (03 R84, log 15). -/
def State.vdotF (s : State) (fmt : Fmt) (d a b : VReg) (m : BitVec 3) : State :=
  s.lanesF d m 32 fun i =>
    let w := fmt.width
    let n := 32 / w
    let at_ := fun (r : VReg) => (List.range n).map fun k => (lane (s.rv r) w (n * i + k)).toNat
    let ps := products fmt fmt (at_ a) (at_ b)
    let old := Fmt.f32.read (lane (s.rv d) 32 i).toNat
    if old.isNan then ⟨Fmt.f32.nan, (sumNum ps false).flags &&& fNV ||| if old.isSnan then fNV else 0⟩
    else
      let terms := ps ++ [(old, false)]
      sumNum terms (terms.all fun t => t.1.isZero && t.1.negative)

/-- A narrowing conversion (R165): n results of width w at part p; part 0 zeroes the rest, others keep it. -/
def State.narrowTo (s : State) (d : VReg) (w n p : Nat) (f : Nat → Flagged Nat) : State :=
  let r := Flagged.all ((List.range n).map f)
  let part : BitVec 128 := BitVec.ofNat 128 (r.val.foldr (fun x y => x % 2 ^ w + 2 ^ w * y) 0)
  let mask : BitVec 128 := BitVec.ofNat 128 ((2 ^ (w * n) - 1) * 2 ^ (w * n * p))
  let keep := if p = 0 then 0 else s.rv d &&& ~~~mask
  (s.wv d (keep ||| (part <<< (w * n * p)))).orFlags r.flags

/-- A conversion that writes every lane of width w. -/
def State.convAll (s : State) (d : VReg) (w : Nat) (f : Nat → Flagged Nat) : State :=
  let r := Flagged.all ((List.range (128 / w)).map f)
  (s.wv d (ofLanes w r.val)).orFlags r.flags

/-- Table 5.1. -/
def execKand (d a b : KReg) (s : State) : Out :=
  .next (s.wk d (s.rk a &&& s.rk b))

/-- Table 5.1. -/
def execKor (d a b : KReg) (s : State) : Out :=
  .next (s.wk d (s.rk a ||| s.rk b))

/-- Table 5.1. -/
def execKxor (d a b : KReg) (s : State) : Out :=
  .next (s.wk d (s.rk a ^^^ s.rk b))

/-- Table 5.1. -/
def execKandn (d a b : KReg) (s : State) : Out :=
  .next (s.wk d (s.rk a &&& ~~~(s.rk b)))

/-- Table 5.1. -/
def execKnot (d a : KReg) (s : State) : Out :=
  .next (s.wk d (~~~(s.rk a)))

/-- Table 5.1. -/
def execKset (d : KReg) (a : SReg) (s : State) : Out :=
  .next (s.wk d ((s.rs a).setWidth 16))

/-- Table 5.1. -/
def execKget (d : SReg) (a : KReg) (s : State) : Out :=
  .next (s.ws d ((s.rk a).setWidth 64))

/-- Table 5.1. -/
def execKpopc (d : SReg) (a : KReg) (s : State) : Out :=
  .next (s.ws d (BitVec.ofNat 64 (popcount (s.rk a))))

/-- Table 5.1: 16 when the mask is 0. -/
def execKffs (d : SReg) (a : KReg) (s : State) : Out :=
  .next (s.ws d (BitVec.ofNat 64 (((List.range 16).find? (fun i => (s.rk a).getLsbD i)).getD 16)))

/-- Table 5.2: bits w - 1 : 0 of sB in every active lane. -/
def execVbcast (d : VReg) (a : SReg) (m : BitVec 3) (z : BitVec 2) (s : State) : Out :=
  .next (s.lanes d m (widthOf z) fun _ => (s.rs a).toNat)

/-- Table 5.2: one lane; takes no mask (R147). -/
def execVins (d : VReg) (a : SReg) (e : BitVec 5) (m : BitVec 3) (z : BitVec 2) (s : State) : Out :=
  .next (let w := widthOf z
    let s := s.qualIf (m ≠ 0)
    s.lanes d 0 w fun j => if j = e.toNat then (s.rs a).toNat else (lane (s.rv d) w j).toNat)

/-- Table 5.2: a lane sign-extended; takes no mask. -/
def execVextI (d : SReg) (a : VReg) (e : BitVec 5) (m : BitVec 3) (z : BitVec 2) (s : State) : Out :=
  .next ((s.qualIf (m ≠ 0)).ws d ((lane (s.rv a) (widthOf z) e.toNat).signExtend 64))

/-- Table 5.2: a lane zero-extended; takes no mask. -/
def execVextN (d : SReg) (a : VReg) (e : BitVec 5) (m : BitVec 3) (z : BitVec 2) (s : State) : Out :=
  .next ((s.qualIf (m ≠ 0)).ws d ((lane (s.rv a) (widthOf z) e.toNat).setWidth 64))

/-- Table 5.3. -/
def execVadd (d a b : VReg) (m : BitVec 3) (z : BitVec 2) (s : State) : Out :=
  .next (s.vop d a b m (widthOf z) fun x y => x + y)

/-- Table 5.3. -/
def execVsub (d a b : VReg) (m : BitVec 3) (z : BitVec 2) (s : State) : Out :=
  .next (s.vop d a b m (widthOf z) fun x y => x - y)

/-- Table 5.3. -/
def execVmul (d a b : VReg) (m : BitVec 3) (z : BitVec 2) (s : State) : Out :=
  .next (s.vop d a b m (widthOf z) fun x y => x * y)

/-- Table 5.3, saturated (R76). -/
def execVaddsI (d a b : VReg) (m : BitVec 3) (z : BitVec 2) (s : State) : Out :=
  .next (s.vsat d a b m (widthOf z) fun x y => satSigned (widthOf z) (x.toInt + y.toInt))

/-- Table 5.3, saturated (R76). -/
def execVaddsN (d a b : VReg) (m : BitVec 3) (z : BitVec 2) (s : State) : Out :=
  .next (s.vsat d a b m (widthOf z) fun x y => satUnsigned (widthOf z) ((x.toNat : Int) + y.toNat))

/-- Table 5.3, saturated (R76). -/
def execVsubsI (d a b : VReg) (m : BitVec 3) (z : BitVec 2) (s : State) : Out :=
  .next (s.vsat d a b m (widthOf z) fun x y => satSigned (widthOf z) (x.toInt - y.toInt))

/-- Table 5.3, saturated (R76). -/
def execVsubsN (d a b : VReg) (m : BitVec 3) (z : BitVec 2) (s : State) : Out :=
  .next (s.vsat d a b m (widthOf z) fun x y => satUnsigned (widthOf z) ((x.toNat : Int) - y.toNat))

/-- Table 5.3: the most negative value stays. -/
def execVabs (d a : VReg) (m : BitVec 3) (z : BitVec 2) (s : State) : Out :=
  .next (s.vop d a a m (widthOf z) fun x _ => if x.msb then -x else x)

/-- Table 5.4. -/
def execVand (d a b : VReg) (m : BitVec 3) (z : BitVec 2) (s : State) : Out :=
  .next (s.vop d a b m (widthOf z) fun x y => x &&& y)

/-- Table 5.4. -/
def execVor (d a b : VReg) (m : BitVec 3) (z : BitVec 2) (s : State) : Out :=
  .next (s.vop d a b m (widthOf z) fun x y => x ||| y)

/-- Table 5.4. -/
def execVxor (d a b : VReg) (m : BitVec 3) (z : BitVec 2) (s : State) : Out :=
  .next (s.vop d a b m (widthOf z) fun x y => x ^^^ y)

/-- Table 5.4. -/
def execVandn (d a b : VReg) (m : BitVec 3) (z : BitVec 2) (s : State) : Out :=
  .next (s.vop d a b m (widthOf z) fun x y => x &&& ~~~y)

/-- Table 5.4. -/
def execVorn (d a b : VReg) (m : BitVec 3) (z : BitVec 2) (s : State) : Out :=
  .next (s.vop d a b m (widthOf z) fun x y => x ||| ~~~y)

/-- Table 5.4. -/
def execVxnor (d a b : VReg) (m : BitVec 3) (z : BitVec 2) (s : State) : Out :=
  .next (s.vop d a b m (widthOf z) fun x y => ~~~(x ^^^ y))

/-- Table 5.4: (a & d) | (b & ~d). -/
def execVbsl (d a b : VReg) (m : BitVec 3) (z : BitVec 2) (s : State) : Out :=
  .next (s.lanes d m (widthOf z) fun j => ((lane (s.rv a) (widthOf z) j &&& lane (s.rv d) (widthOf z) j) ||| (lane (s.rv b) (widthOf z) j &&& ~~~(lane (s.rv d) (widthOf z) j))).toNat)

/-- Table 5.4. -/
def execVmov (d a : VReg) (m : BitVec 3) (z : BitVec 2) (s : State) : Out :=
  .next (s.vop d a a m (widthOf z) fun x _ => x)

/-- Table 5.5: the amount is lane j of vb modulo w. -/
def execVshl (d a b : VReg) (m : BitVec 3) (z : BitVec 2) (s : State) : Out :=
  .next (s.vop d a b m (widthOf z) fun x y => x <<< (y.toNat % widthOf z))

/-- Table 5.5: the amount is lane j of vb modulo w. -/
def execVshrN (d a b : VReg) (m : BitVec 3) (z : BitVec 2) (s : State) : Out :=
  .next (s.vop d a b m (widthOf z) fun x y => x >>> (y.toNat % widthOf z))

/-- Table 5.5: the amount is lane j of vb modulo w. -/
def execVshrI (d a b : VReg) (m : BitVec 3) (z : BitVec 2) (s : State) : Out :=
  .next (s.vop d a b m (widthOf z) fun x y => x.sshiftRight (y.toNat % widthOf z))

/-- Table 5.5: the amount is lane j of vb modulo w. -/
def execVrol (d a b : VReg) (m : BitVec 3) (z : BitVec 2) (s : State) : Out :=
  .next (s.vop d a b m (widthOf z) fun x y => x.rotateLeft (y.toNat % widthOf z))

/-- Table 5.5: the amount is lane j of vb modulo w. -/
def execVror (d a b : VReg) (m : BitVec 3) (z : BitVec 2) (s : State) : Out :=
  .next (s.vop d a b m (widthOf z) fun x y => x.rotateRight (y.toNat % widthOf z))

/-- Table 5.6. -/
def execVcmpEq (d : KReg) (a b : VReg) (m : BitVec 3) (z : BitVec 2) (s : State) : Out :=
  .next (s.vcmpI d a b m (widthOf z) fun x y => x == y)

/-- Table 5.6. -/
def execVcmpLtI (d : KReg) (a b : VReg) (m : BitVec 3) (z : BitVec 2) (s : State) : Out :=
  .next (s.vcmpI d a b m (widthOf z) fun x y => x.slt y)

/-- Table 5.6. -/
def execVcmpLtN (d : KReg) (a b : VReg) (m : BitVec 3) (z : BitVec 2) (s : State) : Out :=
  .next (s.vcmpI d a b m (widthOf z) fun x y => x.ult y)

/-- Table 5.6. -/
def execVcmpNe (d : KReg) (a b : VReg) (m : BitVec 3) (z : BitVec 2) (s : State) : Out :=
  .next (s.vcmpI d a b m (widthOf z) fun x y => x != y)

/-- Table 5.6. -/
def execVminI (d a b : VReg) (m : BitVec 3) (z : BitVec 2) (s : State) : Out :=
  .next (s.vop d a b m (widthOf z) fun x y => if x.slt y then x else y)

/-- Table 5.6. -/
def execVminN (d a b : VReg) (m : BitVec 3) (z : BitVec 2) (s : State) : Out :=
  .next (s.vop d a b m (widthOf z) fun x y => if x.ult y then x else y)

/-- Table 5.6. -/
def execVmaxI (d a b : VReg) (m : BitVec 3) (z : BitVec 2) (s : State) : Out :=
  .next (s.vop d a b m (widthOf z) fun x y => if x.slt y then y else x)

/-- Table 5.6. -/
def execVmaxN (d a b : VReg) (m : BitVec 3) (z : BitVec 2) (s : State) : Out :=
  .next (s.vop d a b m (widthOf z) fun x y => if x.ult y then y else x)

/-- Table 5.7. -/
def execVaddF32 (d a b : VReg) (m : BitVec 3) (rm : BitVec 2) (s : State) : Out :=
  .next (s.vfp .f32 d a b m fun x y _ => Fmt.f32.add (RMode.of rm) x y)

/-- Table 5.7. -/
def execVsubF32 (d a b : VReg) (m : BitVec 3) (rm : BitVec 2) (s : State) : Out :=
  .next (s.vfp .f32 d a b m fun x y _ => Fmt.f32.sub (RMode.of rm) x y)

/-- Table 5.7. -/
def execVmulF32 (d a b : VReg) (m : BitVec 3) (rm : BitVec 2) (s : State) : Out :=
  .next (s.vfp .f32 d a b m fun x y _ => Fmt.f32.mul (RMode.of rm) x y)

/-- Table 5.7: one rounding. -/
def execVfmaF32 (d a b : VReg) (m : BitVec 3) (rm : BitVec 2) (s : State) : Out :=
  .next (s.vfp .f32 d a b m fun x y o => fmaCode .f32 (RMode.of rm) false x y o)

/-- Table 5.7: d - a * b, one rounding. -/
def execVfnmaF32 (d a b : VReg) (m : BitVec 3) (rm : BitVec 2) (s : State) : Out :=
  .next (s.vfp .f32 d a b m fun x y o => fmaCode .f32 (RMode.of rm) true x y o)

/-- R150; rm has no effect. -/
def execVminF32 (d a b : VReg) (m : BitVec 3) (rm : BitVec 2) (s : State) : Out :=
  .next ((s.qualIf (rm ≠ 0)).vfp .f32 d a b m fun x y _ => Fmt.f32.minmax false x y)

/-- R150; rm has no effect. -/
def execVmaxF32 (d a b : VReg) (m : BitVec 3) (rm : BitVec 2) (s : State) : Out :=
  .next ((s.qualIf (rm ≠ 0)).vfp .f32 d a b m fun x y _ => Fmt.f32.minmax true x y)

/-- R159. -/
def execVcmpF32 (d : KReg) (a b : VReg) (m : BitVec 3) (p : BitVec 2) (s : State) : Out :=
  .next (s.vcmpFp .f32 d a b m p)

/-- Table 5.7. -/
def execVaddBf16 (d a b : VReg) (m : BitVec 3) (rm : BitVec 2) (s : State) : Out :=
  .next (s.vfp .bf16 d a b m fun x y _ => Fmt.bf16.add (RMode.of rm) x y)

/-- Table 5.7. -/
def execVsubBf16 (d a b : VReg) (m : BitVec 3) (rm : BitVec 2) (s : State) : Out :=
  .next (s.vfp .bf16 d a b m fun x y _ => Fmt.bf16.sub (RMode.of rm) x y)

/-- Table 5.7. -/
def execVmulBf16 (d a b : VReg) (m : BitVec 3) (rm : BitVec 2) (s : State) : Out :=
  .next (s.vfp .bf16 d a b m fun x y _ => Fmt.bf16.mul (RMode.of rm) x y)

/-- Table 5.7: one rounding. -/
def execVfmaBf16 (d a b : VReg) (m : BitVec 3) (rm : BitVec 2) (s : State) : Out :=
  .next (s.vfp .bf16 d a b m fun x y o => fmaCode .bf16 (RMode.of rm) false x y o)

/-- Table 5.7: d - a * b, one rounding. -/
def execVfnmaBf16 (d a b : VReg) (m : BitVec 3) (rm : BitVec 2) (s : State) : Out :=
  .next (s.vfp .bf16 d a b m fun x y o => fmaCode .bf16 (RMode.of rm) true x y o)

/-- R150; rm has no effect. -/
def execVminBf16 (d a b : VReg) (m : BitVec 3) (rm : BitVec 2) (s : State) : Out :=
  .next ((s.qualIf (rm ≠ 0)).vfp .bf16 d a b m fun x y _ => Fmt.bf16.minmax false x y)

/-- R150; rm has no effect. -/
def execVmaxBf16 (d a b : VReg) (m : BitVec 3) (rm : BitVec 2) (s : State) : Out :=
  .next ((s.qualIf (rm ≠ 0)).vfp .bf16 d a b m fun x y _ => Fmt.bf16.minmax true x y)

/-- R159. -/
def execVcmpBf16 (d : KReg) (a b : VReg) (m : BitVec 3) (p : BitVec 2) (s : State) : Out :=
  .next (s.vcmpFp .bf16 d a b m p)

/-- Table 5.9. -/
def execVtbl (d a b : VReg) (m : BitVec 3) (s : State) : Out :=
  .next (s.lanes d m 8 fun j =>
      let i := (lane (s.rv b) 8 j).toNat
      if i < 16 then (lane (s.rv a) 8 i).toNat else if i < 32 then (lane (s.rv d) 8 (i - 16)).toNat else 0)

/-- Table 5.9. -/
def execVzlo (d a b : VReg) (m : BitVec 3) (z : BitVec 2) (s : State) : Out :=
  .next (s.lanes d m (widthOf z) fun j => if j % 2 = 0 then (lane (s.rv a) (widthOf z) (j / 2)).toNat else (lane (s.rv b) (widthOf z) (j / 2)).toNat)

/-- Table 5.9. -/
def execVzhi (d a b : VReg) (m : BitVec 3) (z : BitVec 2) (s : State) : Out :=
  .next (s.lanes d m (widthOf z) fun j => if j % 2 = 0 then (lane (s.rv a) (widthOf z) ((128 / widthOf z / 2) + j / 2)).toNat else (lane (s.rv b) (widthOf z) ((128 / widthOf z / 2) + j / 2)).toNat)

/-- Table 5.9. -/
def execVuzev (d a b : VReg) (m : BitVec 3) (z : BitVec 2) (s : State) : Out :=
  .next (s.lanes d m (widthOf z) fun j => if j < (128 / widthOf z / 2) then (lane (s.rv a) (widthOf z) (2 * j)).toNat else (lane (s.rv b) (widthOf z) (2 * (j - (128 / widthOf z / 2)))).toNat)

/-- Table 5.9. -/
def execVuzod (d a b : VReg) (m : BitVec 3) (z : BitVec 2) (s : State) : Out :=
  .next (s.lanes d m (widthOf z) fun j => if j < (128 / widthOf z / 2) then (lane (s.rv a) (widthOf z) (2 * j + 1)).toNat else (lane (s.rv b) (widthOf z) (2 * (j - (128 / widthOf z / 2)) + 1)).toNat)

/-- Table 5.9. -/
def execVrev (d a : VReg) (m : BitVec 3) (z : BitVec 2) (s : State) : Out :=
  .next (s.lanes d m (widthOf z) fun j => (lane (s.rv a) (widthOf z) (128 / widthOf z - 1 - j)).toNat)

/-- Table 5.9. -/
def execVdup (d a b : VReg) (m : BitVec 3) (z : BitVec 2) (s : State) : Out :=
  .next (s.lanes d m (widthOf z) fun _ => (lane (s.rv a) (widthOf z) ((lane (s.rv b) (widthOf z) 0).toNat % (128 / widthOf z))).toNat)

/-- Table 5.10: wrapping sum. -/
def execVrsumInt (d a : VReg) (m : BitVec 3) (z : BitVec 2) (s : State) : Out :=
  .next (s.wlow d ((s.actives a m (widthOf z)).foldl (fun (x y : BitVec (widthOf z)) => x + y) 0).toNat)

/-- Table 5.10. -/
def execVrminI (d a : VReg) (m : BitVec 3) (z : BitVec 2) (s : State) : Out :=
  .next (s.wlow d ((s.actives a m (widthOf z)).foldl (fun (x y : BitVec (widthOf z)) => if x.slt y then x else y) (BitVec.ofNat (widthOf z) (2 ^ (widthOf z - 1) - 1))).toNat)

/-- Table 5.10. -/
def execVrminN (d a : VReg) (m : BitVec 3) (z : BitVec 2) (s : State) : Out :=
  .next (s.wlow d ((s.actives a m (widthOf z)).foldl (fun (x y : BitVec (widthOf z)) => if x.ult y then x else y) (BitVec.allOnes (widthOf z))).toNat)

/-- Table 5.10. -/
def execVrmaxI (d a : VReg) (m : BitVec 3) (z : BitVec 2) (s : State) : Out :=
  .next (s.wlow d ((s.actives a m (widthOf z)).foldl (fun (x y : BitVec (widthOf z)) => if x.slt y then y else x) (BitVec.ofNat (widthOf z) (2 ^ (widthOf z - 1)))).toNat)

/-- Table 5.10. -/
def execVrmaxN (d a : VReg) (m : BitVec 3) (z : BitVec 2) (s : State) : Out :=
  .next (s.wlow d ((s.actives a m (widthOf z)).foldl (fun (x y : BitVec (widthOf z)) => if x.ult y then y else x) (0)).toNat)

/-- R163: BF16 lanes widened exactly. -/
def execVrsumBf16 (d a : VReg) (m : BitVec 3) (s : State) : Out :=
  .next (let r := treeSum 3 ((List.range 8).map fun j => if s.active m j then (lane (s.rv a) 16 j).toNat * 2 ^ 16 else 0)
    (s.wlow d r.val).orFlags r.flags)

/-- R163. -/
def execVrsumF32 (d a : VReg) (m : BitVec 3) (s : State) : Out :=
  .next (let r := treeSum 2 ((List.range 4).map fun j => if s.active m j then (lane (s.rv a) 32 j).toNat else 0)
    (s.wlow d r.val).orFlags r.flags)

/-- Table 5.10, R150. -/
def execVrmaxF32 (d a : VReg) (m : BitVec 3) (s : State) : Out :=
  .next (let r := foldMinMax true (Fmt.f32.inf true) ((s.actives a m 32).map (·.toNat))
    (s.wlow d r.val).orFlags r.flags)

/-- Table 5.10, R150. -/
def execVrminF32 (d a : VReg) (m : BitVec 3) (s : State) : Out :=
  .next (let r := foldMinMax false (Fmt.f32.inf false) ((s.actives a m 32).map (·.toNat))
    (s.wlow d r.val).orFlags r.flags)

/-- Table 5.11. -/
def execVdotI8 (d a b : VReg) (m : BitVec 3) (s : State) : Out :=
  .next (s.vdotI d a b m 8 fun x => x.toInt)

/-- Table 5.11. -/
def execVdotN8 (d a b : VReg) (m : BitVec 3) (s : State) : Out :=
  .next (s.vdotI d a b m 8 fun x => (x.toNat : Int))

/-- Table 5.11. -/
def execVdotI16 (d a b : VReg) (m : BitVec 3) (s : State) : Out :=
  .next (s.vdotI d a b m 16 fun x => x.toInt)

/-- Table 5.11. -/
def execVdotBf16 (d a b : VReg) (m : BitVec 3) (s : State) : Out :=
  .next (s.vdotF .bf16 d a b m)

/-- Table 5.11: the reading of FMT.E4 at issue (R89). -/
def execVdotE4m3 (d a b : VReg) (m : BitVec 3) (s : State) : Out :=
  .next (s.vdotF (.e4m3 s.e4) d a b m)

/-- Table 5.11. -/
def execVdotE5m2 (d a b : VReg) (m : BitVec 3) (s : State) : Out :=
  .next (s.vdotF .e5m2 d a b m)

/-- Codes 0 and 1. -/
def execVcvtBf16F32 (d a : VReg) (m : BitVec 3) (p : BitVec 1) (rm : BitVec 2) (s : State) : Out :=
  .next ((s.qualIf (m ≠ 0)).narrowTo d 16 4 p.toNat fun j => Fmt.f32.convert .bf16 (RMode.of rm) (lane (s.rv a) 32 j).toNat)

/-- Codes 2 and 3, exact. -/
def execVcvtF32Bf16 (d a : VReg) (m : BitVec 3) (p : BitVec 1) (rm : BitVec 2) (s : State) : Out :=
  .next ((s.qualIf (m ≠ 0 || rm ≠ 0)).convAll d 32 fun j => Fmt.bf16.convert .f32 .rn (lane (s.rv a) 16 (4 * p.toNat + j)).toNat)

/-- Codes 4 to 7. -/
def execVcvtE4m3F32 (d a : VReg) (m : BitVec 3) (p rm : BitVec 2) (s : State) : Out :=
  .next ((s.qualIf (m ≠ 0)).narrowTo d 8 4 p.toNat fun j => Fmt.f32.convert (.e4m3 s.e4) (RMode.of rm) (lane (s.rv a) 32 j).toNat)

/-- Codes 8 to 11. -/
def execVcvtE5m2F32 (d a : VReg) (m : BitVec 3) (p rm : BitVec 2) (s : State) : Out :=
  .next ((s.qualIf (m ≠ 0)).narrowTo d 8 4 p.toNat fun j => Fmt.f32.convert .e5m2 (RMode.of rm) (lane (s.rv a) 32 j).toNat)

/-- Codes 12 to 15, exact. -/
def execVcvtF32E4m3 (d a : VReg) (m : BitVec 3) (p rm : BitVec 2) (s : State) : Out :=
  .next ((s.qualIf (m ≠ 0 || rm ≠ 0)).convAll d 32 fun j => (Fmt.e4m3 s.e4).convert .f32 .rn (lane (s.rv a) 8 (4 * p.toNat + j)).toNat)

/-- Codes 16 to 19, exact. -/
def execVcvtF32E5m2 (d a : VReg) (m : BitVec 3) (p rm : BitVec 2) (s : State) : Out :=
  .next ((s.qualIf (m ≠ 0 || rm ≠ 0)).convAll d 32 fun j => Fmt.e5m2.convert .f32 .rn (lane (s.rv a) 8 (4 * p.toNat + j)).toNat)

/-- Codes 20 and 21 (R77). -/
def execVcvtI32F32 (d a : VReg) (m : BitVec 3) (rm : BitVec 2) (s : State) : Out :=
  .next ((s.qualIf (m ≠ 0)).convAll d 32 fun j => (Fmt.f32.toInt (RMode.of rm) true 32 (lane (s.rv a) 32 j).toNat).map fun x => (BitVec.ofInt 32 x).toNat)

/-- Codes 20 and 21 (R77). -/
def execVcvtN32F32 (d a : VReg) (m : BitVec 3) (rm : BitVec 2) (s : State) : Out :=
  .next ((s.qualIf (m ≠ 0)).convAll d 32 fun j => (Fmt.f32.toInt (RMode.of rm) false 32 (lane (s.rv a) 32 j).toNat).map fun x => (BitVec.ofInt 32 x).toNat)

/-- Code 22. -/
def execVcvtF32I32 (d a : VReg) (m : BitVec 3) (rm : BitVec 2) (s : State) : Out :=
  .next ((s.qualIf (m ≠ 0)).convAll d 32 fun j => Fmt.f32.ofInt (RMode.of rm) (lane (s.rv a) 32 j).toInt)

/-- Code 23. -/
def execVcvtF32N32 (d a : VReg) (m : BitVec 3) (rm : BitVec 2) (s : State) : Out :=
  .next ((s.qualIf (m ≠ 0)).convAll d 32 fun j => Fmt.f32.ofInt (RMode.of rm) (lane (s.rv a) 32 j).toNat)

/-- Codes 24 and 25, saturating. -/
def execVcvtI16I32 (d a : VReg) (m : BitVec 3) (p : BitVec 1) (rm : BitVec 2) (s : State) : Out :=
  .next ((s.qualIf (m ≠ 0 || rm ≠ 0)).narrowTo d 16 4 p.toNat fun j => (satSigned 16 (lane (s.rv a) 32 j).toInt).map fun x => (BitVec.ofInt 16 x).toNat)

/-- Codes 26 and 27, saturating. -/
def execVcvtI8I16 (d a : VReg) (m : BitVec 3) (p : BitVec 1) (rm : BitVec 2) (s : State) : Out :=
  .next ((s.qualIf (m ≠ 0 || rm ≠ 0)).narrowTo d 8 8 p.toNat fun j => (satSigned 8 (lane (s.rv a) 16 j).toInt).map fun x => (BitVec.ofInt 8 x).toNat)

/-- Codes 28 and 29. -/
def execVcvtI32I16 (d a : VReg) (m : BitVec 3) (p : BitVec 1) (rm : BitVec 2) (s : State) : Out :=
  .next ((s.qualIf (m ≠ 0 || rm ≠ 0)).convAll d 32 fun j => Flagged.pure ((lane (s.rv a) 16 (4 * p.toNat + j)).signExtend 32).toNat)

/-- Codes 30 and 31. -/
def execVcvtI16I8 (d a : VReg) (m : BitVec 3) (p : BitVec 1) (rm : BitVec 2) (s : State) : Out :=
  .next ((s.qualIf (m ≠ 0 || rm ≠ 0)).convAll d 16 fun j => Flagged.pure ((lane (s.rv a) 8 (8 * p.toNat + j)).signExtend 16).toNat)

/-- Table 5.8. -/
def execVaddF32S (d a : VReg) (b : SReg) (m : BitVec 3) (s : State) : Out :=
  .next (s.vfps d a b m fun x y _ => Fmt.f32.add .rn x y)

/-- Table 5.8. -/
def execVsubF32S (d a : VReg) (b : SReg) (m : BitVec 3) (s : State) : Out :=
  .next (s.vfps d a b m fun x y _ => Fmt.f32.sub .rn x y)

/-- Table 5.8. -/
def execVmulF32S (d a : VReg) (b : SReg) (m : BitVec 3) (s : State) : Out :=
  .next (s.vfps d a b m fun x y _ => Fmt.f32.mul .rn x y)

/-- Table 5.8. -/
def execVminF32S (d a : VReg) (b : SReg) (m : BitVec 3) (s : State) : Out :=
  .next (s.vfps d a b m fun x y _ => Fmt.f32.minmax false x y)

/-- Table 5.8. -/
def execVmaxF32S (d a : VReg) (b : SReg) (m : BitVec 3) (s : State) : Out :=
  .next (s.vfps d a b m fun x y _ => Fmt.f32.minmax true x y)

/-- Table 5.8: one rounding. -/
def execVfmaF32S (d a : VReg) (b : SReg) (m : BitVec 3) (s : State) : Out :=
  .next (s.vfps d a b m fun x y o => fmaCode .f32 .rn false x y o)

/-- Table 5.8. -/
def execVaddI32S (d a : VReg) (b : SReg) (m : BitVec 3) (s : State) : Out :=
  .next (s.vops d a b m fun x y => x + y)

/-- Table 5.8. -/
def execVsubI32S (d a : VReg) (b : SReg) (m : BitVec 3) (s : State) : Out :=
  .next (s.vops d a b m fun x y => x - y)

/-- Table 5.8. -/
def execVmulI32S (d a : VReg) (b : SReg) (m : BitVec 3) (s : State) : Out :=
  .next (s.vops d a b m fun x y => x * y)

/-- Table 5.8. -/
def execVshlN32S (d a : VReg) (b : SReg) (m : BitVec 3) (s : State) : Out :=
  .next (s.vops d a b m fun x y => x <<< (y.toNat % 32))

/-- Table 5.8. -/
def execVshrN32S (d a : VReg) (b : SReg) (m : BitVec 3) (s : State) : Out :=
  .next (s.vops d a b m fun x y => x >>> (y.toNat % 32))

/-- Table 5.8. -/
def execVshrI32S (d a : VReg) (b : SReg) (m : BitVec 3) (s : State) : Out :=
  .next (s.vops d a b m fun x y => x.sshiftRight (y.toNat % 32))

end Sys2Proof.Machine
end

