-- ==== Sys2Proof/Machine/Sfu.lean ====
section
/-! DEFINITION. The special-function unit (05 R166-R170). Exact points and special values are those of Table 5.13.
Every other result is a free value (log 2) that must lie within the error of Table 5.14; where the free value does not,
the nearest value takes its place. The error is checked against a fixed-point evaluation with 160 fraction bits, which is nearer to the
exact value than any FP32 code can come to a bound of the table (log 20). -/

namespace Sys2Proof.Machine

/-! ### Fixed point: integers in units of 2^-160 -/

def fxBits : Nat := 160
def fxOne : Int := 2 ^ 160
def fxMul (a b : Int) : Int := a * b / fxOne
def fxPi : Int := 4591442807048218921384805199743311128454155024418
def fxLn2 : Int := 1013035739299659071135698605846798551586536899366
def fxLog2e : Int := 2108501164428393954197770173035669514763056903505

/-- A finite value in units of 2^-160, rounded down. -/
def fxOf (d : Dy) : Int :=
  let e := d.e + 160
  if 0 ≤ e then d.m * 2 ^ e.toNat else d.m / 2 ^ (-e).toNat

/-- The terms of e^y from term k on (n of them). -/
def expTerms (y : Int) : Nat → Nat → Int → Int
  | 0, _, _ => 0
  | n + 1, k, t => t + expTerms y n (k + 1) (fxMul t y / (k + 1))

/-- 2^x of a fixed-point x: a fraction from 1 to 2 and an exponent. -/
def fxExp2 (x : Int) : Dy :=
  let n := x / fxOne
  let f := x - n * fxOne
  ⟨expTerms (fxMul f fxLn2) 48 0 fxOne, n - 160⟩

/-- e^x. -/
def fxExp (x : Int) : Dy := fxExp2 (fxMul x fxLog2e)

/-- A quotient of positive values to about 160 bits. -/
def dyDiv (a b : Dy) : Dy := ⟨a.m * 2 ^ 480 / b.m, a.e - b.e - 480⟩

/-- The terms of atanh z. -/
def atanhTerms (z2 : Int) : Nat → Nat → Int → Int
  | 0, _, _ => 0
  | n + 1, k, t => t / (2 * k + 1) + atanhTerms z2 n (k + 1) (fxMul t z2)

/-- log2 of a positive value. -/
def fxLog2 (d : Dy) : Dy :=
  let top := Nat.log2 d.m.natAbs
  let m := d.m * 2 ^ 160 / 2 ^ top
  let z := (m - fxOne) * fxOne / (m + fxOne)
  let l := 2 * atanhTerms (fxMul z z) 60 0 z
  ⟨fxMul l fxLog2e + (d.e + top) * fxOne, -160⟩

/-- Terms of the sine (k odd) or cosine (k even) series. -/
def trigTerms (y2 : Int) : Nat → Nat → Int → Int
  | 0, _, _ => 0
  | n + 1, k, t => t + trigTerms y2 n (k + 2) (-(fxMul t y2) / ((k + 1) * (k + 2)))

/-- sin(pi x) of a fixed-point x. -/
def fxSinpi (x : Int) : Dy :=
  let r := (x + fxOne / 2) % fxOne - fxOne / 2
  let n := (x - r) / fxOne
  let y := fxMul r fxPi
  let v := trigTerms (fxMul y y) 40 1 y
  ⟨if n % 2 = 0 then v else -v, -160⟩

/-- tanh x by e^2x. -/
def fxTanh (x : Int) : Dy :=
  let e := fxExp (2 * x)
  (dyDiv (e.add ⟨-1, 0⟩) (e.add ⟨1, 0⟩))

/-- 1/(1 + e^-x) as e^x/(1 + e^x). -/
def fxSigm (x : Int) : Dy :=
  let e := fxExp x
  dyDiv e (e.add ⟨1, 0⟩)

/-- Square root to about 240 bits. -/
def dySqrt (a : Dy) : Dy :=
  let m := a.m.natAbs * 2 ^ 480 * (if a.e % 2 = 0 then 1 else 2)
  let e := if a.e % 2 = 0 then a.e else a.e - 1
  ⟨((Nat.sqrt m : Nat) : Int), e / 2 - 240⟩

/-! ### Errors (Table 5.14) -/

/-- One ULP of FP32 at a value. -/
def ulpOf (d : Dy) : Dy :=
  if d.m = 0 then ⟨1, -149⟩
  else ⟨1, max ((Nat.log2 d.m.natAbs : Int) + d.e) (-126) - 23⟩

/-- How far a result may lie from the exact value: n ULP, or an absolute bound 2^e, or correctly rounded. -/
inductive SfuErr where
  | ulp (n : Nat)
  | abs (e : Int)
  | exact
deriving DecidableEq, Repr

/-- Whether a code lies within an error of a value. -/
def sfuWithin (err : SfuErr) (v : Dy) (c : Nat) : Bool :=
  match Fmt.f32.read c with
  | .fin n m e =>
    let r : Dy := ⟨if n then -(m : Int) else m, e⟩
    let diff := r.add v.neg
    let d : Dy := ⟨diff.m.natAbs, diff.e⟩
    match err with
    | .ulp k => !((⟨k, (ulpOf v).e⟩ : Dy).lt d)
    | .abs a => !((⟨1, a⟩ : Dy).lt d)
    | .exact => false
  | _ => false

/-- Whether a code is a value itself. -/
def sfuEquals (v : Dy) (c : Nat) : Bool :=
  match Fmt.f32.read c with
  | .fin n m e => decide (((⟨if n then -(m : Int) else m, e⟩ : Dy).add v.neg).m = 0)
  | _ => false

/-- A result that differs from the exact value: NX, and UF when the result itself is tiny (R167; log 87). -/
def sfuInexact (c : Nat) : Flagged Nat :=
  let tiny := c % 2 ^ 31 < 2 ^ 23
  ⟨c, fNX ||| (if tiny then fUF else 0)⟩

/-- A result of the table, which is not the exact value: the free value within its error, else the nearest value or, where that is exact,
the next one. A reciprocal beyond the FP32 range, for which Table 5.13 names no result, is a code within the error, or infinity with
OF (log 88). -/
def sfuFree (f : Nat) (fast : Bool) (x : BitVec 32) (err : SfuErr) (v : Dy) : Flagged Nat :=
  let c := (Config.sfu f fast x).toNat
  if sfuWithin err v c && !sfuEquals v c then sfuInexact c
  else
    let r := Fmt.f32.roundDy .rn false v
    let n := if sfuEquals v r.val then r.val + 1 else r.val
    ⟨n, (r.flags &&& fOF) ||| (sfuInexact n).flags⟩

def f32NaN : Nat := 0x7FC00000
def f32Inf : Nat := 0x7F800000
def f32One : Nat := 0x3F800000

/-- The exponent n of a magnitude that is 2^n exactly. -/
def pow2Of (m : Nat) (e : Int) : Option Int :=
  if m ≠ 0 ∧ m = 2 ^ Nat.log2 m then some ((Nat.log2 m : Int) + e) else none

/-- An integer value of a finite number. -/
def intOf (d : Dy) : Option Int :=
  if 0 ≤ d.e then some (d.m * 2 ^ d.e.toNat)
  else if d.m % 2 ^ (-d.e).toNat = 0 then some (d.m / 2 ^ (-d.e).toNat) else none

/-- 2^n as an FP32 code, for n from -149 to 127. -/
def f32Pow2 (n : Int) : Nat := (Fmt.f32.round .rn false 1 n).val

/-- A finite, nonzero FP32 input of function f: exact points, cheap paths (R169), and the table. -/
def sfuFinite (f : Nat) (fast : Bool) (x : BitVec 32) (neg : Bool) (m : Nat) (e : Int) : Flagged Nat :=
  let d : Dy := ⟨if neg then -(m : Int) else m, e⟩
  let a : Dy := ⟨m, e⟩
  let below := fun (t : Dy) => a.lt t
  let sgn := fun (c : Nat) => Fmt.f32.signed neg c
  let k := fun (std fst : Nat) => SfuErr.ulp (if fast then fst else std)
  let ab := fun (std fst : Int) => SfuErr.abs (if fast then fst else std)
  match f with
  | 0 =>
    match intOf d with
    | some n =>
      if 128 ≤ n then ⟨f32Inf, fOF ||| fNX⟩
      else if n < -150 then sfuInexact 0
      else if -149 ≤ n then Flagged.pure (f32Pow2 n)
      else sfuFree 0 fast x (.ulp 1) (fxExp2 (fxOf d))
    | none =>
      if !d.lt ⟨128, 0⟩ then ⟨f32Inf, fOF ||| fNX⟩
      else if d.lt ⟨-150, 0⟩ then sfuInexact 0
      else if below ⟨1, -25⟩ then sfuInexact f32One
      else sfuFree 0 fast x (if d.lt ⟨-126, 0⟩ then .ulp 1 else k 2 16) (fxExp2 (fxOf d))
  | 1 =>
    if neg then ⟨f32NaN, fNV⟩
    else
      match pow2Of m e with
      | some n => Flagged.pure (Fmt.f32.ofInt .rn n).val
      | none => sfuFree 1 fast x (if !(a.lt ⟨1, -1⟩) && a.lt ⟨2, 0⟩ then ab (-22) (-18) else k 2 16) (fxLog2 d)
  | 2 =>
    match pow2Of m e with
    | some n =>
      if -126 ≤ n ∧ n ≤ 126 then Flagged.pure (sgn (f32Pow2 (-n)))
      else
        let r := sfuFree 2 fast x (k 1 8) (dyDiv ⟨if neg then -1 else 1, 0⟩ a)
        r
    | none => sfuFree 2 fast x (k 1 8) (dyDiv ⟨if neg then -1 else 1, 0⟩ a)
  | 3 =>
    if neg then ⟨f32NaN, fNV⟩
    else
      match pow2Of m e with
      | some n => if n % 2 = 0 then Flagged.pure (f32Pow2 (-n / 2)) else sfuFree 3 fast x (k 1 8) (dyDiv ⟨1, 0⟩ (dySqrt a))
      | none => sfuFree 3 fast x (k 1 8) (dyDiv ⟨1, 0⟩ (dySqrt a))
  | 4 =>
    if neg then ⟨f32NaN, fNV⟩
    else
      match pow2Of m e with
      | some n => if n % 2 = 0 then Flagged.pure (f32Pow2 (n / 2)) else sfuFree 4 fast x (k 1 8) (dySqrt a)
      | none => sfuFree 4 fast x (k 1 8) (dySqrt a)
  | 5 =>
    match intOf ⟨d.m, d.e + 1⟩ with
    | some h =>
      if h % 2 = 0 then Flagged.pure (sgn 0)
      else Flagged.pure (Fmt.f32.signed (h % 4 = 3) f32One)
    | none =>
      if below ⟨1, -12⟩ then
        let r := Fmt.f32.roundDy .rn neg (d.mul ⟨fxPi, -160⟩)
        sfuInexact r.val
      else sfuFree 5 fast x (ab (-22) (-16)) (fxSinpi (fxOf d))
  | 6 =>
    match intOf ⟨d.m, d.e + 1⟩ with
    | some h =>
      if h % 2 ≠ 0 then Flagged.pure 0
      else Flagged.pure (Fmt.f32.signed (h % 4 = 2) f32One)
    | none =>
      if below ⟨1, -12⟩ then sfuInexact f32One
      else sfuFree 6 fast x (ab (-22) (-16)) (fxSinpi (fxOf d + fxOne / 2))
  | 7 =>
    if (⟨9, 0⟩ : Dy).lt a then sfuInexact (sgn f32One)
    else sfuFree 7 fast x (ab (-22) (-17)) (fxTanh (fxOf d))
  | _ =>
    if (⟨24, 0⟩ : Dy).lt d then sfuInexact f32One
    else if d.lt ⟨-104, 0⟩ then sfuInexact 0
    else sfuFree 8 fast x (k 2 16) (fxSigm (fxOf d))

/-- Zero inputs (Table 5.13). -/
def sfuZero (f : Nat) (neg : Bool) : Flagged Nat :=
  match f with
  | 0 => Flagged.pure f32One
  | 1 => ⟨Fmt.f32.inf true, fDZ⟩
  | 2 => ⟨Fmt.f32.inf neg, fDZ⟩
  | 3 => ⟨Fmt.f32.inf neg, fDZ⟩
  | 4 => Flagged.pure (Fmt.f32.signed neg 0)
  | 5 => Flagged.pure (Fmt.f32.signed neg 0)
  | 6 => Flagged.pure f32One
  | 7 => Flagged.pure (Fmt.f32.signed neg 0)
  | _ => Flagged.pure 0x3F000000

/-- Infinite inputs (Table 5.13). -/
def sfuInf (f : Nat) (neg : Bool) : Flagged Nat :=
  match f with
  | 0 => Flagged.pure (if neg then 0 else f32Inf)
  | 1 => if neg then ⟨f32NaN, fNV⟩ else Flagged.pure f32Inf
  | 2 => Flagged.pure (Fmt.f32.signed neg 0)
  | 3 => if neg then ⟨f32NaN, fNV⟩ else Flagged.pure 0
  | 4 => if neg then ⟨f32NaN, fNV⟩ else Flagged.pure f32Inf
  | 5 => ⟨f32NaN, fNV⟩
  | 6 => ⟨f32NaN, fNV⟩
  | 7 => Flagged.pure (Fmt.f32.signed neg f32One)
  | _ => Flagged.pure (if neg then 0 else f32One)

/-- Function f of one FP32 lane (R167). -/
def sfuLane (f : Nat) (fast : Bool) (x : BitVec 32) : Flagged Nat :=
  match Fmt.f32.read x.toNat with
  | .nan sn => ⟨f32NaN, if sn then fNV else 0⟩
  | .inf n => sfuInf f n
  | .fin n 0 _ => sfuZero f n
  | .fin n m e => sfuFinite f fast x n m e

/-- Active FP32 lanes through the SFU (R166). -/
def State.vsfu (s : State) (f : Nat) (d a : VReg) (m : BitVec 3) (fast : BitVec 1) : State :=
  s.lanesF d m 32 fun j => sfuLane f (fast = 1) (lane (s.rv a) 32 j)

/-- Table 5.13, function 0. -/
def execVsfuExp2 (d a : VReg) (m : BitVec 3) (fast : BitVec 1) (s : State) : Out :=
  .next (s.vsfu 0 d a m fast)

/-- Table 5.13, function 1. -/
def execVsfuLog2 (d a : VReg) (m : BitVec 3) (fast : BitVec 1) (s : State) : Out :=
  .next (s.vsfu 1 d a m fast)

/-- Table 5.13, function 2. -/
def execVsfuRcp (d a : VReg) (m : BitVec 3) (fast : BitVec 1) (s : State) : Out :=
  .next (s.vsfu 2 d a m fast)

/-- Table 5.13, function 3. -/
def execVsfuRsqrt (d a : VReg) (m : BitVec 3) (fast : BitVec 1) (s : State) : Out :=
  .next (s.vsfu 3 d a m fast)

/-- Table 5.13, function 4. -/
def execVsfuSqrt (d a : VReg) (m : BitVec 3) (fast : BitVec 1) (s : State) : Out :=
  .next (s.vsfu 4 d a m fast)

/-- Table 5.13, function 5. -/
def execVsfuSinpi (d a : VReg) (m : BitVec 3) (fast : BitVec 1) (s : State) : Out :=
  .next (s.vsfu 5 d a m fast)

/-- Table 5.13, function 6. -/
def execVsfuCospi (d a : VReg) (m : BitVec 3) (fast : BitVec 1) (s : State) : Out :=
  .next (s.vsfu 6 d a m fast)

/-- Table 5.13, function 7. -/
def execVsfuTanh (d a : VReg) (m : BitVec 3) (fast : BitVec 1) (s : State) : Out :=
  .next (s.vsfu 7 d a m fast)

/-- Table 5.13, function 8. -/
def execVsfuSigm (d a : VReg) (m : BitVec 3) (fast : BitVec 1) (s : State) : Out :=
  .next (s.vsfu 8 d a m fast)

end Sys2Proof.Machine
end

