-- ==== Sys2Proof/Machine/Topology.lean ====
section
/-! DEFINITION. Where the parts of the package stand (01 R10, R11, R13, R16, R18, 14 R363), and the routes of the package mesh (01 R12,
R495). Only timing shows a route; that there is one at all, and that what travels from one router to another stays in order, the moves
say (`exclude`, `msgBehind`, `flightReady`). -/

namespace Sys2Proof.Machine

/-! ### Places (R10, R11, R16) -/

/-- The column and the row of a compute die. -/
def cdPos (c : Nat) : Nat × Nat := (c % 4, c / 4)

/-- The compute die that an edge die is attached to, and whether it is at its north edge. -/
def edgeSide (e : Nat) : Nat × Bool := if e < 4 then (e, true) else (e + 8, false)

/-- The on-die position of a cluster. -/
def clusterPos (n : Nat) : Nat × Nat := (n % 8, n / 8)

/-- The package coordinates of a router at an on-die position of a compute die. -/
def routerAt (c : Nat) (p : Nat × Nat) : Nat × Nat := (8 * (cdPos c).1 + p.1, 8 * (cdPos c).2 + p.2)

/-- The router of a cluster, by its number in the package. -/
def clusterRouter (cl : Nat) : Nat × Nat := routerAt (cl / 64) (clusterPos (cl % 64))

/-- The router of a core. -/
def coreRouter (core : Nat) : Nat × Nat := clusterRouter (clusterOf core)

/-- The on-die cluster tiles that a slice of a die sits beside; it joins the mesh at the first. -/
def sliceTiles (n : Nat) : Nat × Nat := (2 * n, 2 * n + 1)

/-- The router of a slice, by its number in the package. -/
def sliceRouter (h : Nat) : Nat × Nat := routerAt (h / 32) (clusterPos (sliceTiles (h % 32)).1)

/-! ### Edge dies (R18, 14 R363) -/

/-- The memory stacks of an edge die. -/
def edgeStacks (e : Nat) : List Nat := [2 * e, 2 * e + 1]

/-- The fibres of an edge die. -/
def edgeFibres (e : Nat) : List Nat := (List.range 24).map (24 * e + ·)

/-- Whether a fibre transmits; the others receive. -/
def fibreSends (n : Nat) : Bool := decide (n % 2 = 0)

/-- The fibre that a package link transmits on, and the first of its 8 wavelengths; it receives on the fibre after it. -/
def linkFibre (l : Nat) : Nat × Nat := (24 * (l / 36) + 2 * (l % 36 / 3), 8 * (l % 36 % 3))

/-! ### Routes (R12, R495) -/

/-- The compute die of a router. -/
def routerDie (p : Nat × Nat) : Nat := p.1 / 8 + 4 * (p.2 / 8)

def routerPresent (s : State) (p : Nat × Nat) : Bool := decide (p.1 < 32 ∧ p.2 < 32) && cdPresent s (routerDie p)

/-- The routers that a router has links to. -/
def meshNext (s : State) (p : Nat × Nat) : List (Nat × Nat) :=
  ([(p.1 + 1, p.2), (p.1 - 1, p.2), (p.1, p.2 + 1), (p.1, p.2 - 1)].filter (· ≠ p)).filter (routerPresent s)

/-- The cycles of one hop: 1 within a die, 4 between dies. -/
def hopCost (p q : Nat × Nat) : Nat := if routerDie p = routerDie q then 1 else 4

/-- The cycles of a path. -/
def pathCost : List (Nat × Nat) → Nat
  | p :: q :: r => hopCost p q + pathCost (q :: r)
  | _ => 0

/-- Whether a list of routers is a path over present routers and links. -/
def isPath (s : State) : List (Nat × Nat) → Bool
  | [] => true
  | [p] => routerPresent s p
  | p :: q :: r => routerPresent s p && (meshNext s p).contains q && isPath s (q :: r)

/-- Coordinates from one to another, both included. -/
def walkTo (a b : Nat) : List Nat := if a ≤ b then (List.range (b + 1 - a)).map (a + ·) else (List.range (a + 1 - b)).map (a - ·)

/-- The dimension-ordered route: along x, then along y. -/
def xyRoute (a b : Nat × Nat) : List (Nat × Nat) :=
  (walkTo a.1 b.1).map (fun x => (x, a.2)) ++ ((walkTo a.2 b.2).drop 1).map fun y => (b.1, y)

/-- The lesser of two costs; none is no path. -/
def lesser : Option Nat → Option Nat → Option Nat
  | some a, some b => some (min a b)
  | some a, none => some a
  | none, b => b

/-- Costs to a router, by router, after paths of so many hops. -/
def costsTo (s : State) (b : Nat × Nat) : Nat → List (Option Nat)
  | 0 => (List.range 1024).map fun i => if (i % 32, i / 32) = b then some 0 else none
  | n + 1 =>
    let old := costsTo s b n
    old.mapIdx fun i c =>
      let p := (i % 32, i / 32)
      if routerPresent s p then
        (meshNext s p).foldl (fun m q => lesser m (((old.getD (q.1 + 32 * q.2) none)).map (hopCost p q + ·))) c
      else none

/-- The least cost from a router to another. -/
def leastCost (s : State) (a b : Nat × Nat) : Option Nat := (costsTo s b 1023).getD (a.1 + 32 * a.2) none

/-- The next router of a least-cost path; which of several it is, is fixed at boot and free, for each router and destination and not for
each pair of ends (DESIGN CHOICE: R495 leaves it open, log 110). -/
def routeNext (s : State) (p b : Nat × Nat) : Option (Nat × Nat) :=
  let l := (meshNext s p).filter fun q => (leastCost s q b).map (hopCost p q + ·) == leastCost s p b
  l[Config.routeTie p b % max 1 l.length]?

/-- The path from a router on, of at most so many hops. -/
def detour (s : State) (b : Nat × Nat) : Nat → Nat × Nat → List (Nat × Nat)
  | 0, p => [p]
  | n + 1, p =>
    if p = b then [p]
    else match routeNext s p b with
      | some q => p :: detour s b n q
      | none => [p]

/-- The one route from a router to another (R495): dimension-ordered when every die is present, else of least cost around those that are
absent. -/
def route (s : State) (a b : Nat × Nat) : List (Nat × Nat) :=
  if (List.range 16).all (cdPresent s) then xyRoute a b else detour s b 1023 a

end Sys2Proof.Machine
end

