-- ==== Sys2Proof/Machine/System.lean ====
section
/-! DEFINITION. The system (20): leave and the power governor, management registers, partitions, swaps and kills, events, boot,
and the host's commands. -/

namespace Sys2Proof.Machine

/-! ### Leave and the governor (R463-R466) -/

/-- R463: asks for tokens ahead of need. -/
def execLeave (a b : SReg) (s : State) : Out :=
  let n := bitsNat (s.rs a) 12 0
  let eng := bitsNat (s.rs b) 1 0
  let t := if 2 ≤ eng then some (issueTrapAt s cACCESS false (s.rs b))
    else if 4096 < n then some (issueTrapAt s cACCESS false (s.rs a)) else none
  let cl := clusterOf s.cur
  let c := s.cluster cl
  guarded s t none
    (if eng = 0 then
      let r := min n (4096 - c.held - c.asked)
      if r = 0 then s else askLeave (s.onCluster cl fun c => { c with asked := c.asked + r }) (dieOf s.cur) (.mx cl s.cur) r
    else
      let r := min n (4096 - s.cc.cpHeld - s.cc.cpAsked)
      if r = 0 then s else askLeave (s.onCC fun k => { k with cpAsked := k.cpAsked + r }) (dieOf s.cur) (.cp s.cur) r)

/-- Weight of a token in picojoules (Table 20.2). -/
def Pool.weight : Pool → Nat
  | .mx .. => 7210
  | .cp _ => 1200
  | .pot .. => 1840

/-- The core whose LEAVE counts a request's refusal (R466); none for a post of another package. -/
def Pool.core : Pool → Option Nat
  | .mx _ c => some c
  | .cp c => some c
  | .pot _ c => if c < 4096 then some c else none

/-- The budget of a die in watts (Table 20.5). -/
def dieBudget (s : State) (d : Nat) : Nat := (fget s.dbs d).getD 40

/-- A granted request reaches its pool. -/
def grantLeave (s : State) (r : GovReq) : State :=
  match r.pool with
  | .mx cl _ =>
    (clusterCores cl).foldl (fun s c => s.onCore c (mxAwake s.now))
      (s.onCluster cl fun c => { c with held := c.held + r.n, asked := c.asked - r.n })
  | .cp c => s.onCore c fun k => { cpAwake k s.now with cpHeld := k.cpHeld + r.n, cpAsked := k.cpAsked - r.n }
  | .pot id c =>
    let s := { s with flights := s.flights.map fun f => if f.id = id then { f with leaveOk := true, waited := s.now - r.since } else f }
    if c < 4096 then s.onCore c fun k => addWait k (s.now - r.since) else s

/-- Requests of a die granted in window k, in order of arrival, as long as the head fits (R465). -/
def grantWindow (d k : Nat) : Nat → State → State
  | 0, s => s
  | fuel + 1, s =>
    let g := s.die d
    match g.reqs with
    | [] => s
    | r :: rest =>
      let e := r.n * r.pool.weight
      if r.since / 2100 ≤ k ∧ (g.granted = 0 ∨ g.granted + e ≤ 1000000 * dieBudget s d) then
        grantWindow d k fuel (grantLeave (s.onDie d fun g => { g with reqs := rest, granted := g.granted + e }) r)
      else s

/-- LEAVE.REFUSE counts one more (Table 20.3). -/
def addRefuse (k : Core) : Core :=
  let n := min 65535 (bitsNat k.leaveW 31 16 + 1)
  { k with leaveW := (k.leaveW &&& 0xFFFFFFFF0000FFFF) ||| BitVec.ofNat 64 (n * 2 ^ 16) }

/-- Requests that window k did not grant are refused once; a post of another package keeps the count for its answer. -/
def refuseWindow (d k : Nat) (s : State) : State :=
  let late := fun (r : GovReq) => decide (r.since / 2100 ≤ k) && !r.refused
  let s := ((s.die d).reqs.filter late).foldl (fun s r => match r.pool.core, r.pool with
    | some c, _ => s.onCore c addRefuse
    | none, .pot id _ => { s with flights := s.flights.map fun f => if f.id = id then { f with refusals := f.refusals + 1 } else f }
    | none, _ => s) s
  s.onDie d fun g => { g with reqs := g.reqs.map fun r => if late r then { r with refused := true } else r }

/-- Windows of a die, one after another, up to the present one. -/
def runWindows (d : Nat) : Nat → State → State
  | 0, s => s
  | fuel + 1, s =>
    let k := (s.die d).window
    let s := grantWindow d k (s.die d).reqs.length s
    let w := s.now / 2100
    if w ≤ k then s
    else
      let s := refuseWindow d k s
      let nextAt := match (s.die d).reqs with
        | [] => w
        | r :: _ => max (k + 1) (r.since / 2100)
      runWindows d fuel (s.onDie d fun g => { g with window := nextAt, granted := 0 })

/-- R465: the governor of a die grants, window by window, what has been asked. -/
def execGovernorWindow (die : Nat) (s : State) : Out :=
  .next (if die < 16 ∧ cdPresent s die then runWindows die (2 * (s.die die).reqs.length + 2) s else s)

/-! ### Translations (R477) -/

/-- Whether a page of a TLB entry overlaps a range; every page does when the range is empty. -/
def pageMeets (level page base bytes : Nat) : Bool :=
  decide (bytes = 0) || overlap (page * 2 ^ levelShift level) (2 ^ levelShift level) base bytes

/-- Lines of a partition at a slice whose page has no translation there any more leave it: the next access is performed on
the bytes that the page names then (07 R226, R496). -/
def dropUnmapped (p h : Nat) (s : State) : State :=
  let g := s.slice h
  let lines := g.lines.flatMap fun x => x.2.filter fun y =>
    decide (y.2.part = p) && !g.tlb.any fun t => t.covers p (y.2.tag * 32)
  lines.foldl (fun s y => evictLine s h y.1 y.2) s

/-- R477: translations of a partition that overlap a range are invalid in every slice; walks of such pages are walked again. -/
def tlbInvalidate (s : State) (p base bytes : Nat) : State :=
  let s := { s with slices := fmapVals (fun _ g =>
      { g with
        tlb := g.tlb.filter fun t => !(decide (t.part = p) && pageMeets t.level t.page base bytes)
        walked := g.walked.filter fun w => !(decide (w.part = p) && (decide (bytes = 0) || overlap w.va 1 base bytes)) }) s.slices }
  s.slices.foldl (fun s x => dropUnmapped p x.1 s) s

/-! ### Management registers (R478, Table 20.5) -/

/-- Why a management register is not written: an unassigned or read-only number, a state that forbids it, a value out of
range. -/
inductive MgmtErr where
  | number | state | range
deriving DecidableEq, Repr

/-- Granules of a mask that are present. -/
def granOk (s : State) (g : Word) : Bool := (List.range 64).all fun q => !g.getLsbD q || cdPresent s (q / 4)

/-- A partition is created (R468): PTROOT is 0 until it is written. -/
def createPart (s : State) (p ptroot : Nat) : State :=
  s.onPart p fun x => { x with st := 1, ptroot := ptroot, root := 0, cores := [], clusters := [], was := false, outAt := 0 }

/-- Ways given to pot store (15 R419): too few for the open pots are refused; lines of ways that are lost are evicted. -/
def setPotWays (s : State) (h n : Nat) : Option State :=
  if n * 131072 < potUsed (s.slice h) then none
  else
    let lost := (s.slice h).lines.flatMap fun x => x.2.filter fun y => decide (16 - n ≤ y.1)
    let s := lost.foldl (fun s y => evictLine s h y.1 y.2) s
    some (s.onSlice h fun g => { g with ways := n })

/-- A value inside a range, or the error. -/
def inRange (v lo hi : Nat) (s : State) : Except MgmtErr State := if lo ≤ v ∧ v ≤ hi then .ok s else .error .range

/-- A write of a register of a partition entry. -/
def partWrite (s : State) (p off : Nat) (v : Word) : Except MgmtErr State :=
  let x := s.partn p
  let n := v.toNat
  let absent := fun (ok : Bool) (t : State) => if x.st ≠ 0 then .error .state else if ok then .ok t else .error .range
  match off with
  | 0 => absent (decide (v = 1)) (createPart s p 0)
  | 1 => absent (granOk s v) (s.onPart p fun x => { x with gran := v })
  | 2 => if n % 4096 = 0 ∧ n < 2 ^ 48 then .ok (s.onPart p fun x => { x with ptroot := n }) else .error .range
  | 3 => absent (decide (n % 0x4000000 = 0 ∧ n < 2 ^ 48)) (s.onPart p fun x => { x with ctx := n })
  | 4 => .error .number
  | 5 => .ok (s.onPart p fun x => { x with hot := v })
  | 6 => absent true (s.onPart p fun x => { x with span := v })
  | 7 => inRange (bitsNat v 13 8) 1 36 (s.onPart p fun x => { x with fab := v &&& 0x3F01 })
  | _ => .error .number

/-- A write of a management register. -/
def mgmtWrite (s : State) (n : Nat) (v : Word) : Except MgmtErr State :=
  let k := v.toNat
  if n < 0x200 then partWrite s (n / 16) (n % 16) v
  else if n < 0x400 then
    if !cdPresent s ((n - 0x200) / 32) then .error .number
    else if 12 < k then .error .range
    else
      match setPotWays s (n - 0x200) k with
      | some s => .ok s
      | none => .error .range
  else if n = 0x400 then inRange k 4 20 { s with slotNext := k }
  else if n = 0x401 then inRange k 16 22 { s with qmax := k }
  else if n = 0x402 then inRange k 1 1000 { s with berth := k }
  else if n = 0x403 then inRange k 2 16 { s with fto := k }
  else if 0x500 ≤ n ∧ n < 0x500 + 288 ∧ edPresent s (linkEdge (n - 0x500)) then
    .ok (if bitAt v 1 then restoreLink s (n - 0x500) else s)
  else if 0x800 ≤ n ∧ n < 0x810 ∧ cdPresent s (n - 0x800) then inRange k 1 255 { s with dbs := fset s.dbs (n - 0x800) k }
  else .error .number

/-- The value of a management register; none for an unassigned number. -/
def mgmtRead (s : State) (n : Nat) : Option Word :=
  let x := s.partn (n / 16)
  let num := fun (v : Nat) => some (BitVec.ofNat 64 v)
  if n < 0x200 then
    match n % 16 with
    | 0 => num x.st
    | 1 => some x.gran
    | 2 => num x.ptroot
    | 3 => num x.ctx
    | 4 => some x.root
    | 5 => some x.hot
    | 6 => some x.span
    | 7 => some x.fab
    | _ => none
  else if n < 0x400 then (if cdPresent s ((n - 0x200) / 32) then num (s.slice (n - 0x200)).ways else none)
  else if n = 0x400 then num s.slotNext
  else if n = 0x401 then num s.qmax
  else if n = 0x402 then num s.berth
  else if n = 0x403 then num s.fto
  else if 0x500 ≤ n ∧ n < 0x500 + 288 ∧ edPresent s (linkEdge (n - 0x500)) then num (if (s.link (n - 0x500)).retired then 1 else 0)
  else if 0x800 ≤ n ∧ n < 0x810 ∧ cdPresent s (n - 0x800) then num (dieBudget s (n - 0x800))
  else if n = 0x810 then num s.plim
  else if 0x900 ≤ n ∧ n ≤ 0x909 then some (bootWord s (n - 0x900))
  else if 0xA00 ≤ n ∧ n < 0xA08 ∧ edPresent s (n - 0xA00) then num (s.edge (n - 0xA00)).evBase
  else none

/-! ### System-mode forms (R462, R470, R476-R478, R485) -/

/-- A C 0x3A form outside system mode raises ACCESS with the C-word (R462); else the form's own trap. -/
def sysTrap (s : State) (t : Option Trap) : Option Trap :=
  if s.mode ≠ 2 then some (issueTrapAt s cACCESS false (BitVec.ofNat 64 (s.me.bundle.toNat % 2 ^ 32))) else t

def accessTrap (s : State) (c : Bool) (v : Word) : Option Trap := if c then some (issueTrapAt s cACCESS false v) else none

/-- R477. -/
def execSysTlbinv (d a b : SReg) (s : State) : Out :=
  let v := s.rs a
  let p := bitsNat v 63 59
  guarded s (sysTrap s (accessTrap s (decide (bitsNat v 58 57 ≠ 0)) v)) (waitConfirm s)
    (if (s.partn p).st = 0 then s.ws d 1 else (tlbInvalidate s p (bitsNat v 56 0) (s.rs b).toNat).ws d 0)

/-- R478. -/
def execSysMrd (d a : SReg) (s : State) : Out :=
  let n := bitsNat (s.rs a) 15 0
  guarded s (sysTrap s (accessTrap s (mgmtRead s n).isNone (s.rs a))) (waitConfirm s) (s.ws d ((mgmtRead s n).getD 0))

/-- R478. -/
def execSysMwr (a b : SReg) (s : State) : Out :=
  let n := bitsNat (s.rs a) 15 0
  let t := match mgmtWrite s n (s.rs b) with
    | .ok _ => none
    | .error .range => accessTrap s true (s.rs b)
    | .error _ => accessTrap s true (s.rs a)
  guarded s (sysTrap s t) (waitConfirm s)
    (match mgmtWrite s n (s.rs b) with
     | .ok s => s
     | .error _ => s)

/-- The checks of R470: status 0, or why nothing changes. -/
def swapStatus (s : State) (p q : Nat) : Nat :=
  let g := (s.partn q).gran
  let other := (List.range 32).any fun r => decide (r ≠ p ∧ (s.partn r).st = 2) && (decide ((s.partn r).gran &&& g ≠ 0))
  if p ≠ 32 ∧ (s.partn p).st ≠ 2 then 1
  else if q ≠ 32 ∧ (s.partn q).st ≠ 1 then 2
  else if q ≠ 32 ∧ (!granOk s g || other) then 3
  else 0

/-- A swap whose checks have passed: it waits for the other packages of a span, or its halt begins. -/
def startSwap (s : State) (p q : Nat) (core : Option (Nat × SReg)) (req : Option HostReq) : State :=
  let far := spanFar s p || spanFar s q
  let w : Swap := { p := p, q := q, core := core, req := req, since := s.rot, agreed := !far, kill := false }
  let s := { s with swaps := s.swaps ++ [w] }
  if !far && decide (p < 32) then beginHalt s p else s

/-- R470. A second swap waits at issue for the first. -/
def execSysSwap (d a b : SReg) (s : State) : Out :=
  let v := s.rs a
  let p := bitsNat v 5 0
  let q := bitsNat (s.rs b) 5 0
  let g := granOf s.cur
  let own := (decide (p < 32) && (s.partn p).gran.getLsbD g) || (decide (q < 32) && (s.partn q).gran.getLsbD g)
  guarded s (sysTrap s (accessTrap s (decide (32 < p ∨ 32 < q ∨ p = q) || own) v))
    ((waitConfirm s).orElse fun _ => if s.swaps.isEmpty then none else some s)
    (let st := swapStatus s p q
     if st ≠ 0 then s.ws d (BitVec.ofNat 64 st) else startSwap (s.pendReg (.s d)) p q (some (s.me.id, d)) none)

/-- A kill begins: the resident cores of the partition halt first (R476). -/
def startKill (s : State) (p : Nat) (core : Option (Nat × SReg)) (req : Option HostReq) : State :=
  let w : Swap := { p := p, q := 32, core := core, req := req, since := s.rot, agreed := true, kill := true }
  beginHalt { s with swaps := s.swaps ++ [w] } p

/-- R476. -/
def execSysKill (d a : SReg) (s : State) : Out :=
  let p := bitsNat (s.rs a) 4 0
  guarded s (sysTrap s none) ((waitConfirm s).orElse fun _ => if s.swaps.isEmpty then none else some s)
    (if (s.partn p).st = 0 then s.ws d 1 else startKill (s.pendReg (.s d)) p (some (s.me.id, d)) none)

/-- R485. -/
def execSysEvt (a b : SReg) (s : State) : Out :=
  guarded s (sysTrap s none) (waitConfirm s)
    (report s (.cd (dieOf s.cur)) (some s.cur) 15 (bitsNat (s.rs a) 7 0) s.mypart (s.rs b))

/-! ### The kill itself (R476) -/

/-- Ends every region of a partition with END 3 (R351). -/
def killRegions (s : State) (p : Nat) : State :=
  let root := (s.partn p).root.toNat
  let known := ((knownBlocks s p).flatMap (chainOf s p 8)).eraseDups
  let all := if root = 0 then known else root :: known
  all.foldl (fun s r =>
    let st := regionState s p r
    if st = stPending ∨ st = stRunning then failRegion s p r 3 else s) s

/-- Closes every pot of a partition in a slice (15 R398). -/
def closePotsOf (s : State) (p h : Nat) : State :=
  (s.slice h).pots.foldl (fun s (n, x) =>
    if x.isOpen ∧ x.part = p then closePot s (h / 32 * 256) p (potHandle s.pkg h n x.inc) else s) s

/-- Writes back and drops what a slice holds of a partition. -/
def dropSliceOf (s : State) (p h : Nat) : State :=
  let mine := (s.slice h).lines.flatMap fun x => x.2.filter fun y => decide (y.2.part = p)
  let s := mine.foldl (fun s y => evictLine s h y.1 y.2) s
  s.onSlice h fun g =>
    { g with
      tlb := g.tlb.filter fun t => decide (t.part ≠ p)
      walked := g.walked.filter fun w => decide (w.part ≠ p)
      watches := g.watches.filter fun w => decide (w.part ≠ p)
      samples := g.samples.filter fun x => decide (x.1 ≠ p)
      hot := ferase g.hot p
      blocks := g.blocks.filter fun b => decide (b.part ≠ p)
      peers := g.peers.filter fun b => decide (b.part ≠ p) }

/-- Drops the cached lines and bundles of a partition, and its bank, from a core. -/
def dropCoreOf (p : Nat) (k : Core) : Core :=
  let k := { k with
    l1 := k.l1.map fun x => (x.1, x.2.filter fun y => decide (y.2.part ≠ p))
    icache := k.icache.filter fun l => decide (l.part ≠ p)
    shadow := if k.shadowOf = some p then [] else k.shadow
    shadowOf := if k.shadowOf = some p then none else k.shadowOf }
  if k.part = some p then bareCore k else k

/-- R476, steps 1 to 5, once the partition's cores have halted. Reads and posts of joined partitions, which run on, are answered. -/
def killPart (s : State) (p : Nat) : State :=
  let s := underPart s p fun s => killRegions s p
  let hs := slicesPresent s
  let s := hs.foldl (fun s h => closePotsOf s p h) s
  let s := hs.foldl (fun s h => dropSliceOf s p h) s
  let clusters := granClusters s (s.partn p).gran
  let s := if (s.partn p).st = 2 then dropLeave s (granCores s (s.partn p).gran) clusters else s
  let s := if (s.partn p).st = 2 then clusters.foldl (fun s cl => s.onCluster cl bareCluster) s else s
  let s := s.dies.foldl (fun s (d, x) =>
    (x.bars.filter (fun b => decide ((b.2.owner.map (·.part)) = some p))).foldl (fun s b => barRelease s (64 * d + b.1)) s) s
  let s := { s with
    cores := fmapVals (fun _ k => dropCoreOf p k) s.cores
    potReads := s.potReads.filter fun r => decide (r.part ≠ p) || r.far.isSome
    quads := s.quads.filter fun q => decide (q.part ≠ p)
    reels := s.reels.filter fun r => decide (r.part ≠ p)
    restarts := s.restarts.filter fun x => decide (x.2.1.part ≠ p)
    pendingRegions := s.pendingRegions.filter fun x => decide (x.own.part ≠ p)
    triggered := s.triggered.filter fun o => decide (o.part ≠ p)
    rreqs := s.rreqs.filter fun r => decide (r.part ≠ p)
    cleans := s.cleans.filter fun c => decide (c.part ≠ p)
    inbox := s.inbox.filter fun x => decide (x.part ≠ p) || (match x.what with
      | .quadAsk .. => false
      | _ => true)
    flights := s.flights.filter fun f => decide (f.part ≠ p) || f.sent.isSome }
  s.onPart p fun x => { x with st := 0, root := 0, cores := [], clusters := [], was := false }

/-- R472: a swap, or a kill, goes on while its cores halt, and is done when all have. -/
def execSwapRestoreDone (p q : Nat) (s : State) : Out :=
  .next (match s.swaps.find? (fun w => decide (w.p = p ∧ w.q = q) && w.agreed) with
    | none => s
    | some w =>
      let mine := if p < 32 then residentCores s p else []
      let s := giveBack (mine.foldl haltDrain s) p
      if !(mine.all (coreHalted s p)) || (!w.kill && holdsHere s p) then s
      else
        let s := mine.foldl haltCommit s
        if w.kill then swapAnswer (killPart s p) w 0 else swapAnswer (exchange s p q) w 0)

/-- Whether an instruction at issue waits for a tile, or a command of an engine that is under way names it. -/
def tileWanted (s : State) (cl n : Nat) : Bool :=
  ((clusterCores cl).any fun c => (s.core c).acts.any fun x => match x.2.waitFor with
    | some (.tile m _) => m == n
    | _ => false) || tileNamed s cl n

/-- R473: the bytes of a tile are back; those that something waits for come first. -/
def execTileRefill (cluster tile : Nat) (s : State) : Out :=
  let c := s.cluster cluster
  .next (if (c.tile tile).refill ∧ (tileWanted s cluster tile ∨ c.tiles.all fun x => !x.2.refill || !tileWanted s cluster x.1) then s.onCluster cluster fun c => c.onTile tile fun t => { t with refill := false }
    else s)

/-! ### Events (R483) -/

/-- Overflow records of a die, in ascending class order, while the ring has room. -/
def overflowRecs (w : Reporter) (e : Nat) : List (Nat × Nat) → State → State
  | [], s => s
  | (cls, n) :: rest, s =>
    if n = 0 ∨ evFull s e then s
    else
      let d := evDie s w
      let s := setEvDie s { d with cnt := ferase d.cnt cls } w
      overflowRecs w e rest (evWrite s e { cls := 8, code := cls, part := 0, core := 0xFFF, count := n, addr := 0, time := s.sinceBoot })

/-- Whether a die holds a record of a partition's core pending. -/
def pendHeld (s : State) (part core : Nat) : Bool :=
  let is_ := fun (d : EvDie) => match d.pend with
    | some r => decide (r.part = part ∧ r.core = core)
    | none => false
  (s.dies.any fun x => is_ x.2.ev) || s.edges.any fun x => is_ x.2.ev

/-- EVT.PEND is clear once no die holds a record of the core pending any more (R484); a record may name no core. -/
def pendDone (s : State) (part core : Nat) : State :=
  if core = 0xFFF ∨ pendHeld s part core = true then s else s.onCoreOf part core fun k => { k with evt := k.evt &&& ~~~(2 : Word) }

/-- A die whose record is pending writes it, and what it has counted. -/
def flushEvents (s : State) (w : Reporter) : State :=
  let e := reporterEdge s w
  if evFull s e then s
  else
    let s := match (evDie s w).pend with
      | some r => pendDone (evWrite (setEvDie s { evDie s w with pend := none } w) e r) r.part r.core
      | none => s
    overflowRecs w e (evDie s w).cnt s

/-- R483: the ring of an edge die has room. -/
def execEventRingRoom (ed : Nat) (s : State) : Out :=
  let cds := (((List.range 16).filter (fun c => cdPresent s c && decide (servingEdge s c = ed))).map Reporter.cd)
  .next ((cds ++ [Reporter.ed ed]).foldl flushEvents s)

/-! ### Boot (R489, R490) -/

/-- Compute dies next to one in the 4 × 4 array (01 R10). -/
def neighbours (c : Nat) : List Nat :=
  (if c % 4 = 0 then [] else [c - 1]) ++ (if c % 4 = 3 then [] else [c + 1]) ++ (if c < 4 then [] else [c - 4]) ++
    (if c < 12 then [c + 4] else [])

/-- Compute dies that reach the anchor through present ones, after some rounds. -/
def reach (cds : List Nat) : Nat → List Nat → List Nat
  | 0, r => r
  | n + 1, r => reach cds n (cds.filter fun c => r.contains c || (neighbours c).any r.contains)

/-- Exclusion repeated (R489): compute dies off the anchor's set, and edge dies of excluded compute dies. -/
def exclude : Nat → List Nat → List Nat → List Nat × List Nat
  | 0, cds, eds => (cds, eds)
  | n + 1, cds, eds =>
    let anchor := if cds.contains 0 && eds.contains 0 then 0 else 12
    let cds := reach cds 16 (if cds.contains anchor then [anchor] else [])
    exclude n cds (eds.filter fun e => cds.contains (edgeSide e).1)

/-- Whether a package has a place in a Whisk domain (14 R360): an even number of positions from 2 to 64, one of them its own. -/
def domainOk (n p : Nat) : Bool := decide (n % 2 = 0 ∧ 2 ≤ n ∧ n ≤ 64 ∧ p < n)

/-- R489: power-on measures the dies and excludes those that fail; the package leaves boot with a compute die and a host path
(R490), in a domain that the spec admits. -/
def execPowerOn (b : BootInput) (s : State) : Out :=
  let ok := fun (n : Nat) => !s.silent.contains n
  let cds := (List.range 16).filter fun c => b.cds.getLsbD c && ok c
  let eds := (List.range 8).filter fun e => b.eds.getLsbD e && ok (16 + e)
  let (cds, eds) := exclude 24 cds eds
  .next (if s.booted || cds.isEmpty || !(eds.contains 0 || eds.contains 4) || !domainOk b.domain b.pkg.toNat then s
    else
      { s with
        booted := true, pkg := b.pkg.toNat, domain := b.domain, cds := BitVec.ofNat 16 (bitsOf cds), eds := BitVec.ofNat 8 (bitsOf eds),
        bootAt := s.now, release := b.release,
        measures := (cds ++ eds.map (16 + ·)).map fun n => b.measures.getD n 0 })

/-- R489: a die (compute dies 0-15, edge dies 16-23) has not answered within 10 ms. -/
def execDieAuthTimeout (die : Nat) (s : State) : Out :=
  .next (if s.booted || s.silent.contains die then s else { s with silent := s.silent ++ [die] })

/-! ### Writes that Trivet makes on its own (R468, R478) -/

/-- R468: 1 written to PSTATE of an absent partition. -/
def execPstateCreate (p : Nat) (s : State) : Out := .next (if p < 32 ∧ (s.partn p).st = 0 then createPart s p 0 else s)

/-- A swap that ends before its exchange: the cores that were halting go on. -/
def dropSwap (s : State) (w : Swap) : State :=
  { s with
    swaps := s.swaps.filter (· ≠ w)
    cores := fmapVals (fun _ k => if k.part = some w.p then { k with swapping := false } else k) s.cores }

/-- What a reset of an edge die's Trivet loses: its management core, and the event ring that Trivet writes with the records that it
holds (R486; DESIGN CHOICE, log 104). -/
def Edge.fresh (g : Edge) : Edge :=
  { g with mgmt := Edge.reset.mgmt, evBase := 0, evSize := 0, evConsAt := 0, evWritten := 0, ev := EvDie.reset }

/-- A machine check on the management core of an edge die (R480): the die's Trivet state is reset, and commands in progress there reply
RESET. A swap or a kill that has not happened yet does not happen (DESIGN CHOICE, log 104). -/
def trivetReset (s : State) (ed : Nat) : State :=
  let s := s.swaps.foldl (fun s w => match w.req with
    | some h => if h.ed = ed then hostReply (dropSwap s w) h hsRESET [] else s
    | none => s) s
  let s := s.netx.foldl (fun s y => if y.req.ed = ed then hostReply { s with netx := s.netx.erase y } y.req hsRESET [] else s) s
  s.onEdge ed Edge.fresh

/-- R478: a write of a management register by the management core of an edge die. One that traps is a machine check of that core (R480). -/
def execMgmtRegisterWrite (r : MgmtReg) (v : BitVec 64) (s : State) : Out :=
  .next (if 8 ≤ r.ed ∨ !edPresent s r.ed then s
    else
      match mgmtWrite s r.n v with
      | .ok s => s
      | .error _ => trivetReset s r.ed)

/-! ### Host commands (R487, R488, Table 20.13) -/

/-- Whether a command is being executed, so that the next one waits (R488). -/
def hostBusy (s : State) : Bool := s.swaps.any (fun w => w.req.isSome) || !s.netx.isEmpty

/-- An argument dword. -/
def reqArg (h : HostReq) (i : Nat) : Word := h.args.getD i 0
def reqNat (h : HostReq) (i : Nat) : Nat := (reqArg h i).toNat

/-- Whether a command has reached an edge die of the host path (01 R19). -/
def hostPath (s : State) (h : HostReq) : Bool := decide (h.ed = 0 ∨ h.ed = 4) && edPresent s h.ed

/-- A command of an offered version other than 0, when no other is being executed. -/
def hostCmd (h : HostReq) (s : State) (f : State) : Out :=
  .next (if !s.booted || !hostPath s h || hostBusy s then s else if h.ver = 0 then hostReply s h hsBADVER [] else f)

/-- A reply without results. -/
def hostDone (s : State) (h : HostReq) (status : Nat) : State := hostReply s h status []

def mgmtStatus : MgmtErr → Nat
  | .state => hsSTATE
  | _ => hsBADARG

/-- A management register written for the host. -/
def hostWrite (s : State) (h : HostReq) (n : Nat) (v : Word) : State :=
  match mgmtWrite s n v with
  | .ok s => hostDone s h hsOK
  | .error e => hostDone s h (mgmtStatus e)

/-- HELLO. -/
def execHello (h : HostReq) (s : State) : Out :=
  hostCmd h s (hostReply s h hsOK [1, BitVec.ofNat 64 s.pkg, bootWord s 0])

/-- BOOTRPT. -/
def execBootrpt (h : HostReq) (s : State) : Out :=
  hostCmd h s (if 9 < (reqNat h 0) then hostDone s h hsBADARG
    else hostReply s h hsOK ((List.range 12).map fun i => bootWord s ((reqNat h 0) + i)))

/-- PCREATE (R468). -/
def execPcreate (h : HostReq) (s : State) : Out :=
  let p := (reqNat h 0)
  hostCmd h s (if 32 ≤ p then hostDone s h hsBADARG
    else if (s.partn p).st ≠ 0 then hostDone s h hsSTATE
    else
      match partWrite s p 1 (reqArg h 1), partWrite s p 3 (reqArg h 2), partWrite s p 2 (reqArg h 4) with
      | .ok _, .ok _, .ok _ =>
        let s := s.onPart p fun x => { x with gran := (reqArg h 1), ctx := (reqNat h 2), span := (reqArg h 3) }
        hostDone (createPart s p (reqNat h 4)) h hsOK
      | _, _, _ => hostDone s h hsBADARG)

/-- PSWAP: the status of `sys.swap` is the reply's result. It waits for a swap that a core has asked for. -/
def execPswap (h : HostReq) (s : State) : Out :=
  let p := (reqNat h 0)
  let q := (reqNat h 1)
  hostCmd h s (if 32 < p ∨ 32 < q ∨ p = q then hostDone s h hsBADARG
    else if !s.swaps.isEmpty then s
    else
      let st := swapStatus s p q
      if st ≠ 0 then hostReply s h hsOK [BitVec.ofNat 64 st] else startSwap s p q none (some h))

/-- PKILL. It waits for a swap that a core has asked for. -/
def execPkill (h : HostReq) (s : State) : Out :=
  let p := (reqNat h 0)
  hostCmd h s (if 32 ≤ p then hostDone s h hsBADARG
    else if !s.swaps.isEmpty then s
    else if (s.partn p).st = 0 then hostDone s h hsSTATE
    else startKill s p none (some h))

/-- PSET. -/
def execPset (h : HostReq) (s : State) : Out :=
  hostCmd h s (if 32 ≤ (reqNat h 0) ∨ 16 ≤ (reqNat h 1) then hostDone s h hsBADARG else hostWrite s h (16 * (reqNat h 0) + (reqNat h 1)) (reqArg h 2))

/-- TLBINV. -/
def execTlbinv (h : HostReq) (s : State) : Out :=
  hostCmd h s (if 32 ≤ (reqNat h 0) ∨ 2 ^ 57 ≤ (reqNat h 1) then hostDone s h hsBADARG
    else if (s.partn ((reqNat h 0))).st = 0 then hostDone s h hsSTATE
    else hostDone (tlbInvalidate s ((reqNat h 0)) ((reqNat h 1)) ((reqNat h 2))) h hsOK)

/-- LAUNCH (R498). -/
def execLaunch (h : HostReq) (s : State) : Out :=
  let p := (reqNat h 0)
  let rcb := (reqNat h 1)
  hostCmd h s (if 32 ≤ p then hostDone s h hsBADARG
    else if (s.partn p).st ≠ 2 then hostDone s h hsSTATE
    else if rcb % 512 ≠ 0 ∨ rcb = 0 then hostDone s h hsBADARG
    else
      match xlateHw s p rcb .w with
      | .ok .. =>
        let (t, code) := launchAt s p rcb none none (some 3) none false
        if code = 0 then hostDone (t.onPart p fun x => { x with root := (reqArg h 1) }) h hsOK else hostDone t h hsBADARG
      | _ => hostDone s h hsBADARG)

/-- RKILL: as `region.kill` of a descendant of the root (13 R352). -/
def execRkill (h : HostReq) (s : State) : Out :=
  let p := (reqNat h 0)
  let rcb := (reqNat h 1)
  let root := (s.partn p).root.toNat
  let st := regionState s p rcb
  hostCmd h s (if 32 ≤ p ∨ rcb % 512 ≠ 0 then hostDone s h hsBADARG
    else if (s.partn p).st = 0 then hostDone s h hsSTATE
    else if rcb ≠ root ∧ inRegion s p rcb root ∧ (st = stPending ∨ st = stRunning) then
      hostDone (underPart s p fun s => failRegion s p rcb 3) h hsOK
    else hostDone s h hsOK)

/-- PLIMIT. -/
def execPlimit (h : HostReq) (s : State) : Out :=
  let w := (reqNat h 0)
  hostCmd h s (if w < 100 ∨ 2400 < w then hostDone s h hsBADARG
    else
      let dbs := ((List.range 16).filter (cdPresent s)).foldl (fun m d => fset m d (w / 60)) s.dbs
      hostDone { s with plim := w, dbs := dbs } h hsOK)

/-- EVRING (R483). -/
def execEvring (h : HostReq) (s : State) : Out :=
  let e := (reqNat h 0)
  hostCmd h s (if 8 ≤ e ∨ !edPresent s e ∨ (reqNat h 2) < 6 ∨ 16 < (reqNat h 2) ∨ 2 ^ 47 ≤ reqNat h 1 ∨ 2 ^ 47 ≤ reqNat h 3 then hostDone s h hsBADARG
    else
      hostDone (s.onEdge e fun g =>
        { g with evBase := reqNat h 1, evSize := 2 ^ (reqNat h 2), evConsAt := reqNat h 3, evWritten := 0 }) h hsOK)

/-- FABSET. -/
def execFabset (h : HostReq) (s : State) : Out :=
  hostCmd h s (if (reqNat h 0) < 0x400 ∨ 0x403 < (reqNat h 0) then hostDone s h hsBADARG else hostWrite s h ((reqNat h 0)) (reqArg h 1))

/-- LINKRST (14 R382). -/
def execLinkrst (h : HostReq) (s : State) : Out :=
  let l := (reqNat h 0)
  hostCmd h s (if 288 ≤ l ∨ !edPresent s (linkEdge l) then hostDone s h hsBADARG else hostDone (restoreLink s l) h hsOK)

/-- The die whose certificate and key attest the package (R492). -/
def identityDie (s : State) : Nat := if edPresent s 0 then 0 else 4

/-- The attestation report of a nonce (R492). -/
def attestReport (s : State) (nonce : List Word) : List Byte :=
  let body := (nonce.flatMap fun w => leBytes 8 w.toNat) ++ ((List.range 10).flatMap fun w => leBytes 8 (bootWord s w).toNat) ++
    (s.measures.flatMap fun m => leBytes 32 m.toNat) ++ Config.certificate (identityDie s)
  body ++ (List.range 17088).map fun i => (Config.signature (identityDie s) body).getD i 0

/-- ATTEST. -/
def execAttest (h : HostReq) (s : State) : Out :=
  let a := (reqNat h 4)
  hostCmd h s (if 2 ^ 47 ≤ a then hostDone s h hsBADARG
    else hostDone { s with host := mwrite s.host a (attestReport s [(reqArg h 0), (reqArg h 1), (reqArg h 2), (reqArg h 3)]) } h hsOK)

/-- Whether every byte of a device range is backed by device memory. -/
def deviceOk (s : State) (pa n : Nat) : Bool :=
  decide (pa + n ≤ 2 ^ 47) && ((List.range (n / 256 + 2)).all fun i =>
    let a := if i = 0 then pa else (pa / 256 + i) * 256
    decide (pa + n ≤ a) || paOk s a)

/-- Bytes of device memory, granule by granule of the interleaved window (07 R217). -/
def deviceRead (s : State) (pa n : Nat) : List Byte := (List.range n).map fun i => mget s.dram (paLinear s (pa + i))

def deviceWrite (s : State) (pa : Nat) : List Byte → State
  | [] => s
  | b :: r => deviceWrite { s with dram := mset s.dram (paLinear s pa) b } (pa + 1) r

/-- COPY: direction 0 moves host bytes to the device, 1 device bytes to the host (log 52). No other command of the host reaches device
memory (R486). -/
def execCopy (h : HostReq) (s : State) : Out :=
  let dir := (reqNat h 0)
  let host := (reqNat h 1)
  let dev := (reqNat h 2)
  let n := (reqNat h 3)
  hostCmd h s (if 1 < dir ∨ 2 ^ 47 < host + n ∨ !deviceOk s dev n then hostDone s h hsBADARG
    else if dir = 0 then hostDone (deviceWrite s dev (mread s.host host n)) h hsOK
    else hostDone { s with host := mwrite s.host host (deviceRead s dev n) } h hsOK)

/-- NETXFER (R494): the reply comes when the peer has acknowledged every byte. -/
def execNetxfer (h : HostReq) (s : State) : Out :=
  let n := (reqNat h 4)
  hostCmd h s (if 8 ≤ (reqNat h 0) ∨ !edPresent s ((reqNat h 0)) ∨ !deviceOk s ((reqNat h 2)) n then hostDone s h hsBADARG
    else if n = 0 then hostDone s h hsOK
    else { s with netx := [{ port := (reqNat h 0), left := n, req := h }] })

/-- Commands of version 1. -/
def hostKnown (num : Nat) : Bool :=
  [0x01, 0x02, 0x10, 0x11, 0x12, 0x13, 0x14, 0x20, 0x21, 0x30, 0x31, 0x40, 0x41, 0x50, 0x60, 0x61].contains num

/-- R488: an unknown number replies BADCMD. -/
def execHostBadcmd (num : Nat) (h : HostReq) (s : State) : Out :=
  if hostKnown num then .next s else hostCmd h s (hostDone s h hsBADCMD)

/-- R494: bytes of a peer's transfer arrive, or its acknowledgement of ours. -/
def execUetTransferReceive (port : Nat) (x : UetInput) (s : State) : Out :=
  .next (if 8 ≤ port ∨ !edPresent s port then s
    else
      match x with
      | .data pa b => if deviceOk s pa b.length then deviceWrite s pa b else s
      | .ack n =>
        match s.netx with
        | y :: r =>
          if y.port ≠ port then s
          else if y.left ≤ n then hostDone { s with netx := r } y.req hsOK
          else { s with netx := { y with left := y.left - n } :: r }
        | [] => s)

/-! ### Unassigned words (02 R32, R48) -/

/-- R32: ILLEGAL at issue, TVAL says which word it was. -/
def execUnassignedWord (aw : Bool) (w : BitVec 32) (s : State) : Out :=
  guarded s (some (issueTrapAt s cILLEGAL aw (BitVec.ofNat 64 ((if aw then 2 ^ 32 else 0) + w.toNat)))) none s

end Sys2Proof.Machine
end

