-- ==== Sys2Proof/Machine/Dispatch.lean ====
section
/-! DEFINITION. One arm for each instruction of the opcode table: the meaning it has. -/

namespace Sys2Proof.Machine

def exec (i : Instr) (s : State) : Host.Outcome State Fault Refusal :=
  match i with
  | .nopC => Sys2Proof.Machine.execNopC s
  | .bEqz a off => Sys2Proof.Machine.execBEqz a off s
  | .bNez a off => Sys2Proof.Machine.execBNez a off s
  | .bLtz a off => Sys2Proof.Machine.execBLtz a off s
  | .bGez a off => Sys2Proof.Machine.execBGez a off s
  | .bGtz a off => Sys2Proof.Machine.execBGtz a off s
  | .bLez a off => Sys2Proof.Machine.execBLez a off s
  | .bEq a b off => Sys2Proof.Machine.execBEq a b off s
  | .bNe a b off => Sys2Proof.Machine.execBNe a b off s
  | .bLt a b off => Sys2Proof.Machine.execBLt a b off s
  | .bGe a b off => Sys2Proof.Machine.execBGe a b off s
  | .bLtn a b off => Sys2Proof.Machine.execBLtn a b off s
  | .bGen a b off => Sys2Proof.Machine.execBGen a b off s
  | .j off => Sys2Proof.Machine.execJ off s
  | .jl off => Sys2Proof.Machine.execJl off s
  | .jr a => Sys2Proof.Machine.execJr a s
  | .jlr d a => Sys2Proof.Machine.execJlr d a s
  | .nestClaim d a => Sys2Proof.Machine.execNestClaim d a s
  | .nestNext a => Sys2Proof.Machine.execNestNext a s
  | .leaS d a b sh => Sys2Proof.Machine.execLeaS d a b sh s
  | .leaI d a ix sh => Sys2Proof.Machine.execLeaI d a ix sh s
  | .li d imm => Sys2Proof.Machine.execLi d imm s
  | .lis d imm => Sys2Proof.Machine.execLis d imm s
  | .mfc d c => Sys2Proof.Machine.execMfc d c s
  | .mtc c b => Sys2Proof.Machine.execMtc c b s
  | .flagsWrite core => Sys2Proof.Machine.execFlagsWrite core s
  | .ldL t b z x h o off => Sys2Proof.Machine.execLdL t b z x h o off s
  | .stL t b z x h o off => Sys2Proof.Machine.execStL t b z x h o off s
  | .ldS t tile b z => Sys2Proof.Machine.execLdS t tile b z s
  | .stS t tile b z => Sys2Proof.Machine.execStS t tile b z s
  | .ldG t b z x h o off => Sys2Proof.Machine.execLdG t b z x h o off s
  | .stG t b z x h o off => Sys2Proof.Machine.execStG t b z x h o off s
  | .ldLQ t b h o off => Sys2Proof.Machine.execLdLQ t b h o off s
  | .ldGQ t b h o off => Sys2Proof.Machine.execLdGQ t b h o off s
  | .ldGW4 t b h o off => Sys2Proof.Machine.execLdGW4 t b h o off s
  | .ldGE4 t b h o off => Sys2Proof.Machine.execLdGE4 t b h o off s
  | .stLQ t b h o off => Sys2Proof.Machine.execStLQ t b h o off s
  | .stGQ t b h o off => Sys2Proof.Machine.execStGQ t b h o off s
  | .ldc t b z x h off => Sys2Proof.Machine.execLdc t b z x h off s
  | .rocInv => Sys2Proof.Machine.execRocInv s
  | .tileClaim d a b => Sys2Proof.Machine.execTileClaim d a b s
  | .tileFree a => Sys2Proof.Machine.execTileFree a s
  | .tileFill a => Sys2Proof.Machine.execTileFill a s
  | .tileReady a => Sys2Proof.Machine.execTileReady a s
  | .tileDrop a => Sys2Proof.Machine.execTileDrop a s
  | .tileStat d a => Sys2Proof.Machine.execTileStat d a s
  | .clean a b => Sys2Proof.Machine.execClean a b s
  | .upResume a => Sys2Proof.Machine.execUpResume a s
  | .cpCopy d a => Sys2Proof.Machine.execCpCopy d a s
  | .cpGather d a => Sys2Proof.Machine.execCpGather d a s
  | .cpScatter d a => Sys2Proof.Machine.execCpScatter d a s
  | .cpFill d a b => Sys2Proof.Machine.execCpFill d a b s
  | .cpMcast d a => Sys2Proof.Machine.execCpMcast d a s
  | .cpWalk d a => Sys2Proof.Machine.execCpWalk d a s
  | .cpCow d a => Sys2Proof.Machine.execCpCow d a s
  | .cpWait d a => Sys2Proof.Machine.execCpWait d a s
  | .cpPoll d a => Sys2Proof.Machine.execCpPoll d a s
  | .cpCancel d a => Sys2Proof.Machine.execCpCancel d a s
  | .atomAdd d a ty o p => Sys2Proof.Machine.execAtomAdd d a ty o p s
  | .atomSwap d a ty o p => Sys2Proof.Machine.execAtomSwap d a ty o p s
  | .atomCas d a ty o p => Sys2Proof.Machine.execAtomCas d a ty o p s
  | .atomAnd d a ty o p => Sys2Proof.Machine.execAtomAnd d a ty o p s
  | .atomOr d a ty o p => Sys2Proof.Machine.execAtomOr d a ty o p s
  | .atomXor d a ty o p => Sys2Proof.Machine.execAtomXor d a ty o p s
  | .atomMin d a ty o p => Sys2Proof.Machine.execAtomMin d a ty o p s
  | .atomMax d a ty o p => Sys2Proof.Machine.execAtomMax d a ty o p s
  | .redAdd d a ty o p => Sys2Proof.Machine.execRedAdd d a ty o p s
  | .redAnd d a ty o p => Sys2Proof.Machine.execRedAnd d a ty o p s
  | .redOr d a ty o p => Sys2Proof.Machine.execRedOr d a ty o p s
  | .redXor d a ty o p => Sys2Proof.Machine.execRedXor d a ty o p s
  | .redMin d a ty o p => Sys2Proof.Machine.execRedMin d a ty o p s
  | .redMax d a ty o p => Sys2Proof.Machine.execRedMax d a ty o p s
  | .waitAny d a b => Sys2Proof.Machine.execWaitAny d a b s
  | .fence sc o => Sys2Proof.Machine.execFence sc o s
  | .fenceEng sc o => Sys2Proof.Machine.execFenceEng sc o s
  | .fenceMx sc o => Sys2Proof.Machine.execFenceMx sc o s
  | .fenceRoc sc o => Sys2Proof.Machine.execFenceRoc sc o s
  | .fenceFull sc o => Sys2Proof.Machine.execFenceFull sc o s
  | .sendR a b => Sys2Proof.Machine.execSendR a b s
  | .sendA a b => Sys2Proof.Machine.execSendA a b s
  | .sendAny b => Sys2Proof.Machine.execSendAny b s
  | .actEnd => Sys2Proof.Machine.execActEnd s
  | .actMigrate a => Sys2Proof.Machine.execActMigrate a s
  | .actFail a => Sys2Proof.Machine.execActFail a s
  | .actInfo d => Sys2Proof.Machine.execActInfo d s
  | .barInit d a b => Sys2Proof.Machine.execBarInit d a b s
  | .barArrive d a b => Sys2Proof.Machine.execBarArrive d a b s
  | .barArriveNb d a b => Sys2Proof.Machine.execBarArriveNb d a b s
  | .barWait d a b => Sys2Proof.Machine.execBarWait d a b s
  | .barFree a => Sys2Proof.Machine.execBarFree a s
  | .regionLaunch a => Sys2Proof.Machine.execRegionLaunch a s
  | .regionLaunchEarly a b => Sys2Proof.Machine.execRegionLaunchEarly a b s
  | .regionKill a => Sys2Proof.Machine.execRegionKill a s
  | .regionStat d a => Sys2Proof.Machine.execRegionStat d a s
  | .launchTrig => Sys2Proof.Machine.execLaunchTrig s
  | .fabPf a b => Sys2Proof.Machine.execFabPf a b s
  | .fabSlot d => Sys2Proof.Machine.execFabSlot d s
  | .fabPeer d a => Sys2Proof.Machine.execFabPeer d a s
  | .fabCtr d a => Sys2Proof.Machine.execFabCtr d a s
  | .fabWait d a b => Sys2Proof.Machine.execFabWait d a b s
  | .potPost a b => Sys2Proof.Machine.execPotPost a b s
  | .potRead d a b => Sys2Proof.Machine.execPotRead d a b s
  | .potReadSeal d a b => Sys2Proof.Machine.execPotReadSeal d a b s
  | .potOpen d b => Sys2Proof.Machine.execPotOpen d b s
  | .potClose a => Sys2Proof.Machine.execPotClose a s
  | .potStat d a b => Sys2Proof.Machine.execPotStat d a b s
  | .potSeal a => Sys2Proof.Machine.execPotSeal a s
  | .potExp a b => Sys2Proof.Machine.execPotExp a b s
  | .potReset a b => Sys2Proof.Machine.execPotReset a b s
  | .qdOpen d a => Sys2Proof.Machine.execQdOpen d a s
  | .qdDetach => Sys2Proof.Machine.execQdDetach s
  | .qdExit d => Sys2Proof.Machine.execQdExit d s
  | .qdStat d a => Sys2Proof.Machine.execQdStat d a s
  | .reelOpen d a => Sys2Proof.Machine.execReelOpen d a s
  | .reelScore a => Sys2Proof.Machine.execReelScore a s
  | .reelDone d => Sys2Proof.Machine.execReelDone d s
  | .reelSync d => Sys2Proof.Machine.execReelSync d s
  | .reelStat d a => Sys2Proof.Machine.execReelStat d a s
  | .trap code => Sys2Proof.Machine.execTrap code s
  | .eret => Sys2Proof.Machine.execEret s
  | .leave a b => Sys2Proof.Machine.execLeave a b s
  | .sysTlbinv d a b => Sys2Proof.Machine.execSysTlbinv d a b s
  | .sysMrd d a => Sys2Proof.Machine.execSysMrd d a s
  | .sysMwr a b => Sys2Proof.Machine.execSysMwr a b s
  | .sysSwap d a b => Sys2Proof.Machine.execSysSwap d a b s
  | .sysKill d a => Sys2Proof.Machine.execSysKill d a s
  | .sysEvt a b => Sys2Proof.Machine.execSysEvt a b s
  | .hintC h x => Sys2Proof.Machine.execHintC h x s
  | .nopA => Sys2Proof.Machine.execNopA s
  | .add d a b => Sys2Proof.Machine.execAdd d a b s
  | .sub d a b => Sys2Proof.Machine.execSub d a b s
  | .addI32 d a b => Sys2Proof.Machine.execAddI32 d a b s
  | .subI32 d a b => Sys2Proof.Machine.execSubI32 d a b s
  | .addsI64 d a b => Sys2Proof.Machine.execAddsI64 d a b s
  | .addsN64 d a b => Sys2Proof.Machine.execAddsN64 d a b s
  | .subsI64 d a b => Sys2Proof.Machine.execSubsI64 d a b s
  | .subsN64 d a b => Sys2Proof.Machine.execSubsN64 d a b s
  | .and d a b => Sys2Proof.Machine.execAnd d a b s
  | .or d a b => Sys2Proof.Machine.execOr d a b s
  | .xor d a b => Sys2Proof.Machine.execXor d a b s
  | .andn d a b => Sys2Proof.Machine.execAndn d a b s
  | .orn d a b => Sys2Proof.Machine.execOrn d a b s
  | .xnor d a b => Sys2Proof.Machine.execXnor d a b s
  | .addImm d a imm => Sys2Proof.Machine.execAddImm d a imm s
  | .andImm d a imm => Sys2Proof.Machine.execAndImm d a imm s
  | .orImm d a imm => Sys2Proof.Machine.execOrImm d a imm s
  | .xorImm d a imm => Sys2Proof.Machine.execXorImm d a imm s
  | .shl d a b => Sys2Proof.Machine.execShl d a b s
  | .shrN64 d a b => Sys2Proof.Machine.execShrN64 d a b s
  | .shr d a b => Sys2Proof.Machine.execShr d a b s
  | .rol d a b => Sys2Proof.Machine.execRol d a b s
  | .ror d a b => Sys2Proof.Machine.execRor d a b s
  | .shlI32 d a b => Sys2Proof.Machine.execShlI32 d a b s
  | .shrN32 d a b => Sys2Proof.Machine.execShrN32 d a b s
  | .shrI32 d a b => Sys2Proof.Machine.execShrI32 d a b s
  | .shlImm d a n => Sys2Proof.Machine.execShlImm d a n s
  | .shrN64Imm d a n => Sys2Proof.Machine.execShrN64Imm d a n s
  | .shrImm d a n => Sys2Proof.Machine.execShrImm d a n s
  | .rolImm d a n => Sys2Proof.Machine.execRolImm d a n s
  | .rorImm d a n => Sys2Proof.Machine.execRorImm d a n s
  | .shlI32Imm d a n => Sys2Proof.Machine.execShlI32Imm d a n s
  | .shrN32Imm d a n => Sys2Proof.Machine.execShrN32Imm d a n s
  | .shrI32Imm d a n => Sys2Proof.Machine.execShrI32Imm d a n s
  | .mul d a b => Sys2Proof.Machine.execMul d a b s
  | .mulh d a b => Sys2Proof.Machine.execMulh d a b s
  | .mulhN64 d a b => Sys2Proof.Machine.execMulhN64 d a b s
  | .mulI32 d a b => Sys2Proof.Machine.execMulI32 d a b s
  | .mla d a b => Sys2Proof.Machine.execMla d a b s
  | .mulsI64 d a b => Sys2Proof.Machine.execMulsI64 d a b s
  | .cmpEq d a b => Sys2Proof.Machine.execCmpEq d a b s
  | .cmpNe d a b => Sys2Proof.Machine.execCmpNe d a b s
  | .cmpLt d a b => Sys2Proof.Machine.execCmpLt d a b s
  | .cmpLtN64 d a b => Sys2Proof.Machine.execCmpLtN64 d a b s
  | .cmpLe d a b => Sys2Proof.Machine.execCmpLe d a b s
  | .cmpLeN64 d a b => Sys2Proof.Machine.execCmpLeN64 d a b s
  | .selNez d a b => Sys2Proof.Machine.execSelNez d a b s
  | .selEqz d a b => Sys2Proof.Machine.execSelEqz d a b s
  | .bfxN64 d a b => Sys2Proof.Machine.execBfxN64 d a b s
  | .bfx d a b => Sys2Proof.Machine.execBfx d a b s
  | .bfi d a b => Sys2Proof.Machine.execBfi d a b s
  | .clz d a => Sys2Proof.Machine.execClz d a s
  | .ctz d a => Sys2Proof.Machine.execCtz d a s
  | .popc d a => Sys2Proof.Machine.execPopc d a s
  | .bswap d a => Sys2Proof.Machine.execBswap d a s
  | .brev d a => Sys2Proof.Machine.execBrev d a s
  | .min d a b => Sys2Proof.Machine.execMin d a b s
  | .minN64 d a b => Sys2Proof.Machine.execMinN64 d a b s
  | .max d a b => Sys2Proof.Machine.execMax d a b s
  | .maxN64 d a b => Sys2Proof.Machine.execMaxN64 d a b s
  | .abs d a => Sys2Proof.Machine.execAbs d a s
  | .abss d a => Sys2Proof.Machine.execAbss d a s
  | .kand d a b => Sys2Proof.Machine.execKand d a b s
  | .kor d a b => Sys2Proof.Machine.execKor d a b s
  | .kxor d a b => Sys2Proof.Machine.execKxor d a b s
  | .kandn d a b => Sys2Proof.Machine.execKandn d a b s
  | .knot d a => Sys2Proof.Machine.execKnot d a s
  | .kset d a => Sys2Proof.Machine.execKset d a s
  | .kget d a => Sys2Proof.Machine.execKget d a s
  | .kpopc d a => Sys2Proof.Machine.execKpopc d a s
  | .kffs d a => Sys2Proof.Machine.execKffs d a s
  | .vbcast d rs m z => Sys2Proof.Machine.execVbcast d rs m z s
  | .vins d rs e m z => Sys2Proof.Machine.execVins d rs e m z s
  | .vextI d a e m z => Sys2Proof.Machine.execVextI d a e m z s
  | .vextN d a e m z => Sys2Proof.Machine.execVextN d a e m z s
  | .vadd d a b m z => Sys2Proof.Machine.execVadd d a b m z s
  | .vsub d a b m z => Sys2Proof.Machine.execVsub d a b m z s
  | .vaddsI d a b m z => Sys2Proof.Machine.execVaddsI d a b m z s
  | .vaddsN d a b m z => Sys2Proof.Machine.execVaddsN d a b m z s
  | .vsubsI d a b m z => Sys2Proof.Machine.execVsubsI d a b m z s
  | .vsubsN d a b m z => Sys2Proof.Machine.execVsubsN d a b m z s
  | .vmul d a b m z => Sys2Proof.Machine.execVmul d a b m z s
  | .vabs d a m z => Sys2Proof.Machine.execVabs d a m z s
  | .vand d a b m z => Sys2Proof.Machine.execVand d a b m z s
  | .vor d a b m z => Sys2Proof.Machine.execVor d a b m z s
  | .vxor d a b m z => Sys2Proof.Machine.execVxor d a b m z s
  | .vandn d a b m z => Sys2Proof.Machine.execVandn d a b m z s
  | .vorn d a b m z => Sys2Proof.Machine.execVorn d a b m z s
  | .vxnor d a b m z => Sys2Proof.Machine.execVxnor d a b m z s
  | .vbsl d a b m z => Sys2Proof.Machine.execVbsl d a b m z s
  | .vmov d a m z => Sys2Proof.Machine.execVmov d a m z s
  | .vshl d a b m z => Sys2Proof.Machine.execVshl d a b m z s
  | .vshrN d a b m z => Sys2Proof.Machine.execVshrN d a b m z s
  | .vshrI d a b m z => Sys2Proof.Machine.execVshrI d a b m z s
  | .vrol d a b m z => Sys2Proof.Machine.execVrol d a b m z s
  | .vror d a b m z => Sys2Proof.Machine.execVror d a b m z s
  | .vcmpEq d a b m z => Sys2Proof.Machine.execVcmpEq d a b m z s
  | .vcmpLtI d a b m z => Sys2Proof.Machine.execVcmpLtI d a b m z s
  | .vcmpLtN d a b m z => Sys2Proof.Machine.execVcmpLtN d a b m z s
  | .vminI d a b m z => Sys2Proof.Machine.execVminI d a b m z s
  | .vminN d a b m z => Sys2Proof.Machine.execVminN d a b m z s
  | .vmaxI d a b m z => Sys2Proof.Machine.execVmaxI d a b m z s
  | .vmaxN d a b m z => Sys2Proof.Machine.execVmaxN d a b m z s
  | .vcmpNe d a b m z => Sys2Proof.Machine.execVcmpNe d a b m z s
  | .vaddF32 d a b m rm => Sys2Proof.Machine.execVaddF32 d a b m rm s
  | .vsubF32 d a b m rm => Sys2Proof.Machine.execVsubF32 d a b m rm s
  | .vmulF32 d a b m rm => Sys2Proof.Machine.execVmulF32 d a b m rm s
  | .vfmaF32 d a b m rm => Sys2Proof.Machine.execVfmaF32 d a b m rm s
  | .vfnmaF32 d a b m rm => Sys2Proof.Machine.execVfnmaF32 d a b m rm s
  | .vminF32 d a b m rm => Sys2Proof.Machine.execVminF32 d a b m rm s
  | .vmaxF32 d a b m rm => Sys2Proof.Machine.execVmaxF32 d a b m rm s
  | .vcmpF32 d a b m p => Sys2Proof.Machine.execVcmpF32 d a b m p s
  | .vtbl d a b m => Sys2Proof.Machine.execVtbl d a b m s
  | .vzlo d a b m z => Sys2Proof.Machine.execVzlo d a b m z s
  | .vzhi d a b m z => Sys2Proof.Machine.execVzhi d a b m z s
  | .vuzev d a b m z => Sys2Proof.Machine.execVuzev d a b m z s
  | .vuzod d a b m z => Sys2Proof.Machine.execVuzod d a b m z s
  | .vrev d a m z => Sys2Proof.Machine.execVrev d a m z s
  | .vdup d a b m z => Sys2Proof.Machine.execVdup d a b m z s
  | .vrsumInt d a m z => Sys2Proof.Machine.execVrsumInt d a m z s
  | .vrminI d a m z => Sys2Proof.Machine.execVrminI d a m z s
  | .vrminN d a m z => Sys2Proof.Machine.execVrminN d a m z s
  | .vrmaxI d a m z => Sys2Proof.Machine.execVrmaxI d a m z s
  | .vrmaxN d a m z => Sys2Proof.Machine.execVrmaxN d a m z s
  | .vrsumBf16 d a m => Sys2Proof.Machine.execVrsumBf16 d a m s
  | .vrsumF32 d a m => Sys2Proof.Machine.execVrsumF32 d a m s
  | .vrmaxF32 d a m => Sys2Proof.Machine.execVrmaxF32 d a m s
  | .vrminF32 d a m => Sys2Proof.Machine.execVrminF32 d a m s
  | .vdotI8 d a b m => Sys2Proof.Machine.execVdotI8 d a b m s
  | .vdotN8 d a b m => Sys2Proof.Machine.execVdotN8 d a b m s
  | .vdotI16 d a b m => Sys2Proof.Machine.execVdotI16 d a b m s
  | .vdotBf16 d a b m => Sys2Proof.Machine.execVdotBf16 d a b m s
  | .vdotE4m3 d a b m => Sys2Proof.Machine.execVdotE4m3 d a b m s
  | .vdotE5m2 d a b m => Sys2Proof.Machine.execVdotE5m2 d a b m s
  | .vcvtBf16F32 d a m p rm => Sys2Proof.Machine.execVcvtBf16F32 d a m p rm s
  | .vcvtF32Bf16 d a m p rm => Sys2Proof.Machine.execVcvtF32Bf16 d a m p rm s
  | .vcvtE4m3F32 d a m p rm => Sys2Proof.Machine.execVcvtE4m3F32 d a m p rm s
  | .vcvtE5m2F32 d a m p rm => Sys2Proof.Machine.execVcvtE5m2F32 d a m p rm s
  | .vcvtF32E4m3 d a m p rm => Sys2Proof.Machine.execVcvtF32E4m3 d a m p rm s
  | .vcvtF32E5m2 d a m p rm => Sys2Proof.Machine.execVcvtF32E5m2 d a m p rm s
  | .vcvtI32F32 d a m rm => Sys2Proof.Machine.execVcvtI32F32 d a m rm s
  | .vcvtN32F32 d a m rm => Sys2Proof.Machine.execVcvtN32F32 d a m rm s
  | .vcvtF32I32 d a m rm => Sys2Proof.Machine.execVcvtF32I32 d a m rm s
  | .vcvtF32N32 d a m rm => Sys2Proof.Machine.execVcvtF32N32 d a m rm s
  | .vcvtI16I32 d a m p rm => Sys2Proof.Machine.execVcvtI16I32 d a m p rm s
  | .vcvtI8I16 d a m p rm => Sys2Proof.Machine.execVcvtI8I16 d a m p rm s
  | .vcvtI32I16 d a m p rm => Sys2Proof.Machine.execVcvtI32I16 d a m p rm s
  | .vcvtI16I8 d a m p rm => Sys2Proof.Machine.execVcvtI16I8 d a m p rm s
  | .vsfuExp2 d a m fast => Sys2Proof.Machine.execVsfuExp2 d a m fast s
  | .vsfuLog2 d a m fast => Sys2Proof.Machine.execVsfuLog2 d a m fast s
  | .vsfuRcp d a m fast => Sys2Proof.Machine.execVsfuRcp d a m fast s
  | .vsfuRsqrt d a m fast => Sys2Proof.Machine.execVsfuRsqrt d a m fast s
  | .vsfuSqrt d a m fast => Sys2Proof.Machine.execVsfuSqrt d a m fast s
  | .vsfuSinpi d a m fast => Sys2Proof.Machine.execVsfuSinpi d a m fast s
  | .vsfuCospi d a m fast => Sys2Proof.Machine.execVsfuCospi d a m fast s
  | .vsfuTanh d a m fast => Sys2Proof.Machine.execVsfuTanh d a m fast s
  | .vsfuSigm d a m fast => Sys2Proof.Machine.execVsfuSigm d a m fast s
  | .vaddF32S d a rs m => Sys2Proof.Machine.execVaddF32S d a rs m s
  | .vsubF32S d a rs m => Sys2Proof.Machine.execVsubF32S d a rs m s
  | .vmulF32S d a rs m => Sys2Proof.Machine.execVmulF32S d a rs m s
  | .vfmaF32S d a rs m => Sys2Proof.Machine.execVfmaF32S d a rs m s
  | .vaddI32S d a rs m => Sys2Proof.Machine.execVaddI32S d a rs m s
  | .vsubI32S d a rs m => Sys2Proof.Machine.execVsubI32S d a rs m s
  | .vmulI32S d a rs m => Sys2Proof.Machine.execVmulI32S d a rs m s
  | .vshlN32S d a rs m => Sys2Proof.Machine.execVshlN32S d a rs m s
  | .vshrN32S d a rs m => Sys2Proof.Machine.execVshrN32S d a rs m s
  | .vshrI32S d a rs m => Sys2Proof.Machine.execVshrI32S d a rs m s
  | .vminF32S d a rs m => Sys2Proof.Machine.execVminF32S d a rs m s
  | .vmaxF32S d a rs m => Sys2Proof.Machine.execVmaxF32S d a rs m s
  | .vaddBf16 d a b m rm => Sys2Proof.Machine.execVaddBf16 d a b m rm s
  | .vsubBf16 d a b m rm => Sys2Proof.Machine.execVsubBf16 d a b m rm s
  | .vmulBf16 d a b m rm => Sys2Proof.Machine.execVmulBf16 d a b m rm s
  | .vfmaBf16 d a b m rm => Sys2Proof.Machine.execVfmaBf16 d a b m rm s
  | .vfnmaBf16 d a b m rm => Sys2Proof.Machine.execVfnmaBf16 d a b m rm s
  | .vminBf16 d a b m rm => Sys2Proof.Machine.execVminBf16 d a b m rm s
  | .vmaxBf16 d a b m rm => Sys2Proof.Machine.execVmaxBf16 d a b m rm s
  | .vcmpBf16 d a b m p => Sys2Proof.Machine.execVcmpBf16 d a b m p s
  | .mxMmaE4m3 c xa xb => Sys2Proof.Machine.execMxMmaE4m3 c xa xb s
  | .mxMmaE5m2 c xa xb => Sys2Proof.Machine.execMxMmaE5m2 c xa xb s
  | .mxMmxE4m3 c xa xb => Sys2Proof.Machine.execMxMmxE4m3 c xa xb s
  | .mxMmxE5m2 c xa xb => Sys2Proof.Machine.execMxMmxE5m2 c xa xb s
  | .mxMmaI8 c xa xb => Sys2Proof.Machine.execMxMmaI8 c xa xb s
  | .mxMmaBf16 c xa xb => Sys2Proof.Machine.execMxMmaBf16 c xa xb s
  | .mxCmmaBf16 c xa xb => Sys2Proof.Machine.execMxCmmaBf16 c xa xb s
  | .mxProm c sa sb => Sys2Proof.Machine.execMxProm c sa sb s
  | .mxPromU c => Sys2Proof.Machine.execMxPromU c s
  | .mxLd xd sa sb => Sys2Proof.Machine.execMxLd xd sa sb s
  | .mxLd2 xd sa sb => Sys2Proof.Machine.execMxLd2 xd sa sb s
  | .mxLdwQ4 xd sa sb => Sys2Proof.Machine.execMxLdwQ4 xd sa sb s
  | .mxLdwE4m3 xd sa sb => Sys2Proof.Machine.execMxLdwE4m3 xd sa sb s
  | .mxLdt xd sa sb => Sys2Proof.Machine.execMxLdt xd sa sb s
  | .mxAstF32 c sa sb => Sys2Proof.Machine.execMxAstF32 c sa sb s
  | .mxAstBf16 c sa sb => Sys2Proof.Machine.execMxAstBf16 c sa sb s
  | .mxAldF32 c sa sb => Sys2Proof.Machine.execMxAldF32 c sa sb s
  | .mxAzero c => Sys2Proof.Machine.execMxAzero c s
  | .mxSync => Sys2Proof.Machine.execMxSync s
  | .mxStat d c => Sys2Proof.Machine.execMxStat d c s
  | .mxDrop c => Sys2Proof.Machine.execMxDrop c s
  | .hintA h x => Sys2Proof.Machine.execHintA h x s
  | .stepTrap core => Sys2Proof.Machine.execStepTrap core s
  | .accessConfirm core id => Sys2Proof.Machine.execAccessConfirm core id s
  | .lateFault core => Sys2Proof.Machine.execLateFault core s
  | .pageUpcall core ctx => Sys2Proof.Machine.execPageUpcall core ctx s
  | .loadPerform core id err => Sys2Proof.Machine.execLoadPerform core id err s
  | .pageWalk slice part va err => Sys2Proof.Machine.execPageWalk slice part va err s
  | .dramBurst ed block => Sys2Proof.Machine.execDramBurst ed block s
  | .storePerform id => Sys2Proof.Machine.execStorePerform id s
  | .watchArm core ctx n => Sys2Proof.Machine.execWatchArm core ctx n s
  | .waitAnyTimeout core ctx => Sys2Proof.Machine.execWaitAnyTimeout core ctx s
  | .atomicPerform id err => Sys2Proof.Machine.execAtomicPerform id err s
  | .atomicReply core id => Sys2Proof.Machine.execAtomicReply core id s
  | .nearOwnershipGrant core id => Sys2Proof.Machine.execNearOwnershipGrant core id s
  | .nearRecall part va => Sys2Proof.Machine.execNearRecall part va s
  | .cleanPerform id => Sys2Proof.Machine.execCleanPerform id s
  | .hotnessSample slice part => Sys2Proof.Machine.execHotnessSample slice part s
  | .detectedError core => Sys2Proof.Machine.execDetectedError core s
  | .watchdogExpiry core => Sys2Proof.Machine.execWatchdogExpiry core s
  | .retryRestart core err => Sys2Proof.Machine.execRetryRestart core err s
  | .messageRelease id => Sys2Proof.Machine.execMessageRelease id s
  | .messageLand id => Sys2Proof.Machine.execMessageLand id s
  | .messageRetry id => Sys2Proof.Machine.execMessageRetry id s
  | .dispatch core => Sys2Proof.Machine.execDispatch core s
  | .preemption core => Sys2Proof.Machine.execPreemption core s
  | .priorityAgeing core n => Sys2Proof.Machine.execPriorityAgeing core n s
  | .runQueueReport core => Sys2Proof.Machine.execRunQueueReport core s
  | .issueWaitPark core => Sys2Proof.Machine.execIssueWaitPark core s
  | .activationWake core ctx => Sys2Proof.Machine.execActivationWake core ctx s
  | .launchPerform id => Sys2Proof.Machine.execLaunchPerform id s
  | .launchTrigger id => Sys2Proof.Machine.execLaunchTrigger id s
  | .regionKillPerform id => Sys2Proof.Machine.execRegionKillPerform id s
  | .regionComplete part rcb => Sys2Proof.Machine.execRegionComplete part rcb s
  | .barrierArrival core id => Sys2Proof.Machine.execBarrierArrival core id s
  | .cpStart core => Sys2Proof.Machine.execCpStart core s
  | .cpComplete core id err => Sys2Proof.Machine.execCpComplete core id err s
  | .cpCancelStop core id n => Sys2Proof.Machine.execCpCancelStop core id n s
  | .mxRequestStart cluster stage => Sys2Proof.Machine.execMxRequestStart cluster stage s
  | .mxRequestComplete core id => Sys2Proof.Machine.execMxRequestComplete core id s
  | .mxStateCopy core ctx => Sys2Proof.Machine.execMxStateCopy core ctx s
  | .governorWindow die => Sys2Proof.Machine.execGovernorWindow die s
  | .potPostPerform id => Sys2Proof.Machine.execPotPostPerform id s
  | .potReadPerform id => Sys2Proof.Machine.execPotReadPerform id s
  | .potReadLimit id => Sys2Proof.Machine.execPotReadLimit id s
  | .potReadResend id => Sys2Proof.Machine.execPotReadResend id s
  | .potReadReply id => Sys2Proof.Machine.execPotReadReply id s
  | .fabricSlotStart => Sys2Proof.Machine.execFabricSlotStart s
  | .guardEnd => Sys2Proof.Machine.execGuardEnd s
  | .flitBoundary link => Sys2Proof.Machine.execFlitBoundary link s
  | .flitReceive link fl => Sys2Proof.Machine.execFlitReceive link fl s
  | .nak link bulk n => Sys2Proof.Machine.execNak link bulk n s
  | .linkRetrain link => Sys2Proof.Machine.execLinkRetrain link s
  | .linkRetrainEnd link => Sys2Proof.Machine.execLinkRetrainEnd link s
  | .leakyBucketDecay link => Sys2Proof.Machine.execLeakyBucketDecay link s
  | .laneErrorWindow link lane errs => Sys2Proof.Machine.execLaneErrorWindow link lane errs s
  | .laneRetrainEnd link lane => Sys2Proof.Machine.execLaneRetrainEnd link lane s
  | .linkUp link ver => Sys2Proof.Machine.execLinkUp link ver s
  | .remoteRequestTimeout id => Sys2Proof.Machine.execRemoteRequestTimeout id s
  | .proxyLineReply id => Sys2Proof.Machine.execProxyLineReply id s
  | .homeRemoteRequest id => Sys2Proof.Machine.execHomeRemoteRequest id s
  | .homeInvalidate id => Sys2Proof.Machine.execHomeInvalidate id s
  | .postTrainTimeout id => Sys2Proof.Machine.execPostTrainTimeout id s
  | .fabWaitTimeout core ctx => Sys2Proof.Machine.execFabWaitTimeout core ctx s
  | .qdAdmission id => Sys2Proof.Machine.execQdAdmission id s
  | .windowAccess id => Sys2Proof.Machine.execWindowAccess id s
  | .allowanceExhausted core => Sys2Proof.Machine.execAllowanceExhausted core s
  | .roundTimeout id => Sys2Proof.Machine.execRoundTimeout id s
  | .roundEnd id => Sys2Proof.Machine.execRoundEnd id s
  | .tileRefill cluster tile => Sys2Proof.Machine.execTileRefill cluster tile s
  | .eventRingRoom ed => Sys2Proof.Machine.execEventRingRoom ed s
  | .powerOn b => Sys2Proof.Machine.execPowerOn b s
  | .dieAuthTimeout die => Sys2Proof.Machine.execDieAuthTimeout die s
  | .pstateCreate p => Sys2Proof.Machine.execPstateCreate p s
  | .linkRestore link => Sys2Proof.Machine.execLinkRestore link s
  | .mgmtRegisterWrite n v => Sys2Proof.Machine.execMgmtRegisterWrite n v s
  | .hello h => Sys2Proof.Machine.execHello h s
  | .bootrpt h => Sys2Proof.Machine.execBootrpt h s
  | .pcreate h => Sys2Proof.Machine.execPcreate h s
  | .pswap h => Sys2Proof.Machine.execPswap h s
  | .pkill h => Sys2Proof.Machine.execPkill h s
  | .pset h => Sys2Proof.Machine.execPset h s
  | .tlbinv h => Sys2Proof.Machine.execTlbinv h s
  | .launch h => Sys2Proof.Machine.execLaunch h s
  | .rkill h => Sys2Proof.Machine.execRkill h s
  | .plimit h => Sys2Proof.Machine.execPlimit h s
  | .evring h => Sys2Proof.Machine.execEvring h s
  | .fabset h => Sys2Proof.Machine.execFabset h s
  | .linkrst h => Sys2Proof.Machine.execLinkrst h s
  | .attest h => Sys2Proof.Machine.execAttest h s
  | .copy h => Sys2Proof.Machine.execCopy h s
  | .netxfer h => Sys2Proof.Machine.execNetxfer h s
  | .hostBadcmd num h => Sys2Proof.Machine.execHostBadcmd num h s
  | .unassignedWord aw w => Sys2Proof.Machine.execUnassignedWord aw w s
  | .uetTransferReceive port x => Sys2Proof.Machine.execUetTransferReceive port x s
  | .swapRestoreDone p q => Sys2Proof.Machine.execSwapRestoreDone p q s

end Sys2Proof.Machine
end

