-- ==== Sys2Proof/WellFormed.lean ====
section
/-! DEFINITION. Well-formed instructions: the operand values that an encoding admits (02 R43, R48 and
the entries), and for events the ranges of the names they carry (01 R9, R13; 13 R329; 14 R363). -/

namespace Sys2Proof

/-- A core number of the package (R13). -/
def coreOk (core : Nat) : Bool := decide (core < 4096)

/-- A core and one of its four activation contexts (R329). -/
def ctxOk (core ctx : Nat) : Bool := decide (core < 4096 ∧ ctx < 4)

/-- A package link (R363). -/
def linkOk (link : Nat) : Bool := decide (link < 288)

/-- The operand values that the spec's encoding tables admit; every other value makes a word
unassigned, or names nothing. -/
def Instr.wf : Instr → Bool
  | .mfc _ c => decide (c.toNat ≤ 0x18)
  | .mtc c _ => decide (c.toNat ≤ 0x18)
  | .ldGW4 _ b _ _ _ => decide (b.toNat ≠ 63)
  | .atomAdd _ _ ty _ _ => decide (ty.toNat ≤ 4)
  | .atomSwap _ _ ty _ _ => decide (ty.toNat ≤ 4)
  | .atomCas d _ ty _ _ => decide (ty.toNat ≤ 4 ∧ d.toNat ≠ 63)
  | .atomAnd _ _ ty _ _ => decide (ty.toNat ≤ 3)
  | .atomOr _ _ ty _ _ => decide (ty.toNat ≤ 3)
  | .atomXor _ _ ty _ _ => decide (ty.toNat ≤ 3)
  | .atomMin _ _ ty _ _ => decide (ty.toNat ≤ 4)
  | .atomMax _ _ ty _ _ => decide (ty.toNat ≤ 4)
  | .redAdd _ _ ty _ _ => decide (ty.toNat ≤ 4)
  | .redAnd _ _ ty _ _ => decide (ty.toNat ≤ 3)
  | .redOr _ _ ty _ _ => decide (ty.toNat ≤ 3)
  | .redXor _ _ ty _ _ => decide (ty.toNat ≤ 3)
  | .redMin _ _ ty _ _ => decide (ty.toNat ≤ 4)
  | .redMax _ _ ty _ _ => decide (ty.toNat ≤ 4)
  | .fence sc _ => decide (sc.toNat ≤ 4)
  | .fenceEng sc _ => decide (sc.toNat ≤ 4)
  | .fenceMx sc _ => decide (sc.toNat ≤ 4)
  | .fenceRoc sc _ => decide (sc.toNat ≤ 4)
  | .fenceFull sc _ => decide (sc.toNat ≤ 4)
  | .shlI32Imm _ _ n => decide (n.toNat < 32)
  | .shrN32Imm _ _ n => decide (n.toNat < 32)
  | .shrI32Imm _ _ n => decide (n.toNat < 32)
  | .vins _ _ e _ z => decide (e.toNat < 16 / 2 ^ z.toNat)
  | .vextI _ _ e _ z => decide (e.toNat < 16 / 2 ^ z.toNat)
  | .vextN _ _ e _ z => decide (z.toNat ≤ 2 ∧ e.toNat < 16 / 2 ^ z.toNat)
  | .mxMmaBf16 _ xa xb => decide (xa.toNat % 2 = 0 ∧ xb.toNat % 2 = 0)
  | .mxCmmaBf16 _ xa xb => decide (xa.toNat % 2 = 0 ∧ xb.toNat % 2 = 0)
  | .mxLd2 xd _ _ => decide (xd.toNat % 2 = 0)
  | .flagsWrite core => coreOk core
  | .stepTrap core => coreOk core
  | .accessConfirm core _ => coreOk core
  | .lateFault core => coreOk core
  | .pageUpcall core ctx => ctxOk core ctx
  | .loadPerform core _ _ => coreOk core
  | .watchArm core ctx _ => ctxOk core ctx
  | .waitAnyTimeout core ctx => ctxOk core ctx
  | .atomicReply core _ => coreOk core
  | .nearOwnershipGrant core _ => coreOk core
  | .detectedError core => coreOk core
  | .watchdogExpiry core => coreOk core
  | .retryRestart core _ => coreOk core
  | .dispatch core => coreOk core
  | .preemption core => coreOk core
  | .priorityAgeing core _ => coreOk core
  | .runQueueReport core => coreOk core
  | .issueWaitPark core => coreOk core
  | .activationWake core ctx => ctxOk core ctx
  | .barrierArrival core _ => coreOk core
  | .cpStart core => coreOk core.n
  | .cpComplete core _ _ => coreOk core
  | .cpCancelStop core _ _ => coreOk core
  | .mxRequestComplete core _ => coreOk core
  | .mxStateCopy core ctx => ctxOk core ctx
  | .flitBoundary link => linkOk link
  | .flitReceive link _ => linkOk link
  | .nak link _ _ => linkOk link
  | .linkRetrain link => linkOk link
  | .linkRetrainEnd link => linkOk link
  | .leakyBucketDecay link => linkOk link
  | .laneErrorWindow link _ _ => linkOk link
  | .laneRetrainEnd link _ => linkOk link
  | .linkUp link _ => linkOk link
  | .fabWaitTimeout core ctx => ctxOk core ctx
  | .allowanceExhausted core => coreOk core
  | .linkRestore link => linkOk link
  | .pageWalk slice part _ _ | .hotnessSample slice part => decide (slice < 512 ∧ part < 32)
  | .dramBurst ed _ | .eventRingRoom ed => decide (ed < 8)
  | .nearRecall part _ | .regionComplete part _ => decide (part < 32)
  | .mxRequestStart cluster stage => decide (cluster < 1024 ∧ stage < 3)
  | .tileRefill cluster tile => decide (cluster < 1024 ∧ tile < 256)
  | .governorWindow die => decide (die < 16)
  | .dieAuthTimeout die => decide (die < 24)
  | .pstateCreate p => decide (p < 32)
  | .uetTransferReceive port _ => decide (port < 8)
  | _ => true

end Sys2Proof
end

