-- ==== Sys2Proof/Decode.lean ====
section
/-! DEFINITION. Decoding and encoding of C-words and A-words (02 R28-R31, R41-R49). A word splits into
its stall fields and a body; the body's major opcode selects a format (Tables 2.5, 2.6), whose fields
become the operands of an instruction. Decoding is total: an unassigned word (R48) decodes to none.
Reserved bits are ignored and reported (R43). (`noncomputable` marks what builds an instruction: the
compiler of Lean holds at most 244 constructors that carry fields; the kernel evaluates all of it.) -/

namespace Sys2Proof

/-- A decoded C-word or A-word: lone bit (C only), stall count, instruction, and whether a reserved
bit was nonzero. -/
structure DWord where
  lone : Bool
  wait : BitVec 3
  instr : Instr
  rsv : Bool
deriving DecidableEq, Repr

/-- A 6-bit field that names a v register: a number outside the file is unassigned (R43). -/
def vregOf (t : BitVec 6) : Option VReg := if t.toNat < 32 then some (t.setWidth 5) else none

/-- A field that names a k register. -/
def kregOf {n : Nat} (t : BitVec n) : Option KReg := if t.toNat < 8 then some (t.setWidth 3) else none

/-- A 6-bit field that names an i register. -/
def iregOf (t : BitVec 6) : Option IReg := if t.toNat < 4 then some (t.setWidth 2) else none

/-- An instruction whose operand values the encoding admits, none otherwise (R48). -/
def assigned (i : Instr) : Option Instr := if i.wf then some i else none

/-- C 0x01, format CB (R118). -/
def decC01 (x : BitVec 28) : Option Instr :=
  let a := x.extractLsb' 16 6
  let c := x.extractLsb' 13 3
  let off := x.extractLsb' 0 13
  match c.toNat with
  | 0 => some (.bEqz a off)
  | 1 => some (.bNez a off)
  | 2 => some (.bLtz a off)
  | 3 => some (.bGez a off)
  | 4 => some (.bGtz a off)
  | 5 => some (.bLez a off)
  | _ => none

/-- C 0x02, format CC (R119). -/
def decC02 (x : BitVec 28) : Option Instr :=
  let a := x.extractLsb' 16 6
  let b := x.extractLsb' 10 6
  let c := x.extractLsb' 7 3
  let off := x.extractLsb' 0 7
  match c.toNat with
  | 0 => some (.bEq a b off)
  | 1 => some (.bNe a b off)
  | 2 => some (.bLt a b off)
  | 3 => some (.bGe a b off)
  | 4 => some (.bLtn a b off)
  | 5 => some (.bGen a b off)
  | _ => none

/-- C 0x03, format CJ (R120). -/
def decC03 (x : BitVec 28) : Option Instr :=
  let off := x.extractLsb' 0 22
  some (.j off)

/-- C 0x04, format CJ (R120). -/
def decC04 (x : BitVec 28) : Option Instr :=
  let off := x.extractLsb' 0 22
  some (.jl off)

/-- C 0x05, format CR (R121). -/
def decC05 (x : BitVec 28) : Option Instr :=
  let d := x.extractLsb' 16 6
  let a := x.extractLsb' 10 6
  let f := x.extractLsb' 0 4
  match f.toNat with
  | 0 => some (.jr a)
  | 1 => some (.jlr d a)
  | _ => none

/-- C 0x06, format CR (R125). -/
def decC06 (x : BitVec 28) : Option Instr :=
  let d := x.extractLsb' 16 6
  let a := x.extractLsb' 10 6
  let f := x.extractLsb' 0 4
  match f.toNat with
  | 0 => some (.nestClaim d a)
  | 1 => some (.nestNext a)
  | _ => none

/-- C 0x08, format CR (R109). -/
def decC08 (x : BitVec 28) : Option Instr :=
  let d := x.extractLsb' 16 6
  let a := x.extractLsb' 10 6
  let b := x.extractLsb' 4 6
  let f := x.extractLsb' 0 4
  match f.toNat with
  | 0 | 1 | 2 | 3 => some (.leaS d a b (f.setWidth 2))
  | 4 | 5 | 6 | 7 => (iregOf b).bind fun b' => some (.leaI d a b' (f.setWidth 2))
  | _ => none

/-- C 0x09, format CW (R110). -/
def decC09 (x : BitVec 28) : Option Instr :=
  let d := x.extractLsb' 16 6
  let imm := x.extractLsb' 0 16
  some (.li d imm)

/-- C 0x0A, format CW (R110). -/
def decC0A (x : BitVec 28) : Option Instr :=
  let d := x.extractLsb' 16 6
  let imm := x.extractLsb' 0 16
  some (.lis d imm)

/-- C 0x0B, format CR (R128). -/
def decC0B (x : BitVec 28) : Option Instr :=
  let d := x.extractLsb' 16 6
  let a := x.extractLsb' 10 6
  let b := x.extractLsb' 4 6
  let f := x.extractLsb' 0 4
  match f.toNat with
  | 0 => assigned (.mfc d a)
  | 1 => assigned (.mtc a b)
  | _ => none

/-- C 0x10, format CM (R206). -/
def decC10 (x : BitVec 28) : Option Instr :=
  let t := x.extractLsb' 16 6
  let b := x.extractLsb' 10 6
  let z := x.extractLsb' 8 2
  let ex := x.extractLsb' 7 1
  let h := x.extractLsb' 5 2
  let o := x.extractLsb' 4 1
  let off := x.extractLsb' 0 4
  some (.ldL t b z ex h o off)

/-- C 0x11, format CM (R208). -/
def decC11 (x : BitVec 28) : Option Instr :=
  let t := x.extractLsb' 16 6
  let b := x.extractLsb' 10 6
  let z := x.extractLsb' 8 2
  let ex := x.extractLsb' 7 1
  let h := x.extractLsb' 5 2
  let o := x.extractLsb' 4 1
  let off := x.extractLsb' 0 4
  some (.stL t b z ex h o off)

/-- C 0x12, format CT (R207). -/
def decC12 (x : BitVec 28) : Option Instr :=
  let t := x.extractLsb' 16 6
  let tile := x.extractLsb' 8 8
  let b := x.extractLsb' 2 6
  let z := x.extractLsb' 0 2
  some (.ldS t tile b z)

/-- C 0x13, format CT (R207). -/
def decC13 (x : BitVec 28) : Option Instr :=
  let t := x.extractLsb' 16 6
  let tile := x.extractLsb' 8 8
  let b := x.extractLsb' 2 6
  let z := x.extractLsb' 0 2
  some (.stS t tile b z)

/-- C 0x14, format CM (R206). -/
def decC14 (x : BitVec 28) : Option Instr :=
  let t := x.extractLsb' 16 6
  let b := x.extractLsb' 10 6
  let z := x.extractLsb' 8 2
  let ex := x.extractLsb' 7 1
  let h := x.extractLsb' 5 2
  let o := x.extractLsb' 4 1
  let off := x.extractLsb' 0 4
  some (.ldG t b z ex h o off)

/-- C 0x15, format CM (R208). -/
def decC15 (x : BitVec 28) : Option Instr :=
  let t := x.extractLsb' 16 6
  let b := x.extractLsb' 10 6
  let z := x.extractLsb' 8 2
  let ex := x.extractLsb' 7 1
  let h := x.extractLsb' 5 2
  let o := x.extractLsb' 4 1
  let off := x.extractLsb' 0 4
  some (.stG t b z ex h o off)

/-- C 0x16, format CM (R205). -/
def decC16 (x : BitVec 28) : Option Instr :=
  let t := x.extractLsb' 16 6
  let b := x.extractLsb' 10 6
  let z := x.extractLsb' 8 2
  let h := x.extractLsb' 5 2
  let o := x.extractLsb' 4 1
  let off := x.extractLsb' 0 4
  match z.toNat with
  | 0 => (vregOf t).bind fun t' => some (.ldLQ t' b h o off)
  | 1 => (vregOf t).bind fun t' => some (.ldGQ t' b h o off)
  | 2 => (vregOf t).bind fun t' => assigned (.ldGW4 t' b h o off)
  | 3 => (vregOf t).bind fun t' => some (.ldGE4 t' b h o off)
  | _ => none

/-- C 0x17, format CM (R205). -/
def decC17 (x : BitVec 28) : Option Instr :=
  let t := x.extractLsb' 16 6
  let b := x.extractLsb' 10 6
  let z := x.extractLsb' 8 2
  let h := x.extractLsb' 5 2
  let o := x.extractLsb' 4 1
  let off := x.extractLsb' 0 4
  match z.toNat with
  | 0 => (vregOf t).bind fun t' => some (.stLQ t' b h o off)
  | 1 => (vregOf t).bind fun t' => some (.stGQ t' b h o off)
  | _ => none

/-- C 0x18, format CM (R218). -/
def decC18 (x : BitVec 28) : Option Instr :=
  let t := x.extractLsb' 16 6
  let b := x.extractLsb' 10 6
  let z := x.extractLsb' 8 2
  let ex := x.extractLsb' 7 1
  let h := x.extractLsb' 5 2
  let o := x.extractLsb' 4 1
  let off := x.extractLsb' 0 4
  match o.toNat with
  | 0 => some (.ldc t b z ex h off)
  | 1 => some .rocInv
  | _ => none

/-- C 0x19, format CR (R240). -/
def decC19 (x : BitVec 28) : Option Instr :=
  let d := x.extractLsb' 16 6
  let a := x.extractLsb' 10 6
  let b := x.extractLsb' 4 6
  let f := x.extractLsb' 0 4
  match f.toNat with
  | 0 => some (.tileClaim d a b)
  | 1 => some (.tileFree a)
  | 2 => some (.tileFill a)
  | 3 => some (.tileReady a)
  | 4 => some (.tileDrop a)
  | 5 => some (.tileStat d a)
  | _ => none

/-- C 0x1A, format CR (R234). -/
def decC1A (x : BitVec 28) : Option Instr :=
  let a := x.extractLsb' 10 6
  let b := x.extractLsb' 4 6
  let f := x.extractLsb' 0 4
  match f.toNat with
  | 0 => some (.clean a b)
  | 1 => some (.upResume a)
  | _ => none

/-- C 0x1B, format CR (R251). -/
def decC1B (x : BitVec 28) : Option Instr :=
  let d := x.extractLsb' 16 6
  let a := x.extractLsb' 10 6
  let b := x.extractLsb' 4 6
  let f := x.extractLsb' 0 4
  match f.toNat with
  | 0 => some (.cpCopy d a)
  | 1 => some (.cpGather d a)
  | 2 => some (.cpScatter d a)
  | 3 => some (.cpFill d a b)
  | 4 => some (.cpMcast d a)
  | 5 => some (.cpWalk d a)
  | 6 => some (.cpCow d a)
  | 7 => some (.cpWait d a)
  | 8 => some (.cpPoll d a)
  | 9 => some (.cpCancel d a)
  | _ => none

/-- C 0x1C, format CA (R276). -/
def decC1C (x : BitVec 28) : Option Instr :=
  let d := x.extractLsb' 16 6
  let a := x.extractLsb' 10 6
  let op := x.extractLsb' 7 3
  let ty := x.extractLsb' 4 3
  let o := x.extractLsb' 2 2
  let p := x.extractLsb' 1 1
  match op.toNat with
  | 0 => assigned (.atomAdd d a ty o p)
  | 1 => assigned (.atomSwap d a ty o p)
  | 2 => assigned (.atomCas d a ty o p)
  | 3 => assigned (.atomAnd d a ty o p)
  | 4 => assigned (.atomOr d a ty o p)
  | 5 => assigned (.atomXor d a ty o p)
  | 6 => assigned (.atomMin d a ty o p)
  | 7 => assigned (.atomMax d a ty o p)
  | _ => none

/-- C 0x1D, format CA (R279). -/
def decC1D (x : BitVec 28) : Option Instr :=
  let d := x.extractLsb' 16 6
  let a := x.extractLsb' 10 6
  let op := x.extractLsb' 7 3
  let ty := x.extractLsb' 4 3
  let o := x.extractLsb' 2 2
  let p := x.extractLsb' 1 1
  match op.toNat with
  | 0 => assigned (.redAdd d a ty o p)
  | 3 => assigned (.redAnd d a ty o p)
  | 4 => assigned (.redOr d a ty o p)
  | 5 => assigned (.redXor d a ty o p)
  | 6 => assigned (.redMin d a ty o p)
  | 7 => assigned (.redMax d a ty o p)
  | _ => none

/-- C 0x1E, format CR (R283). -/
def decC1E (x : BitVec 28) : Option Instr :=
  let d := x.extractLsb' 16 6
  let a := x.extractLsb' 10 6
  let b := x.extractLsb' 4 6
  let f := x.extractLsb' 0 4
  match f.toNat with
  | 0 => some (.waitAny d a b)
  | _ => none

/-- C 0x1F, format CF (R287). -/
def decC1F (x : BitVec 28) : Option Instr :=
  let sc := x.extractLsb' 19 3
  let o := x.extractLsb' 17 2
  let f := x.extractLsb' 13 4
  match f.toNat with
  | 0 => assigned (.fence sc o)
  | 1 => assigned (.fenceEng sc o)
  | 2 => assigned (.fenceMx sc o)
  | 3 => assigned (.fenceRoc sc o)
  | 4 => assigned (.fenceFull sc o)
  | _ => none

/-- C 0x20, format CR (R320). -/
def decC20 (x : BitVec 28) : Option Instr :=
  let a := x.extractLsb' 10 6
  let b := x.extractLsb' 4 6
  let f := x.extractLsb' 0 4
  match f.toNat with
  | 0 => some (.sendR a b)
  | 1 => some (.sendA a b)
  | 2 => some (.sendAny b)
  | _ => none

/-- C 0x21, format CR (R337). -/
def decC21 (x : BitVec 28) : Option Instr :=
  let d := x.extractLsb' 16 6
  let a := x.extractLsb' 10 6
  let f := x.extractLsb' 0 4
  match f.toNat with
  | 0 => some .actEnd
  | 1 => some (.actMigrate a)
  | 2 => some (.actFail a)
  | 3 => some (.actInfo d)
  | _ => none

/-- C 0x22, format CR (R355). -/
def decC22 (x : BitVec 28) : Option Instr :=
  let d := x.extractLsb' 16 6
  let a := x.extractLsb' 10 6
  let b := x.extractLsb' 4 6
  let f := x.extractLsb' 0 4
  match f.toNat with
  | 0 => some (.barInit d a b)
  | 1 => some (.barArrive d a b)
  | 2 => some (.barArriveNb d a b)
  | 3 => some (.barWait d a b)
  | 4 => some (.barFree a)
  | _ => none

/-- C 0x23, format CR (R348). -/
def decC23 (x : BitVec 28) : Option Instr :=
  let d := x.extractLsb' 16 6
  let a := x.extractLsb' 10 6
  let b := x.extractLsb' 4 6
  let f := x.extractLsb' 0 4
  match f.toNat with
  | 0 => some (.regionLaunch a)
  | 1 => some (.regionLaunchEarly a b)
  | 2 => some (.regionKill a)
  | 3 => some (.regionStat d a)
  | 4 => some .launchTrig
  | _ => none

/-- C 0x24, format CR (R389). -/
def decC24 (x : BitVec 28) : Option Instr :=
  let d := x.extractLsb' 16 6
  let a := x.extractLsb' 10 6
  let b := x.extractLsb' 4 6
  let f := x.extractLsb' 0 4
  match f.toNat with
  | 0 => some (.fabPf a b)
  | 1 => some (.fabSlot d)
  | 2 => some (.fabPeer d a)
  | 3 => some (.fabCtr d a)
  | 4 => some (.fabWait d a b)
  | _ => none

/-- C 0x25, format CR (R402). -/
def decC25 (x : BitVec 28) : Option Instr :=
  let d := x.extractLsb' 16 6
  let a := x.extractLsb' 10 6
  let b := x.extractLsb' 4 6
  let f := x.extractLsb' 0 4
  match f.toNat with
  | 0 => some (.potPost a b)
  | 1 => some (.potRead d a b)
  | 2 => some (.potReadSeal d a b)
  | 3 => some (.potOpen d b)
  | 4 => some (.potClose a)
  | 5 => some (.potStat d a b)
  | 6 => some (.potSeal a)
  | 7 => some (.potExp a b)
  | 8 => some (.potReset a b)
  | _ => none

/-- C 0x26, format CR (R435). -/
def decC26 (x : BitVec 28) : Option Instr :=
  let d := x.extractLsb' 16 6
  let a := x.extractLsb' 10 6
  let f := x.extractLsb' 0 4
  match f.toNat with
  | 0 => some (.qdOpen d a)
  | 1 => some .qdDetach
  | 2 => some (.qdExit d)
  | 3 => some (.qdStat d a)
  | _ => none

/-- C 0x27, format CR (R441). -/
def decC27 (x : BitVec 28) : Option Instr :=
  let d := x.extractLsb' 16 6
  let a := x.extractLsb' 10 6
  let f := x.extractLsb' 0 4
  match f.toNat with
  | 0 => some (.reelOpen d a)
  | 1 => some (.reelScore a)
  | 2 => some (.reelDone d)
  | 3 => some (.reelSync d)
  | 4 => some (.reelStat d a)
  | _ => none

/-- C 0x38, format CR (R141). -/
def decC38 (x : BitVec 28) : Option Instr :=
  let code := x.extractLsb' 4 12
  let f := x.extractLsb' 0 4
  match f.toNat with
  | 0 => some (.trap code)
  | 1 => some .eret
  | _ => none

/-- C 0x39, format CR (R463). -/
def decC39 (x : BitVec 28) : Option Instr :=
  let a := x.extractLsb' 10 6
  let b := x.extractLsb' 4 6
  let f := x.extractLsb' 0 4
  match f.toNat with
  | 0 => some (.leave a b)
  | _ => none

/-- C 0x3A, format CR (R477). -/
def decC3A (x : BitVec 28) : Option Instr :=
  let d := x.extractLsb' 16 6
  let a := x.extractLsb' 10 6
  let b := x.extractLsb' 4 6
  let f := x.extractLsb' 0 4
  match f.toNat with
  | 0 => some (.sysTlbinv d a b)
  | 1 => some (.sysMrd d a)
  | 2 => some (.sysMwr a b)
  | 3 => some (.sysSwap d a b)
  | 4 => some (.sysKill d a)
  | 5 => some (.sysEvt a b)
  | _ => none

/-- A 0x01, format AR (R111). -/
def decA01 (x : BitVec 29) : Option Instr :=
  let d := x.extractLsb' 17 6
  let a := x.extractLsb' 11 6
  let b := x.extractLsb' 5 6
  let f := x.extractLsb' 0 5
  match f.toNat with
  | 0 => some (.add d a b)
  | 1 => some (.sub d a b)
  | 2 => some (.addI32 d a b)
  | 3 => some (.subI32 d a b)
  | 4 => some (.addsI64 d a b)
  | 5 => some (.addsN64 d a b)
  | 6 => some (.subsI64 d a b)
  | 7 => some (.subsN64 d a b)
  | 8 => some (.and d a b)
  | 9 => some (.or d a b)
  | 10 => some (.xor d a b)
  | 11 => some (.andn d a b)
  | 12 => some (.orn d a b)
  | 13 => some (.xnor d a b)
  | _ => none

/-- A 0x02, format AI (R112). -/
def decA02 (x : BitVec 29) : Option Instr :=
  let d := x.extractLsb' 17 6
  let a := x.extractLsb' 11 6
  let f := x.extractLsb' 9 2
  let imm := x.extractLsb' 0 9
  match f.toNat with
  | 0 => some (.addImm d a imm)
  | 1 => some (.andImm d a imm)
  | 2 => some (.orImm d a imm)
  | 3 => some (.xorImm d a imm)
  | _ => none

/-- A 0x03, format AR (R113). -/
def decA03 (x : BitVec 29) : Option Instr :=
  let d := x.extractLsb' 17 6
  let a := x.extractLsb' 11 6
  let b := x.extractLsb' 5 6
  let f := x.extractLsb' 0 5
  match f.toNat with
  | 0 => some (.shl d a b)
  | 1 => some (.shrN64 d a b)
  | 2 => some (.shr d a b)
  | 3 => some (.rol d a b)
  | 4 => some (.ror d a b)
  | 5 => some (.shlI32 d a b)
  | 6 => some (.shrN32 d a b)
  | 7 => some (.shrI32 d a b)
  | 16 => some (.shlImm d a b)
  | 17 => some (.shrN64Imm d a b)
  | 18 => some (.shrImm d a b)
  | 19 => some (.rolImm d a b)
  | 20 => some (.rorImm d a b)
  | 21 => assigned (.shlI32Imm d a b)
  | 22 => assigned (.shrN32Imm d a b)
  | 23 => assigned (.shrI32Imm d a b)
  | _ => none

/-- A 0x04, format AR (R114). -/
def decA04 (x : BitVec 29) : Option Instr :=
  let d := x.extractLsb' 17 6
  let a := x.extractLsb' 11 6
  let b := x.extractLsb' 5 6
  let f := x.extractLsb' 0 5
  match f.toNat with
  | 0 => some (.mul d a b)
  | 1 => some (.mulh d a b)
  | 2 => some (.mulhN64 d a b)
  | 3 => some (.mulI32 d a b)
  | 4 => some (.mla d a b)
  | 5 => some (.mulsI64 d a b)
  | _ => none

/-- A 0x05, format AR (R115). -/
def decA05 (x : BitVec 29) : Option Instr :=
  let d := x.extractLsb' 17 6
  let a := x.extractLsb' 11 6
  let b := x.extractLsb' 5 6
  let f := x.extractLsb' 0 5
  match f.toNat with
  | 0 => some (.cmpEq d a b)
  | 1 => some (.cmpNe d a b)
  | 2 => some (.cmpLt d a b)
  | 3 => some (.cmpLtN64 d a b)
  | 4 => some (.cmpLe d a b)
  | 5 => some (.cmpLeN64 d a b)
  | 8 => some (.selNez d a b)
  | 9 => some (.selEqz d a b)
  | _ => none

/-- A 0x06, format AR (R116). -/
def decA06 (x : BitVec 29) : Option Instr :=
  let d := x.extractLsb' 17 6
  let a := x.extractLsb' 11 6
  let b := x.extractLsb' 5 6
  let f := x.extractLsb' 0 5
  match f.toNat with
  | 0 => some (.bfxN64 d a b)
  | 1 => some (.bfx d a b)
  | 2 => some (.bfi d a b)
  | 3 => some (.clz d a)
  | 4 => some (.ctz d a)
  | 5 => some (.popc d a)
  | 6 => some (.bswap d a)
  | 7 => some (.brev d a)
  | _ => none

/-- A 0x07, format AR (R117). -/
def decA07 (x : BitVec 29) : Option Instr :=
  let d := x.extractLsb' 17 6
  let a := x.extractLsb' 11 6
  let b := x.extractLsb' 5 6
  let f := x.extractLsb' 0 5
  match f.toNat with
  | 0 => some (.min d a b)
  | 1 => some (.minN64 d a b)
  | 2 => some (.max d a b)
  | 3 => some (.maxN64 d a b)
  | 4 => some (.abs d a)
  | 5 => some (.abss d a)
  | _ => none

/-- A 0x08, format AR (R152). -/
def decA08 (x : BitVec 29) : Option Instr :=
  let d := x.extractLsb' 17 6
  let a := x.extractLsb' 11 6
  let b := x.extractLsb' 5 6
  let f := x.extractLsb' 0 5
  match f.toNat with
  | 0 => (kregOf d).bind fun d' => (kregOf a).bind fun a' => (kregOf b).bind fun b' => some (.kand d' a' b')
  | 1 => (kregOf d).bind fun d' => (kregOf a).bind fun a' => (kregOf b).bind fun b' => some (.kor d' a' b')
  | 2 => (kregOf d).bind fun d' => (kregOf a).bind fun a' => (kregOf b).bind fun b' => some (.kxor d' a' b')
  | 3 => (kregOf d).bind fun d' => (kregOf a).bind fun a' => (kregOf b).bind fun b' => some (.kandn d' a' b')
  | 4 => (kregOf d).bind fun d' => (kregOf a).bind fun a' => some (.knot d' a')
  | 5 => (kregOf d).bind fun d' => some (.kset d' a)
  | 6 => (kregOf a).bind fun a' => some (.kget d a')
  | 7 => (kregOf a).bind fun a' => some (.kpopc d a')
  | 8 => (kregOf a).bind fun a' => some (.kffs d a')
  | _ => none

/-- A 0x09, format AVS (R153). -/
def decA09 (x : BitVec 29) : Option Instr :=
  let vd := x.extractLsb' 18 5
  let va := x.extractLsb' 13 5
  let sb := x.extractLsb' 7 6
  let m := x.extractLsb' 4 3
  let f := x.extractLsb' 0 4
  match f.toNat with
  | 0 | 1 | 2 | 3 => some (.vbcast vd sb m (f.setWidth 2))
  | 4 | 5 | 6 | 7 => assigned (.vins vd sb va m (f.setWidth 2))
  | 8 | 9 | 10 | 11 => assigned (.vextI sb va vd m (f.setWidth 2))
  | 12 | 13 | 14 | 15 => assigned (.vextN sb va vd m (f.setWidth 2))
  | _ => none

/-- A 0x10, format AV (R154). -/
def decA10 (x : BitVec 29) : Option Instr :=
  let vd := x.extractLsb' 18 5
  let va := x.extractLsb' 13 5
  let vb := x.extractLsb' 8 5
  let m := x.extractLsb' 5 3
  let f := x.extractLsb' 0 5
  match f.toNat with
  | 0 | 1 | 2 | 3 => some (.vadd vd va vb m (f.setWidth 2))
  | 4 | 5 | 6 | 7 => some (.vsub vd va vb m (f.setWidth 2))
  | 8 | 9 | 10 | 11 => some (.vaddsI vd va vb m (f.setWidth 2))
  | 12 | 13 | 14 | 15 => some (.vaddsN vd va vb m (f.setWidth 2))
  | 16 | 17 | 18 | 19 => some (.vsubsI vd va vb m (f.setWidth 2))
  | 20 | 21 | 22 | 23 => some (.vsubsN vd va vb m (f.setWidth 2))
  | 24 | 25 | 26 | 27 => some (.vmul vd va vb m (f.setWidth 2))
  | 28 | 29 | 30 | 31 => some (.vabs vd va m (f.setWidth 2))
  | _ => none

/-- A 0x11, format AV (R155). -/
def decA11 (x : BitVec 29) : Option Instr :=
  let vd := x.extractLsb' 18 5
  let va := x.extractLsb' 13 5
  let vb := x.extractLsb' 8 5
  let m := x.extractLsb' 5 3
  let f := x.extractLsb' 0 5
  match f.toNat with
  | 0 | 8 | 16 | 24 => some (.vand vd va vb m (f.extractLsb' 3 2))
  | 1 | 9 | 17 | 25 => some (.vor vd va vb m (f.extractLsb' 3 2))
  | 2 | 10 | 18 | 26 => some (.vxor vd va vb m (f.extractLsb' 3 2))
  | 3 | 11 | 19 | 27 => some (.vandn vd va vb m (f.extractLsb' 3 2))
  | 4 | 12 | 20 | 28 => some (.vorn vd va vb m (f.extractLsb' 3 2))
  | 5 | 13 | 21 | 29 => some (.vxnor vd va vb m (f.extractLsb' 3 2))
  | 6 | 14 | 22 | 30 => some (.vbsl vd va vb m (f.extractLsb' 3 2))
  | 7 | 15 | 23 | 31 => some (.vmov vd va m (f.extractLsb' 3 2))
  | _ => none

/-- A 0x12, format AV (R156). -/
def decA12 (x : BitVec 29) : Option Instr :=
  let vd := x.extractLsb' 18 5
  let va := x.extractLsb' 13 5
  let vb := x.extractLsb' 8 5
  let m := x.extractLsb' 5 3
  let f := x.extractLsb' 0 5
  match f.toNat with
  | 0 | 1 | 2 | 3 => some (.vshl vd va vb m (f.setWidth 2))
  | 4 | 5 | 6 | 7 => some (.vshrN vd va vb m (f.setWidth 2))
  | 8 | 9 | 10 | 11 => some (.vshrI vd va vb m (f.setWidth 2))
  | 12 | 13 | 14 | 15 => some (.vrol vd va vb m (f.setWidth 2))
  | 16 | 17 | 18 | 19 => some (.vror vd va vb m (f.setWidth 2))
  | _ => none

/-- A 0x13, format AV (R157). -/
def decA13 (x : BitVec 29) : Option Instr :=
  let vd := x.extractLsb' 18 5
  let va := x.extractLsb' 13 5
  let vb := x.extractLsb' 8 5
  let m := x.extractLsb' 5 3
  let f := x.extractLsb' 0 5
  match f.toNat with
  | 0 | 1 | 2 | 3 => (kregOf vd).bind fun vd' => some (.vcmpEq vd' va vb m (f.setWidth 2))
  | 4 | 5 | 6 | 7 => (kregOf vd).bind fun vd' => some (.vcmpLtI vd' va vb m (f.setWidth 2))
  | 8 | 9 | 10 | 11 => (kregOf vd).bind fun vd' => some (.vcmpLtN vd' va vb m (f.setWidth 2))
  | 12 | 13 | 14 | 15 => some (.vminI vd va vb m (f.setWidth 2))
  | 16 | 17 | 18 | 19 => some (.vminN vd va vb m (f.setWidth 2))
  | 20 | 21 | 22 | 23 => some (.vmaxI vd va vb m (f.setWidth 2))
  | 24 | 25 | 26 | 27 => some (.vmaxN vd va vb m (f.setWidth 2))
  | 28 | 29 | 30 | 31 => (kregOf vd).bind fun vd' => some (.vcmpNe vd' va vb m (f.setWidth 2))
  | _ => none

/-- A 0x14, format AVQ (R158). -/
noncomputable def decA14 (x : BitVec 29) : Option Instr :=
  let vd := x.extractLsb' 18 5
  let va := x.extractLsb' 13 5
  let vb := x.extractLsb' 8 5
  let m := x.extractLsb' 5 3
  let rm := x.extractLsb' 3 2
  let f := x.extractLsb' 0 3
  match f.toNat with
  | 0 => some (.vaddF32 vd va vb m rm)
  | 1 => some (.vsubF32 vd va vb m rm)
  | 2 => some (.vmulF32 vd va vb m rm)
  | 3 => some (.vfmaF32 vd va vb m rm)
  | 4 => some (.vfnmaF32 vd va vb m rm)
  | 5 => some (.vminF32 vd va vb m rm)
  | 6 => some (.vmaxF32 vd va vb m rm)
  | 7 => (kregOf vd).bind fun vd' => some (.vcmpF32 vd' va vb m rm)
  | _ => none

/-- A 0x1B, format AVQ (R158). -/
noncomputable def decA1B (x : BitVec 29) : Option Instr :=
  let vd := x.extractLsb' 18 5
  let va := x.extractLsb' 13 5
  let vb := x.extractLsb' 8 5
  let m := x.extractLsb' 5 3
  let rm := x.extractLsb' 3 2
  let f := x.extractLsb' 0 3
  match f.toNat with
  | 0 => some (.vaddBf16 vd va vb m rm)
  | 1 => some (.vsubBf16 vd va vb m rm)
  | 2 => some (.vmulBf16 vd va vb m rm)
  | 3 => some (.vfmaBf16 vd va vb m rm)
  | 4 => some (.vfnmaBf16 vd va vb m rm)
  | 5 => some (.vminBf16 vd va vb m rm)
  | 6 => some (.vmaxBf16 vd va vb m rm)
  | 7 => (kregOf vd).bind fun vd' => some (.vcmpBf16 vd' va vb m rm)
  | _ => none

/-- A 0x15, format AV (R161). -/
noncomputable def decA15 (x : BitVec 29) : Option Instr :=
  let vd := x.extractLsb' 18 5
  let va := x.extractLsb' 13 5
  let vb := x.extractLsb' 8 5
  let m := x.extractLsb' 5 3
  let f := x.extractLsb' 0 5
  match f.toNat with
  | 0 => some (.vtbl vd va vb m)
  | 4 | 5 | 6 | 7 => some (.vzlo vd va vb m (f.setWidth 2))
  | 8 | 9 | 10 | 11 => some (.vzhi vd va vb m (f.setWidth 2))
  | 12 | 13 | 14 | 15 => some (.vuzev vd va vb m (f.setWidth 2))
  | 16 | 17 | 18 | 19 => some (.vuzod vd va vb m (f.setWidth 2))
  | 20 | 21 | 22 | 23 => some (.vrev vd va m (f.setWidth 2))
  | 24 | 25 | 26 | 27 => some (.vdup vd va vb m (f.setWidth 2))
  | _ => none

/-- A 0x16, format AV (R162). -/
noncomputable def decA16 (x : BitVec 29) : Option Instr :=
  let vd := x.extractLsb' 18 5
  let va := x.extractLsb' 13 5
  let m := x.extractLsb' 5 3
  let f := x.extractLsb' 0 5
  match f.toNat with
  | 0 | 1 | 2 | 3 => some (.vrsumInt vd va m (f.setWidth 2))
  | 4 | 5 | 6 | 7 => some (.vrminI vd va m (f.setWidth 2))
  | 8 | 9 | 10 | 11 => some (.vrminN vd va m (f.setWidth 2))
  | 12 | 13 | 14 | 15 => some (.vrmaxI vd va m (f.setWidth 2))
  | 16 | 17 | 18 | 19 => some (.vrmaxN vd va m (f.setWidth 2))
  | 21 => some (.vrsumBf16 vd va m)
  | 22 => some (.vrsumF32 vd va m)
  | 26 => some (.vrmaxF32 vd va m)
  | 30 => some (.vrminF32 vd va m)
  | _ => none

/-- A 0x17, format AV (R164). -/
noncomputable def decA17 (x : BitVec 29) : Option Instr :=
  let vd := x.extractLsb' 18 5
  let va := x.extractLsb' 13 5
  let vb := x.extractLsb' 8 5
  let m := x.extractLsb' 5 3
  let f := x.extractLsb' 0 5
  match f.toNat with
  | 0 => some (.vdotI8 vd va vb m)
  | 1 => some (.vdotN8 vd va vb m)
  | 2 => some (.vdotI16 vd va vb m)
  | 3 => some (.vdotBf16 vd va vb m)
  | 4 => some (.vdotE4m3 vd va vb m)
  | 5 => some (.vdotE5m2 vd va vb m)
  | _ => none

/-- A 0x18, format AVQ (R165). -/
noncomputable def decA18 (x : BitVec 29) : Option Instr :=
  let vd := x.extractLsb' 18 5
  let va := x.extractLsb' 13 5
  let vb := x.extractLsb' 8 5
  let m := x.extractLsb' 5 3
  let rm := x.extractLsb' 3 2
  let f := x.extractLsb' 0 3
  if f ≠ 0#3 then none else
  match vb.toNat with
  | 0 | 1 => some (.vcvtBf16F32 vd va m (vb.setWidth 1) rm)
  | 2 | 3 => some (.vcvtF32Bf16 vd va m (vb.setWidth 1) rm)
  | 4 | 5 | 6 | 7 => some (.vcvtE4m3F32 vd va m (vb.setWidth 2) rm)
  | 8 | 9 | 10 | 11 => some (.vcvtE5m2F32 vd va m (vb.setWidth 2) rm)
  | 12 | 13 | 14 | 15 => some (.vcvtF32E4m3 vd va m (vb.setWidth 2) rm)
  | 16 | 17 | 18 | 19 => some (.vcvtF32E5m2 vd va m (vb.setWidth 2) rm)
  | 20 => some (.vcvtI32F32 vd va m rm)
  | 21 => some (.vcvtN32F32 vd va m rm)
  | 22 => some (.vcvtF32I32 vd va m rm)
  | 23 => some (.vcvtF32N32 vd va m rm)
  | 24 | 25 => some (.vcvtI16I32 vd va m (vb.setWidth 1) rm)
  | 26 | 27 => some (.vcvtI8I16 vd va m (vb.setWidth 1) rm)
  | 28 | 29 => some (.vcvtI32I16 vd va m (vb.setWidth 1) rm)
  | 30 | 31 => some (.vcvtI16I8 vd va m (vb.setWidth 1) rm)
  | _ => none

/-- A 0x19, format AV (R167). -/
noncomputable def decA19 (x : BitVec 29) : Option Instr :=
  let vd := x.extractLsb' 18 5
  let va := x.extractLsb' 13 5
  let m := x.extractLsb' 5 3
  let f := x.extractLsb' 0 5
  match f.toNat with
  | 0 | 16 => some (.vsfuExp2 vd va m (f.extractLsb' 4 1))
  | 1 | 17 => some (.vsfuLog2 vd va m (f.extractLsb' 4 1))
  | 2 | 18 => some (.vsfuRcp vd va m (f.extractLsb' 4 1))
  | 3 | 19 => some (.vsfuRsqrt vd va m (f.extractLsb' 4 1))
  | 4 | 20 => some (.vsfuSqrt vd va m (f.extractLsb' 4 1))
  | 5 | 21 => some (.vsfuSinpi vd va m (f.extractLsb' 4 1))
  | 6 | 22 => some (.vsfuCospi vd va m (f.extractLsb' 4 1))
  | 7 | 23 => some (.vsfuTanh vd va m (f.extractLsb' 4 1))
  | 8 | 24 => some (.vsfuSigm vd va m (f.extractLsb' 4 1))
  | _ => none

/-- A 0x1A, format AVS (R160). -/
noncomputable def decA1A (x : BitVec 29) : Option Instr :=
  let vd := x.extractLsb' 18 5
  let va := x.extractLsb' 13 5
  let sb := x.extractLsb' 7 6
  let m := x.extractLsb' 4 3
  let f := x.extractLsb' 0 4
  match f.toNat with
  | 0 => some (.vaddF32S vd va sb m)
  | 1 => some (.vsubF32S vd va sb m)
  | 2 => some (.vmulF32S vd va sb m)
  | 3 => some (.vfmaF32S vd va sb m)
  | 4 => some (.vaddI32S vd va sb m)
  | 5 => some (.vsubI32S vd va sb m)
  | 6 => some (.vmulI32S vd va sb m)
  | 7 => some (.vshlN32S vd va sb m)
  | 8 => some (.vshrN32S vd va sb m)
  | 9 => some (.vshrI32S vd va sb m)
  | 10 => some (.vminF32S vd va sb m)
  | 11 => some (.vmaxF32S vd va sb m)
  | _ => none

/-- A 0x20, format AX (R183). -/
noncomputable def decA20 (x : BitVec 29) : Option Instr :=
  let ac := x.extractLsb' 21 2
  let xa := x.extractLsb' 18 3
  let xb := x.extractLsb' 15 3
  let f := x.extractLsb' 0 3
  match f.toNat with
  | 0 => some (.mxMmaE4m3 ac xa xb)
  | 1 => some (.mxMmaE5m2 ac xa xb)
  | 2 => some (.mxMmxE4m3 ac xa xb)
  | 3 => some (.mxMmxE5m2 ac xa xb)
  | 4 => some (.mxMmaI8 ac xa xb)
  | 5 => assigned (.mxMmaBf16 ac xa xb)
  | 6 => assigned (.mxCmmaBf16 ac xa xb)
  | _ => none

/-- A 0x21, format AX (R186). -/
noncomputable def decA21 (x : BitVec 29) : Option Instr :=
  let ac := x.extractLsb' 21 2
  let sa := x.extractLsb' 9 6
  let sb := x.extractLsb' 3 6
  let f := x.extractLsb' 0 3
  match f.toNat with
  | 0 => some (.mxProm ac sa sb)
  | 1 => some (.mxPromU ac)
  | _ => none

/-- A 0x22, format AX (R181). -/
noncomputable def decA22 (x : BitVec 29) : Option Instr :=
  let xa := x.extractLsb' 18 3
  let sa := x.extractLsb' 9 6
  let sb := x.extractLsb' 3 6
  let f := x.extractLsb' 0 3
  match f.toNat with
  | 0 => some (.mxLd xa sa sb)
  | 1 => assigned (.mxLd2 xa sa sb)
  | 2 => some (.mxLdwQ4 xa sa sb)
  | 3 => some (.mxLdwE4m3 xa sa sb)
  | 4 => some (.mxLdt xa sa sb)
  | _ => none

/-- A 0x23, format AX (R188). -/
noncomputable def decA23 (x : BitVec 29) : Option Instr :=
  let ac := x.extractLsb' 21 2
  let sa := x.extractLsb' 9 6
  let sb := x.extractLsb' 3 6
  let f := x.extractLsb' 0 3
  match f.toNat with
  | 0 => some (.mxAstF32 ac sa sb)
  | 1 => some (.mxAstBf16 ac sa sb)
  | 2 => some (.mxAldF32 ac sa sb)
  | 3 => some (.mxAzero ac)
  | _ => none

/-- A 0x24, format AX (R190). -/
noncomputable def decA24 (x : BitVec 29) : Option Instr :=
  let ac := x.extractLsb' 21 2
  let sa := x.extractLsb' 9 6
  let f := x.extractLsb' 0 3
  match f.toNat with
  | 0 => some .mxSync
  | 1 => some (.mxStat sa ac)
  | 2 => some (.mxDrop ac)
  | _ => none

/-- The instruction of a C-word's bits 27:0 (Table 2.7). -/
def decodeCBody (x : BitVec 28) : Option Instr :=
  match (x.extractLsb' 22 6).toNat with
  | 0 => some .nopC
  | 1 => decC01 x
  | 2 => decC02 x
  | 3 => decC03 x
  | 4 => decC04 x
  | 5 => decC05 x
  | 6 => decC06 x
  | 8 => decC08 x
  | 9 => decC09 x
  | 10 => decC0A x
  | 11 => decC0B x
  | 16 => decC10 x
  | 17 => decC11 x
  | 18 => decC12 x
  | 19 => decC13 x
  | 20 => decC14 x
  | 21 => decC15 x
  | 22 => decC16 x
  | 23 => decC17 x
  | 24 => decC18 x
  | 25 => decC19 x
  | 26 => decC1A x
  | 27 => decC1B x
  | 28 => decC1C x
  | 29 => decC1D x
  | 30 => decC1E x
  | 31 => decC1F x
  | 32 => decC20 x
  | 33 => decC21 x
  | 34 => decC22 x
  | 35 => decC23 x
  | 36 => decC24 x
  | 37 => decC25 x
  | 38 => decC26 x
  | 39 => decC27 x
  | 56 => decC38 x
  | 57 => decC39 x
  | 58 => decC3A x
  | 62 | 63 => some (.hintC (x.extractLsb' 22 1) (x.extractLsb' 0 22))
  | _ => none

/-- The instruction of a A-word's bits 28:0 (Table 2.8). -/
noncomputable def decodeABody (x : BitVec 29) : Option Instr :=
  match (x.extractLsb' 23 6).toNat with
  | 0 => some .nopA
  | 1 => decA01 x
  | 2 => decA02 x
  | 3 => decA03 x
  | 4 => decA04 x
  | 5 => decA05 x
  | 6 => decA06 x
  | 7 => decA07 x
  | 8 => decA08 x
  | 9 => decA09 x
  | 16 => decA10 x
  | 17 => decA11 x
  | 18 => decA12 x
  | 19 => decA13 x
  | 20 => decA14 x
  | 27 => decA1B x
  | 21 => decA15 x
  | 22 => decA16 x
  | 23 => decA17 x
  | 24 => decA18 x
  | 25 => decA19 x
  | 26 => decA1A x
  | 32 => decA20 x
  | 33 => decA21 x
  | 34 => decA22 x
  | 35 => decA23 x
  | 36 => decA24 x
  | 62 | 63 => some (.hintA (x.extractLsb' 23 1) (x.extractLsb' 0 23))
  | _ => none

/-- Bits 27:0 of the C-word of an instruction (Tables 2.5-2.8); none for an instruction of
another slot and for events. Reserved bits are zero. -/
def encodeCBody : Instr → Option (BitVec 28)
  | .nopC => some (0x0#6 ++ 0#22)
  | .bEqz a off => some (0x1#6 ++ a ++ 0#3 ++ off)
  | .bNez a off => some (0x1#6 ++ a ++ 1#3 ++ off)
  | .bLtz a off => some (0x1#6 ++ a ++ 2#3 ++ off)
  | .bGez a off => some (0x1#6 ++ a ++ 3#3 ++ off)
  | .bGtz a off => some (0x1#6 ++ a ++ 4#3 ++ off)
  | .bLez a off => some (0x1#6 ++ a ++ 5#3 ++ off)
  | .bEq a b off => some (0x2#6 ++ a ++ b ++ 0#3 ++ off)
  | .bNe a b off => some (0x2#6 ++ a ++ b ++ 1#3 ++ off)
  | .bLt a b off => some (0x2#6 ++ a ++ b ++ 2#3 ++ off)
  | .bGe a b off => some (0x2#6 ++ a ++ b ++ 3#3 ++ off)
  | .bLtn a b off => some (0x2#6 ++ a ++ b ++ 4#3 ++ off)
  | .bGen a b off => some (0x2#6 ++ a ++ b ++ 5#3 ++ off)
  | .j off => some (0x3#6 ++ off)
  | .jl off => some (0x4#6 ++ off)
  | .jr a => some (0x5#6 ++ 0#6 ++ a ++ 0#6 ++ 0#4)
  | .jlr d a => some (0x5#6 ++ d ++ a ++ 0#6 ++ 1#4)
  | .nestClaim d a => some (0x6#6 ++ d ++ a ++ 0#6 ++ 0#4)
  | .nestNext a => some (0x6#6 ++ 0#6 ++ a ++ 0#6 ++ 1#4)
  | .leaS d a b sh => some (0x8#6 ++ d ++ a ++ b ++ 0#2 ++ sh)
  | .leaI d a i sh => some (0x8#6 ++ d ++ a ++ i.setWidth 6 ++ 1#2 ++ sh)
  | .li d imm => some (0x9#6 ++ d ++ imm)
  | .lis d imm => some (0xa#6 ++ d ++ imm)
  | .mfc d c => some (0xb#6 ++ d ++ c ++ 0#6 ++ 0#4)
  | .mtc c b => some (0xb#6 ++ 0#6 ++ c ++ b ++ 1#4)
  | .ldL t b z x h o off => some (0x10#6 ++ t ++ b ++ z ++ x ++ h ++ o ++ off)
  | .stL t b z x h o off => some (0x11#6 ++ t ++ b ++ z ++ x ++ h ++ o ++ off)
  | .ldS t tile b z => some (0x12#6 ++ t ++ tile ++ b ++ z)
  | .stS t tile b z => some (0x13#6 ++ t ++ tile ++ b ++ z)
  | .ldG t b z x h o off => some (0x14#6 ++ t ++ b ++ z ++ x ++ h ++ o ++ off)
  | .stG t b z x h o off => some (0x15#6 ++ t ++ b ++ z ++ x ++ h ++ o ++ off)
  | .ldLQ t b h o off => some (0x16#6 ++ t.setWidth 6 ++ b ++ 0#2 ++ 0#1 ++ h ++ o ++ off)
  | .ldGQ t b h o off => some (0x16#6 ++ t.setWidth 6 ++ b ++ 1#2 ++ 0#1 ++ h ++ o ++ off)
  | .ldGW4 t b h o off => some (0x16#6 ++ t.setWidth 6 ++ b ++ 2#2 ++ 0#1 ++ h ++ o ++ off)
  | .ldGE4 t b h o off => some (0x16#6 ++ t.setWidth 6 ++ b ++ 3#2 ++ 0#1 ++ h ++ o ++ off)
  | .stLQ t b h o off => some (0x17#6 ++ t.setWidth 6 ++ b ++ 0#2 ++ 0#1 ++ h ++ o ++ off)
  | .stGQ t b h o off => some (0x17#6 ++ t.setWidth 6 ++ b ++ 1#2 ++ 0#1 ++ h ++ o ++ off)
  | .ldc t b z x h off => some (0x18#6 ++ t ++ b ++ z ++ x ++ h ++ 0#1 ++ off)
  | .rocInv => some (0x18#6 ++ 0#6 ++ 0#6 ++ 0#2 ++ 0#1 ++ 0#2 ++ 1#1 ++ 0#4)
  | .tileClaim d a b => some (0x19#6 ++ d ++ a ++ b ++ 0#4)
  | .tileFree a => some (0x19#6 ++ 0#6 ++ a ++ 0#6 ++ 1#4)
  | .tileFill a => some (0x19#6 ++ 0#6 ++ a ++ 0#6 ++ 2#4)
  | .tileReady a => some (0x19#6 ++ 0#6 ++ a ++ 0#6 ++ 3#4)
  | .tileDrop a => some (0x19#6 ++ 0#6 ++ a ++ 0#6 ++ 4#4)
  | .tileStat d a => some (0x19#6 ++ d ++ a ++ 0#6 ++ 5#4)
  | .clean a b => some (0x1a#6 ++ 0#6 ++ a ++ b ++ 0#4)
  | .upResume a => some (0x1a#6 ++ 0#6 ++ a ++ 0#6 ++ 1#4)
  | .cpCopy d a => some (0x1b#6 ++ d ++ a ++ 0#6 ++ 0#4)
  | .cpGather d a => some (0x1b#6 ++ d ++ a ++ 0#6 ++ 1#4)
  | .cpScatter d a => some (0x1b#6 ++ d ++ a ++ 0#6 ++ 2#4)
  | .cpFill d a b => some (0x1b#6 ++ d ++ a ++ b ++ 3#4)
  | .cpMcast d a => some (0x1b#6 ++ d ++ a ++ 0#6 ++ 4#4)
  | .cpWalk d a => some (0x1b#6 ++ d ++ a ++ 0#6 ++ 5#4)
  | .cpCow d a => some (0x1b#6 ++ d ++ a ++ 0#6 ++ 6#4)
  | .cpWait d a => some (0x1b#6 ++ d ++ a ++ 0#6 ++ 7#4)
  | .cpPoll d a => some (0x1b#6 ++ d ++ a ++ 0#6 ++ 8#4)
  | .cpCancel d a => some (0x1b#6 ++ d ++ a ++ 0#6 ++ 9#4)
  | .atomAdd d a ty o p => some (0x1c#6 ++ d ++ a ++ 0#3 ++ ty ++ o ++ p ++ 0#1)
  | .atomSwap d a ty o p => some (0x1c#6 ++ d ++ a ++ 1#3 ++ ty ++ o ++ p ++ 0#1)
  | .atomCas d a ty o p => some (0x1c#6 ++ d ++ a ++ 2#3 ++ ty ++ o ++ p ++ 0#1)
  | .atomAnd d a ty o p => some (0x1c#6 ++ d ++ a ++ 3#3 ++ ty ++ o ++ p ++ 0#1)
  | .atomOr d a ty o p => some (0x1c#6 ++ d ++ a ++ 4#3 ++ ty ++ o ++ p ++ 0#1)
  | .atomXor d a ty o p => some (0x1c#6 ++ d ++ a ++ 5#3 ++ ty ++ o ++ p ++ 0#1)
  | .atomMin d a ty o p => some (0x1c#6 ++ d ++ a ++ 6#3 ++ ty ++ o ++ p ++ 0#1)
  | .atomMax d a ty o p => some (0x1c#6 ++ d ++ a ++ 7#3 ++ ty ++ o ++ p ++ 0#1)
  | .redAdd d a ty o p => some (0x1d#6 ++ d ++ a ++ 0#3 ++ ty ++ o ++ p ++ 0#1)
  | .redAnd d a ty o p => some (0x1d#6 ++ d ++ a ++ 3#3 ++ ty ++ o ++ p ++ 0#1)
  | .redOr d a ty o p => some (0x1d#6 ++ d ++ a ++ 4#3 ++ ty ++ o ++ p ++ 0#1)
  | .redXor d a ty o p => some (0x1d#6 ++ d ++ a ++ 5#3 ++ ty ++ o ++ p ++ 0#1)
  | .redMin d a ty o p => some (0x1d#6 ++ d ++ a ++ 6#3 ++ ty ++ o ++ p ++ 0#1)
  | .redMax d a ty o p => some (0x1d#6 ++ d ++ a ++ 7#3 ++ ty ++ o ++ p ++ 0#1)
  | .waitAny d a b => some (0x1e#6 ++ d ++ a ++ b ++ 0#4)
  | .fence sc o => some (0x1f#6 ++ sc ++ o ++ 0#4 ++ 0#13)
  | .fenceEng sc o => some (0x1f#6 ++ sc ++ o ++ 1#4 ++ 0#13)
  | .fenceMx sc o => some (0x1f#6 ++ sc ++ o ++ 2#4 ++ 0#13)
  | .fenceRoc sc o => some (0x1f#6 ++ sc ++ o ++ 3#4 ++ 0#13)
  | .fenceFull sc o => some (0x1f#6 ++ sc ++ o ++ 4#4 ++ 0#13)
  | .sendR a b => some (0x20#6 ++ 0#6 ++ a ++ b ++ 0#4)
  | .sendA a b => some (0x20#6 ++ 0#6 ++ a ++ b ++ 1#4)
  | .sendAny b => some (0x20#6 ++ 0#6 ++ 0#6 ++ b ++ 2#4)
  | .actEnd => some (0x21#6 ++ 0#6 ++ 0#6 ++ 0#6 ++ 0#4)
  | .actMigrate a => some (0x21#6 ++ 0#6 ++ a ++ 0#6 ++ 1#4)
  | .actFail a => some (0x21#6 ++ 0#6 ++ a ++ 0#6 ++ 2#4)
  | .actInfo d => some (0x21#6 ++ d ++ 0#6 ++ 0#6 ++ 3#4)
  | .barInit d a b => some (0x22#6 ++ d ++ a ++ b ++ 0#4)
  | .barArrive d a b => some (0x22#6 ++ d ++ a ++ b ++ 1#4)
  | .barArriveNb d a b => some (0x22#6 ++ d ++ a ++ b ++ 2#4)
  | .barWait d a b => some (0x22#6 ++ d ++ a ++ b ++ 3#4)
  | .barFree a => some (0x22#6 ++ 0#6 ++ a ++ 0#6 ++ 4#4)
  | .regionLaunch a => some (0x23#6 ++ 0#6 ++ a ++ 0#6 ++ 0#4)
  | .regionLaunchEarly a b => some (0x23#6 ++ 0#6 ++ a ++ b ++ 1#4)
  | .regionKill a => some (0x23#6 ++ 0#6 ++ a ++ 0#6 ++ 2#4)
  | .regionStat d a => some (0x23#6 ++ d ++ a ++ 0#6 ++ 3#4)
  | .launchTrig => some (0x23#6 ++ 0#6 ++ 0#6 ++ 0#6 ++ 4#4)
  | .fabPf a b => some (0x24#6 ++ 0#6 ++ a ++ b ++ 0#4)
  | .fabSlot d => some (0x24#6 ++ d ++ 0#6 ++ 0#6 ++ 1#4)
  | .fabPeer d a => some (0x24#6 ++ d ++ a ++ 0#6 ++ 2#4)
  | .fabCtr d a => some (0x24#6 ++ d ++ a ++ 0#6 ++ 3#4)
  | .fabWait d a b => some (0x24#6 ++ d ++ a ++ b ++ 4#4)
  | .potPost a b => some (0x25#6 ++ 0#6 ++ a ++ b ++ 0#4)
  | .potRead d a b => some (0x25#6 ++ d ++ a ++ b ++ 1#4)
  | .potReadSeal d a b => some (0x25#6 ++ d ++ a ++ b ++ 2#4)
  | .potOpen d b => some (0x25#6 ++ d ++ 0#6 ++ b ++ 3#4)
  | .potClose a => some (0x25#6 ++ 0#6 ++ a ++ 0#6 ++ 4#4)
  | .potStat d a b => some (0x25#6 ++ d ++ a ++ b ++ 5#4)
  | .potSeal a => some (0x25#6 ++ 0#6 ++ a ++ 0#6 ++ 6#4)
  | .potExp a b => some (0x25#6 ++ 0#6 ++ a ++ b ++ 7#4)
  | .potReset a b => some (0x25#6 ++ 0#6 ++ a ++ b ++ 8#4)
  | .qdOpen d a => some (0x26#6 ++ d ++ a ++ 0#6 ++ 0#4)
  | .qdDetach => some (0x26#6 ++ 0#6 ++ 0#6 ++ 0#6 ++ 1#4)
  | .qdExit d => some (0x26#6 ++ d ++ 0#6 ++ 0#6 ++ 2#4)
  | .qdStat d a => some (0x26#6 ++ d ++ a ++ 0#6 ++ 3#4)
  | .reelOpen d a => some (0x27#6 ++ d ++ a ++ 0#6 ++ 0#4)
  | .reelScore a => some (0x27#6 ++ 0#6 ++ a ++ 0#6 ++ 1#4)
  | .reelDone d => some (0x27#6 ++ d ++ 0#6 ++ 0#6 ++ 2#4)
  | .reelSync d => some (0x27#6 ++ d ++ 0#6 ++ 0#6 ++ 3#4)
  | .reelStat d a => some (0x27#6 ++ d ++ a ++ 0#6 ++ 4#4)
  | .trap code => some (0x38#6 ++ 0#6 ++ code ++ 0#4)
  | .eret => some (0x38#6 ++ 0#6 ++ 0#6 ++ 0#6 ++ 1#4)
  | .leave a b => some (0x39#6 ++ 0#6 ++ a ++ b ++ 0#4)
  | .sysTlbinv d a b => some (0x3a#6 ++ d ++ a ++ b ++ 0#4)
  | .sysMrd d a => some (0x3a#6 ++ d ++ a ++ 0#6 ++ 1#4)
  | .sysMwr a b => some (0x3a#6 ++ 0#6 ++ a ++ b ++ 2#4)
  | .sysSwap d a b => some (0x3a#6 ++ d ++ a ++ b ++ 3#4)
  | .sysKill d a => some (0x3a#6 ++ d ++ a ++ 0#6 ++ 4#4)
  | .sysEvt a b => some (0x3a#6 ++ 0#6 ++ a ++ b ++ 5#4)
  | .hintC h x => some (0b11111#5 ++ h ++ x)
  | _ => none

/-- Bits 28:0 of the A-word of an instruction (Tables 2.5-2.8); none for an instruction of
another slot and for events. Reserved bits are zero. -/
def encodeABody : Instr → Option (BitVec 29)
  | .nopA => some (0x0#6 ++ 0#23)
  | .add d a b => some (0x1#6 ++ d ++ a ++ b ++ 0#5)
  | .sub d a b => some (0x1#6 ++ d ++ a ++ b ++ 1#5)
  | .addI32 d a b => some (0x1#6 ++ d ++ a ++ b ++ 2#5)
  | .subI32 d a b => some (0x1#6 ++ d ++ a ++ b ++ 3#5)
  | .addsI64 d a b => some (0x1#6 ++ d ++ a ++ b ++ 4#5)
  | .addsN64 d a b => some (0x1#6 ++ d ++ a ++ b ++ 5#5)
  | .subsI64 d a b => some (0x1#6 ++ d ++ a ++ b ++ 6#5)
  | .subsN64 d a b => some (0x1#6 ++ d ++ a ++ b ++ 7#5)
  | .and d a b => some (0x1#6 ++ d ++ a ++ b ++ 8#5)
  | .or d a b => some (0x1#6 ++ d ++ a ++ b ++ 9#5)
  | .xor d a b => some (0x1#6 ++ d ++ a ++ b ++ 10#5)
  | .andn d a b => some (0x1#6 ++ d ++ a ++ b ++ 11#5)
  | .orn d a b => some (0x1#6 ++ d ++ a ++ b ++ 12#5)
  | .xnor d a b => some (0x1#6 ++ d ++ a ++ b ++ 13#5)
  | .addImm d a imm => some (0x2#6 ++ d ++ a ++ 0#2 ++ imm)
  | .andImm d a imm => some (0x2#6 ++ d ++ a ++ 1#2 ++ imm)
  | .orImm d a imm => some (0x2#6 ++ d ++ a ++ 2#2 ++ imm)
  | .xorImm d a imm => some (0x2#6 ++ d ++ a ++ 3#2 ++ imm)
  | .shl d a b => some (0x3#6 ++ d ++ a ++ b ++ 0#5)
  | .shrN64 d a b => some (0x3#6 ++ d ++ a ++ b ++ 1#5)
  | .shr d a b => some (0x3#6 ++ d ++ a ++ b ++ 2#5)
  | .rol d a b => some (0x3#6 ++ d ++ a ++ b ++ 3#5)
  | .ror d a b => some (0x3#6 ++ d ++ a ++ b ++ 4#5)
  | .shlI32 d a b => some (0x3#6 ++ d ++ a ++ b ++ 5#5)
  | .shrN32 d a b => some (0x3#6 ++ d ++ a ++ b ++ 6#5)
  | .shrI32 d a b => some (0x3#6 ++ d ++ a ++ b ++ 7#5)
  | .shlImm d a n => some (0x3#6 ++ d ++ a ++ n ++ 16#5)
  | .shrN64Imm d a n => some (0x3#6 ++ d ++ a ++ n ++ 17#5)
  | .shrImm d a n => some (0x3#6 ++ d ++ a ++ n ++ 18#5)
  | .rolImm d a n => some (0x3#6 ++ d ++ a ++ n ++ 19#5)
  | .rorImm d a n => some (0x3#6 ++ d ++ a ++ n ++ 20#5)
  | .shlI32Imm d a n => some (0x3#6 ++ d ++ a ++ n ++ 21#5)
  | .shrN32Imm d a n => some (0x3#6 ++ d ++ a ++ n ++ 22#5)
  | .shrI32Imm d a n => some (0x3#6 ++ d ++ a ++ n ++ 23#5)
  | .mul d a b => some (0x4#6 ++ d ++ a ++ b ++ 0#5)
  | .mulh d a b => some (0x4#6 ++ d ++ a ++ b ++ 1#5)
  | .mulhN64 d a b => some (0x4#6 ++ d ++ a ++ b ++ 2#5)
  | .mulI32 d a b => some (0x4#6 ++ d ++ a ++ b ++ 3#5)
  | .mla d a b => some (0x4#6 ++ d ++ a ++ b ++ 4#5)
  | .mulsI64 d a b => some (0x4#6 ++ d ++ a ++ b ++ 5#5)
  | .cmpEq d a b => some (0x5#6 ++ d ++ a ++ b ++ 0#5)
  | .cmpNe d a b => some (0x5#6 ++ d ++ a ++ b ++ 1#5)
  | .cmpLt d a b => some (0x5#6 ++ d ++ a ++ b ++ 2#5)
  | .cmpLtN64 d a b => some (0x5#6 ++ d ++ a ++ b ++ 3#5)
  | .cmpLe d a b => some (0x5#6 ++ d ++ a ++ b ++ 4#5)
  | .cmpLeN64 d a b => some (0x5#6 ++ d ++ a ++ b ++ 5#5)
  | .selNez d a b => some (0x5#6 ++ d ++ a ++ b ++ 8#5)
  | .selEqz d a b => some (0x5#6 ++ d ++ a ++ b ++ 9#5)
  | .bfxN64 d a b => some (0x6#6 ++ d ++ a ++ b ++ 0#5)
  | .bfx d a b => some (0x6#6 ++ d ++ a ++ b ++ 1#5)
  | .bfi d a b => some (0x6#6 ++ d ++ a ++ b ++ 2#5)
  | .clz d a => some (0x6#6 ++ d ++ a ++ 0#6 ++ 3#5)
  | .ctz d a => some (0x6#6 ++ d ++ a ++ 0#6 ++ 4#5)
  | .popc d a => some (0x6#6 ++ d ++ a ++ 0#6 ++ 5#5)
  | .bswap d a => some (0x6#6 ++ d ++ a ++ 0#6 ++ 6#5)
  | .brev d a => some (0x6#6 ++ d ++ a ++ 0#6 ++ 7#5)
  | .min d a b => some (0x7#6 ++ d ++ a ++ b ++ 0#5)
  | .minN64 d a b => some (0x7#6 ++ d ++ a ++ b ++ 1#5)
  | .max d a b => some (0x7#6 ++ d ++ a ++ b ++ 2#5)
  | .maxN64 d a b => some (0x7#6 ++ d ++ a ++ b ++ 3#5)
  | .abs d a => some (0x7#6 ++ d ++ a ++ 0#6 ++ 4#5)
  | .abss d a => some (0x7#6 ++ d ++ a ++ 0#6 ++ 5#5)
  | .kand d a b => some (0x8#6 ++ d.setWidth 6 ++ a.setWidth 6 ++ b.setWidth 6 ++ 0#5)
  | .kor d a b => some (0x8#6 ++ d.setWidth 6 ++ a.setWidth 6 ++ b.setWidth 6 ++ 1#5)
  | .kxor d a b => some (0x8#6 ++ d.setWidth 6 ++ a.setWidth 6 ++ b.setWidth 6 ++ 2#5)
  | .kandn d a b => some (0x8#6 ++ d.setWidth 6 ++ a.setWidth 6 ++ b.setWidth 6 ++ 3#5)
  | .knot d a => some (0x8#6 ++ d.setWidth 6 ++ a.setWidth 6 ++ 0#6 ++ 4#5)
  | .kset d a => some (0x8#6 ++ d.setWidth 6 ++ a ++ 0#6 ++ 5#5)
  | .kget d a => some (0x8#6 ++ d ++ a.setWidth 6 ++ 0#6 ++ 6#5)
  | .kpopc d a => some (0x8#6 ++ d ++ a.setWidth 6 ++ 0#6 ++ 7#5)
  | .kffs d a => some (0x8#6 ++ d ++ a.setWidth 6 ++ 0#6 ++ 8#5)
  | .vbcast d s m z => some (0x9#6 ++ d ++ 0#5 ++ s ++ m ++ 0#2 ++ z)
  | .vins d s e m z => some (0x9#6 ++ d ++ e ++ s ++ m ++ 1#2 ++ z)
  | .vextI d a e m z => some (0x9#6 ++ e ++ a ++ d ++ m ++ 2#2 ++ z)
  | .vextN d a e m z => some (0x9#6 ++ e ++ a ++ d ++ m ++ 3#2 ++ z)
  | .vadd d a b m z => some (0x10#6 ++ d ++ a ++ b ++ m ++ 0#3 ++ z)
  | .vsub d a b m z => some (0x10#6 ++ d ++ a ++ b ++ m ++ 1#3 ++ z)
  | .vaddsI d a b m z => some (0x10#6 ++ d ++ a ++ b ++ m ++ 2#3 ++ z)
  | .vaddsN d a b m z => some (0x10#6 ++ d ++ a ++ b ++ m ++ 3#3 ++ z)
  | .vsubsI d a b m z => some (0x10#6 ++ d ++ a ++ b ++ m ++ 4#3 ++ z)
  | .vsubsN d a b m z => some (0x10#6 ++ d ++ a ++ b ++ m ++ 5#3 ++ z)
  | .vmul d a b m z => some (0x10#6 ++ d ++ a ++ b ++ m ++ 6#3 ++ z)
  | .vabs d a m z => some (0x10#6 ++ d ++ a ++ 0#5 ++ m ++ 7#3 ++ z)
  | .vand d a b m z => some (0x11#6 ++ d ++ a ++ b ++ m ++ z ++ 0#3)
  | .vor d a b m z => some (0x11#6 ++ d ++ a ++ b ++ m ++ z ++ 1#3)
  | .vxor d a b m z => some (0x11#6 ++ d ++ a ++ b ++ m ++ z ++ 2#3)
  | .vandn d a b m z => some (0x11#6 ++ d ++ a ++ b ++ m ++ z ++ 3#3)
  | .vorn d a b m z => some (0x11#6 ++ d ++ a ++ b ++ m ++ z ++ 4#3)
  | .vxnor d a b m z => some (0x11#6 ++ d ++ a ++ b ++ m ++ z ++ 5#3)
  | .vbsl d a b m z => some (0x11#6 ++ d ++ a ++ b ++ m ++ z ++ 6#3)
  | .vmov d a m z => some (0x11#6 ++ d ++ a ++ 0#5 ++ m ++ z ++ 7#3)
  | .vshl d a b m z => some (0x12#6 ++ d ++ a ++ b ++ m ++ 0#3 ++ z)
  | .vshrN d a b m z => some (0x12#6 ++ d ++ a ++ b ++ m ++ 1#3 ++ z)
  | .vshrI d a b m z => some (0x12#6 ++ d ++ a ++ b ++ m ++ 2#3 ++ z)
  | .vrol d a b m z => some (0x12#6 ++ d ++ a ++ b ++ m ++ 3#3 ++ z)
  | .vror d a b m z => some (0x12#6 ++ d ++ a ++ b ++ m ++ 4#3 ++ z)
  | .vcmpEq d a b m z => some (0x13#6 ++ d.setWidth 5 ++ a ++ b ++ m ++ 0#3 ++ z)
  | .vcmpLtI d a b m z => some (0x13#6 ++ d.setWidth 5 ++ a ++ b ++ m ++ 1#3 ++ z)
  | .vcmpLtN d a b m z => some (0x13#6 ++ d.setWidth 5 ++ a ++ b ++ m ++ 2#3 ++ z)
  | .vminI d a b m z => some (0x13#6 ++ d ++ a ++ b ++ m ++ 3#3 ++ z)
  | .vminN d a b m z => some (0x13#6 ++ d ++ a ++ b ++ m ++ 4#3 ++ z)
  | .vmaxI d a b m z => some (0x13#6 ++ d ++ a ++ b ++ m ++ 5#3 ++ z)
  | .vmaxN d a b m z => some (0x13#6 ++ d ++ a ++ b ++ m ++ 6#3 ++ z)
  | .vcmpNe d a b m z => some (0x13#6 ++ d.setWidth 5 ++ a ++ b ++ m ++ 7#3 ++ z)
  | .vaddF32 d a b m rm => some (0x14#6 ++ d ++ a ++ b ++ m ++ rm ++ 0#3)
  | .vsubF32 d a b m rm => some (0x14#6 ++ d ++ a ++ b ++ m ++ rm ++ 1#3)
  | .vmulF32 d a b m rm => some (0x14#6 ++ d ++ a ++ b ++ m ++ rm ++ 2#3)
  | .vfmaF32 d a b m rm => some (0x14#6 ++ d ++ a ++ b ++ m ++ rm ++ 3#3)
  | .vfnmaF32 d a b m rm => some (0x14#6 ++ d ++ a ++ b ++ m ++ rm ++ 4#3)
  | .vminF32 d a b m rm => some (0x14#6 ++ d ++ a ++ b ++ m ++ rm ++ 5#3)
  | .vmaxF32 d a b m rm => some (0x14#6 ++ d ++ a ++ b ++ m ++ rm ++ 6#3)
  | .vcmpF32 d a b m p => some (0x14#6 ++ d.setWidth 5 ++ a ++ b ++ m ++ p ++ 7#3)
  | .vaddBf16 d a b m rm => some (0x1b#6 ++ d ++ a ++ b ++ m ++ rm ++ 0#3)
  | .vsubBf16 d a b m rm => some (0x1b#6 ++ d ++ a ++ b ++ m ++ rm ++ 1#3)
  | .vmulBf16 d a b m rm => some (0x1b#6 ++ d ++ a ++ b ++ m ++ rm ++ 2#3)
  | .vfmaBf16 d a b m rm => some (0x1b#6 ++ d ++ a ++ b ++ m ++ rm ++ 3#3)
  | .vfnmaBf16 d a b m rm => some (0x1b#6 ++ d ++ a ++ b ++ m ++ rm ++ 4#3)
  | .vminBf16 d a b m rm => some (0x1b#6 ++ d ++ a ++ b ++ m ++ rm ++ 5#3)
  | .vmaxBf16 d a b m rm => some (0x1b#6 ++ d ++ a ++ b ++ m ++ rm ++ 6#3)
  | .vcmpBf16 d a b m p => some (0x1b#6 ++ d.setWidth 5 ++ a ++ b ++ m ++ p ++ 7#3)
  | .vtbl d a b m => some (0x15#6 ++ d ++ a ++ b ++ m ++ 0#5)
  | .vzlo d a b m z => some (0x15#6 ++ d ++ a ++ b ++ m ++ 1#3 ++ z)
  | .vzhi d a b m z => some (0x15#6 ++ d ++ a ++ b ++ m ++ 2#3 ++ z)
  | .vuzev d a b m z => some (0x15#6 ++ d ++ a ++ b ++ m ++ 3#3 ++ z)
  | .vuzod d a b m z => some (0x15#6 ++ d ++ a ++ b ++ m ++ 4#3 ++ z)
  | .vrev d a m z => some (0x15#6 ++ d ++ a ++ 0#5 ++ m ++ 5#3 ++ z)
  | .vdup d a b m z => some (0x15#6 ++ d ++ a ++ b ++ m ++ 6#3 ++ z)
  | .vrsumInt d a m z => some (0x16#6 ++ d ++ a ++ 0#5 ++ m ++ 0#3 ++ z)
  | .vrminI d a m z => some (0x16#6 ++ d ++ a ++ 0#5 ++ m ++ 1#3 ++ z)
  | .vrminN d a m z => some (0x16#6 ++ d ++ a ++ 0#5 ++ m ++ 2#3 ++ z)
  | .vrmaxI d a m z => some (0x16#6 ++ d ++ a ++ 0#5 ++ m ++ 3#3 ++ z)
  | .vrmaxN d a m z => some (0x16#6 ++ d ++ a ++ 0#5 ++ m ++ 4#3 ++ z)
  | .vrsumBf16 d a m => some (0x16#6 ++ d ++ a ++ 0#5 ++ m ++ 21#5)
  | .vrsumF32 d a m => some (0x16#6 ++ d ++ a ++ 0#5 ++ m ++ 22#5)
  | .vrmaxF32 d a m => some (0x16#6 ++ d ++ a ++ 0#5 ++ m ++ 26#5)
  | .vrminF32 d a m => some (0x16#6 ++ d ++ a ++ 0#5 ++ m ++ 30#5)
  | .vdotI8 d a b m => some (0x17#6 ++ d ++ a ++ b ++ m ++ 0#5)
  | .vdotN8 d a b m => some (0x17#6 ++ d ++ a ++ b ++ m ++ 1#5)
  | .vdotI16 d a b m => some (0x17#6 ++ d ++ a ++ b ++ m ++ 2#5)
  | .vdotBf16 d a b m => some (0x17#6 ++ d ++ a ++ b ++ m ++ 3#5)
  | .vdotE4m3 d a b m => some (0x17#6 ++ d ++ a ++ b ++ m ++ 4#5)
  | .vdotE5m2 d a b m => some (0x17#6 ++ d ++ a ++ b ++ m ++ 5#5)
  | .vcvtBf16F32 d a m p rm => some (0x18#6 ++ d ++ a ++ 0#4 ++ p ++ m ++ rm ++ 0#3)
  | .vcvtF32Bf16 d a m p rm => some (0x18#6 ++ d ++ a ++ 1#4 ++ p ++ m ++ rm ++ 0#3)
  | .vcvtE4m3F32 d a m p rm => some (0x18#6 ++ d ++ a ++ 1#3 ++ p ++ m ++ rm ++ 0#3)
  | .vcvtE5m2F32 d a m p rm => some (0x18#6 ++ d ++ a ++ 2#3 ++ p ++ m ++ rm ++ 0#3)
  | .vcvtF32E4m3 d a m p rm => some (0x18#6 ++ d ++ a ++ 3#3 ++ p ++ m ++ rm ++ 0#3)
  | .vcvtF32E5m2 d a m p rm => some (0x18#6 ++ d ++ a ++ 4#3 ++ p ++ m ++ rm ++ 0#3)
  | .vcvtI32F32 d a m rm => some (0x18#6 ++ d ++ a ++ 20#5 ++ m ++ rm ++ 0#3)
  | .vcvtN32F32 d a m rm => some (0x18#6 ++ d ++ a ++ 21#5 ++ m ++ rm ++ 0#3)
  | .vcvtF32I32 d a m rm => some (0x18#6 ++ d ++ a ++ 22#5 ++ m ++ rm ++ 0#3)
  | .vcvtF32N32 d a m rm => some (0x18#6 ++ d ++ a ++ 23#5 ++ m ++ rm ++ 0#3)
  | .vcvtI16I32 d a m p rm => some (0x18#6 ++ d ++ a ++ 12#4 ++ p ++ m ++ rm ++ 0#3)
  | .vcvtI8I16 d a m p rm => some (0x18#6 ++ d ++ a ++ 13#4 ++ p ++ m ++ rm ++ 0#3)
  | .vcvtI32I16 d a m p rm => some (0x18#6 ++ d ++ a ++ 14#4 ++ p ++ m ++ rm ++ 0#3)
  | .vcvtI16I8 d a m p rm => some (0x18#6 ++ d ++ a ++ 15#4 ++ p ++ m ++ rm ++ 0#3)
  | .vsfuExp2 d a m fast => some (0x19#6 ++ d ++ a ++ 0#5 ++ m ++ fast ++ 0#4)
  | .vsfuLog2 d a m fast => some (0x19#6 ++ d ++ a ++ 0#5 ++ m ++ fast ++ 1#4)
  | .vsfuRcp d a m fast => some (0x19#6 ++ d ++ a ++ 0#5 ++ m ++ fast ++ 2#4)
  | .vsfuRsqrt d a m fast => some (0x19#6 ++ d ++ a ++ 0#5 ++ m ++ fast ++ 3#4)
  | .vsfuSqrt d a m fast => some (0x19#6 ++ d ++ a ++ 0#5 ++ m ++ fast ++ 4#4)
  | .vsfuSinpi d a m fast => some (0x19#6 ++ d ++ a ++ 0#5 ++ m ++ fast ++ 5#4)
  | .vsfuCospi d a m fast => some (0x19#6 ++ d ++ a ++ 0#5 ++ m ++ fast ++ 6#4)
  | .vsfuTanh d a m fast => some (0x19#6 ++ d ++ a ++ 0#5 ++ m ++ fast ++ 7#4)
  | .vsfuSigm d a m fast => some (0x19#6 ++ d ++ a ++ 0#5 ++ m ++ fast ++ 8#4)
  | .vaddF32S d a s m => some (0x1a#6 ++ d ++ a ++ s ++ m ++ 0#4)
  | .vsubF32S d a s m => some (0x1a#6 ++ d ++ a ++ s ++ m ++ 1#4)
  | .vmulF32S d a s m => some (0x1a#6 ++ d ++ a ++ s ++ m ++ 2#4)
  | .vfmaF32S d a s m => some (0x1a#6 ++ d ++ a ++ s ++ m ++ 3#4)
  | .vaddI32S d a s m => some (0x1a#6 ++ d ++ a ++ s ++ m ++ 4#4)
  | .vsubI32S d a s m => some (0x1a#6 ++ d ++ a ++ s ++ m ++ 5#4)
  | .vmulI32S d a s m => some (0x1a#6 ++ d ++ a ++ s ++ m ++ 6#4)
  | .vshlN32S d a s m => some (0x1a#6 ++ d ++ a ++ s ++ m ++ 7#4)
  | .vshrN32S d a s m => some (0x1a#6 ++ d ++ a ++ s ++ m ++ 8#4)
  | .vshrI32S d a s m => some (0x1a#6 ++ d ++ a ++ s ++ m ++ 9#4)
  | .vminF32S d a s m => some (0x1a#6 ++ d ++ a ++ s ++ m ++ 10#4)
  | .vmaxF32S d a s m => some (0x1a#6 ++ d ++ a ++ s ++ m ++ 11#4)
  | .mxMmaE4m3 c xa xb => some (0x20#6 ++ c ++ xa ++ xb ++ 0#6 ++ 0#6 ++ 0#3)
  | .mxMmaE5m2 c xa xb => some (0x20#6 ++ c ++ xa ++ xb ++ 0#6 ++ 0#6 ++ 1#3)
  | .mxMmxE4m3 c xa xb => some (0x20#6 ++ c ++ xa ++ xb ++ 0#6 ++ 0#6 ++ 2#3)
  | .mxMmxE5m2 c xa xb => some (0x20#6 ++ c ++ xa ++ xb ++ 0#6 ++ 0#6 ++ 3#3)
  | .mxMmaI8 c xa xb => some (0x20#6 ++ c ++ xa ++ xb ++ 0#6 ++ 0#6 ++ 4#3)
  | .mxMmaBf16 c xa xb => some (0x20#6 ++ c ++ xa ++ xb ++ 0#6 ++ 0#6 ++ 5#3)
  | .mxCmmaBf16 c xa xb => some (0x20#6 ++ c ++ xa ++ xb ++ 0#6 ++ 0#6 ++ 6#3)
  | .mxProm c sa sb => some (0x21#6 ++ c ++ 0#3 ++ 0#3 ++ sa ++ sb ++ 0#3)
  | .mxPromU c => some (0x21#6 ++ c ++ 0#3 ++ 0#3 ++ 0#6 ++ 0#6 ++ 1#3)
  | .mxLd xd sa sb => some (0x22#6 ++ 0#2 ++ xd ++ 0#3 ++ sa ++ sb ++ 0#3)
  | .mxLd2 xd sa sb => some (0x22#6 ++ 0#2 ++ xd ++ 0#3 ++ sa ++ sb ++ 1#3)
  | .mxLdwQ4 xd sa sb => some (0x22#6 ++ 0#2 ++ xd ++ 0#3 ++ sa ++ sb ++ 2#3)
  | .mxLdwE4m3 xd sa sb => some (0x22#6 ++ 0#2 ++ xd ++ 0#3 ++ sa ++ sb ++ 3#3)
  | .mxLdt xd sa sb => some (0x22#6 ++ 0#2 ++ xd ++ 0#3 ++ sa ++ sb ++ 4#3)
  | .mxAstF32 c sa sb => some (0x23#6 ++ c ++ 0#3 ++ 0#3 ++ sa ++ sb ++ 0#3)
  | .mxAstBf16 c sa sb => some (0x23#6 ++ c ++ 0#3 ++ 0#3 ++ sa ++ sb ++ 1#3)
  | .mxAldF32 c sa sb => some (0x23#6 ++ c ++ 0#3 ++ 0#3 ++ sa ++ sb ++ 2#3)
  | .mxAzero c => some (0x23#6 ++ c ++ 0#3 ++ 0#3 ++ 0#6 ++ 0#6 ++ 3#3)
  | .mxSync => some (0x24#6 ++ 0#2 ++ 0#3 ++ 0#3 ++ 0#6 ++ 0#6 ++ 0#3)
  | .mxStat d c => some (0x24#6 ++ c ++ 0#3 ++ 0#3 ++ d ++ 0#6 ++ 1#3)
  | .mxDrop c => some (0x24#6 ++ c ++ 0#3 ++ 0#3 ++ 0#6 ++ 0#6 ++ 2#3)
  | .hintA h x => some (0b11111#5 ++ h ++ x)
  | _ => none

/-- A C-word from its lone bit, stall count and body (Table 2.1). -/
def cWord (lone : Bool) (wait : BitVec 3) (x : BitVec 28) : BitVec 32 := BitVec.ofBool lone ++ wait ++ x

/-- An A-word from its stall count and body (Table 2.2). -/
def aWord (wait : BitVec 3) (x : BitVec 29) : BitVec 32 := wait ++ x

/-- The C-word of an instruction. -/
def encodeC (lone : Bool) (wait : BitVec 3) (i : Instr) : Option (BitVec 32) :=
  (encodeCBody i).map (cWord lone wait)

/-- The A-word of an instruction. -/
def encodeA (wait : BitVec 3) (i : Instr) : Option (BitVec 32) := (encodeABody i).map (aWord wait)

/-- Decodes a C-word. Every operand bit is kept in the instruction, so a reserved bit is nonzero
exactly when encoding the instruction again gives other bits. -/
def decodeC (w : BitVec 32) : Option DWord :=
  let x := w.extractLsb' 0 28
  (decodeCBody x).map fun i =>
    ⟨w.getLsbD 31, w.extractLsb' 28 3, i, decide (encodeCBody i ≠ some x)⟩

/-- Decodes an A-word. -/
noncomputable def decodeA (w : BitVec 32) : Option DWord :=
  let x := w.extractLsb' 0 29
  (decodeABody x).map fun i =>
    ⟨false, w.extractLsb' 29 3, i, decide (encodeABody i ≠ some x)⟩

/-- The words of a well-formed instruction with no stall: its own word as (C-word, A-word), the other
slot holding `nop`. -/
def encode (i : Instr) : Option (BitVec 32 × BitVec 32) :=
  match encodeC false 0 i, encodeA 0 i with
  | some c, _ => some (c, 0)
  | none, some a => some (0, a)
  | none, none => none

/-- A bundle's words: bits 31:0 of the 64 bits are the C-word, bits 63:32 the A-word (R28). -/
def bundleC (x : BitVec 64) : BitVec 32 := x.extractLsb' 0 32
def bundleA (x : BitVec 64) : BitVec 32 := x.extractLsb' 32 32

/-- Whether a 32-bit word of the opcode table is read as an A-word: it is an assigned A-word and its bit 22 is clear, or it is
no assigned C-word (DESIGN CHOICE, log 6: the table numbers both kinds of word from bit 0, many words are assigned in both slots,
and the table does not say which slot a word stands in). -/
noncomputable def tableIsA (w : BitVec 32) : Bool :=
  ((decodeA w).isSome && !w.getLsbD 22) || (decodeC w).isNone

/-- The bundle that holds one word of the opcode table in its slot, beside a `nop`. -/
noncomputable def tableBundle (w : Nat) : BitVec 64 :=
  let x := BitVec.ofNat 32 w
  if tableIsA x then x ++ 0#32 else 0#32 ++ x

/-- The instruction that the decoder reads from a word numbered as the opcode table numbers it. -/
noncomputable def decodeTableWord (_nbits w : Nat) : Option Instr :=
  let x := BitVec.ofNat 32 w
  if tableIsA x then (decodeA x).map (·.instr) else (decodeC x).map (·.instr)

end Sys2Proof
end

