-- ==== Sys2Proof/Machine/Hazard.lean ====
section
/-! DEFINITION. Registers that an instruction reads and writes (02 R32, R36), and fixed latencies (02 R35). -/

namespace Sys2Proof

open Sys2Proof.Machine (Reg)

/-- Sources of a form with a mask field: the mask register too, unless it is `.all` (R44). -/
def masked (m : BitVec 3) (l : List Reg) : List Reg := if m = 0 then l else l ++ [.k m]

/-- Sources of a form whose inactive lanes keep the destination (05 R146). -/
def maskedD (m : BitVec 3) (d : Reg) (l : List Reg) : List Reg := if m = 0 then l else l ++ [.k m, d]

/-- Registers that an instruction reads at issue (R32, 06 R174). -/
def Instr.reads : Instr → List Reg
  | .bEqz a _ => [.s a]
  | .bNez a _ => [.s a]
  | .bLtz a _ => [.s a]
  | .bGez a _ => [.s a]
  | .bGtz a _ => [.s a]
  | .bLez a _ => [.s a]
  | .bEq a b _ => [.s a, .s b]
  | .bNe a b _ => [.s a, .s b]
  | .bLt a b _ => [.s a, .s b]
  | .bGe a b _ => [.s a, .s b]
  | .bLtn a b _ => [.s a, .s b]
  | .bGen a b _ => [.s a, .s b]
  | .jr a => [.s a]
  | .jlr _ a => [.s a]
  | .nestClaim _ a => [.s a]
  | .nestNext a => [.s a]
  | .leaS _ a b _ => [.s a, .s b]
  | .leaI _ a i _ => [.s a, .i i]
  | .lis d _ => [.s d]
  | .mtc _ b => [.s b]
  | .ldL _ b _ _ _ _ _ => [.s b]
  | .stL t b _ _ _ _ _ => [.s t, .s b]
  | .ldS _ _ b _ => [.s b]
  | .stS t _ b _ => [.s t, .s b]
  | .ldG _ b _ _ _ _ _ => [.s b]
  | .stG t b _ _ _ _ _ => [.s t, .s b]
  | .ldLQ _ b _ _ _ => [.s b]
  | .ldGQ _ b _ _ _ => [.s b]
  | .ldGW4 _ b _ _ _ => [.s b, .s (b + 1)]
  | .ldGE4 _ b _ _ _ => [.s b]
  | .stLQ t b _ _ _ => [.v t, .s b]
  | .stGQ t b _ _ _ => [.v t, .s b]
  | .ldc _ b _ _ _ _ => [.s b]
  | .tileClaim _ a b => [.s a, .s b]
  | .tileFree a => [.s a]
  | .tileFill a => [.s a]
  | .tileReady a => [.s a]
  | .tileDrop a => [.s a]
  | .tileStat _ a => [.s a]
  | .clean a b => [.s a, .s b]
  | .upResume a => [.s a]
  | .cpCopy _ a => [.s a]
  | .cpGather _ a => [.s a]
  | .cpScatter _ a => [.s a]
  | .cpFill _ a b => [.s a, .s b]
  | .cpMcast _ a => [.s a]
  | .cpWalk _ a => [.s a]
  | .cpCow _ a => [.s a]
  | .cpWait _ a => [.s a]
  | .cpPoll _ a => [.s a]
  | .cpCancel _ a => [.s a]
  | .atomAdd d a _ _ _ => [.s a, .s d]
  | .atomSwap d a _ _ _ => [.s a, .s d]
  | .atomCas d a _ _ _ => [.s a, .s d, .s (d + 1)]
  | .atomAnd d a _ _ _ => [.s a, .s d]
  | .atomOr d a _ _ _ => [.s a, .s d]
  | .atomXor d a _ _ _ => [.s a, .s d]
  | .atomMin d a _ _ _ => [.s a, .s d]
  | .atomMax d a _ _ _ => [.s a, .s d]
  | .redAdd d a _ _ _ => [.s d, .s a]
  | .redAnd d a _ _ _ => [.s d, .s a]
  | .redOr d a _ _ _ => [.s d, .s a]
  | .redXor d a _ _ _ => [.s d, .s a]
  | .redMin d a _ _ _ => [.s d, .s a]
  | .redMax d a _ _ _ => [.s d, .s a]
  | .waitAny _ a b => [.s a, .s b]
  | .sendR a b => [.s a, .s b]
  | .sendA a b => [.s a, .s b]
  | .sendAny b => [.s b]
  | .actMigrate a => [.s a]
  | .actFail a => [.s a]
  | .barInit _ a b => [.s a, .s b]
  | .barArrive _ a b => [.s a, .s b]
  | .barArriveNb _ a b => [.s a, .s b]
  | .barWait _ a b => [.s a, .s b]
  | .barFree a => [.s a]
  | .regionLaunch a => [.s a]
  | .regionLaunchEarly a b => [.s a, .s b]
  | .regionKill a => [.s a]
  | .regionStat _ a => [.s a]
  | .fabPf a b => [.s a, .s b]
  | .fabPeer _ a => [.s a]
  | .fabCtr _ a => [.s a]
  | .fabWait _ a b => [.s a, .s b]
  | .potPost a b => [.s a, .s b]
  | .potRead _ a b => [.s a, .s b]
  | .potReadSeal _ a b => [.s a, .s b]
  | .potOpen _ b => [.s b]
  | .potClose a => [.s a]
  | .potStat _ a b => [.s a, .s b]
  | .potSeal a => [.s a]
  | .potExp a b => [.s a, .s b]
  | .potReset a b => [.s a, .s b]
  | .qdOpen _ a => [.s a]
  | .qdStat _ a => [.s a]
  | .reelOpen _ a => [.s a]
  | .reelScore a => [.s a]
  | .reelStat _ a => [.s a]
  | .leave a b => [.s a, .s b]
  | .sysTlbinv _ a b => [.s a, .s b]
  | .sysMrd _ a => [.s a]
  | .sysMwr a b => [.s a, .s b]
  | .sysSwap _ a b => [.s a, .s b]
  | .sysKill _ a => [.s a]
  | .sysEvt a b => [.s a, .s b]
  | .add _ a b => [.s a, .s b]
  | .sub _ a b => [.s a, .s b]
  | .addI32 _ a b => [.s a, .s b]
  | .subI32 _ a b => [.s a, .s b]
  | .addsI64 _ a b => [.s a, .s b]
  | .addsN64 _ a b => [.s a, .s b]
  | .subsI64 _ a b => [.s a, .s b]
  | .subsN64 _ a b => [.s a, .s b]
  | .and _ a b => [.s a, .s b]
  | .or _ a b => [.s a, .s b]
  | .xor _ a b => [.s a, .s b]
  | .andn _ a b => [.s a, .s b]
  | .orn _ a b => [.s a, .s b]
  | .xnor _ a b => [.s a, .s b]
  | .addImm _ a _ => [.s a]
  | .andImm _ a _ => [.s a]
  | .orImm _ a _ => [.s a]
  | .xorImm _ a _ => [.s a]
  | .shl _ a b => [.s a, .s b]
  | .shrN64 _ a b => [.s a, .s b]
  | .shr _ a b => [.s a, .s b]
  | .rol _ a b => [.s a, .s b]
  | .ror _ a b => [.s a, .s b]
  | .shlI32 _ a b => [.s a, .s b]
  | .shrN32 _ a b => [.s a, .s b]
  | .shrI32 _ a b => [.s a, .s b]
  | .shlImm _ a _ => [.s a]
  | .shrN64Imm _ a _ => [.s a]
  | .shrImm _ a _ => [.s a]
  | .rolImm _ a _ => [.s a]
  | .rorImm _ a _ => [.s a]
  | .shlI32Imm _ a _ => [.s a]
  | .shrN32Imm _ a _ => [.s a]
  | .shrI32Imm _ a _ => [.s a]
  | .mul _ a b => [.s a, .s b]
  | .mulh _ a b => [.s a, .s b]
  | .mulhN64 _ a b => [.s a, .s b]
  | .mulI32 _ a b => [.s a, .s b]
  | .mla d a b => [.s a, .s b, .s d]
  | .mulsI64 _ a b => [.s a, .s b]
  | .cmpEq _ a b => [.s a, .s b]
  | .cmpNe _ a b => [.s a, .s b]
  | .cmpLt _ a b => [.s a, .s b]
  | .cmpLtN64 _ a b => [.s a, .s b]
  | .cmpLe _ a b => [.s a, .s b]
  | .cmpLeN64 _ a b => [.s a, .s b]
  | .selNez d a b => [.s a, .s b, .s d]
  | .selEqz d a b => [.s a, .s b, .s d]
  | .bfxN64 _ a b => [.s a, .s b]
  | .bfx _ a b => [.s a, .s b]
  | .bfi d a b => [.s a, .s b, .s d]
  | .clz _ a => [.s a]
  | .ctz _ a => [.s a]
  | .popc _ a => [.s a]
  | .bswap _ a => [.s a]
  | .brev _ a => [.s a]
  | .min _ a b => [.s a, .s b]
  | .minN64 _ a b => [.s a, .s b]
  | .max _ a b => [.s a, .s b]
  | .maxN64 _ a b => [.s a, .s b]
  | .abs _ a => [.s a]
  | .abss _ a => [.s a]
  | .kand _ a b => [.k a, .k b]
  | .kor _ a b => [.k a, .k b]
  | .kxor _ a b => [.k a, .k b]
  | .kandn _ a b => [.k a, .k b]
  | .knot _ a => [.k a]
  | .kset _ a => [.s a]
  | .kget _ a => [.k a]
  | .kpopc _ a => [.k a]
  | .kffs _ a => [.k a]
  | .vbcast d s m _ => maskedD m (.v d) [.s s]
  | .vins d s _ _ _ => [.s s, .v d]
  | .vextI _ a _ _ _ => [.v a]
  | .vextN _ a _ _ _ => [.v a]
  | .vadd d a b m _ => maskedD m (.v d) [.v a, .v b]
  | .vsub d a b m _ => maskedD m (.v d) [.v a, .v b]
  | .vaddsI d a b m _ => maskedD m (.v d) [.v a, .v b]
  | .vaddsN d a b m _ => maskedD m (.v d) [.v a, .v b]
  | .vsubsI d a b m _ => maskedD m (.v d) [.v a, .v b]
  | .vsubsN d a b m _ => maskedD m (.v d) [.v a, .v b]
  | .vmul d a b m _ => maskedD m (.v d) [.v a, .v b]
  | .vabs d a m _ => maskedD m (.v d) [.v a]
  | .vand d a b m _ => maskedD m (.v d) [.v a, .v b]
  | .vor d a b m _ => maskedD m (.v d) [.v a, .v b]
  | .vxor d a b m _ => maskedD m (.v d) [.v a, .v b]
  | .vandn d a b m _ => maskedD m (.v d) [.v a, .v b]
  | .vorn d a b m _ => maskedD m (.v d) [.v a, .v b]
  | .vxnor d a b m _ => maskedD m (.v d) [.v a, .v b]
  | .vbsl d a b m _ => masked m [.v a, .v b, .v d]
  | .vmov d a m _ => maskedD m (.v d) [.v a]
  | .vshl d a b m _ => maskedD m (.v d) [.v a, .v b]
  | .vshrN d a b m _ => maskedD m (.v d) [.v a, .v b]
  | .vshrI d a b m _ => maskedD m (.v d) [.v a, .v b]
  | .vrol d a b m _ => maskedD m (.v d) [.v a, .v b]
  | .vror d a b m _ => maskedD m (.v d) [.v a, .v b]
  | .vcmpEq _ a b m _ => masked m [.v a, .v b]
  | .vcmpLtI _ a b m _ => masked m [.v a, .v b]
  | .vcmpLtN _ a b m _ => masked m [.v a, .v b]
  | .vminI d a b m _ => maskedD m (.v d) [.v a, .v b]
  | .vminN d a b m _ => maskedD m (.v d) [.v a, .v b]
  | .vmaxI d a b m _ => maskedD m (.v d) [.v a, .v b]
  | .vmaxN d a b m _ => maskedD m (.v d) [.v a, .v b]
  | .vcmpNe _ a b m _ => masked m [.v a, .v b]
  | .vaddF32 d a b m _ => maskedD m (.v d) [.v a, .v b]
  | .vsubF32 d a b m _ => maskedD m (.v d) [.v a, .v b]
  | .vmulF32 d a b m _ => maskedD m (.v d) [.v a, .v b]
  | .vfmaF32 d a b m _ => masked m [.v a, .v b, .v d]
  | .vfnmaF32 d a b m _ => masked m [.v a, .v b, .v d]
  | .vminF32 d a b m _ => maskedD m (.v d) [.v a, .v b]
  | .vmaxF32 d a b m _ => maskedD m (.v d) [.v a, .v b]
  | .vcmpF32 _ a b m _ => masked m [.v a, .v b]
  | .vtbl d a b m => masked m [.v a, .v b, .v d]
  | .vzlo d a b m _ => maskedD m (.v d) [.v a, .v b]
  | .vzhi d a b m _ => maskedD m (.v d) [.v a, .v b]
  | .vuzev d a b m _ => maskedD m (.v d) [.v a, .v b]
  | .vuzod d a b m _ => maskedD m (.v d) [.v a, .v b]
  | .vrev d a m _ => maskedD m (.v d) [.v a]
  | .vdup d a b m _ => maskedD m (.v d) [.v a, .v b]
  | .vrsumInt _ a m _ => masked m [.v a]
  | .vrminI _ a m _ => masked m [.v a]
  | .vrminN _ a m _ => masked m [.v a]
  | .vrmaxI _ a m _ => masked m [.v a]
  | .vrmaxN _ a m _ => masked m [.v a]
  | .vrsumBf16 _ a m => masked m [.v a]
  | .vrsumF32 _ a m => masked m [.v a]
  | .vrmaxF32 _ a m => masked m [.v a]
  | .vrminF32 _ a m => masked m [.v a]
  | .vdotI8 d a b m => masked m [.v a, .v b, .v d]
  | .vdotN8 d a b m => masked m [.v a, .v b, .v d]
  | .vdotI16 d a b m => masked m [.v a, .v b, .v d]
  | .vdotBf16 d a b m => masked m [.v a, .v b, .v d]
  | .vdotE4m3 d a b m => masked m [.v a, .v b, .v d]
  | .vdotE5m2 d a b m => masked m [.v a, .v b, .v d]
  | .vcvtBf16F32 d a _ p _ => [.v a] ++ (if p = 0 then [] else [.v d])
  | .vcvtF32Bf16 _ a _ _ _ => [.v a]
  | .vcvtE4m3F32 d a _ p _ => [.v a] ++ (if p = 0 then [] else [.v d])
  | .vcvtE5m2F32 d a _ p _ => [.v a] ++ (if p = 0 then [] else [.v d])
  | .vcvtF32E4m3 _ a _ _ _ => [.v a]
  | .vcvtF32E5m2 _ a _ _ _ => [.v a]
  | .vcvtI32F32 _ a _ _ => [.v a]
  | .vcvtN32F32 _ a _ _ => [.v a]
  | .vcvtF32I32 _ a _ _ => [.v a]
  | .vcvtF32N32 _ a _ _ => [.v a]
  | .vcvtI16I32 d a _ p _ => [.v a] ++ (if p = 0 then [] else [.v d])
  | .vcvtI8I16 d a _ p _ => [.v a] ++ (if p = 0 then [] else [.v d])
  | .vcvtI32I16 _ a _ _ _ => [.v a]
  | .vcvtI16I8 _ a _ _ _ => [.v a]
  | .vsfuExp2 d a m _ => maskedD m (.v d) [.v a]
  | .vsfuLog2 d a m _ => maskedD m (.v d) [.v a]
  | .vsfuRcp d a m _ => maskedD m (.v d) [.v a]
  | .vsfuRsqrt d a m _ => maskedD m (.v d) [.v a]
  | .vsfuSqrt d a m _ => maskedD m (.v d) [.v a]
  | .vsfuSinpi d a m _ => maskedD m (.v d) [.v a]
  | .vsfuCospi d a m _ => maskedD m (.v d) [.v a]
  | .vsfuTanh d a m _ => maskedD m (.v d) [.v a]
  | .vsfuSigm d a m _ => maskedD m (.v d) [.v a]
  | .vaddF32S d a s m => maskedD m (.v d) [.v a, .s s]
  | .vsubF32S d a s m => maskedD m (.v d) [.v a, .s s]
  | .vmulF32S d a s m => maskedD m (.v d) [.v a, .s s]
  | .vfmaF32S d a s m => masked m [.v a, .s s, .v d]
  | .vaddI32S d a s m => maskedD m (.v d) [.v a, .s s]
  | .vsubI32S d a s m => maskedD m (.v d) [.v a, .s s]
  | .vmulI32S d a s m => maskedD m (.v d) [.v a, .s s]
  | .vshlN32S d a s m => maskedD m (.v d) [.v a, .s s]
  | .vshrN32S d a s m => maskedD m (.v d) [.v a, .s s]
  | .vshrI32S d a s m => maskedD m (.v d) [.v a, .s s]
  | .vminF32S d a s m => maskedD m (.v d) [.v a, .s s]
  | .vmaxF32S d a s m => maskedD m (.v d) [.v a, .s s]
  | .vaddBf16 d a b m _ => maskedD m (.v d) [.v a, .v b]
  | .vsubBf16 d a b m _ => maskedD m (.v d) [.v a, .v b]
  | .vmulBf16 d a b m _ => maskedD m (.v d) [.v a, .v b]
  | .vfmaBf16 d a b m _ => masked m [.v a, .v b, .v d]
  | .vfnmaBf16 d a b m _ => masked m [.v a, .v b, .v d]
  | .vminBf16 d a b m _ => maskedD m (.v d) [.v a, .v b]
  | .vmaxBf16 d a b m _ => maskedD m (.v d) [.v a, .v b]
  | .vcmpBf16 _ a b m _ => masked m [.v a, .v b]
  | .mxMmaE4m3 _ xa xb => [.x xa, .x xb]
  | .mxMmaE5m2 _ xa xb => [.x xa, .x xb]
  | .mxMmxE4m3 _ xa xb => [.x xa, .x xb]
  | .mxMmxE5m2 _ xa xb => [.x xa, .x xb]
  | .mxMmaI8 _ xa xb => [.x xa, .x xb]
  | .mxMmaBf16 _ xa xb => [.x xa, .x xb, .x (xa + 1), .x (xb + 1)]
  | .mxCmmaBf16 _ xa xb => [.x xa, .x xb, .x (xa + 1), .x (xb + 1)]
  | .mxProm c sa sb => [.a c, .s sa, .s sb]
  | .mxPromU c => [.a c]
  | .mxLd _ sa sb => [.s sa, .s sb]
  | .mxLd2 _ sa sb => [.s sa, .s sb]
  | .mxLdwQ4 _ sa sb => [.s sa, .s sb]
  | .mxLdwE4m3 _ sa sb => [.s sa, .s sb]
  | .mxLdt _ sa sb => [.s sa, .s sb]
  | .mxAstF32 c sa sb => [.a c, .s sa, .s sb]
  | .mxAstBf16 c sa sb => [.a c, .s sa, .s sb]
  | .mxAldF32 _ sa sb => [.s sa, .s sb]
  | _ => []

/-- Registers that an instruction writes (R36, 06 R174). -/
def Instr.writes : Instr → List Reg
  | .jl _ => [.s 62]
  | .jlr d _ => [.s d]
  | .nestClaim d _ => [.s d]
  | .nestNext _ => [.i 0, .i 1, .i 2, .i 3]
  | .leaS d _ _ _ => [.s d]
  | .leaI d _ _ _ => [.s d]
  | .li d _ => [.s d]
  | .lis d _ => [.s d]
  | .mfc d _ => [.s d]
  | .ldL t _ _ _ _ _ _ => [.s t]
  | .ldS t _ _ _ => [.s t]
  | .ldG t _ _ _ _ _ _ => [.s t]
  | .ldLQ t _ _ _ _ => [.v t]
  | .ldGQ t _ _ _ _ => [.v t]
  | .ldGW4 t _ _ _ _ => [.v t]
  | .ldGE4 t _ _ _ _ => [.v t]
  | .ldc t _ _ _ _ _ => [.s t]
  | .tileClaim d _ _ => [.s d]
  | .tileStat d _ => [.s d]
  | .cpCopy d _ => [.s d]
  | .cpGather d _ => [.s d]
  | .cpScatter d _ => [.s d]
  | .cpFill d _ _ => [.s d]
  | .cpMcast d _ => [.s d]
  | .cpWalk d _ => [.s d]
  | .cpCow d _ => [.s d]
  | .cpWait d _ => [.s d]
  | .cpPoll d _ => [.s d]
  | .cpCancel d _ => [.s d]
  | .atomAdd d _ _ _ _ => [.s d]
  | .atomSwap d _ _ _ _ => [.s d]
  | .atomCas d _ _ _ _ => [.s d]
  | .atomAnd d _ _ _ _ => [.s d]
  | .atomOr d _ _ _ _ => [.s d]
  | .atomXor d _ _ _ _ => [.s d]
  | .atomMin d _ _ _ _ => [.s d]
  | .atomMax d _ _ _ _ => [.s d]
  | .waitAny d _ _ => [.s d]
  | .actInfo d => [.s d]
  | .barInit d _ _ => [.s d]
  | .barArrive d _ _ => [.s d]
  | .barArriveNb d _ _ => [.s d]
  | .barWait d _ _ => [.s d]
  | .regionStat d _ => [.s d]
  | .fabSlot d => [.s d]
  | .fabPeer d _ => [.s d]
  | .fabCtr d _ => [.s d]
  | .fabWait d _ _ => [.s d]
  | .potRead d _ _ => [.s d]
  | .potReadSeal d _ _ => [.s d]
  | .potOpen d _ => [.s d]
  | .potStat d _ _ => [.s d]
  | .qdOpen d _ => [.s d]
  | .qdExit d => [.s d]
  | .qdStat d _ => [.s d]
  | .reelOpen d _ => [.s d]
  | .reelDone d => [.s d]
  | .reelSync d => [.s d]
  | .reelStat d _ => [.s d]
  | .sysTlbinv d _ _ => [.s d]
  | .sysMrd d _ => [.s d]
  | .sysSwap d _ _ => [.s d]
  | .sysKill d _ => [.s d]
  | .add d _ _ => [.s d]
  | .sub d _ _ => [.s d]
  | .addI32 d _ _ => [.s d]
  | .subI32 d _ _ => [.s d]
  | .addsI64 d _ _ => [.s d]
  | .addsN64 d _ _ => [.s d]
  | .subsI64 d _ _ => [.s d]
  | .subsN64 d _ _ => [.s d]
  | .and d _ _ => [.s d]
  | .or d _ _ => [.s d]
  | .xor d _ _ => [.s d]
  | .andn d _ _ => [.s d]
  | .orn d _ _ => [.s d]
  | .xnor d _ _ => [.s d]
  | .addImm d _ _ => [.s d]
  | .andImm d _ _ => [.s d]
  | .orImm d _ _ => [.s d]
  | .xorImm d _ _ => [.s d]
  | .shl d _ _ => [.s d]
  | .shrN64 d _ _ => [.s d]
  | .shr d _ _ => [.s d]
  | .rol d _ _ => [.s d]
  | .ror d _ _ => [.s d]
  | .shlI32 d _ _ => [.s d]
  | .shrN32 d _ _ => [.s d]
  | .shrI32 d _ _ => [.s d]
  | .shlImm d _ _ => [.s d]
  | .shrN64Imm d _ _ => [.s d]
  | .shrImm d _ _ => [.s d]
  | .rolImm d _ _ => [.s d]
  | .rorImm d _ _ => [.s d]
  | .shlI32Imm d _ _ => [.s d]
  | .shrN32Imm d _ _ => [.s d]
  | .shrI32Imm d _ _ => [.s d]
  | .mul d _ _ => [.s d]
  | .mulh d _ _ => [.s d]
  | .mulhN64 d _ _ => [.s d]
  | .mulI32 d _ _ => [.s d]
  | .mla d _ _ => [.s d]
  | .mulsI64 d _ _ => [.s d]
  | .cmpEq d _ _ => [.s d]
  | .cmpNe d _ _ => [.s d]
  | .cmpLt d _ _ => [.s d]
  | .cmpLtN64 d _ _ => [.s d]
  | .cmpLe d _ _ => [.s d]
  | .cmpLeN64 d _ _ => [.s d]
  | .selNez d _ _ => [.s d]
  | .selEqz d _ _ => [.s d]
  | .bfxN64 d _ _ => [.s d]
  | .bfx d _ _ => [.s d]
  | .bfi d _ _ => [.s d]
  | .clz d _ => [.s d]
  | .ctz d _ => [.s d]
  | .popc d _ => [.s d]
  | .bswap d _ => [.s d]
  | .brev d _ => [.s d]
  | .min d _ _ => [.s d]
  | .minN64 d _ _ => [.s d]
  | .max d _ _ => [.s d]
  | .maxN64 d _ _ => [.s d]
  | .abs d _ => [.s d]
  | .abss d _ => [.s d]
  | .kand d _ _ => [.k d]
  | .kor d _ _ => [.k d]
  | .kxor d _ _ => [.k d]
  | .kandn d _ _ => [.k d]
  | .knot d _ => [.k d]
  | .kset d _ => [.k d]
  | .kget d _ => [.s d]
  | .kpopc d _ => [.s d]
  | .kffs d _ => [.s d]
  | .vbcast d _ _ _ => [.v d]
  | .vins d _ _ _ _ => [.v d]
  | .vextI d _ _ _ _ => [.s d]
  | .vextN d _ _ _ _ => [.s d]
  | .vadd d _ _ _ _ => [.v d]
  | .vsub d _ _ _ _ => [.v d]
  | .vaddsI d _ _ _ _ => [.v d]
  | .vaddsN d _ _ _ _ => [.v d]
  | .vsubsI d _ _ _ _ => [.v d]
  | .vsubsN d _ _ _ _ => [.v d]
  | .vmul d _ _ _ _ => [.v d]
  | .vabs d _ _ _ => [.v d]
  | .vand d _ _ _ _ => [.v d]
  | .vor d _ _ _ _ => [.v d]
  | .vxor d _ _ _ _ => [.v d]
  | .vandn d _ _ _ _ => [.v d]
  | .vorn d _ _ _ _ => [.v d]
  | .vxnor d _ _ _ _ => [.v d]
  | .vbsl d _ _ _ _ => [.v d]
  | .vmov d _ _ _ => [.v d]
  | .vshl d _ _ _ _ => [.v d]
  | .vshrN d _ _ _ _ => [.v d]
  | .vshrI d _ _ _ _ => [.v d]
  | .vrol d _ _ _ _ => [.v d]
  | .vror d _ _ _ _ => [.v d]
  | .vcmpEq d _ _ _ _ => [.k d]
  | .vcmpLtI d _ _ _ _ => [.k d]
  | .vcmpLtN d _ _ _ _ => [.k d]
  | .vminI d _ _ _ _ => [.v d]
  | .vminN d _ _ _ _ => [.v d]
  | .vmaxI d _ _ _ _ => [.v d]
  | .vmaxN d _ _ _ _ => [.v d]
  | .vcmpNe d _ _ _ _ => [.k d]
  | .vaddF32 d _ _ _ _ => [.v d]
  | .vsubF32 d _ _ _ _ => [.v d]
  | .vmulF32 d _ _ _ _ => [.v d]
  | .vfmaF32 d _ _ _ _ => [.v d]
  | .vfnmaF32 d _ _ _ _ => [.v d]
  | .vminF32 d _ _ _ _ => [.v d]
  | .vmaxF32 d _ _ _ _ => [.v d]
  | .vcmpF32 d _ _ _ _ => [.k d]
  | .vtbl d _ _ _ => [.v d]
  | .vzlo d _ _ _ _ => [.v d]
  | .vzhi d _ _ _ _ => [.v d]
  | .vuzev d _ _ _ _ => [.v d]
  | .vuzod d _ _ _ _ => [.v d]
  | .vrev d _ _ _ => [.v d]
  | .vdup d _ _ _ _ => [.v d]
  | .vrsumInt d _ _ _ => [.v d]
  | .vrminI d _ _ _ => [.v d]
  | .vrminN d _ _ _ => [.v d]
  | .vrmaxI d _ _ _ => [.v d]
  | .vrmaxN d _ _ _ => [.v d]
  | .vrsumBf16 d _ _ => [.v d]
  | .vrsumF32 d _ _ => [.v d]
  | .vrmaxF32 d _ _ => [.v d]
  | .vrminF32 d _ _ => [.v d]
  | .vdotI8 d _ _ _ => [.v d]
  | .vdotN8 d _ _ _ => [.v d]
  | .vdotI16 d _ _ _ => [.v d]
  | .vdotBf16 d _ _ _ => [.v d]
  | .vdotE4m3 d _ _ _ => [.v d]
  | .vdotE5m2 d _ _ _ => [.v d]
  | .vcvtBf16F32 d _ _ _ _ => [.v d]
  | .vcvtF32Bf16 d _ _ _ _ => [.v d]
  | .vcvtE4m3F32 d _ _ _ _ => [.v d]
  | .vcvtE5m2F32 d _ _ _ _ => [.v d]
  | .vcvtF32E4m3 d _ _ _ _ => [.v d]
  | .vcvtF32E5m2 d _ _ _ _ => [.v d]
  | .vcvtI32F32 d _ _ _ => [.v d]
  | .vcvtN32F32 d _ _ _ => [.v d]
  | .vcvtF32I32 d _ _ _ => [.v d]
  | .vcvtF32N32 d _ _ _ => [.v d]
  | .vcvtI16I32 d _ _ _ _ => [.v d]
  | .vcvtI8I16 d _ _ _ _ => [.v d]
  | .vcvtI32I16 d _ _ _ _ => [.v d]
  | .vcvtI16I8 d _ _ _ _ => [.v d]
  | .vsfuExp2 d _ _ _ => [.v d]
  | .vsfuLog2 d _ _ _ => [.v d]
  | .vsfuRcp d _ _ _ => [.v d]
  | .vsfuRsqrt d _ _ _ => [.v d]
  | .vsfuSqrt d _ _ _ => [.v d]
  | .vsfuSinpi d _ _ _ => [.v d]
  | .vsfuCospi d _ _ _ => [.v d]
  | .vsfuTanh d _ _ _ => [.v d]
  | .vsfuSigm d _ _ _ => [.v d]
  | .vaddF32S d _ _ _ => [.v d]
  | .vsubF32S d _ _ _ => [.v d]
  | .vmulF32S d _ _ _ => [.v d]
  | .vfmaF32S d _ _ _ => [.v d]
  | .vaddI32S d _ _ _ => [.v d]
  | .vsubI32S d _ _ _ => [.v d]
  | .vmulI32S d _ _ _ => [.v d]
  | .vshlN32S d _ _ _ => [.v d]
  | .vshrN32S d _ _ _ => [.v d]
  | .vshrI32S d _ _ _ => [.v d]
  | .vminF32S d _ _ _ => [.v d]
  | .vmaxF32S d _ _ _ => [.v d]
  | .vaddBf16 d _ _ _ _ => [.v d]
  | .vsubBf16 d _ _ _ _ => [.v d]
  | .vmulBf16 d _ _ _ _ => [.v d]
  | .vfmaBf16 d _ _ _ _ => [.v d]
  | .vfnmaBf16 d _ _ _ _ => [.v d]
  | .vminBf16 d _ _ _ _ => [.v d]
  | .vmaxBf16 d _ _ _ _ => [.v d]
  | .vcmpBf16 d _ _ _ _ => [.k d]
  | .mxProm c _ _ => [.a c]
  | .mxPromU c => [.a c]
  | .mxLd xd _ _ => [.x xd]
  | .mxLd2 xd _ _ => [.x xd, .x (xd + 1)]
  | .mxLdwQ4 xd _ _ => [.x xd]
  | .mxLdwE4m3 xd _ _ => [.x xd]
  | .mxLdt xd _ _ => [.x xd]
  | .mxAldF32 c _ _ => [.a c]
  | .mxAzero c => [.a c]
  | .mxStat d _ => [.s d]
  | _ => []

/-- The major opcode of a C-word or an A-word. -/
def Instr.cOpc (i : Instr) : Option Nat := (encodeCBody i).map fun x => (x.extractLsb' 22 6).toNat
def Instr.aOpc (i : Instr) : Option Nat := (encodeABody i).map fun x => (x.extractLsb' 23 6).toNat

/-- Whether an instruction is a word of a bundle; the others are steps of the machine's other agents. -/
def Instr.isWord (i : Instr) : Bool := i.cOpc.isSome || i.aOpc.isSome

/-- The latency of a fixed-latency result (Table 2.3); none where the result is interlocked. -/
def Instr.latency (i : Instr) : Option Nat :=
  match i.cOpc, i.aOpc with
  | some c, _ => if c = 0x04 ∨ c = 0x05 ∨ c = 0x08 ∨ c = 0x09 ∨ c = 0x0A then some 1 else if c = 0x0B then some 2 else none
  | none, some a =>
    if a = 0x04 then some 3
    else if 0x01 ≤ a ∧ a ≤ 0x07 then some 1
    else if a = 0x08 ∨ a = 0x09 ∨ (0x10 ≤ a ∧ a ≤ 0x13) ∨ a = 0x15 then some 2
    else if a = 0x14 ∨ a = 0x1B ∨ a = 0x18 ∨ a = 0x1A then some 4
    else if a = 0x16 ∨ a = 0x17 then some 6
    else if a = 0x19 then some 12
    else none
  | none, none => none

end Sys2Proof
end

