-- ==== Sys2Proof/Machine/Issue.lean ====
section
/-! DEFINITION. Fetching and issuing a bundle (02 R28-R40, R50-R55, 04 R105-R107, R141, 07 R228, R229, 17 R443). -/

namespace Sys2Proof.Machine

/-- Goes on after a next state. -/
def andThen (o : Out) (f : State → Out) : Out :=
  match o with
  | .next s => f s
  | .fault r => .fault r
  | .refused r => .refused r

/-! ### Fetch (R105-R107) -/

inductive Fetch where
  | wait (s : State)
  | fault (s : State) (cause level : Nat) (late : Bool)
  | ok (s : State) (w : BitVec 64)

/-- Keeps a fetched bundle in the instruction cache, of 16 KiB (01 R14); which copy gives way, the least recently fetched here, the spec
leaves open (log 10). -/
def icFill (part va : Nat) (w : BitVec 64) (k : Core) : Core :=
  { k with icache := ({ part := part, va := va, bundle := w } ::
      k.icache.filter fun l => decide (¬(l.part = part ∧ l.va = va))).take 2048 }

/-- Whether the running activation's fetch of an address had no reply from another package. -/
def fetchDead (k : Core) (pc : Nat) : Bool :=
  match k.ftoFetch, k.running with
  | some (i, p), some (_, a) => decide (i = a.id ∧ p = pc)
  | _, _ => false

/-- A fetch at the home slice of the bundle's address (R107). With `err` an uncorrectable error strikes its DRAM read, which is
ACCESS late (20 R493), and a fetch from another package that had no reply (14 R377) is so too. -/
def fetchHome (s : State) (core part pc : Nat) (err : Bool := false) : Fetch :=
  match xlate s part pc .x with
  | .miss => .wait s
  | .fault c l => .fault (walkedTake s part pc) c l false
  | .ok pte _ pa =>
    match homeWait s part pc pte pa false with
    | some w => if fetchDead (s.core core) pc then .fault s cACCESS 0 true else .wait w
    | none =>
      if err && needsDram s part pc pa then .fault (memErr (countReq (tlbTouch s part pc) part pc core 6) part pa) cACCESS 0 true
      else
      let (s, b) := homeRead (countReq (tlbTouch s part pc) part pc core 6) part pc pa (pteRemote s pte) 8 2
      let w := wordOfLe b
      .ok (s.onCore core (icFill part pc w)) w

/-- The bundle at an address: the copy in the instruction cache while it is there, which the spec leaves open (R106), else the
bytes at the home. -/
def fetch (s : State) (core part pc : Nat) (err : Bool := false) : Fetch :=
  match vaKind pc with
  | .translated =>
    match (s.core core).icache.find? (fun l => decide (l.part = part ∧ l.va = pc)) with
    | some l => if s.freeBit then .ok s.used l.bundle else fetchHome s.used core part pc err
    | none => fetchHome s core part pc err
  | _ => .fault s cACCESS 0 false

/-! ### The words of a bundle (R29-R32) -/

/-- A bundle with two assigned words: its stall count and the WARN bits that it earns before and at its issue. `done` are the registers
that its A-word has written already, where the C-word is executed again alone (07 R233). -/
structure Bundle where
  c : Instr
  a : Instr
  wait : Nat
  lone : Word
  rsv : Word
  done : List Reg := []
deriving DecidableEq, Repr

inductive Parsed where
  | ok (b : Bundle)
  | bad (aw : Bool) (w : BitVec 32) (lone : Word)
deriving DecidableEq, Repr

/-- The registers that the A-word of a bundle writes. -/
noncomputable def wroteA (w : BitVec 64) : List Reg :=
  if bitAt (bundleC w) 31 then [] else ((decodeA (bundleA w)).map fun y => y.instr.writes).getD []

/-- The two words of a bundle; with `conly` the C-word alone (07 Table 7.8), whose writes of what the A-word has written stay discarded
(Table 2.9, DUAL), and which warns of LONE, RSV and QUAL again (DESIGN CHOICE, log 106). -/
noncomputable def parse (conly : Bool) (w : BitVec 64) : Parsed :=
  let c := bundleC w
  let lone := if bitAt c 31 && decide (bundleA w ≠ 0) then wLONE else 0
  let a := if conly || bitAt c 31 then 0 else bundleA w
  match decodeC c with
  | none => .bad false c lone
  | some x =>
    match decodeA a with
    | none => .bad true a lone
    | some y => .ok { c := x.instr, a := y.instr, wait := max x.wait.toNat y.wait.toNat, lone := lone,
                      rsv := if x.rsv || y.rsv then wRSV else 0, done := if conly then wroteA w else [] }

def Bundle.reads (b : Bundle) : List Reg := b.c.reads ++ b.a.reads
def Bundle.writes (b : Bundle) : List Reg := b.c.writes ++ b.a.writes

/-- Registers that both words write (Table 2.9, DUAL); s0 discards both writes. -/
def Bundle.common (b : Bundle) : List Reg := b.c.writes.filter fun r => r ≠ .s 0 && (b.a.writes ++ b.done).contains r

/-! ### Waiting at issue (R33, R36, R38) -/

/-- The core tries again in the next cycle; `long` begins, or goes on with, the wait of 13 R334. -/
def waitTick (core : Nat) (long : Bool) (s : State) : State :=
  { s.onCore core fun k =>
      { k with nextIssue := s.now + 1, waitFrom := if long then k.waitFrom.orElse fun _ => some s.now else k.waitFrom } with phase := .whole }

/-- The bundle does not issue now. -/
def holdBundle (core : Nat) (s : State) : State := waitTick core false (stall s)

/-- Whether a register of the bundle has an interlocked write pending (R36). -/
def interlocked (a : Act) (b : Bundle) : Bool := (b.reads ++ b.writes).any fun r => a.pend.contains r

/-- Pacing of SFU forms (R38): cycles that are missing to a distance of 4. -/
def sfuShort (k : Core) (b : Bundle) : Nat :=
  if b.a.aOpc = some 0x19 then
    match k.sfuAt with
    | some d => 4 - (k.dist - d)
    | none => 0
  else 0

/-- The SFU's shortfall passes; it is credited to distances (R34). -/
def pace (core : Nat) (b : Bundle) (s : State) : State :=
  let n := sfuShort (s.core core) b
  { s.onCore core fun k => { k with dist := k.dist + n } with now := s.now + n }

/-! ### Fixed-latency results (R34-R39) -/

/-- The number and the file code of a register (R39). -/
def Reg.code : Reg → Nat × Nat
  | .s r => (r.toNat, 0)
  | .v r => (r.toNat, 1)
  | .k r => (r.toNat, 2)
  | .i r => (r.toNat, 3)
  | .x r => (r.toNat, 4)
  | .a r => (r.toNat, 5)

/-- Whether a result's distance is still below its latency. -/
def FixedPend.short (k : Core) (f : FixedPend) : Bool := decide (k.dist < f.due)

/-- The first short read among registers, with its shortfall. The spec does not say which one STALL_SHORT reports when a bundle has
several: the first operand of the C-word, else of the A-word, is the model's choice (log 80). -/
def shortRead (k : Core) (l : List Reg) : Option (Reg × Nat) :=
  l.findSome? fun r => (k.fixed.find? fun f => f.reg = r && f.short k).map fun f => (r, f.due - k.dist)

def shortTval (x : Reg × Nat) : Word := BitVec.ofNat 64 (x.1.code.1 + 2 ^ 8 * x.1.code.2 + 2 ^ 16 * x.2)

/-- Whether a bundle that is short of a result reads its new value all the same: a bundle before it has, or the latency has really
passed, or a free choice says so (R37, log 22). -/
def FixedPend.new (s : State) (f : FixedPend) : Bool := f.seen || decide (f.ready ≤ s.now) || !s.freeBit

/-- The registers as the bundle reads them: each short read is the old or the new value (R37); a register that the bundle also writes
has its new value, since the bundle has waited for it (R36). -/
def latchRegs (l : List Reg) : List FixedPend → State × Regs × List FixedPend → State × Regs × List FixedPend
  | [], x => x
  | f :: r, (s, g, t) =>
    if l.contains f.reg then
      latchRegs l r (s.used, if f.new s then g else g.put f.reg f.old, t ++ [{ f with seen := f.new s }])
    else latchRegs l r (s, g, t ++ [f])

/-- What the bundle finds at issue: operands, and the state that commit points of the bundle itself return to. -/
def latchAct (g : Regs) (w : BitVec 64) (a : Act) : Act :=
  { a with latch := g, latchFlags := a.flags, aFlags := 0, prior := a.regs, priorAllow := a.allow, bundle := w, seq := a.seq + 1,
           npc := a.pc + 8, taken := false, waitFor := none }

/-- Reads the operands. A register that the bundle writes has taken every earlier write by now (R36). -/
def latchBundle (core : Nat) (w : BitVec 64) (b : Bundle) (s : State) : State :=
  let k := s.core core
  let regs := ((k.running.map (·.2)).getD Act.zero).regs
  let (s, g, l) := latchRegs b.reads (k.fixed.filter fun f => f.short k && !b.writes.contains f.reg) (s, regs, [])
  s.onCore core fun k => { k.onRun (latchAct g w) with earned := 0, fixed := l }

/-! ### Executing both words (R32, R51) -/

/-- Whether a word traps or waits at issue. -/
def dryRun (i : Instr) (s : State) : Verdict :=
  match exec i { s with phase := .dry, verdict := .acts } with
  | .next t => t.verdict
  | _ => .acts

/-- Notes a word's fixed-latency results, but for discarded ones (R35, R51). -/
def noteFixed (core : Nat) (i : Instr) (skip : List Reg) (s : State) : State :=
  match i.latency with
  | none => s
  | some n =>
    s.onCore core fun k =>
      match k.running with
      | none => k
      | some (_, a) =>
        { k with fixed := k.fixed ++ ((i.writes.filter fun r => r ≠ .s 0 && !skip.contains r).map fun r =>
            { reg := r, due := k.dist + n, old := a.prior.get r, ready := s.now + n }) }

/-- ALLOW counts bundles of user mode that issue (17 R443). -/
def countAllow (a : Act) : Act := if a.mode = 0 ∧ a.allow ≠ 0 then { a with allow := a.allow - 1 } else a

/-- The state in which the A-word executes: what it adds to FLAGS is gathered apart. -/
def aloneA (s : State) : State := { s.onMe fun a => { a with flags := 0 } with phase := .go }

/-- Between the A-word and the C-word, from `s` before the A-word to `t` after it. The C-word comes first in what each adds to FLAGS
and WARN (R32): the A-word's flags stand beside, and its warnings come after the C-word. LONE and RSV of the bundle, either word's, are
set before the C-word executes, so that its `mfc` or `mtc` of WARN finds them (DESIGN CHOICE: R43 and R128 leave the moment open, log 19).
ALLOW has been decremented before the C-word
reads it (DESIGN CHOICE, log 91). -/
def midBundle (core : Nat) (b : Bundle) (s t : State) : State :=
  let f := t.me.flags
  let old := s.me.flags
  let c := s.core core
  (noteFixed core b.a [] (t.onCore core fun k =>
    { k.onRun (fun a => countAllow { a with flags := old ||| f, aFlags := f }) with
      sfuAt := if b.a.aOpc = some 0x19 then some k.dist else k.sfuAt
      warn := c.warn, warnpc := c.warnpc, earned := c.earned })).warn (b.lone ||| b.rsv)

/-- The A-word's warnings. -/
def warnA (core : Nat) (a : Act) (t s : State) : State := s.onCore core fun k => warnCore k (t.core core).earned a.pc

/-! ### A register that both words write (Table 2.9) -/

/-- An access whose register write is discarded. -/
def voidKind (l : List Reg) : AccKind → AccKind
  | .atom op ty n v w d => .atom op ty n v w (if l.contains (.s d) then 0 else d)
  | .claim x d => .claim x (if l.contains (.s d) then 0 else d)
  | .arrive u n d b => .arrive u n (if l.contains (.s d) then 0 else d) b
  | .potRead d => .potRead (if l.contains (.s d) then 0 else d)
  | .potStat h x d => .potStat h x (if l.contains (.s d) then 0 else d)
  | .gangStat r p x e d => .gangStat r p x e (if l.contains (.s d) then 0 else d)
  | k => k

def voidAccess (l : List Reg) (x : Access) : Access :=
  { x with kind := voidKind l x.kind
           dual := match x.kind, x.dst with
             | .load .., some r => l.contains r
             | _, _ => false }

/-- A wait whose result is discarded. -/
def voidPark (l : List Reg) : Park → Park
  | .waitAny sl t f d => .waitAny sl t f (if l.contains (.s d) then 0 else d)
  | .barrier u p d r => .barrier u p (if l.contains (.s d) then 0 else d) r
  | .qdOpen r d => .qdOpen r (if l.contains (.s d) then 0 else d)
  | .qdExit r d => .qdExit r (if l.contains (.s d) then 0 else d)
  | .fabWait q t f d => .fabWait q t f (if l.contains (.s d) then 0 else d)
  | .round (some d) b => .round (some (if l.contains (.s d) then 0 else d)) b
  | p => p

def voidSwap (l : List Reg) (act : Nat) (w : Swap) : Swap :=
  match w.core with
  | some (i, d) => if i = act ∧ l.contains (.s d) then { w with core := some (i, 0) } else w
  | none => w

/-- Registers of a list as the A-word left them. -/
def keepA (l : List Reg) (from_ g : Regs) : Regs := l.foldl (fun g r => g.put r (from_.get r)) g

/-- The C-word's write of the common registers is discarded: `was` is the activation after the A-word. -/
def voidAct (l : List Reg) (was a : Act) : Act :=
  let waits := fun (p : List Reg) => p.filter fun r => !l.contains r || was.pend.contains r
  { a with
    regs := keepA l was.regs a.regs
    pend := waits a.pend
    park := voidPark l a.park
    snap := if a.snap ≠ was.snap ∧ a.snap.pc ≠ was.pc then
        { a.snap with regs := keepA l was.regs a.snap.regs, pend := waits a.snap.pend }
      else a.snap }

/-- Discards the C-word's writes of registers that the A-word also writes, and warns (R51). -/
def dualFix (core : Nat) (b : Bundle) (was : Act) (s : State) : State :=
  if b.common.isEmpty then s
  else
    let s := (s.onActAll was.id (voidAct b.common was)).onCore core fun k =>
      { k with accs := k.accs.map fun x => if x.act = was.id ∧ x.seq = was.seq then voidAccess b.common x else x }
    { s with swaps := s.swaps.map (voidSwap b.common was.id) }.onCore core fun k => warnCore k wDUAL was.pc

/-! ### The undo log (07 R228) -/

/-- Whether a word sets flags when its result lands. -/
def landsFlags : Instr → Bool
  | .ldGW4 .. | .ldGE4 .. => true
  | _ => false

/-- What a bundle writes that the undo log records: old values as the bundle found them in `a`, new ones in `t`. -/
def undoItems (b : Bundle) (a t : Act) : List UndoItem :=
  let regs := (b.writes.filter fun r => match r with
    | .s d => d ≠ 0
    | .v _ | .k _ | .i _ => true
    | _ => false).eraseDups
  regs.map (fun r => .reg r (a.regs.get r)) ++ (if t.flags ≠ a.flags || landsFlags b.c then [.flags a.flags] else []) ++
    (if t.nest ≠ a.nest then [.nest a.nest] else [])

/-- Entries of the undo log that are in use; STATUS rides along. -/
def undoUsed (k : Core) : Nat := (k.undo.filter fun u => match u.item with
  | .status _ => false
  | _ => true).length

/-- The undo entries of a bundle; none when they do not fit in the 16. -/
def noteUndo (core : Nat) (b : Bundle) (a : Act) (open_ : Bool) (s : State) : Option State :=
  if !open_ then some s
  else
    match (s.core core).running with
    | none => some s
    | some (_, t) =>
      let l := undoItems b a t
      if 16 < undoUsed (s.core core) + l.length then none
      else some (s.onCore core fun k =>
        { k with undo := k.undo ++ (l ++ (if t.status ≠ a.status then [UndoItem.status a.status] else [])).map (Undo.mk t.seq) })

/-! ### The end of a bundle (R33, R34, R141) -/

/-- The step TRAP that an activation owes after a bundle. -/
def stepOwed (stepOn : Bool) (mode : Nat) (a : Act) : Act := { a with stepDue := a.stepDue || (stepOn && decide (mode = 0 ∧ a.mode = 0)) }

/-- The activation after a bundle: its pc, and the step TRAP that it owes. -/
def endAct_ (stepOn : Bool) (mode : Nat) (a : Act) : Act :=
  { a with pc := if a.park = .running then a.npc else a.pc, conly := false, barWait := none,
           stepDue := a.stepDue || (stepOn && decide (mode = 0 ∧ a.mode = 0)) }

/-- Time, distance and INSTRET after a bundle whose words took effect (one that traps at issue does not count in INSTRET: DESIGN CHOICE,
log 111): `a` is its activation at issue. One that has left for another core owes its step TRAP
there (R141). -/
def closeBundle (core : Nat) (b : Bundle) (a : Act) (s : State) : State :=
  let step := bitAt (s.core core).cctl 1
  let taken := match s.findAct a.id with
    | some t => t.taken
    | none => false
  let n := 1 + b.wait + (if taken then 1 else 0)
  let s := s.onCore core fun k =>
    { k with
      acts := fmapVals (fun _ t => if t.id = a.id then endAct_ step a.mode t else t) k.acts
      accs := if k.earned = 0 then k.accs
              else k.accs.map fun x => if x.act = a.id ∧ x.seq = a.seq then { x with warned := true } else x
      instret := k.instret + 1, dist := k.dist + n, waitFrom := none, lastIssue := s.now, nextIssue := s.now + n }
  { s with phase := .whole,
           msgs := s.msgs.map fun m => { m with act := m.act.map fun t => if t.id = a.id then stepOwed step a.mode t else t } }

/-- Both words take effect. The A-word's results are there when the C-word executes, so that a commit point of the C-word holds them;
neither word sees a result of the other (R32). Where the undo log has no room the bundle waits (07 R229). -/
def goBundle (core : Nat) (b : Bundle) (s : State) : Out :=
  let a := s.me
  andThen (exec b.a (aloneA s)) fun sa =>
    let m := midBundle core b s sa
    let was := m.me
    andThen (exec b.c { m with phase := .go }) fun t =>
      let t := noteFixed core b.c b.common (dualFix core b was (warnA core a sa t))
      match noteUndo core b a (unconfirmed (s.core core) a.id) t with
      | none => .next (holdBundle core s)
      | some t => .next (closeBundle core b a t)

/-- A word of the bundle traps at issue; neither word takes effect. Later bundles' traps wait until earlier accesses are
confirmed (07 R229). INSTRET does not count it (DESIGN CHOICE, log 111). -/
def trapBundle (core : Nat) (i : Instr) (lone : Word) (s : State) : Out :=
  if unconfirmed s.cc s.me.id then .next (holdBundle core s)
  else
    andThen (exec i ((s.warn lone).onMe fun a => { a with conly := false })) fun s =>
      .next { s.onCore core fun k => { k with nextIssue := s.now + 1, waitFrom := none } with phase := .whole }

/-- A word of the bundle waits at issue; a wait for a tile, an engine entry, a queue slot or a barrier counts towards parking. -/
def waitBundle (core : Nat) (i : Instr) (s : State) : Out :=
  andThen (exec i s) fun t => .next (waitTick core ((t.findAct s.me.id).any fun a => a.waitFor.isSome) t)

/-- STALL_SHORT (R39). -/
def shortTrap (core : Nat) (b : Bundle) (aw : Bool) (x : Reg × Nat) (s : State) : State :=
  if unconfirmed s.cc s.me.id then holdBundle core s
  else waitTick core false (trapMe ((s.onMe fun a => { a with conly := false }).warn b.lone)
    (issueTrapAt s cSTALL aw (shortTval x)))

/-- A bundle with two assigned words: it waits, traps or issues (R32). The fabric's slot and guard are up to date when it issues, after
the SFU's shortfall has passed (14 R390). -/
def issueWords (core : Nat) (w : BitVec 64) (b : Bundle) (s : State) : Out :=
  if interlocked s.me b then .next (holdBundle core s)
  else if fabricDue s (pace core b s).now then .next { (pace core b s).onCore core fun k => { k with nextIssue := (pace core b s).now } with phase := .whole }
  else
    let s := pace core b s
    let k := s.core core
    match (if bitAt k.cctl 0 then shortRead k b.reads else none) with
    | some x => .next (shortTrap core b (shortRead k b.c.reads).isNone x { s.onCore core fun k => { k with earned := 0 } with phase := .whole })
    | none =>
      let s := latchBundle core w b s
      match dryRun b.c s, dryRun b.a s with
      | .traps, _ => trapBundle core b.c b.lone s
      | _, .traps => trapBundle core b.a b.lone s
      | .waits, _ => waitBundle core b.c s
      | _, .waits => waitBundle core b.a s
      | .acts, .acts => goBundle core b s

/-- The bundle that was fetched (R32). -/
noncomputable def issueBits (core : Nat) (w : BitVec 64) (s : State) : Out :=
  match parse s.me.conly w with
  | .ok b => issueWords core w b s
  | .bad aw x lone => trapBundle core (.unassignedWord aw x) lone (s.onCore core fun k => { k with earned := 0 })

/-- A fetch that faults (R107): EPC and TVAL hold the bundle's address; a PAGE of user mode is an upcall (07 R231). -/
def fetchFault (s : State) (core x cause level : Nat) (late : Bool) : State :=
  let a := s.me
  let t : Trap := { code := cause, late := late, aw := false, epc := a.pc, tval := BitVec.ofNat 64 a.pc }
  if unconfirmed s.cc a.id then holdBundle core s
  else if cause = cPAGE ∧ a.mode = 0 then
    if bitAt s.cc.uvec 0 then
      match commitWait s core with
      | some s => holdBundle core s
      | none => pagePark s core x a.pc 2 level false
    else faultDomain s core x t.fault
  else waitTick core false (trapEntry (s.onCore core fun k => { k with ftoFetch := none }) core x t)

/-- Whether a core's running activation may issue: it owes no step TRAP or FLAGS write, no `mx.sync` holds it (06 R190), it does
not have to go to its round barrier (17 R443), gives way to no entry (13 R333), has not waited 256 cycles (13 R334) or let its watchdog
expire (13 R343), meets no detected error (13 R342), drains for no late fault (07 R231), is not being halted for a swap (20 R471), and finds the fabric's slot and guard up to date (14 R390). -/
def mayIssue (s : State) (core : Nat) (a : Act) : Bool :=
  decide (a.park = .running) && !a.stepDue && a.flagsWr.isNone && !(s.core core).mxq.any (fun r => decide (r.id < a.mxHold)) &&
    !mustBarrier s core a && !preemptDue s core a && !parkDue s core && !watchdogDue s core && !((s.core core).errDue.isSome && !(s.core core).draining) &&
    !((s.core core).draining && (lateOf (s.core core)).isSome) &&
    (!(s.core core).swapping || decide (a.mode = 2)) && !fabricDue s (max s.now (s.core core).nextIssue)

/-- A core issues its next bundle, in the first cycle that R33 allows. -/
noncomputable def issueBundle (core : Nat) (s : State) (err : Bool := false) : Out :=
  if !corePresent s core then .fault (.coreAbsent core)
  else
    let s := { s with cur := core, phase := .whole, owed := [] }
    match (s.core core).running with
    | none => .next s
    | some (x, a) =>
      if a.stepDue then .next (stepTrapAt s core)
      else if !mayIssue s core a then .next s
      else
        match fetch { s with now := max s.now (s.core core).nextIssue } core a.part a.pc err with
        | .wait s => .next (holdBundle core s)
        | .fault s c l late => .next (fetchFault s core x c l late)
        | .ok s w => issueBits core w s

end Sys2Proof.Machine
end

