-- ==== Sys2Proof/Machine/Moves.lean ====
section
/-! DEFINITION. Which moves the package may make on its own, and how one move is made (log 1): bundles of cores, and the
events that carry on what has been started. -/

namespace Sys2Proof.Machine

/-! ### Moves that may be open -/

/-- What an outstanding access may do next. -/
noncomputable def accessMoves (core : Nat) (x : Access) : List Instr :=
  if x.kind.toMemory && isQuad x.va then [.windowAccess x.id, .atomicReply core x.id]
  else
    match x.kind with
    | .load .. | .ldw _ => [.loadPerform core x.id false]
    | .probe .. => [.accessConfirm core x.id]
    | .atom .. => [.atomicPerform x.id false, .atomicReply core x.id, .nearOwnershipGrant core ⟨x.id, false⟩]
    | .claim .. => [.atomicPerform x.id false, .atomicReply core x.id]
    | .arrive .. => [.barrierArrival core x.id]
    | .potRead _ => [.potReadPerform x.id]
    | .potStat .. => [.potReadPerform x.id, .remoteRequestTimeout x.id]
    | .gangStat .. => [.windowAccess x.id]
    | .arm _ => []

/-- What an activation in a context may do next. -/
noncomputable def actMoves (core ctx : Nat) (a : Act) : List Instr :=
  let copy : List Instr := if a.mxPlaced then [] else [.mxStateCopy core ctx]
  match a.park with
  | .page .. => .pageUpcall core ctx :: copy
  | .waitAny sl _ _ _ =>
    .activationWake core ctx :: .waitAnyTimeout core ctx :: ((List.range sl.length).map (Instr.watchArm core ctx)).append copy
  | .fabWait .. => .activationWake core ctx :: .fabWaitTimeout core ctx :: copy
  | .issue => .activationWake core ctx :: copy
  | _ => copy

/-- What a running copy command may do next. -/
noncomputable def cpMoves (n core id : Nat) : List Instr := [.cpComplete core id false, .cpCancelStop core id (n % 4097)]

/-- What a core's parts may do next, beside its next bundle. -/
noncomputable def coreMoves (n : Nat) (core : Nat) (k : Core) : List Instr :=
  List.flatten [
    [.dispatch core, .preemption core, .issueWaitPark core, .runQueueReport core, .allowanceExhausted core, .retryRestart core false,
     .cpStart ⟨core, false⟩, .lateFault core, .flagsWrite core, .watchdogExpiry core],
    (if k.errDue.isSome && !k.draining then [.detectedError core] else []),
    k.acts.flatMap fun x => actMoves core x.1 x.2, k.accs.flatMap (accessMoves core),
    (if k.mxq.isEmpty then [] else (List.range 3).map (Instr.mxRequestStart (clusterOf core))), k.mxq.map fun r => Instr.mxRequestComplete core r.id,
    (k.cps.filter fun x => x.2.st = .running).flatMap fun x => cpMoves n core x.1,
    (List.range k.queue.length).map (Instr.priorityAgeing core)]

/-- What a drained effect may do next. -/
noncomputable def flightMoves (f : Flight) : List Instr :=
  match f.op with
  | .store _ va _ _ _ => if isQuad va then [.windowAccess f.id] else [.storePerform f.id]
  | .red va .. => if isQuad va then [.windowAccess f.id] else [.atomicPerform f.id false, .nearOwnershipGrant f.core ⟨f.id, false⟩]
  | .clean .. => [.cleanPerform f.id]
  | .tile .. | .barFree _ => [.storePerform f.id]
  | .msg .. => [.messageRelease f.id]
  | .launch .. => [.launchPerform f.id]
  | .kill _ => [.regionKillPerform f.id]
  | .trig => [.launchTrigger f.id]
  | .liveDec rcb => [.atomicPerform f.id false, .regionComplete f.part rcb]
  | .post .. | .potClose _ | .potReset .. | .potSeal _ | .potExp .. => [.potPostPerform f.id]
  | .cp _ | .ast .. => []

/-- What a slice may do next. -/
noncomputable def sliceMoves (h : Nat) (g : Slice) : List Instr :=
  (g.samples.map fun x => Instr.hotnessSample h x.1).append
    (g.lines.flatMap fun x => (x.2.filter fun y => y.2.owner.isSome).map fun y => Instr.nearRecall y.2.part (y.2.tag * 32))

/-- What a link may do next. -/
noncomputable def linkMoves (l : Nat) : List Instr :=
  .flitBoundary l :: .linkRetrainEnd l :: .leakyBucketDecay l :: (List.range 8).map (Instr.laneRetrainEnd l)

/-- What a cluster may do next. -/
noncomputable def clusterMoves (cl : Nat) (c : Cluster) : List Instr :=
  (c.tiles.filter fun t => t.2.refill).map fun t => Instr.tileRefill cl t.1

/-- What an edge die may do next. -/
noncomputable def edgeMoves (e : Nat) (g : Edge) : List Instr := .eventRingRoom e :: g.merge.map fun m => Instr.dramBurst e m.1

/-- What a message on its way may do next. -/
noncomputable def msgMoves (m : Msg) : List Instr := [.messageLand m.id, .messageRetry m.id]

/-- What a pot read may do next. -/
noncomputable def potMoves (r : PotRd) : List Instr :=
  [.potReadPerform r.id, .potReadLimit r.id, .potReadResend r.id, .potReadReply r.id, .remoteRequestTimeout r.id]

/-- What a reel may do next. -/
noncomputable def reelMoves (r : Reel) : List Instr := [.roundTimeout r.id, .roundEnd r.id]

/-- What an arrival from another package may do next. -/
noncomputable def inboxMoves (x : Inbound) : List Instr :=
  [.proxyLineReply x.id, .homeRemoteRequest x.id, .homeInvalidate x.id, .potPostPerform x.id, .postTrainTimeout x.id]

/-- Every event that may be open; one that is not leaves the state as it is. -/
noncomputable def openEvents (n : Nat) (s : State) : List Instr :=
  List.flatten [
    s.cores.flatMap fun x => coreMoves n x.1 x.2, s.clusters.flatMap fun x => clusterMoves x.1 x.2,
    s.dies.map fun x => Instr.governorWindow x.1, s.slices.flatMap fun x => sliceMoves x.1 x.2,
    s.edges.flatMap fun x => edgeMoves x.1 x.2, s.links.flatMap fun x => linkMoves x.1, s.flights.flatMap flightMoves,
    s.msgs.flatMap msgMoves, s.potReads.flatMap potMoves, s.quads.map fun q => Instr.qdAdmission q.id, s.reels.flatMap reelMoves,
    s.inbox.flatMap inboxMoves, s.rreqs.map fun r => Instr.remoteRequestTimeout r.id,
    s.cleans.map fun c => Instr.remoteRequestTimeout c.id, s.asks.map fun a => Instr.remoteRequestTimeout a.id, s.posts.map fun x => Instr.postTrainTimeout x.1,
    (wanted s).map fun x => Instr.pageWalk (homeOf s x.2) x.1 x.2 false, s.swaps.map fun w => Instr.swapRestoreDone w.p w.q,
    [.fabricSlotStart, .guardEnd]]

/-- Bundles that may issue. -/
def openIssues (s : State) : List Move :=
  (s.cores.filter fun x => x.2.run.isSome && corePresent s x.1).map fun x => .issue x.1

/-- Every move that the package may make on its own. -/
noncomputable def openMoves (n : Nat) (s : State) : List Move := openIssues s ++ (openEvents n s).map Move.event

/-! ### Making a move -/

/-- The command of the host processor that an event is: what the host sends over its path (20 R486). Trivet takes one at a time (20 R487). -/
def hostReqOf : Instr → Option HostReq
  | .hello h | .bootrpt h | .pcreate h | .pswap h | .pkill h | .pset h | .tlbinv h | .launch h | .rkill h | .plimit h
  | .evring h | .fabset h | .linkrst h | .attest h | .copy h | .netxfer h | .hostBadcmd _ h => some h
  | _ => none

def isHostCmd (i : Instr) : Bool := (hostReqOf i).isSome

def moveReq : Move → Option HostReq
  | .event i => hostReqOf i
  | _ => none

/-- Whether a move is a command that reached ED 0 in a given cycle. -/
def atEd0 (cycle : Nat) (m : Move) : Bool :=
  match moveReq m with
  | some h => decide (h.ed = 0 ∧ h.cycle = cycle)
  | none => false

/-- The agenda with the command that Trivet takes next in front: of two that arrive in the same cycle, ED 0's (R488). -/
def hostOrder : List Move → List Move
  | [] => []
  | m :: rest =>
    match moveReq m with
    | some h =>
      if h.ed = 0 then m :: rest
      else
        match rest.find? (atEd0 h.cycle) with
        | some x => x :: m :: rest.erase x
        | none => m :: rest
    | none => m :: rest

/-- Whether a constructor is a word of a bundle, which only a bundle executes. -/
def isBundleWord : Instr → Bool
  | .unassignedWord .. => true
  | i => i.isWord

/-- Host commands that wait for a swap or a kill that a core has asked for (log 49). -/
def isSwapCmd : Instr → Bool
  | .pswap _ | .pkill _ => true
  | _ => false

/-- Whether a move of the agenda has to wait for the command before it, or for a swap. -/
def moveWaits (s : State) : Move → Bool
  | .event i => isHostCmd i && hostBusy s || isSwapCmd i && !s.swaps.isEmpty
  | _ => false

/-- Makes one move: a core's next bundle, the launch of an image, or an event. -/
noncomputable def runMove (m : Move) (s : State) : Out :=
  match m with
  | .issue core => issueBundle core s
  | .issueErr core => issueBundle core s true
  | .image core img => .next (imageLaunch core img { s with owed := [] })
  | .event i => if isBundleWord i then .next s else exec i { s with phase := .whole, owed := [] }

/-- Blocks that a move would have written itself while other packages hold copies of them (14 R376). -/
def owedOf (o : Out) : List (Nat × Nat) :=
  match o with
  | .next t => t.owed
  | _ => []

/-- A move that the spec leaves open: one of those that may be open, or a cycle in which nothing moves. One that has to wait for
another package's copies of what it writes has only had them recalled. -/
noncomputable def freeMove (s : State) : Out :=
  let l := openMoves (Config.freeNat (s.free + 1)) s
  let n := s.freeNat % (l.length + 1)
  let s := { s with free := s.free + 2 }
  match l[n]? with
  | some m =>
    let o := runMove m s
    if (owedOf o).isEmpty then o else .next (askOwed s (owedOf o))
  | none => .next { s with now := s.now + 1 }

/-- What a step makes of a move of the agenda: the move, or the recall of other packages' copies, after which a command of the host is
tried again, before later ones, and everything else is open as before. -/
noncomputable def settleMove (m : Move) (rest : List Move) (s : State) (o : Out) : Out :=
  if (owedOf o).isEmpty then o
  else
    let s := askOwed s (owedOf o)
    if (moveReq m).isNone then .next s
    else
      let front := rest.takeWhile fun x => (moveReq x).isNone
      let back := rest.dropWhile fun x => (moveReq x).isNone
      if front.isEmpty then freeMove { s with agenda := m :: rest } else .next { s with agenda := front ++ m :: back }

end Sys2Proof.Machine
end

