-- ==== Sys2Proof/Machine/Step.lean ====
section
/-! DEFINITION. One step of the package: the first move of its agenda, or, with none that can be made, a move that the spec
leaves open (log 1). -/

namespace Sys2Proof.Machine

noncomputable def step (s : State) : Host.Outcome State Fault Refusal :=
  match hostOrder s.agenda with
  | m :: rest => 
    if moveWaits s m then freeMove s
    else settleMove m rest { s with agenda := rest } (runMove m { s with agenda := rest })
  | [] => freeMove s

/-! ### Placing one instruction where core 0 fetches next (log 5) -/

/-- The package booted, with compute die 0 and edge die 0. -/
def placeBoot (s : State) : State := { s with booted := true, cds := s.cds ||| 1, eds := s.eds ||| 1 }

/-- The activation that runs on core 0: the one that does, else one in system mode at address 0. -/
def placeAct (k : Core) : Act :=
  let a := (k.running.map (·.2)).getD { Act.zero with status := 2 }
  { a with part := 0, pc := a.pc % 2 ^ 48, park := .running, pend := [], flagsWr := none, stepDue := false, mxHold := 0, conly := false, barWait := none }

/-- Core 0 of partition 0, with nothing that it waits for. -/
def placeCore (now : Nat) (k : Core) : Core :=
  let ctx := k.run.getD 0
  { k with part := some 0, halted := false, swapping := false, acts := fset k.acts ctx (placeAct k), run := some ctx, icache := [],
           accs := [], fixed := [], waitFrom := none, lastIssue := now, errDue := none, draining := false }

/-- The leaf entry that maps the page of an address to physical page 0 with every permission. -/
def placeLeaf (va : Nat) : TlbEnt := { part := 0, level := 0, page := va / 2 ^ 16, pte := 0x1F }

/-- The home slice translates the address, and holds no copy of its line. -/
def placeSlice (va : Nat) (g : Slice) : Slice :=
  { g with tlb := placeLeaf va :: g.tlb, lines := ferase g.lines (lineSet va), peers := [], blocks := [] }

/-- A state whose next step runs one instruction of the opcode table on core 0. -/
noncomputable def State.withFetchWord (s : State) (_nbits w : Nat) : State :=
  let s := placeBoot s
  let s := (s.onCore 0 (placeCore s.now)).onPart 0 fun p => { p with st := 2, gran := p.gran ||| 1 }
  let va := ((((s.core 0).running).map (·.2)).getD Act.zero).pc
  let s := s.onSlice (homeOf s va) (placeSlice va)
  { s with agenda := [.issue 0], phase := .whole, reels := [],
           dram := mwrite s.dram (va % 2 ^ 16) (leBytes 8 (tableBundle w).toNat) }

end Sys2Proof.Machine
end

