-- ==== Sys2Proof/Safety.lean ====
section
/-! DEFINITION. What counts as a safe step and a sound state: a step goes on when it answers a next state; a state is sound when
every memory that it holds is in canonical form and every hardware copy stays what boot found (20 R489). -/

namespace Sys2Proof.Machine

/-- The step goes on: it neither faults nor is refused. -/
def GoesOn (o : Out) : Prop := ∃ t, o = .next t

/-- The memories of a core: local store and shadow bank. -/
def Core.wf (k : Core) : Bool := k.ls.wf && k.shadow.wf

/-- The memories that a swapped-out partition keeps (20 R472, R473). -/
def Part.wf (p : Part) : Bool := (p.cores.all fun x => x.2.wf) && p.clusters.all fun x => x.2.spad.wf

/-- Every memory of the package is in canonical form. -/
def State.wf (s : State) : Bool :=
  s.dram.wf && s.host.wf && (s.cores.all fun x => x.2.wf) && (s.clusters.all fun x => x.2.spad.wf) && s.parts.all fun x => x.2.wf

/-- What power-on finds and nothing later changes (20 R489, R491): the package's number and domain, the dies that are present, the
cycle in which it left boot, the measurements and the boot ROM's release. -/
structure BootFacts where
  pkg : Nat
  domain : Nat
  cds : BitVec 16
  eds : BitVec 8
  bootAt : Nat
  measures : List (BitVec 256)
  release : BitVec 8
deriving DecidableEq, Repr

def State.bootFacts (s : State) : BootFacts :=
  { pkg := s.pkg, domain := s.domain, cds := s.cds, eds := s.eds, bootAt := s.bootAt, measures := s.measures, release := s.release }

/-! ### What an instruction changes -/

/-- A byte of one of the package's memories. -/
inductive Place where
  | ls (core off : Nat)
  | shadow (core off : Nat)
  | spad (cluster off : Nat)
  | dram (pa : Nat)
  | host (pa : Nat)
deriving DecidableEq, Repr

/-- The model's read of one byte. -/
def State.byte (s : State) : Place → Byte
  | .ls c a => mget (s.core c).ls a
  | .shadow c a => mget (s.core c).shadow a
  | .spad c a => mget (s.cluster c).spad a
  | .dram a => mget s.dram a
  | .host a => mget s.host a

/-- Every byte of memory reads as before. -/
def SameBytes (s t : State) : Prop := ∀ p, t.byte p = s.byte p

/-- The state with its running activation blotted out: all that an instruction which changes only that activation leaves. -/
def State.sansMe (s : State) : State := s.onMe fun _ => Act.zero

/-- The state with its current core blotted out. -/
def State.sansCC (s : State) : State := s.onCC fun _ => Core.reset

/-- The instruction goes on to a state whose running activation is `a` and which is otherwise `u`, every byte of memory included. -/
def AnswersOver (i : Instr) (s u : State) (a : Act) : Prop :=
  ∃ t, exec i s = .next t ∧ t.me = a ∧ t.sansMe = u.sansMe ∧ SameBytes u t

/-- The instruction goes on, changes the running activation to `a`, and leaves everything else, every byte of memory included. -/
def Answers (i : Instr) (s : State) (a : Act) : Prop := AnswersOver i s s a

/-- The instruction goes on, changes the current core to `k`, leaves everything else as in `u`, and changes no byte of memory. -/
def AnswersCore (i : Instr) (s u : State) (k : Core) : Prop :=
  ∃ t, exec i s = .next t ∧ t.cc = k ∧ t.sansCC = u.sansCC ∧ SameBytes s t

/-- The running activation with a value in register sD; a value for s0 is discarded (Table 2.12). -/
def State.withS (s : State) (d : SReg) (v : Word) : Act := { s.me with regs := s.me.regs.setS d v }

/-- Also with flags added to FLAGS (03 R90). -/
def State.withSF (s : State) (d : SReg) (v f : Word) : Act := { s.withS d v with flags := s.me.flags ||| f }

/-- The running activation with a value in register vD. -/
def State.withV (s : State) (d : VReg) (v : BitVec 128) : Act := { s.me with regs := s.me.regs.setV d v }

/-- Also with flags added to FLAGS. -/
def State.withVF (s : State) (d : VReg) (v : BitVec 128) (f : Word) : Act := { s.withV d v with flags := s.me.flags ||| f }

/-- The running activation with a value in mask register kD. -/
def State.withK (s : State) (d : KReg) (v : BitVec 16) : Act := { s.me with regs := s.me.regs.setK d v }

/-- The instruction writes lanes of width w of vD: lane j becomes `f j` where the mask makes it active, else it keeps its value; all
else is as in `u`. -/
def WritesLanes (i : Instr) (s u : State) (d : VReg) (m : BitVec 3) (w : Nat) (f : Nat → BitVec w) : Prop :=
  ∃ v, AnswersOver i s u (s.withV d v) ∧
    ∀ j, j < 128 / w → lane v w j = if s.active m j then f j else lane (s.rv d) w j

/-- The same with the flags that the active lanes' results set (05 R146). -/
def WritesLanesF (i : Instr) (s u : State) (d : VReg) (m : BitVec 3) (w : Nat) (f : Nat → Flagged Nat) : Prop :=
  ∃ v fl, AnswersOver i s u (s.withVF d v fl) ∧
    (∀ j, j < 128 / w → lane v w j = if s.active m j then BitVec.ofNat w (f j).val else lane (s.rv d) w j) ∧
    ∀ b, fl.getLsbD b = (List.range (128 / w)).any fun j => s.active m j && (f j).flags.getLsbD b

/-! ### Arithmetic in the terms of the spec -/

/-- The nearest value of the signed w-bit range (03 R76). -/
def nearestS (w : Nat) (x : Int) : Int := max (-2 ^ (w - 1)) (min x (2 ^ (w - 1) - 1))

/-- The nearest value of the unsigned w-bit range (03 R76). -/
def nearestU (w : Nat) (x : Int) : Int := max 0 (min x (2 ^ w - 1))

/-- FLAGS.SAT where a saturated value differs from the exact one (03 R76). -/
def satFlag (exact given : Int) : Word := if exact = given then 0 else fSAT

/-! ### What an instruction leaves on its way -/

/-- The request that the current bundle makes, the next by number. -/
def State.request (s : State) (kind : AccKind) (va size : Nat) (acq rel : Bool) (hint : Nat) (before : Option Snap) : Access :=
  { id := s.fresh, act := s.me.id, seq := s.me.seq, pc := s.pc, kind := kind, va := va, size := size, acq := acq, rel := rel,
    hint := hint, e4 := s.e4, dual := false, st := .pending, before := before, prog := s.me.prog }

/-- The state once a request to memory, or to a local port, has its number; a request does not see what an earlier one's walk found. -/
def State.asked (s : State) (memory : Bool) (va : Nat) : State := (if memory then walkedTake s s.me.part va else s).used1

/-- The core with one more request under way. -/
def Core.withRequest (k : Core) (x : Access) : Core := { k with accs := k.accs ++ [x] }

/-- The core whose running activation waits for a register's result (02 R36); s0 waits for none. -/
def Core.awaiting (k : Core) (r : Reg) : Core :=
  if r = .s 0 then k else k.onRun fun a => { a with pend := r :: a.pend.filter (· ≠ r) }

/-- The core with one more entry of the current bundle in its retire buffer, of a size in bytes (07 R208). -/
def Core.buffering (k : Core) (a : Act) (size : Nat) (op : RbOp) : Core :=
  { k with rb := k.rb ++ [{ seq := a.seq, size := (size + 7) / 8 * 8, op := op, pc := a.pc }] }

/-- Whether a buffer entry of a size in bytes fits (07 R208). -/
def State.hasRoom (s : State) (size : Nat) : Prop := (s.cc.rb.map (·.size)).sum + (size + 7) / 8 * 8 ≤ 16384

end Sys2Proof.Machine
end

