-- ==== Sys2Proof/Certificates/Slice0/Obligations.lean ====
section
/-! DEFINITION. The statements for the provers, each from the rules of the spec that its docstring names. -/

open Sys2Proof Sys2Proof.Machine in
/-- 04 R111, R112, R114, R117 (Tables 4.2 and 4.4): sums, differences, products, least and greatest values. Each instruction goes on, writes sD with
the result that its row gives, sets FLAGS.SAT where a saturated result differs from the exact one, and leaves every other register, every other
piece of state and every byte of memory. A result for s0 is discarded by `setS`. -/
def Obligations.ScalarArithmetic : Prop :=
  ∀ (s : State) (d a b : SReg) (imm : BitVec 9), s.live = true →
    let x := s.rs a
    let y := s.rs b
    let i32 := fun (v : Word) => (v.setWidth 32 : BitVec 32)
    let w32 := fun (v : BitVec 32) => (v.signExtend 64 : Word)
    let sat := fun (i : Instr) (e r : Int) => Answers i s (s.withSF d (BitVec.ofInt 64 r) (satFlag e r))
    Answers (.add d a b) s (s.withS d (x + y)) ∧
    Answers (.sub d a b) s (s.withS d (x - y)) ∧
    Answers (.addI32 d a b) s (s.withS d (w32 (i32 (x + y)))) ∧
    Answers (.subI32 d a b) s (s.withS d (w32 (i32 (x - y)))) ∧
    sat (.addsI64 d a b) (x.toInt + y.toInt) (nearestS 64 (x.toInt + y.toInt)) ∧
    sat (.addsN64 d a b) (x.toNat + y.toNat) (nearestU 64 (x.toNat + y.toNat)) ∧
    sat (.subsI64 d a b) (x.toInt - y.toInt) (nearestS 64 (x.toInt - y.toInt)) ∧
    sat (.subsN64 d a b) ((x.toNat : Int) - y.toNat) (nearestU 64 ((x.toNat : Int) - y.toNat)) ∧
    Answers (.addImm d a imm) s (s.withS d (x + imm.signExtend 64)) ∧
    Answers (.mul d a b) s (s.withS d (x * y)) ∧
    Answers (.mulh d a b) s (s.withS d ((x.signExtend 128 * y.signExtend 128).extractLsb' 64 64)) ∧
    Answers (.mulhN64 d a b) s (s.withS d ((x.setWidth 128 * y.setWidth 128).extractLsb' 64 64)) ∧
    Answers (.mulI32 d a b) s (s.withS d (w32 (i32 (x * y)))) ∧
    Answers (.mla d a b) s (s.withS d (s.rs d + x * y)) ∧
    sat (.mulsI64 d a b) (x.toInt * y.toInt) (nearestS 64 (x.toInt * y.toInt)) ∧
    Answers (.min d a b) s (s.withS d (BitVec.ofInt 64 (min x.toInt y.toInt))) ∧
    Answers (.minN64 d a b) s (s.withS d (BitVec.ofNat 64 (min x.toNat y.toNat))) ∧
    Answers (.max d a b) s (s.withS d (BitVec.ofInt 64 (max x.toInt y.toInt))) ∧
    Answers (.maxN64 d a b) s (s.withS d (BitVec.ofNat 64 (max x.toNat y.toNat))) ∧
    Answers (.abs d a) s (s.withS d (BitVec.ofNat 64 x.toInt.natAbs)) ∧
    sat (.abss d a) x.toInt.natAbs (nearestS 64 x.toInt.natAbs)

open Sys2Proof Sys2Proof.Machine in
/-- 04 R111, R112, R113 (Tables 4.2 and 4.3): logic, shifts and rotates, bit by bit. -/
def Obligations.ScalarLogicAndShifts : Prop :=
  ∀ (s : State) (d a b : SReg) (imm : BitVec 9) (n : BitVec 6), s.live = true →
    let x := s.rs a
    let y := s.rs b
    let sh := y.toNat % 64
    let sh32 := y.toNat % 32
    let bits := fun (i : Instr) (f : Nat → Bool) => ∃ v : Word, Answers i s (s.withS d v) ∧ ∀ j, j < 64 → v.getLsbD j = f j
    -- sx(v, 32) of a 32-bit value given bit by bit
    let bits32 := fun (i : Instr) (f : Nat → Bool) => bits i fun j => f (min j 31)
    bits (.and d a b) (fun j => x.getLsbD j && y.getLsbD j) ∧
    bits (.or d a b) (fun j => x.getLsbD j || y.getLsbD j) ∧
    bits (.xor d a b) (fun j => x.getLsbD j != y.getLsbD j) ∧
    bits (.andn d a b) (fun j => x.getLsbD j && !y.getLsbD j) ∧
    bits (.orn d a b) (fun j => x.getLsbD j || !y.getLsbD j) ∧
    bits (.xnor d a b) (fun j => x.getLsbD j == y.getLsbD j) ∧
    bits (.andImm d a imm) (fun j => x.getLsbD j && imm.getLsbD (min j 8)) ∧
    bits (.orImm d a imm) (fun j => x.getLsbD j || imm.getLsbD (min j 8)) ∧
    bits (.xorImm d a imm) (fun j => x.getLsbD j != imm.getLsbD (min j 8)) ∧
    bits (.shl d a b) (fun j => decide (sh ≤ j) && x.getLsbD (j - sh)) ∧
    bits (.shlImm d a n) (fun j => decide (n.toNat ≤ j) && x.getLsbD (j - n.toNat)) ∧
    bits (.shrN64 d a b) (fun j => x.getLsbD (j + sh)) ∧
    bits (.shrN64Imm d a n) (fun j => x.getLsbD (j + n.toNat)) ∧
    bits (.shr d a b) (fun j => x.getLsbD (min (j + sh) 63)) ∧
    bits (.shrImm d a n) (fun j => x.getLsbD (min (j + n.toNat) 63)) ∧
    bits (.rol d a b) (fun j => x.getLsbD ((j + 64 - sh) % 64)) ∧
    bits (.rolImm d a n) (fun j => x.getLsbD ((j + 64 - n.toNat) % 64)) ∧
    bits (.ror d a b) (fun j => x.getLsbD ((j + sh) % 64)) ∧
    bits (.rorImm d a n) (fun j => x.getLsbD ((j + n.toNat) % 64)) ∧
    bits32 (.shlI32 d a b) (fun j => decide (sh32 ≤ j) && x.getLsbD (j - sh32)) ∧
    bits32 (.shrN32 d a b) (fun j => decide (j + sh32 < 32) && x.getLsbD (j + sh32)) ∧
    bits32 (.shrI32 d a b) (fun j => x.getLsbD (min (j + sh32) 31)) ∧
    (n.toNat < 32 →
      bits32 (.shlI32Imm d a n) (fun j => decide (n.toNat ≤ j) && x.getLsbD (j - n.toNat)) ∧
      bits32 (.shrN32Imm d a n) (fun j => decide (j + n.toNat < 32) && x.getLsbD (j + n.toNat)) ∧
      bits32 (.shrI32Imm d a n) (fun j => x.getLsbD (min (j + n.toNat) 31)))

open Sys2Proof Sys2Proof.Machine in
/-- 04 R115, R116 (Tables 4.5 and 4.6): compares, selects and bit fields. 04 R109, R110 (Table 4.1) and 02 R48, R49: addresses, constants, and the
forms that have no effect. -/
def Obligations.ScalarComparesFieldsConstants : Prop :=
  (∀ (s : State) (d a b : SReg), s.live = true →
     let x := s.rs a
     let y := s.rs b
     let p := (y.extractLsb' 0 6).toNat
     let w := min ((y.extractLsb' 8 6).toNat + 1) (64 - p)
     let cond := fun (i : Instr) (c : Prop) => (c → Answers i s (s.withS d 1)) ∧ (¬c → Answers i s (s.withS d 0))
     let bits := fun (i : Instr) (f : Nat → Bool) => ∃ v : Word, Answers i s (s.withS d v) ∧ ∀ j, j < 64 → v.getLsbD j = f j
     let num := fun (i : Instr) (n : Nat) => Answers i s (s.withS d (BitVec.ofNat 64 n))
     cond (.cmpEq d a b) (x = y) ∧ cond (.cmpNe d a b) (x ≠ y) ∧
     cond (.cmpLt d a b) (x.toInt < y.toInt) ∧ cond (.cmpLtN64 d a b) (x.toNat < y.toNat) ∧
     cond (.cmpLe d a b) (x.toInt ≤ y.toInt) ∧ cond (.cmpLeN64 d a b) (x.toNat ≤ y.toNat) ∧
     Answers (.selNez d a b) s (s.withS d (if y ≠ 0 then x else s.rs d)) ∧
     Answers (.selEqz d a b) s (s.withS d (if y = 0 then x else s.rs d)) ∧
     bits (.bfxN64 d a b) (fun j => decide (j < w) && x.getLsbD (p + j)) ∧
     bits (.bfx d a b) (fun j => x.getLsbD (p + min j (w - 1))) ∧
     bits (.bfi d a b) (fun j => if p ≤ j ∧ j < p + w then x.getLsbD (j - p) else (s.rs d).getLsbD j) ∧
     (∃ n, num (.clz d a) n ∧ n ≤ 64 ∧ (∀ j, j < n → x.getLsbD (63 - j) = false) ∧ (n < 64 → x.getLsbD (63 - n) = true)) ∧
     (∃ n, num (.ctz d a) n ∧ n ≤ 64 ∧ (∀ j, j < n → x.getLsbD j = false) ∧ (n < 64 → x.getLsbD n = true)) ∧
     num (.popc d a) ((List.range 64).countP fun j => x.getLsbD j) ∧
     bits (.bswap d a) (fun j => x.getLsbD (8 * (7 - j / 8) + j % 8)) ∧
     bits (.brev d a) (fun j => x.getLsbD (63 - j))) ∧
  (∀ (s : State) (d a b : SReg) (ix : IReg) (sh : BitVec 2) (imm : BitVec 16) (h : BitVec 1) (e : BitVec 22) (e' : BitVec 23),
     s.live = true →
     Answers (.leaS d a b sh) s (s.withS d (s.rs a + s.rs b * BitVec.ofNat 64 (2 ^ sh.toNat))) ∧
     Answers (.leaI d a ix sh) s (s.withS d (s.rs a + s.ri ix * BitVec.ofNat 64 (2 ^ sh.toNat))) ∧
     Answers (.li d imm) s (s.withS d (BitVec.ofInt 64 imm.toInt)) ∧
     Answers (.lis d imm) s (s.withS d (BitVec.ofNat 64 ((s.rs d).toNat * 65536 + imm.toNat))) ∧
     Answers .nopC s s.me ∧ Answers .nopA s s.me ∧ Answers (.hintC h e) s s.me ∧ Answers (.hintA h e') s s.me)

open Sys2Proof Sys2Proof.Machine in
/-- 04 R118, R119, R120, R121 and 02 R45: branches and jumps. Where the condition holds the next bundle is at the target, else it stays the one after;
`jl` and `jlr` write the address of the bundle after, and `jlr` reads its target first. A target that is no multiple of 8 raises ALIGN. Unlisted
condition and function codes are unassigned. No condition flag, register, memory byte or other state changes. -/
def Obligations.BranchesAndJumps : Prop :=
  ∀ (s : State) (d a b : SReg) (o13 : BitVec 13) (o7 : BitVec 7) (o22 : BitVec 22), s.live = true → s.phase ≠ .dry →
    let x := s.rs a
    let y := s.rs b
    let at_ := fun (m : Act) (t : Word) => { m with npc := t.toNat, taken := true }
    let rel := fun (k : Int) => BitVec.ofInt 64 ((s.pc : Int) + 8 * k)
    let br := fun (i : Instr) (k : Int) (c : Prop) => (c → Answers i s (at_ s.me (rel k))) ∧ (¬c → Answers i s s.me)
    let link := BitVec.ofNat 64 (s.pc + 8)
    br (.bEqz a o13) o13.toInt (x = 0) ∧ br (.bNez a o13) o13.toInt (x ≠ 0) ∧
    br (.bLtz a o13) o13.toInt (x.toInt < 0) ∧ br (.bGez a o13) o13.toInt (0 ≤ x.toInt) ∧
    br (.bGtz a o13) o13.toInt (0 < x.toInt) ∧ br (.bLez a o13) o13.toInt (x.toInt ≤ 0) ∧
    br (.bEq a b o7) o7.toInt (x = y) ∧ br (.bNe a b o7) o7.toInt (x ≠ y) ∧
    br (.bLt a b o7) o7.toInt (x.toInt < y.toInt) ∧ br (.bGe a b o7) o7.toInt (y.toInt ≤ x.toInt) ∧
    br (.bLtn a b o7) o7.toInt (x.toNat < y.toNat) ∧ br (.bGen a b o7) o7.toInt (y.toNat ≤ x.toNat) ∧
    Answers (.j o22) s (at_ s.me (rel o22.toInt)) ∧
    Answers (.jl o22) s (at_ (s.withS 62 link) (rel o22.toInt)) ∧
    (x.toNat % 8 = 0 → Answers (.jr a) s (at_ s.me x) ∧ Answers (.jlr d a) s (at_ (s.withS d link) x)) ∧
    (x.toNat % 8 ≠ 0 → s.phase = .whole → unconfirmed s.cc s.me.id = false → ∀ i ∈ [Instr.jr a, .jlr d a],
      exec i s = .next (trapMe s { code := 3, late := false, aw := false, epc := s.pc, tval := x })) ∧
    Instr.latency (.jl o22) = some 1 ∧ Instr.latency (.jlr d a) = some 1 ∧
    ∀ w : BitVec 28,
      let opc := w.extractLsb' 22 6
      (opc = 1 → 6 ≤ (w.extractLsb' 13 3).toNat → decodeCBody w = none) ∧ (opc = 2 → 6 ≤ (w.extractLsb' 7 3).toNat → decodeCBody w = none) ∧
      (opc = 5 → 2 ≤ (w.extractLsb' 0 4).toNat → decodeCBody w = none)

open Sys2Proof Sys2Proof.Machine in
/-- 05 R145, R146, R151, R154, R155 (Tables 5.3 and 5.4): integer and logic lanes. Active lanes take the row's result, inactive lanes keep theirs, the
saturating forms set FLAGS.SAT from active lanes only, and nothing else changes. -/
def Obligations.VectorIntegerLanes : Prop :=
  ∀ (s : State) (d a b : VReg) (m : BitVec 3) (z : BitVec 2), s.live = true →
    let w := widthOf z
    let x := fun j => lane (s.rv a) w j
    let y := fun j => lane (s.rv b) w j
    let o := fun j => lane (s.rv d) w j
    let sat := fun (i : Instr) (e : Nat → Int) (r : Nat → Int) =>
      WritesLanesF i s s d m w fun j => ⟨(BitVec.ofInt w (r j)).toNat, satFlag (e j) (r j)⟩
    let sumI := fun j => (x j).toInt + (y j).toInt
    let sumN := fun j => ((x j).toNat : Int) + (y j).toNat
    let difI := fun j => (x j).toInt - (y j).toInt
    let difN := fun j => ((x j).toNat : Int) - (y j).toNat
    WritesLanes (.vadd d a b m z) s s d m w (fun j => x j + y j) ∧
    WritesLanes (.vsub d a b m z) s s d m w (fun j => x j - y j) ∧
    WritesLanes (.vmul d a b m z) s s d m w (fun j => x j * y j) ∧
    sat (.vaddsI d a b m z) sumI (fun j => nearestS w (sumI j)) ∧
    sat (.vaddsN d a b m z) sumN (fun j => nearestU w (sumN j)) ∧
    sat (.vsubsI d a b m z) difI (fun j => nearestS w (difI j)) ∧
    sat (.vsubsN d a b m z) difN (fun j => nearestU w (difN j)) ∧
    WritesLanes (.vabs d a m z) s s d m w (fun j => BitVec.ofNat w (x j).toInt.natAbs) ∧
    WritesLanes (.vand d a b m z) s s d m w (fun j => x j &&& y j) ∧
    WritesLanes (.vor d a b m z) s s d m w (fun j => x j ||| y j) ∧
    WritesLanes (.vxor d a b m z) s s d m w (fun j => x j ^^^ y j) ∧
    WritesLanes (.vandn d a b m z) s s d m w (fun j => x j &&& ~~~(y j)) ∧
    WritesLanes (.vorn d a b m z) s s d m w (fun j => x j ||| ~~~(y j)) ∧
    WritesLanes (.vxnor d a b m z) s s d m w (fun j => ~~~(x j ^^^ y j)) ∧
    WritesLanes (.vbsl d a b m z) s s d m w (fun j => (x j &&& o j) ||| (y j &&& ~~~(o j))) ∧
    WritesLanes (.vmov d a m z) s s d m w x

open Sys2Proof Sys2Proof.Machine in
/-- 05 R156, R157, R160 (Tables 5.5, 5.6 and 5.8): shifts, minimum and maximum, and integer forms with a scalar operand. -/
def Obligations.VectorShiftsAndExtremes : Prop :=
  ∀ (s : State) (d a b : VReg) (c : SReg) (m : BitVec 3) (z : BitVec 2), s.live = true →
    let w := widthOf z
    let x := fun j => lane (s.rv a) w j
    let y := fun j => lane (s.rv b) w j
    let n := fun j => (y j).toNat % w
    let q := (s.rs c).setWidth 32
    let sh := (s.rs c).toNat % 32
    WritesLanes (.vshl d a b m z) s s d m w (fun j => x j <<< n j) ∧
    WritesLanes (.vshrN d a b m z) s s d m w (fun j => x j >>> n j) ∧
    WritesLanes (.vshrI d a b m z) s s d m w (fun j => (x j).sshiftRight (n j)) ∧
    WritesLanes (.vrol d a b m z) s s d m w (fun j => x j <<< n j ||| x j >>> (w - n j)) ∧
    WritesLanes (.vror d a b m z) s s d m w (fun j => x j >>> n j ||| x j <<< (w - n j)) ∧
    WritesLanes (.vminI d a b m z) s s d m w (fun j => BitVec.ofInt w (min (x j).toInt (y j).toInt)) ∧
    WritesLanes (.vminN d a b m z) s s d m w (fun j => BitVec.ofNat w (min (x j).toNat (y j).toNat)) ∧
    WritesLanes (.vmaxI d a b m z) s s d m w (fun j => BitVec.ofInt w (max (x j).toInt (y j).toInt)) ∧
    WritesLanes (.vmaxN d a b m z) s s d m w (fun j => BitVec.ofNat w (max (x j).toNat (y j).toNat)) ∧
    WritesLanes (.vaddI32S d a c m) s s d m 32 (fun j => lane (s.rv a) 32 j + q) ∧
    WritesLanes (.vsubI32S d a c m) s s d m 32 (fun j => lane (s.rv a) 32 j - q) ∧
    WritesLanes (.vmulI32S d a c m) s s d m 32 (fun j => lane (s.rv a) 32 j * q) ∧
    WritesLanes (.vshlN32S d a c m) s s d m 32 (fun j => lane (s.rv a) 32 j <<< sh) ∧
    WritesLanes (.vshrN32S d a c m) s s d m 32 (fun j => lane (s.rv a) 32 j >>> sh) ∧
    WritesLanes (.vshrI32S d a c m) s s d m 32 (fun j => (lane (s.rv a) 32 j).sshiftRight sh)

open Sys2Proof Sys2Proof.Machine in
/-- 05 R157, R159 (Tables 5.6 and 5.7): a compare writes kD; bit j is 1 where lane j is active and its condition holds, and every other bit is 0.
Floating-point compares set the flags of active lanes. 05 R152 (Table 5.1): mask operations. -/
def Obligations.VectorComparesAndMasks : Prop :=
  (∀ (s : State) (d : KReg) (a b : VReg) (m : BitVec 3) (z p : BitVec 2), s.live = true →
     let w := widthOf z
     let bits := fun (i : Instr) (f : Nat → Bool) => ∃ v, Answers i s (s.withK d v) ∧
       ∀ j, v.getLsbD j = (decide (j < 128 / w) && s.active m j && f j)
     let fp := fun (i : Instr) (f : Fmt) => ∃ v fl, Answers i s { s.withK d v with flags := s.me.flags ||| fl } ∧
       let r := fun j => f.cmp p (lane (s.rv a) f.width j).toNat (lane (s.rv b) f.width j).toNat
       (∀ j, v.getLsbD j = (decide (j < 128 / f.width) && s.active m j && (r j).val)) ∧
       ∀ c, fl.getLsbD c = (List.range (128 / f.width)).any fun j => s.active m j && (r j).flags.getLsbD c
     let x := fun j => lane (s.rv a) w j
     let y := fun j => lane (s.rv b) w j
     bits (.vcmpEq d a b m z) (fun j => decide (x j = y j)) ∧
     bits (.vcmpNe d a b m z) (fun j => decide (x j ≠ y j)) ∧
     bits (.vcmpLtI d a b m z) (fun j => decide ((x j).toInt < (y j).toInt)) ∧
     bits (.vcmpLtN d a b m z) (fun j => decide ((x j).toNat < (y j).toNat)) ∧
     fp (.vcmpF32 d a b m p) .f32 ∧ fp (.vcmpBf16 d a b m p) .bf16) ∧
  (∀ (s : State) (d a b : KReg) (ds as : SReg), s.live = true →
     let x := s.rk a
     let y := s.rk b
     let bits := fun (i : Instr) (f : Nat → Bool) => ∃ v, Answers i s (s.withK d v) ∧ ∀ j, j < 16 → v.getLsbD j = f j
     bits (.kand d a b) (fun j => x.getLsbD j && y.getLsbD j) ∧
     bits (.kor d a b) (fun j => x.getLsbD j || y.getLsbD j) ∧
     bits (.kxor d a b) (fun j => x.getLsbD j != y.getLsbD j) ∧
     bits (.kandn d a b) (fun j => x.getLsbD j && !y.getLsbD j) ∧
     bits (.knot d a) (fun j => !x.getLsbD j) ∧
     bits (.kset d as) (fun j => (s.rs as).getLsbD j) ∧
     Answers (.kget ds a) s (s.withS ds (BitVec.ofNat 64 x.toNat)) ∧
     Answers (.kpopc ds a) s (s.withS ds (BitVec.ofNat 64 ((List.range 16).countP fun j => x.getLsbD j))) ∧
     ∃ n, Answers (.kffs ds a) s (s.withS ds (BitVec.ofNat 64 n)) ∧ n ≤ 16 ∧ (∀ j, j < n → x.getLsbD j = false) ∧
       (n < 16 → x.getLsbD n = true))

open Sys2Proof Sys2Proof.Machine in
/-- 05 R147, R153, R161 (Tables 5.2 and 5.9): moves between files and permutes. The forms that take no mask act on every lane and set WARN.QUAL when
one is given; a lane number lies below the lane count (R153). -/
def Obligations.VectorMovesAndPermutes : Prop :=
  ∀ (s : State) (d a b : VReg) (c : SReg) (e : BitVec 5) (m : BitVec 3) (z : BitVec 2), s.live = true →
    let w := widthOf z
    let n := 128 / w
    let u := s.qualIf (m ≠ 0)
    let x := fun j => lane (s.rv a) w j
    let y := fun j => lane (s.rv b) w j
    WritesLanes (.vbcast d c m z) s s d m w (fun _ => (s.rs c).setWidth w) ∧
    (e.toNat < n →
      WritesLanes (.vins d c e m z) s u d 0 w (fun j => if j = e.toNat then (s.rs c).setWidth w else lane (s.rv d) w j) ∧
      AnswersOver (.vextI c a e m z) s u (s.withS c (BitVec.ofInt 64 (x e.toNat).toInt)) ∧
      AnswersOver (.vextN c a e m z) s u (s.withS c (BitVec.ofNat 64 (x e.toNat).toNat))) ∧
    WritesLanes (.vtbl d a b m) s s d m 8 (fun j =>
      let i := (lane (s.rv b) 8 j).toNat
      if i < 16 then lane (s.rv a) 8 i else if i < 32 then lane (s.rv d) 8 (i - 16) else 0) ∧
    WritesLanes (.vzlo d a b m z) s s d m w (fun j => if j % 2 = 0 then x (j / 2) else y (j / 2)) ∧
    WritesLanes (.vzhi d a b m z) s s d m w (fun j => if j % 2 = 0 then x (n / 2 + j / 2) else y (n / 2 + j / 2)) ∧
    WritesLanes (.vuzev d a b m z) s s d m w (fun j => if j < n / 2 then x (2 * j) else y (2 * (j - n / 2))) ∧
    WritesLanes (.vuzod d a b m z) s s d m w (fun j => if j < n / 2 then x (2 * j + 1) else y (2 * (j - n / 2) + 1)) ∧
    WritesLanes (.vrev d a m z) s s d m w (fun j => x (n - 1 - j)) ∧
    WritesLanes (.vdup d a b m z) s s d m w (fun _ => x ((y 0).toNat % n))

open Sys2Proof Sys2Proof.Machine in
/-- 05 R149, R150, R158, R160 (Tables 5.7 and 5.8): floating-point lanes, FP32 and BF16, and FP32 lanes with a scalar. The operations on codes are
those of `Fmt`: exact, rounded once. `vmin` and `vmax` ignore a rounding field and then set WARN.QUAL. -/
def Obligations.VectorFloatLanes : Prop :=
  ∀ (s : State) (d a b : VReg) (c : SReg) (m : BitVec 3) (rm : BitVec 2), s.live = true →
    let r := RMode.of rm
    let u := s.qualIf (rm ≠ 0)
    let x := fun (f : Fmt) j => (lane (s.rv a) f.width j).toNat
    let y := fun (f : Fmt) j => (lane (s.rv b) f.width j).toNat
    let o := fun (f : Fmt) j => f.read (lane (s.rv d) f.width j).toNat
    let two := fun (i : Instr) (u : State) (f : Fmt) (g : Nat → Nat → Flagged Nat) =>
      WritesLanesF i s u d m f.width fun j => g (x f j) (y f j)
    let one := fun (i : Instr) (g : Nat → Nat → Flagged Nat) =>
      WritesLanesF i s s d m 32 fun j => g (x .f32 j) ((s.rs c).setWidth 32 : BitVec 32).toNat
    two (.vaddF32 d a b m rm) s .f32 (Fmt.add .f32 r) ∧ two (.vaddBf16 d a b m rm) s .bf16 (Fmt.add .bf16 r) ∧
    two (.vsubF32 d a b m rm) s .f32 (Fmt.sub .f32 r) ∧ two (.vsubBf16 d a b m rm) s .bf16 (Fmt.sub .bf16 r) ∧
    two (.vmulF32 d a b m rm) s .f32 (Fmt.mul .f32 r) ∧ two (.vmulBf16 d a b m rm) s .bf16 (Fmt.mul .bf16 r) ∧
    two (.vminF32 d a b m rm) u .f32 (Fmt.minmax .f32 false) ∧ two (.vminBf16 d a b m rm) u .bf16 (Fmt.minmax .bf16 false) ∧
    two (.vmaxF32 d a b m rm) u .f32 (Fmt.minmax .f32 true) ∧ two (.vmaxBf16 d a b m rm) u .bf16 (Fmt.minmax .bf16 true) ∧
    WritesLanesF (.vfmaF32 d a b m rm) s s d m 32
      (fun j => Fmt.f32.fmaNum r (Fmt.f32.read (x .f32 j)) (Fmt.f32.read (y .f32 j)) (o .f32 j)) ∧
    WritesLanesF (.vfmaBf16 d a b m rm) s s d m 16
      (fun j => Fmt.bf16.fmaNum r (Fmt.bf16.read (x .bf16 j)) (Fmt.bf16.read (y .bf16 j)) (o .bf16 j)) ∧
    WritesLanesF (.vfnmaF32 d a b m rm) s s d m 32
      (fun j => Fmt.f32.fmaNum r (Fmt.f32.read (x .f32 j)).opp (Fmt.f32.read (y .f32 j)) (o .f32 j)) ∧
    WritesLanesF (.vfnmaBf16 d a b m rm) s s d m 16
      (fun j => Fmt.bf16.fmaNum r (Fmt.bf16.read (x .bf16 j)).opp (Fmt.bf16.read (y .bf16 j)) (o .bf16 j)) ∧
    one (.vaddF32S d a c m) (Fmt.add .f32 .rn) ∧ one (.vsubF32S d a c m) (Fmt.sub .f32 .rn) ∧
    one (.vmulF32S d a c m) (Fmt.mul .f32 .rn) ∧ one (.vminF32S d a c m) (Fmt.minmax .f32 false) ∧
    one (.vmaxF32S d a c m) (Fmt.minmax .f32 true) ∧
    WritesLanesF (.vfmaF32S d a c m) s s d m 32
      (fun j => Fmt.f32.fmaNum .rn (Fmt.f32.read (x .f32 j)) (Fmt.f32.read ((s.rs c).setWidth 32 : BitVec 32).toNat) (o .f32 j))

open Sys2Proof Sys2Proof.Machine in
/-- 05 R162, R163, R164 (Tables 5.10 and 5.11): a reduction writes lane 0 and zeroes the rest; sums of FP32 follow the tree of R163; the integer dot
products add exact products modulo 2^32, and the floating-point ones round the exact sum once. -/
def Obligations.VectorReductionsAndDots : Prop :=
  ∀ (s : State) (d a b : VReg) (m : BitVec 3) (z : BitVec 2), s.live = true →
    let w := widthOf z
    let x := fun j => lane (s.rv a) w j
    let on := (List.range (128 / w)).filter (s.active m)
    let low := fun (i : Instr) (n : Nat) => Answers i s (s.withV d (BitVec.ofNat 128 n))
    -- the greatest or least of the active lanes, from the identity
    let best := fun (i : Instr) (id : Int) (val : BitVec w → Int) (pick : Int → Int → Int) =>
      low i (BitVec.ofInt w ((on.map fun j => val (x j)).foldl pick id)).toNat
    let lowF := fun (i : Instr) (r : Flagged Nat) => Answers i s (s.withVF d (BitVec.ofNat 128 r.val) r.flags)
    let add := Fmt.add .f32 .rn
    let z32 := fun (k j : Nat) (f : BitVec k → Nat) => if s.active m j then f (lane (s.rv a) k j) else 0
    let pair := fun (p q : Flagged Nat) => (⟨(add p.val q.val).val, p.flags ||| q.flags ||| (add p.val q.val).flags⟩ : Flagged Nat)
    let dot := fun (i : Instr) (k : Nat) (val : BitVec k → Int) => WritesLanes i s s d m 32 fun j =>
      BitVec.ofInt 32 ((lane (s.rv d) 32 j).toInt +
        ((List.range (32 / k)).map fun t => val (lane (s.rv a) k (32 / k * j + t)) * val (lane (s.rv b) k (32 / k * j + t))).sum)
    low (.vrsumInt d a m z) (BitVec.ofNat w (on.map fun j => (x j).toNat).sum).toNat ∧
    best (.vrminI d a m z) (2 ^ (w - 1) - 1) (fun v => v.toInt) min ∧
    best (.vrminN d a m z) (2 ^ w - 1) (fun v => v.toNat) min ∧
    best (.vrmaxI d a m z) (-2 ^ (w - 1)) (fun v => v.toInt) max ∧
    best (.vrmaxN d a m z) 0 (fun v => v.toNat) max ∧
    (∃ r, lowF (.vrsumF32 d a m) r ∧
      let l := fun j => (⟨z32 32 j BitVec.toNat, 0⟩ : Flagged Nat)
      r = pair (pair (l 0) (l 1)) (pair (l 2) (l 3))) ∧
    (∃ r, lowF (.vrsumBf16 d a m) r ∧
      let l := fun j => (⟨z32 16 j (fun v => v.toNat * 65536), 0⟩ : Flagged Nat)
      r = pair (pair (pair (l 0) (l 1)) (pair (l 2) (l 3))) (pair (pair (l 4) (l 5)) (pair (l 6) (l 7)))) ∧
    (∃ r, lowF (.vrmaxF32 d a m) r ∧
      r = (((List.range 4).filter (s.active m)).map fun j => (lane (s.rv a) 32 j).toNat).foldl
        (fun p c => ⟨(Fmt.f32.minmax true p.val c).val, p.flags ||| (Fmt.f32.minmax true p.val c).flags⟩) ⟨0xFF800000, 0⟩) ∧
    (∃ r, lowF (.vrminF32 d a m) r ∧
      r = (((List.range 4).filter (s.active m)).map fun j => (lane (s.rv a) 32 j).toNat).foldl
        (fun p c => ⟨(Fmt.f32.minmax false p.val c).val, p.flags ||| (Fmt.f32.minmax false p.val c).flags⟩) ⟨0x7F800000, 0⟩) ∧
    dot (.vdotI8 d a b m) 8 BitVec.toInt ∧
    dot (.vdotN8 d a b m) 8 (fun v => v.toNat) ∧
    dot (.vdotI16 d a b m) 16 BitVec.toInt ∧
    -- a floating-point dot product of finite operands is the exact sum, rounded once
    ∀ f i, (f, i) ∈ [(Fmt.bf16, Instr.vdotBf16 d a b m), (.e4m3 s.e4, .vdotE4m3 d a b m), (.e5m2, .vdotE5m2 d a b m)] →
      ∃ g : Nat → Flagged Nat, WritesLanesF i s s d m 32 g ∧
        ∀ j, j < 4 →
          let n := 32 / f.width
          let p := fun (r : VReg) t => f.read (lane (s.rv r) f.width (n * j + t)).toNat
          let old := Fmt.f32.read (lane (s.rv d) 32 j).toNat
          let ok := fun (v : Machine.Num) => !v.isNan && !v.isInf
          (∀ t, t < n → ok (p a t) = true ∧ ok (p b t) = true) → ok old = true →
            let e := (List.range n).foldl (fun q t => q.add ((p a t).dy.mul (p b t).dy)) old.dy
            e.m ≠ 0 → g j = Fmt.f32.roundDy .rn false e

open Sys2Proof Sys2Proof.Machine in
/-- 05 R147, R165 (Table 5.12): conversions. A narrowing one writes its part; part 0 zeroes the rest and other parts keep it. A mask, or a rounding
field where nothing rounds, is ignored and sets WARN.QUAL. -/
def Obligations.VectorConversions : Prop :=
  ∀ (s : State) (d a : VReg) (m : BitVec 3) (p : BitVec 1) (q rm : BitVec 2), s.live = true →
    let r := RMode.of rm
    let u := s.qualIf (m ≠ 0)
    let ux := s.qualIf (m ≠ 0 || rm ≠ 0)
    let src := fun k j => lane (s.rv a) k j
    let wide := fun (i : Instr) (u : State) (w : Nat) (f : Nat → Flagged Nat) => WritesLanesF i s u d 0 w f
    -- k results of width w at part n
    let narrow := fun (i : Instr) (u : State) (w k n : Nat) (f : Nat → Flagged Nat) =>
      ∃ v fl, AnswersOver i s u (s.withVF d v fl) ∧
        (∀ j, j < 128 / w → lane v w j =
          if k * n ≤ j ∧ j < k * n + k then BitVec.ofNat w (f (j - k * n)).val else if n = 0 then 0 else lane (s.rv d) w j) ∧
        ∀ c, fl.getLsbD c = (List.range k).any fun j => (f j).flags.getLsbD c
    let sat := fun (w : Nat) (x : Int) => (⟨(BitVec.ofInt w (nearestS w x)).toNat, satFlag x (nearestS w x)⟩ : Flagged Nat)
    narrow (.vcvtBf16F32 d a m p rm) u 16 4 p.toNat (fun j => Fmt.f32.convert .bf16 r (src 32 j).toNat) ∧
    wide (.vcvtF32Bf16 d a m p rm) ux 32 (fun j => Fmt.bf16.convert .f32 .rn (src 16 (4 * p.toNat + j)).toNat) ∧
    narrow (.vcvtE4m3F32 d a m q rm) u 8 4 q.toNat (fun j => Fmt.f32.convert (.e4m3 s.e4) r (src 32 j).toNat) ∧
    narrow (.vcvtE5m2F32 d a m q rm) u 8 4 q.toNat (fun j => Fmt.f32.convert .e5m2 r (src 32 j).toNat) ∧
    wide (.vcvtF32E4m3 d a m q rm) ux 32 (fun j => (Fmt.e4m3 s.e4).convert .f32 .rn (src 8 (4 * q.toNat + j)).toNat) ∧
    wide (.vcvtF32E5m2 d a m q rm) ux 32 (fun j => Fmt.e5m2.convert .f32 .rn (src 8 (4 * q.toNat + j)).toNat) ∧
    wide (.vcvtI32F32 d a m rm) u 32 (fun j => (Fmt.f32.toInt r true 32 (src 32 j).toNat).map fun x => (BitVec.ofInt 32 x).toNat) ∧
    wide (.vcvtN32F32 d a m rm) u 32 (fun j => (Fmt.f32.toInt r false 32 (src 32 j).toNat).map fun x => (BitVec.ofInt 32 x).toNat) ∧
    wide (.vcvtF32I32 d a m rm) u 32 (fun j => Fmt.f32.ofInt r (src 32 j).toInt) ∧
    wide (.vcvtF32N32 d a m rm) u 32 (fun j => Fmt.f32.ofInt r (src 32 j).toNat) ∧
    narrow (.vcvtI16I32 d a m p rm) ux 16 4 p.toNat (fun j => sat 16 (src 32 j).toInt) ∧
    narrow (.vcvtI8I16 d a m p rm) ux 8 8 p.toNat (fun j => sat 8 (src 16 j).toInt) ∧
    wide (.vcvtI32I16 d a m p rm) ux 32 (fun j => ⟨(BitVec.ofInt 32 (src 16 (4 * p.toNat + j)).toInt).toNat, 0⟩) ∧
    wide (.vcvtI16I8 d a m p rm) ux 16 (fun j => ⟨(BitVec.ofInt 16 (src 8 (8 * p.toNat + j)).toInt).toNat, 0⟩)

open Sys2Proof Sys2Proof.Machine in
/-- 05 R166, R167, R169 (Tables 5.13 and 5.14): each active FP32 lane goes through its function. A NaN gives the canonical NaN; zeros, infinities and
exact points give the values of Table 5.13; a result the tables leave open sets NX and is the free value where that lies within its error and is
not the exact one. Where the free value does neither, the model's choice stands (logs 2, 20; 87, 88 near the limits of the range): the nearest
value, or the code after it where the nearest is the exact one; this second form is not claimed to lie in the error. -/
def Obligations.SpecialFunctions : Prop :=
  ∀ (s : State) (d a : VReg) (m : BitVec 3) (fast : BitVec 1), s.live = true →
    let lanes := fun (i : Instr) (f : Nat) =>
      WritesLanesF i s s d m 32 fun j => sfuLane f (decide (fast = 1)) (lane (s.rv a) 32 j)
    lanes (.vsfuExp2 d a m fast) 0 ∧ lanes (.vsfuLog2 d a m fast) 1 ∧ lanes (.vsfuRcp d a m fast) 2 ∧
    lanes (.vsfuRsqrt d a m fast) 3 ∧ lanes (.vsfuSqrt d a m fast) 4 ∧ lanes (.vsfuSinpi d a m fast) 5 ∧
    lanes (.vsfuCospi d a m fast) 6 ∧ lanes (.vsfuTanh d a m fast) 7 ∧ lanes (.vsfuSigm d a m fast) 8 ∧
    ∀ q : Bool,
      let is := fun (f : Nat) (x r : Nat) (fl : Word) => sfuLane f q (BitVec.ofNat 32 x) = ⟨r, fl⟩
      (∀ f, f < 9 → is f 0x7FC00000 0x7FC00000 0 ∧ is f 0x7F800001 0x7FC00000 fNV) ∧
      is 0 0 0x3F800000 0 ∧ is 0 0x7F800000 0x7F800000 0 ∧ is 0 0xFF800000 0 0 ∧ is 0 0x40400000 0x41000000 0 ∧
      is 1 0 0xFF800000 fDZ ∧ is 1 0x80000000 0xFF800000 fDZ ∧ is 1 0xBF800000 0x7FC00000 fNV ∧ is 1 0x7F800000 0x7F800000 0 ∧
      is 1 0x41000000 0x40400000 0 ∧
      is 2 0 0x7F800000 fDZ ∧ is 2 0x80000000 0xFF800000 fDZ ∧ is 2 0xFF800000 0x80000000 0 ∧ is 2 0x40000000 0x3F000000 0 ∧
      is 3 0 0x7F800000 fDZ ∧ is 3 0xBF800000 0x7FC00000 fNV ∧ is 3 0x7F800000 0 0 ∧ is 3 0x40800000 0x3F000000 0 ∧
      is 4 0x80000000 0x80000000 0 ∧ is 4 0xBF800000 0x7FC00000 fNV ∧ is 4 0x7F800000 0x7F800000 0 ∧ is 4 0x40800000 0x40000000 0 ∧
      is 5 0x80000000 0x80000000 0 ∧ is 5 0x7F800000 0x7FC00000 fNV ∧ is 5 0x3F000000 0x3F800000 0 ∧
      is 6 0 0x3F800000 0 ∧ is 6 0xFF800000 0x7FC00000 fNV ∧ is 6 0x3F800000 0xBF800000 0 ∧
      is 7 0x80000000 0x80000000 0 ∧ is 7 0xFF800000 0xBF800000 0 ∧
      is 8 0 0x3F000000 0 ∧ is 8 0x7F800000 0x3F800000 0 ∧ is 8 0xFF800000 0 0 ∧
      ∀ (f : Nat) (x : BitVec 32) (err : SfuErr) (v : Dy),
        let r := sfuFree f q x err v
        let near := (Fmt.f32.roundDy .rn false v).val
        (sfuWithin err v r.val = true ∧ sfuEquals v r.val = false ∨ r.val = near ∧ sfuEquals v near = false ∨
          r.val = near + 1 ∧ sfuEquals v near = true) ∧ r.flags &&& fNX = fNX

open Sys2Proof Sys2Proof.Machine in
/-- 03 R78, R79, R82, R85 (Table 3.5): rounding. A code that reads as a finite number is the rounding of that number, with no flag. A value whose
magnitude is at most the largest finite one of a format becomes a finite number of its sign: under RN no code is nearer, and of two that are
equally near the even one is taken; under RZ, and under RD and RU on the side that faces zero, it is the largest in magnitude that does not exceed
the value's; under RD and RU on the other side, the smallest that is not below it. NX is set exactly when the two differ, UF when besides the
value lies below the smallest normal magnitude, and no other flag. -/
def Obligations.Rounding : Prop :=
  (∀ (f : Fmt) (rm : RMode) (c : Nat) (neg : Bool) (m : Nat) (e : Int), c < 2 ^ f.width → f.read c = .fin neg m e →
    f.round rm neg m e = ⟨c, 0⟩) ∧
  ∀ (f : Fmt) (rm : RMode) (neg : Bool) (m : Nat) (e : Int),
    let v : Dy := ⟨m, e⟩
    let mag := fun (c : Nat) => (match f.read c with | .fin _ n e => ⟨n, e⟩ | _ => Dy.zero : Dy)
    let dist := fun (c : Nat) => let x := (mag c).add v.neg; (⟨x.m.natAbs, x.e⟩ : Dy)
    let r := f.round rm neg m e
    let w := mag r.val
    let inward := rm = .rz ∨ rm = .rd ∧ neg = false ∨ rm = .ru ∧ neg = true
    (mag f.maxFinite).lt v = false →
    (∃ n g, f.read r.val = .fin neg n g) ∧
    (rm = .rn → ∀ c, c ≤ f.maxFinite →
      (dist c).lt (dist r.val) = false ∧ ((dist c).eq (dist r.val) = true → (mag c).eq w = false → r.val % 2 = 0)) ∧
    (inward → v.lt w = false ∧ ∀ c, c ≤ f.maxFinite → v.lt (mag c) = false → w.lt (mag c) = false) ∧
    (rm ≠ .rn → ¬inward → w.lt v = false ∧ ∀ c, c ≤ f.maxFinite → (mag c).lt v = false → (mag c).lt w = false) ∧
    r.flags = (if w.eq v then 0 else if v.lt ⟨1, 1 - (f.bias : Int)⟩ then fNX ||| fUF else fNX)

open Sys2Proof Sys2Proof.Machine in
/-- 04 R139: taking a trap in user mode with TVEC.EN set. CAUSE, EPC and TVAL are written, the mode becomes runtime, the next bundle is the handler's,
fixed-latency results are complete; nothing else of the package changes, no byte of memory and no general register. -/
def Obligations.UserTrapEntry : Prop :=
  ∀ (s : State) (t : Trap), s.live = true → s.mode = 0 → bitAt s.cc.tvec 0 = true →
    let u := trapMe s t
    let h := bitsNat s.cc.tvec 56 3 * 8
    u.me = { s.me with cause := t.cause, epc := pcWord t.epc, tval := t.tval, status := setMode s.me.status 1, pc := h, npc := h,
                       barWait := none } ∧
    u.cc.fixed = [] ∧ u.me.mode = 1 ∧ u.sansMe = (s.onCC fun k => { k with fixed := [] }).sansMe ∧ SameBytes s u

open Sys2Proof Sys2Proof.Machine in
/-- 04 R141, R142, 02 R49: `trap` and `eret`. A user-mode `trap` enters the handler after its bundle, with CAUSE 0x10D, TVAL its code and EPC the
bundle after; in system mode it is a no-operation that sets WARN.QUAL. `eret` returns to user mode at EPC from runtime mode, and to the mode that
SPM names at SEPC from system mode. 04 R140 and 20 R479, R480: a service request of runtime mode (`trap` in runtime mode). SCAUSE, SEPC and STVAL
are written, SPM becomes 1 and Trivet resumes after the bundle, in one step (the model's choice, log 48). Code 1 reports an SW event with CODE
s1[15:0] and ADDR s2 and leaves s1; code 2 puts the boot report word in s1, any other code all ones. 04 R141: with CCTL.STEP, the step trap after
a completed user-mode bundle enters the handler with TVAL 0x1000 and EPC the next bundle. -/
def Obligations.TrapsAndReturns : Prop :=
  (∀ (s : State) (code : BitVec 12), s.live = true → s.phase ≠ .dry →
     let done := fun (k : Core) => { k with fixed := [] }
     (s.mode = 0 → bitAt s.cc.tvec 0 = true → unconfirmed s.cc s.me.id = false →
       let h := bitsNat s.cc.tvec 56 3 * 8
       AnswersOver (.trap code) s (s.onCC done)
         { s.me with cause := 0x10D, epc := pcWord (s.pc + 8), tval := code.setWidth 64, status := setMode s.me.status 1, pc := h, npc := h,
                        barWait := none }) ∧
     (s.mode = 2 → unconfirmed s.cc s.me.id = false → AnswersOver (.trap code) s (s.warn wQUAL) s.me) ∧
     (s.mode = 1 → AnswersOver .eret s (s.onCC done)
       { s.me with status := setMode s.me.status 0, npc := bitsNat s.me.epc 56 3 * 8, taken := true }) ∧
     (s.mode = 2 → AnswersOver .eret s (s.onCC done)
       { s.me with status := setMode s.me.status (bitsNat s.me.status 2 2), npc := bitsNat s.cc.sepc 56 3 * 8, taken := true }) ∧
     (s.mode = 0 → s.phase = .whole → unconfirmed s.cc s.me.id = false →
       exec .eret s = .next (trapMe s { code := 4, late := false, aw := false, epc := s.pc, tval := 0 })) ∧
     ∀ w : BitVec 28, w.extractLsb' 22 6 = 0x38 → 2 ≤ (w.extractLsb' 0 4).toNat → decodeCBody w = none) ∧
  (∀ (s : State) (code : BitVec 12), s.live = true → s.phase ≠ .dry → s.mode = 1 → unconfirmed s.cc s.me.id = false →
     ∃ t, exec (.trap code) s = .next t ∧
       let back := bitsNat (pcWord (s.pc + 8)) 56 3 * 8
       let entered := (s.onCC fun k => { k with fixed := [], scause := 0x10D, sepc := pcWord (s.pc + 8), stval := code.setWidth 64 }).onMe
         fun a => { a with status := a.status ||| 4 }
       let told := if code = 1 then
           report entered (.cd (dieOf s.cur)) (some s.cur) 15 (bitsNat (s.me.regs.getS 1) 15 0) s.me.part (s.me.regs.getS 2)
         else entered
       t.me = { s.me with status := s.me.status ||| 4, pc := back, npc := back,
                          regs := s.me.regs.setS 1 (if code = 1 then s.me.regs.getS 1
                            else if code = 2 then bootWord s (s.me.regs.getS 1).toNat else -1) } ∧
       t.cc.scause = 0x10D ∧ t.cc.sepc = pcWord (s.pc + 8) ∧ t.cc.stval = code.setWidth 64 ∧
       t.sansMe = told.sansMe ∧ (code ≠ 1 → SameBytes s t)) ∧
  (∀ (s : State) (core ctx : Nat) (a : Act), (s.core core).run = some ctx → fget (s.core core).acts ctx = some a → a.stepDue = true →
     unconfirmed (s.core core) a.id = false → a.mode = 0 → bitAt (s.core core).tvec 0 = true →
     ∃ t, exec (.stepTrap core) s = .next t ∧ SameBytes s t ∧
       let h := bitsNat (s.core core).tvec 56 3 * 8
       fget (t.core core).acts ctx = some { a with stepDue := false, cause := 0x10D, epc := pcWord a.pc, tval := 0x1000,
                                                   status := setMode a.status 1, pc := h, npc := h, barWait := none } ∧
       ∀ c, c ≠ core → t.core c = s.core c)

open Sys2Proof Sys2Proof.Machine in
/-- 04 R128, R129, R131-R136, 17 R442, 20 R466, R484 (Table 4.10): `mfc` and `mtc`. A register that the mode may read is read into sD; one that it may
write takes the value under its fields' rules; neither changes memory, another register, or any other state. Reads of FLAGS wait until no earlier
flag is out (03 R92), and reads and writes of the nest state until no claim is (R125). FLAGS is read and cleared as the bundle found it, and what
the A-word of the bundle adds stays (02 R32). CYCLE is what a swap saved and the cycles since (R130, log 92). 03 R92: while flags of earlier
instructions are out, a read of FLAGS does not issue, and a write of it waits: FLAGS_WRITE then clears the bits whose value holds 1, but for flags
of the write's own bundle, which come after it (02 R32). While a claim is out, reads and writes of the nest state do not issue (R125). -/
def Obligations.ControlRegisters : Prop :=
  (∀ (s : State) (d : SReg) (c : BitVec 6), s.live = true → s.phase ≠ .dry → flagsOut s s.me = false →
     claimOut s.cc s.me.id = false → unconfirmed s.cc s.me.id = false →
     let v := s.rs d
     let m := s.me
     let k := s.cc
     let reads := fun (n : Nat) (x : Word) => c.toNat = n → Answers (.mfc d c) s (s.withS d x)
     let act := fun (n : Nat) (a : Act) => c.toNat = n → Answers (.mtc c d) s a
     let core := fun (n : Nat) (g : Core) => c.toNat = n → AnswersCore (.mtc c d) s s g
     let sys := s.mode = 2
     let priv := s.mode ≠ 0
     (reads 0x00 k.cctl ∧ reads 0x01 m.status ∧ reads 0x08 k.fmt ∧ reads 0x09 m.latchFlags ∧ reads 0x0A k.warn ∧ reads 0x0B k.warnpc ∧
       reads 0x0C (BitVec.ofNat 64 (k.cycleWas + (s.now - k.cycleAt))) ∧ reads 0x0D k.instret ∧ reads 0x0E (coreId s s.cur) ∧ reads 0x0F m.nest.desc ∧
       reads 0x10 m.nest.cur ∧ reads 0x11 m.nest.fin ∧ reads 0x12 m.allow ∧ reads 0x13 m.score ∧ reads 0x15 k.evt ∧
       reads 0x14 ((k.leaveW &&& 0xFFFFFFFFFFFF0000) ||| BitVec.ofNat 64 (k.cpHeld % 8192))) ∧
     (priv → reads 0x02 m.cause ∧ reads 0x03 m.epc ∧ reads 0x04 m.tval ∧ reads 0x05 k.tvec ∧ reads 0x06 k.rscr ∧ reads 0x07 k.uvec) ∧
     (sys → reads 0x16 k.scause ∧ reads 0x17 k.sepc ∧ reads 0x18 k.stval) ∧
     core 0x00 { k with cctl := (k.cctl &&& ~~~(if s.mode = 0 then 1 else 3)) ||| (v &&& (if s.mode = 0 then 1 else 3)) } ∧
     (s.mode ≠ 0 ∨ v.getLsbD 0 = k.fmt.getLsbD 0 → core 0x08 { k with fmt := v &&& 3 }) ∧
     act 0x09 { m with flags := (m.latchFlags &&& ~~~(v &&& 0x7F)) ||| m.aFlags } ∧
     core 0x0A { k with warn := (k.warn &&& 0xF &&& ~~~v) ||| (v &&& 0xFF00) } ∧
     core 0x0B { k with warnpc := v &&& 0x01FFFFFFFFFFFFF8 } ∧
     core 0x14 { k with leaveW := v &&& 0xFFFFFFFFFFFF0000 } ∧
     (priv → act 0x02 { m with cause := v &&& 0x3FF } ∧ act 0x03 { m with epc := v &&& 0x01FFFFFFFFFFFFF8 } ∧
       act 0x04 { m with tval := v } ∧ core 0x05 { k with tvec := v &&& 0x01FFFFFFFFFFFFF9 } ∧ core 0x06 { k with rscr := v } ∧
       core 0x07 { k with uvec := v &&& 0x01FFFFFFFFFFFFF9 }) ∧
     (sys → act 0x01 { m with status := (m.status &&& ~~~4) ||| (v &&& 4) } ∧ act 0x0F { m with nest := { m.nest with desc := v } } ∧
       act 0x10 { m with nest := { m.nest with cur := v } } ∧ act 0x11 { m with nest := { m.nest with fin := v } } ∧
       act 0x12 { m with allow := v &&& 0x7FFFFFFFFFFF } ∧ act 0x13 { m with score := v } ∧
       core 0x15 { k with evt := (v &&& 0xFF00) ||| (k.evt &&& 2) ||| (k.evt &&& ~~~v &&& 1) } ∧
       core 0x16 { k with scause := v &&& 0x3FF } ∧ core 0x17 { k with sepc := v &&& 0x01FFFFFFFFFFFFF8 } ∧ core 0x18 { k with stval := v })) ∧
  ((∀ (s : State) (d : SReg), s.live = true → s.phase ≠ .dry → flagsOut s s.me = true → unconfirmed s.cc s.me.id = false →
     Answers (.mtc 9 d) s { s.me with flagsWr := some (s.rs d, s.me.aFlags) }) ∧
   (∀ (s : State) (d : SReg) (c : BitVec 6), s.live = true → s.phase = .whole →
     let held := { s.me with npc := s.me.pc }
     (flagsOut s s.me = true → Answers (.mfc d 9) s held) ∧
     (claimOut s.cc s.me.id = true → 0x0F ≤ c.toNat → c.toNat ≤ 0x11 → Answers (.mfc d c) s held ∧ (s.mode = 2 → Answers (.mtc c d) s held))) ∧
   ∀ (s : State) (v own : Word), s.live = true → s.me.flagsWr = some (v, own) → flagsOut s s.me = false →
     Answers (.flagsWrite s.cur) s { s.me with flagsWr := none, flags := (s.me.flags &&& ~~~(v &&& 0x7F)) ||| own })

open Sys2Proof Sys2Proof.Machine in
/-- 04 R128: accesses that a mode may not make raise ACCESS at issue with TVAL the register's number and change no field, and so does every `mtc` of a
read-only register. -/
def Obligations.ControlRegisterPrivilege : Prop :=
  ∀ (s : State) (d : SReg) (c : BitVec 6), s.phase = .whole → unconfirmed s.cc s.me.id = false →
    let n := c.toNat
    let t : Trap := { code := 4, late := false, aw := false, epc := s.pc, tval := BitVec.ofNat 64 n }
    (s.mode = 0 ∧ (2 ≤ n ∧ n ≤ 7 ∨ 0x16 ≤ n) ∨ s.mode ≠ 2 ∧ 0x16 ≤ n → exec (.mfc d c) s = .next (trapMe s t) ∧ exec (.mtc c d) s = .next (trapMe s t)) ∧
    (s.mode ≠ 2 ∧ (n = 1 ∨ 0x0C ≤ n ∧ n ≤ 0x13 ∨ n = 0x15) → exec (.mtc c d) s = .next (trapMe s t)) ∧
    (0x0C ≤ n ∧ n ≤ 0x0E → exec (.mtc c d) s = .next (trapMe s t))

open Sys2Proof Sys2Proof.Machine in
/-- 03 R87: "A user-mode `mtc` whose value would change FMT.E4 raises ACCESS and writes no field of FMT. A user-mode `mtc` that leaves E4 unchanged
writes ZS normally." The trap is taken at issue with TVAL 8, the register's number (04 R128), and the handler finds FMT as it was. -/
def Obligations.UserFormatWrite : Prop :=
  ∀ (s : State) (d : SReg), s.live = true → s.mode = 0 → s.phase = .whole → unconfirmed s.cc s.me.id = false →
    let v := s.rs d
    (v.getLsbD 0 ≠ s.cc.fmt.getLsbD 0 → bitAt s.cc.tvec 0 = true → ∃ t, exec (.mtc 8 d) s = .next t ∧
      t = trapMe s { code := 4, late := false, aw := false, epc := s.pc, tval := 8 } ∧ t.cc.fmt = s.cc.fmt) ∧
    (v.getLsbD 0 = s.cc.fmt.getLsbD 0 → ∃ w : Word, AnswersCore (.mtc 8 d) s s { s.cc with fmt := w } ∧
      w.getLsbD 0 = s.cc.fmt.getLsbD 0 ∧ w.getLsbD 1 = v.getLsbD 1 ∧ ∀ j, 2 ≤ j → w.getLsbD j = false)

open Sys2Proof Sys2Proof.Machine in
/-- 02 R52, R54 (Tables 2.10 and 2.11): warnings. Bits that are set stay set; COUNT counts the bundle once, up to 255; WARNPC takes the address of the
bundle that raises COUNT from 0 to 1. -/
def Obligations.Warnings : Prop :=
  ∀ (k : Core) (w : Word) (pc : Nat), w ≠ 0 → w.toNat < 16 →
    let t := warnCore k w pc
    let n := bitsNat k.warn 15 8
    (∀ j, j < 4 → t.warn.getLsbD j = (k.warn.getLsbD j || w.getLsbD j)) ∧
    bitsNat t.warn 15 8 = (if k.earned = 0 then min 255 (n + 1) else n) ∧
    (∀ j, 4 ≤ j → j < 8 ∨ 16 ≤ j → t.warn.getLsbD j = false) ∧
    t.warnpc = (if k.earned = 0 ∧ n = 0 then BitVec.ofNat 64 (bitsNat (BitVec.ofNat 64 pc) 56 3 * 8) else k.warnpc) ∧
    t.earned = k.earned ||| w ∧
    { t with warn := k.warn, warnpc := k.warnpc, earned := k.earned } = k

open Sys2Proof Sys2Proof.Machine in
/-- 07 R201, R204-R207, R218 (Tables 7.2 and 7.3): a load whose checks pass leaves one request and makes its register wait for the result. It reads
nothing yet and changes no byte of memory, no other register and no other state. Where a buffered reduction covers its bytes it does not issue
yet: the overflow commit point comes first (10 R279). `ld.s` does not issue before its tile is ready. The forms that the space fixes warn where
Table 2.9 says so. -/
def Obligations.LoadsIssue : Prop :=
  ∀ (s : State) (t b : SReg) (tv : VReg) (tile : BitVec 8) (z : BitVec 2) (x : BitVec 1) (h : BitVec 2) (o : BitVec 1) (off : BitVec 4),
    s.live = true → s.phase ≠ .dry →
    let n := 2 ^ z.toNat
    let acq := decide (o = 1)
    let sx := decide (x = 1 ∧ z ≠ 3)
    let va := fun (unit : Nat) => BitVec.ofInt 64 ((s.rs b).toNat + off.toInt * unit)
    let loads := fun (i : Instr) (u : State) (mem : Bool) (kind : AccKind) (r : Reg) (a size : Nat) (acq : Bool) (hint : Nat) =>
      AnswersCore i s (u.asked mem a) ((u.cc.withRequest (u.request kind a size acq false hint none)).awaiting r)
    let global := fun (a : Word) (n : Nat) => a.toNat % n = 0 ∧ vaRefused a = false ∧ redCovers s (myPlace s a.toNat n) n = false
    let local_ := fun (a : Word) (n p : Nat) => a.toNat % n = 0 ∧ lsPlace s.me a n = some p ∧ redCovers s (winVa s.cur p) n = false
    (∀ p, local_ (va n) n p →
      loads (.ldL t b z x h o off) (s.qualIf (decide (h ≠ 2) || decide (x = 1 ∧ z = 3))) false (.load .ls (.s t sx) false) (.s t) p n acq 2) ∧
    (∀ p, local_ (va 16) 16 p →
      loads (.ldLQ tv b h o off) (s.qualIf (h ≠ 2)) false (.load .ls (.v tv) false) (.v tv) p 16 acq 2) ∧
    (global (va n) n →
      loads (.ldG t b z x h o off) (s.qualIf (decide (x = 1 ∧ z = 3))) true (.load .global (.s t sx) false) (.s t) (va n).toNat n acq h.toNat) ∧
    (global (va n) n → isQuad (va n).toNat = false →
      loads (.ldc t b z x h off) (s.qualIf (decide (x = 1 ∧ z = 3))) true (.load .global (.s t sx) true) (.s t) (va n).toNat n false h.toNat) ∧
    (global (va 16) 16 → loads (.ldGQ tv b h o off) s true (.load .global (.v tv) false) (.v tv) (va 16).toNat 16 acq h.toNat) ∧
    (global (va 4) 4 → isQuad (va 4).toNat = false → global (s.rs (b + 1)) 4 → isQuad (s.rs (b + 1)).toNat = false →
      loads (.ldGW4 tv b h o off) s true (.load .global (.w4 tv (s.rs (b + 1)).toNat) false) (.v tv) (va 4).toNat 4 acq h.toNat) ∧
    (global (va 8) 8 → isQuad (va 8).toNat = false →
      loads (.ldGE4 tv b h o off) s true (.load .global (.e4 tv) false) (.v tv) (va 8).toNat 8 acq h.toNat) ∧
    ((s.rs b).toNat % n = 0 → tileOwned s tile.toNat = true → (s.rs b).toNat < 2048 * (tileView s tile.toNat).gran →
      (tileView s tile.toNat).st = 2 → (tileView s tile.toNat).refill = false →
      redCovers s (placeOf s.cur .spad ((tileView s tile.toNat).base * 2048 + (s.rs b).toNat)) n = false →
      loads (.ldS t tile b z) s false (.load .spad (.s t false) false) (.s t) ((tileView s tile.toNat).base * 2048 + (s.rs b).toNat) n false 2) ∧
    (s.phase = .whole → (s.rs b).toNat % n = 0 → tileOwned s tile.toNat = true → (s.rs b).toNat < 2048 * (tileView s tile.toNat).gran →
      (tileView s tile.toNat).st ≠ 2 ∨ (tileView s tile.toNat).refill = true →
      Answers (.ldS t tile b z) s { s.me with npc := s.me.pc, waitFor := some (.tile tile.toNat [2]) }) ∧
    (let first := fun (i : Instr) => ∃ u, exec i s = .next u ∧ SameBytes s u ∧ u.cc.accs = s.cc.accs ∧ u.me.regs = s.me.regs ∧
       u.me.npc = s.me.pc
     s.phase = .whole → s.cc.rb.length = 1 →
      (∀ p, (va n).toNat % n = 0 → lsPlace s.me (va n) n = some p → redCovers s (winVa s.cur p) n = true → first (.ldL t b z x h o off)) ∧
      (∀ p, (va 16).toNat % 16 = 0 → lsPlace s.me (va 16) 16 = some p → redCovers s (winVa s.cur p) 16 = true → first (.ldLQ tv b h o off)) ∧
      ((va n).toNat % n = 0 → vaRefused (va n) = false → redCovers s (myPlace s (va n).toNat n) n = true → first (.ldG t b z x h o off)) ∧
      ((va 16).toNat % 16 = 0 → vaRefused (va 16) = false → redCovers s (myPlace s (va 16).toNat 16) 16 = true →
        first (.ldGQ tv b h o off)))

open Sys2Proof Sys2Proof.Machine in
/-- 07 R207, R208 (Tables 7.2 and 7.3): a store whose checks pass and whose entry fits appends the low bytes of its register to the retire buffer. It
changes no byte of memory. A global store also leaves the request that confirms its address (R228); one to the core's own window is held as a
store of the local store (R202). -/
def Obligations.StoresBuffer : Prop :=
  ∀ (s : State) (t b : SReg) (tv : VReg) (tile : BitVec 8) (z : BitVec 2) (x : BitVec 1) (h : BitVec 2) (o : BitVec 1) (off : BitVec 4),
    s.live = true → s.phase ≠ .dry →
    let n := 2 ^ z.toNat
    let rel := decide (o = 1)
    let va := fun (unit : Nat) => BitVec.ofInt 64 ((s.rs b).toNat + off.toInt * unit)
    let vec := leBytes 16 (s.rv tv).toNat
    let low := leBytes n (s.rs t).toNat
    let buffers := fun (i : Instr) (u : State) (sp : Space) (a : Nat) (data : List Byte) (rel : Bool) =>
      AnswersCore i s u (u.cc.buffering s.me data.length (.store sp a data rel 2))
    let sends := fun (i : Instr) (u : State) (a : Nat) (data : List Byte) =>
      AnswersCore i s (u.asked true a)
        ((u.cc.buffering s.me data.length
          (.store (ownPlace s.cur a data.length).1 (ownPlace s.cur a data.length).2 data rel h.toNat)).withRequest
            (u.request (.probe false none) a data.length false false h.toNat none))
    (∀ p, (va n).toNat % n = 0 → lsPlace s.me (va n) n = some p → s.hasRoom n →
      buffers (.stL t b z x h o off) (s.qualIf (decide (h ≠ 2) || decide (x = 1))) .ls p low rel) ∧
    (∀ p, (va 16).toNat % 16 = 0 → lsPlace s.me (va 16) 16 = some p → s.hasRoom 16 →
      buffers (.stLQ tv b h o off) (s.qualIf (h ≠ 2)) .ls p vec rel) ∧
    ((s.rs b).toNat % n = 0 → tileOwned s tile.toNat = true → (s.rs b).toNat < 2048 * (tileView s tile.toNat).gran →
      (tileView s tile.toNat).st = 1 ∨ (tileView s tile.toNat).st = 2 → (tileView s tile.toNat).refill = false → s.hasRoom n →
      buffers (.stS t tile b z) s .spad ((tileView s tile.toNat).base * 2048 + (s.rs b).toNat) low false) ∧
    ((va n).toNat % n = 0 → vaRefused (va n) = false → s.hasRoom n →
      sends (.stG t b z x h o off) (s.qualIf (x = 1)) (va n).toNat low) ∧
    ((va 16).toNat % 16 = 0 → vaRefused (va 16) = false → s.hasRoom 16 →
      sends (.stGQ tv b h o off) s (va 16).toNat vec)

open Sys2Proof Sys2Proof.Machine in
/-- 07 R200, R201, R206, R207, 10 R273: what a memory form refuses at issue. A misaligned address raises ALIGN with TVAL the address; an address that
Table 7.1 does not assign, or a local-store offset beyond the mode's reach, raises ACCESS; a tile that the region does not own raises TILE_OWNER;
nothing else of the bundle's word takes effect. -/
def Obligations.MemoryTrapsAtIssue : Prop :=
  ∀ (s : State) (t b : SReg) (tv : VReg) (tile : BitVec 8) (z : BitVec 2) (x : BitVec 1) (h : BitVec 2) (o : BitVec 1) (off : BitVec 4)
    (ty : BitVec 3) (od : BitVec 2) (p : BitVec 1), s.phase = .whole → unconfirmed s.cc s.me.id = false →
    let n := 2 ^ z.toNat
    let va := fun (unit : Nat) => BitVec.ofInt 64 ((s.rs b).toNat + off.toInt * unit)
    let traps := fun (code : Nat) (tval : Word) (i : Instr) =>
      exec i s = .next (trapMe s { code := code, late := false, aw := false, epc := s.pc, tval := tval })
    ((va n).toNat % n ≠ 0 →
      ∀ i ∈ [Instr.ldL t b z x h o off, .stL t b z x h o off, .ldG t b z x h o off, .stG t b z x h o off, .ldc t b z x h off], traps 3 (va n) i) ∧
    ((va 16).toNat % 16 ≠ 0 →
      ∀ i ∈ [Instr.ldLQ tv b h o off, .stLQ tv b h o off, .ldGQ tv b h o off, .stGQ tv b h o off], traps 3 (va 16) i) ∧
    ((va n).toNat % n = 0 → lsPlace s.me (va n) n = none →
      ∀ i ∈ [Instr.ldL t b z x h o off, .stL t b z x h o off], traps 4 (va n) i) ∧
    ((va n).toNat % n = 0 → vaRefused (va n) = true →
      ∀ i ∈ [Instr.ldG t b z x h o off, .stG t b z x h o off, .ldc t b z x h off], traps 4 (va n) i) ∧
    ((s.rs b).toNat % n = 0 → tileOwned s tile.toNat = false →
      ∀ i ∈ [Instr.ldS t tile b z, .stS t tile b z], traps 10 (BitVec.ofNat 64 tile.toNat) i) ∧
    ((s.rs b).toNat % (AtomTy.of ty).size ≠ 0 →
      ∀ i ∈ [Instr.atomAdd t b ty od p, .atomSwap t b ty od p, .atomCas t b ty od p, .atomAnd t b ty od p, .atomOr t b ty od p,
        .atomXor t b ty od p, .atomMin t b ty od p, .atomMax t b ty od p, .redAdd t b ty od p, .redAnd t b ty od p, .redOr t b ty od p,
        .redXor t b ty od p, .redMin t b ty od p, .redMax t b ty od p], traps 3 (s.rs b) i)

open Sys2Proof Sys2Proof.Machine in
/-- 07 R206, R209, R212: a load of the local store or the scratchpad is performed once nothing of its activation holds it up: its register takes the
bytes, newest buffered store first, zero- or sign-extended; it waits no more, its request is gone, and no byte of memory changes. 07 R206, 11
R291: a 16-byte load is performed as two halves, in either order. With one half read, the other completes it: its register takes the bytes of
both, each half where its address puts it. -/
def Obligations.LocalLoadsPerformed : Prop :=
  (∀ (s : State) (id : Nat) (x : Access) (r : SReg) (sx spad : Bool), s.live = true → s.cc.accs = [x] → x.id = id → x.act = s.me.id →
     x.st = .pending → x.dual = false → x.got = [] → x.prog = s.me.prog → x.kind = .load (if spad then .spad else .ls) (.s r sx) false → s.flights = [] → (∀ c ∈ s.cores, c.2.mxq = []) → r ≠ 0 →
     s.me.pend = [.s r] → s.cc.acts.map (·.2.id) = [s.me.id] → 0 < x.size → x.size ≤ 8 → (∀ e ∈ s.cc.rb, e.seq < x.seq) →
     let byte := fun i => (storedByte (if spad then .spad else .ls) (x.va + i)
       (s.cc.rb.map fun e => e.op.near s s.cur s.mypart s.me.rp)).getD
       (s.byte (if spad then .spad (clusterOf s.cur) (x.va + i) else .ls s.cur (x.va + i)))
     let v := ofLe ((List.range x.size).map byte)
     let w := if sx then BitVec.ofInt 64 (BitVec.ofNat (8 * x.size) v).toInt else BitVec.ofNat 64 v
     ∃ t, exec (.loadPerform s.cur id false) s = .next t ∧ SameBytes s t ∧ t.sansCC = s.sansCC ∧ t.cc.accs = [] ∧
       t.me = { s.withS r w with pend := [] }) ∧
  (∀ (s : State) (id : Nat) (x : Access) (r : VReg) (spad upper : Bool) (b : List Byte), s.live = true → s.cc.accs = [x] → x.id = id →
     x.act = s.me.id → x.st = .pending → x.dual = false → x.prog = s.me.prog → x.kind = .load (if spad then .spad else .ls) (.v r) false →
     x.size = 16 → x.got = [(if upper then 0 else 1, b)] → b.length = 8 → s.flights = [] → (∀ c ∈ s.cores, c.2.mxq = []) → s.me.pend = [.v r] →
     s.cc.acts.map (·.2.id) = [s.me.id] → (∀ e ∈ s.cc.rb, e.seq < x.seq) →
     let byte := fun i => (storedByte (if spad then .spad else .ls) (x.va + i)
       (s.cc.rb.map fun e => e.op.near s s.cur s.mypart s.me.rp)).getD
       (s.byte (if spad then .spad (clusterOf s.cur) (x.va + i) else .ls s.cur (x.va + i)))
     let all := if upper then b ++ (List.range 8).map (fun i => byte (8 + i)) else (List.range 8).map byte ++ b
     ∃ t, exec (.loadPerform s.cur id false) s = .next t ∧ SameBytes s t ∧ t.sansCC = s.sansCC ∧ t.cc.accs = [] ∧
       t.me = { s.withV r (BitVec.ofNat 128 (ofLe all)) with pend := [] })

open Sys2Proof Sys2Proof.Machine in
/-- 07 R208, R211, 13 R342: a commit point's drain performs the buffered stores of the local store in program order, where no copy command is under
way that could read their bytes first and none is cut in parts (11 R291): afterwards the buffer is empty, each byte of the local store holds the
newest store that covers it, and every other byte of the package's memories is as before. 07 R212, R213, R496: a drained store that has reached
its place. A store to a local store writes exactly its bytes, and the effect is no longer under way; every other byte of memory stays. One of more
than 8 bytes may be cut in two, which go on their own (11 R291). -/
def Obligations.LocalStoresDrainAndLand : Prop :=
  (∀ s : State, s.live = true → s.flights = [] →
     (∀ e ∈ s.cc.rb, ∃ a b rel h, e.op = .store .ls a b rel h ∧ b.length ≤ 8) → (∀ x ∈ s.cc.cps, x.2.st ≠ .queued ∧ x.2.st ≠ .running) →
     s.cc.watches = [] → s.cc.ls.wf = true →
     let t := drain s s.cur
     t.cc.rb = [] ∧
     (∀ a, t.byte (.ls s.cur a) = (storedByte .ls a (s.cc.rb.map (·.op))).getD (s.byte (.ls s.cur a))) ∧
     (∀ p, (∀ a, p ≠ .ls s.cur a) → t.byte p = s.byte p) ∧ t.me = s.me) ∧
  (∀ (s : State) (f : Flight) (a : Nat) (data : List Byte) (rel : Bool) (h : Nat), s.flights = [f] → f.op = .store .ls a data rel h →
     (s.core f.core).watches = [] → (s.core f.core).ls.wf = true →
     let lands := fun (t : State) => t.flights = [] ∧
       (∀ i, i < data.length → t.byte (.ls f.core (a + i)) = data.getD i 0) ∧
       (∀ b, b < a ∨ a + data.length ≤ b → t.byte (.ls f.core b) = s.byte (.ls f.core b)) ∧
       ∀ p, (∀ b, p ≠ .ls f.core b) → t.byte p = s.byte p
     let cut := fun (t : State) => SameBytes s t ∧ ∃ c, 0 < c ∧ c < data.length ∧
       (t.flights.map (·.op) = [.store .ls a (data.take c) rel h, .store .ls (a + c) (data.drop c) rel h] ∨
        t.flights.map (·.op) = [.store .ls (a + c) (data.drop c) rel h, .store .ls a (data.take c) rel h])
     ∃ t, exec (.storePerform f.id) s = .next t ∧ (if data.length ≤ 8 then lands t else lands t ∨ cut t))

open Sys2Proof Sys2Proof.Machine in
/-- 07 R240 (Table 7.13a): `tile.claim`. With a free entry, budget left and room, the entry becomes the region's, empty, over the lowest run of free
granules, whose bytes read as zero; sD is 0 and the claim is noted for a retry (13 R343). Else sD holds the status and nothing else changes. The
claim sees the table as performed, without the activation's own buffered changes (log 94, the model's choice). 07 R220, R233-R235, R239, R241,
R243, 13 R342: tile-state changes and `clean` append one 8-byte entry to the buffer and change no tile and no memory yet; but for a tile whose
bytes a swap has not brought back they wait (20 R473); `tile.stat` reads the activation's own view; a form on a tile that the region does not own
raises TILE_OWNER; `roc.inv`, once no acquire is out, drops the marked lines of the cluster's L1s. `up.resume` of a slot that waits clears its
STATE and queues its activation at the priority that the slot holds; of a slot that does not wait it has no effect (07 R233), nor of one that
holds no activation (log 89). -/
def Obligations.TileForms : Prop :=
  (∀ (s : State) (d a b : SReg), s.live = true → s.phase ≠ .dry → unconfirmed s.cc s.me.id = false →
     (s.cluster (clusterOf s.cur)).spad.wf = true →
     (tileView s (bitsNat (s.rs a) 7 0)).refill = false →
     let cl := clusterOf s.cur
     let c := s.cluster cl
     let n := bitsNat (s.rs a) 7 0
     let k := (s.rs b).toNat
     let own : Own := ⟨s.me.part, s.me.rp⟩
     let free := (c.tile n).owner = none ∧ (c.tile n).st ≠ 3
     let budget := fieldOf (hwPeek s s.mypart (s.me.rp + 16)) 48 9
     let held := (c.tiles.filter (fun y => decide (y.2.owner = some own))).length
     let fits := fun (base : Nat) => base + k ≤ 1024 ∧
       ∀ y ∈ c.tiles, y.2.gran ≠ 0 → y.2.base + y.2.gran ≤ base ∨ base + k ≤ y.2.base
     let status := fun (v : Word) => Answers (.tileClaim d a b) s (s.withS d v)
     (k = 0 ∨ 1024 < k → status 4) ∧
     (0 < k → k ≤ 1024 → ¬free → status 1) ∧
     (0 < k → k ≤ 1024 → free → budget ≤ held → status 2) ∧
     (0 < k → k ≤ 1024 → free → held < budget → (∀ base, ¬fits base) → status 3) ∧
     (∀ base, 0 < k → k ≤ 1024 → free → held < budget → fits base → (∀ base', base' < base → ¬fits base') →
       ∃ t, exec (.tileClaim d a b) s = .next t ∧
         (t.cluster cl).tile n = { owner := some own, ent := entrantOf s s.mypart s.me.rp s.cur, st := 0, base := base, gran := k,
                                   refill := false, claim := s.fresh } ∧
         (∀ m, m ≠ n → (t.cluster cl).tile m = c.tile m) ∧
         t.me = { s.withS d 0 with claims := s.me.claims ++ [(cl, n, s.fresh)] } ∧
         (∀ o, base * 2048 ≤ o → o < (base + k) * 2048 → t.byte (.spad cl o) = 0) ∧
         (∀ p, (∀ o, base * 2048 ≤ o → o < (base + k) * 2048 → p ≠ .spad cl o) → t.byte p = s.byte p))) ∧
  (∀ (s : State) (d a b : SReg), s.live = true → s.phase ≠ .dry →
     let n := bitsNat (s.rs a) 7 0
     let v := tileView s n
     let entry := fun (i : Instr) (op : RbOp) => AnswersCore i s s (s.cc.buffering s.me 8 op)
     (tileOwned s n = true → v.refill = false → s.hasRoom 8 →
       entry (.tileFree a) (.tile .free n) ∧ entry (.tileFill a) (.tile .fill n) ∧ entry (.tileReady a) (.tile .ready n) ∧
       entry (.tileDrop a) (.tile .drop n)) ∧
     (tileOwned s n = true → v.refill = true → s.phase = .whole → unconfirmed s.cc s.me.id = false →
       ∀ i ∈ [Instr.tileFree a, .tileFill a, .tileReady a, .tileDrop a], ∃ t, exec i s = .next t ∧ SameBytes s t ∧ t.cc.rb = s.cc.rb ∧
         t.me = { s.me with npc := s.me.pc, waitFor := some (.tile n [0, 1, 2, 3]) }) ∧
     (tileOwned s n = true → Answers (.tileStat d a) s (s.withS d
       (BitVec.ofNat 64 ((if v.owner.isSome then v.gran * 2 ^ 20 + v.base * 2 ^ 8 else 0) + 4 + v.st % 4)))) ∧
     (tileOwned s n = false → s.phase = .whole → unconfirmed s.cc s.me.id = false →
       ∀ i ∈ [Instr.tileFree a, .tileFill a, .tileReady a, .tileDrop a, .tileStat d a],
         exec i s = .next (trapMe s { code := 10, late := false, aw := false, epc := s.pc, tval := BitVec.ofNat 64 n })) ∧
     (s.rs b = 0 → Answers (.clean a b) s s.me) ∧
     (0 < (s.rs b).toNat → (s.rs b).toNat ≤ 2 ^ 30 → s.hasRoom 8 → entry (.clean a b) (.clean (s.rs a).toNat (s.rs b).toNat)) ∧
     (unconfirmed s.cc s.me.id = false →
       let f := bitsNat (s.rs a) 2 0
       (lsWord s.cc (fibreBase f + 0x470) % 2 = 1 → (fget s.cc.fibres f).isSome = true → s.cc.ls.wf = true →
         ∃ t, exec (.upResume a) s = .next t ∧ t.me = s.me ∧ lsWord t.cc (fibreBase f + 0x470) = 0 ∧
           t.cc.queue = s.cc.queue ++ [{ kind := .fibre f, prio := fieldOf (lsWord s.cc (fibreBase f + 0x468)) 8 3, since := s.now, aged := 0,
                                         resv := false }] ∧
           ∀ p, (∀ i, i < 8 → p ≠ .ls s.cur (fibreBase f + 0x470 + i)) → t.byte p = s.byte p) ∧
       (lsWord s.cc (fibreBase f + 0x470) % 2 = 0 ∨ fget s.cc.fibres f = none → Answers (.upResume a) s s.me)) ∧
     (acquireOut s.cc s.me.id = false → ∃ t, exec .rocInv s = .next t ∧ SameBytes s t ∧ t.me = s.me ∧
       ∀ c, (t.core c).l1 = if clusterOf c = clusterOf s.cur then
         fmapVals (fun _ set => set.filter fun x => !x.2.marked) (s.core c).l1 else (s.core c).l1))

open Sys2Proof Sys2Proof.Machine in
/-- 10 R276, R277, 13 R341, R342: an `atom.` form is a commit point. With nothing that it must wait for and an empty buffer it leaves its request,
with the operands read at issue; the snapshot is taken with pc after it and sD pending in both; sD is not written yet and no byte of memory
changes. 10 R272, R273, R279: a reduction whose checks pass and whose entry fits is buffered in 16 bytes with its operand, and leaves the request
that confirms its address. sD is not written, memory does not change yet, and it is no commit point. `.acq` and `.ar` act as `.rel`, and `.near`
at a window as `.far`; each sets WARN.QUAL. 11 R286, R287 (Table 11.2): a fence with nothing to wait for goes on and changes no register and no
byte of memory. At die scope and above it is a commit point whose snapshot holds pc at the fence; below it, it only orders. A scope that the form
does not have takes the nearest that it has, and an absent ordering acts as acquire and release; both set WARN.QUAL. `.roc` and `.full` end with
`roc.inv`. -/
def Obligations.AtomicsAndReductionsIssue : Prop :=
  (∀ (s : State) (d a : SReg) (ty : BitVec 3) (o : BitVec 2) (p : BitVec 1), s.live = true → s.phase ≠ .dry → s.cc.rb = [] → s.cc.accs = [] →
     s.cc.mxq = [] → d ≠ 0 →
     let va := s.rs a
     let t := AtomTy.of ty
     let window := isWindow va.toNat || isQuad va.toNat
     let near := decide (p = 1) && !window
     let u := s.qualIf (decide (p = 1) && window)
     va.toNat % t.size = 0 → vaRefused va = false → (isWindow va.toNat = true → t ≠ .f32) →
     ∀ i op, (i, op) ∈ [(Instr.atomAdd d a ty o p, AtomOp.add), (.atomSwap d a ty o p, .swap), (.atomCas d a ty o p, .cas),
         (.atomAnd d a ty o p, .and), (.atomOr d a ty o p, .or), (.atomXor d a ty o p, .xor), (.atomMin d a ty o p, .min),
         (.atomMax d a ty o p, .max)] →
       let waits := { s.me with pend := Reg.s d :: s.me.pend.filter (· ≠ Reg.s d) }
       ∃ r, exec i s = .next r ∧ SameBytes s r ∧ r.sansCC = (u.asked true va.toNat).sansCC ∧
         r.cc.accs = [u.request (.atom op t near (s.rs d) (s.rs (d + 1)) d) va.toNat t.size (decide (o = 1 ∨ o = 3)) (decide (2 ≤ o.toNat)) 0
                        (some (beforeSnap s.me))] ∧
         r.cc.rb = [] ∧
         r.me = { waits with snap := snapOf waits s.me.npc, attempts := 0, claims := [], barClaims := [], potClaims := [] }) ∧
  (∀ (s : State) (d a : SReg) (ty : BitVec 3) (o : BitVec 2) (p : BitVec 1), s.live = true → s.phase ≠ .dry →
     let va := s.rs a
     let t := AtomTy.of ty
     let window := isWindow va.toNat || isQuad va.toNat
     let near := decide (p = 1) && !window
     let u := s.qualIf (decide (p = 1) && window || decide (o = 1 ∨ o = 3))
     va.toNat % t.size = 0 → vaRefused va = false → (isWindow va.toNat = true → t ≠ .f32) → s.hasRoom 16 →
     ∀ i op, (i, op) ∈ [(Instr.redAdd d a ty o p, AtomOp.add), (.redAnd d a ty o p, .and), (.redOr d a ty o p, .or),
         (.redXor d a ty o p, .xor), (.redMin d a ty o p, .min), (.redMax d a ty o p, .max)] →
       AnswersCore i s (u.asked true va.toNat)
         ((u.cc.buffering s.me 16 (.red va.toNat op t (s.rs d) (decide (o ≠ 0)) near)).withRequest
           (u.request (.probe near (some (op, t))) va.toNat t.size false false 2 none))) ∧
  (∀ (s : State) (sc : BitVec 3) (o : BitVec 2), s.live = true → s.phase ≠ .dry → s.cc.rb = [] → s.cc.accs = [] → (∀ c ∈ s.cores, c.2.mxq = []) →
     s.flights = [] → cpOut s s.me.id = false →
     ∀ i lo roc, (i, lo, roc) ∈ [(Instr.fence sc o, 0, false), (.fenceEng sc o, 2, false), (.fenceMx sc o, 1, false),
         (.fenceRoc sc o, 1, true), (.fenceFull sc o, 2, true)] →
       let scope := max lo (min 4 sc.toNat)
       let u := s.qualIf (decide (o = 0) || decide (scope ≠ sc.toNat))
       ∃ t, exec i s = .next t ∧ SameBytes s t ∧ t.cc.rb = [] ∧ t.cc.accs = [] ∧ t.cc.warn = u.cc.warn ∧
         (t.cc.l1 = if roc then fmapVals (fun _ set => set.filter fun x => !x.2.marked) s.cc.l1 else s.cc.l1) ∧
         t.me = if 2 ≤ scope then
           { s.me with snap := beforeSnap s.me, attempts := 0, claims := [], barClaims := [], potClaims := [] } else s.me)

open Sys2Proof Sys2Proof.Machine in
/-- 10 R271, R273, R276 (Table 10.4): an atomic at a local-store window is one indivisible read and write at the target's port: the bytes take f(old,
v, w), the old value waits to return, and no other byte changes. 10 R276 (Table 10.4): the operations of atomics, on the bits of their type: sums
modulo 2^(8 size), signed or unsigned extremes, bitwise logic, and a `cas` that compares bits. 10 R277, 04 R125: the reply of an atomic or a claim
writes its result into sD of the activation and of its snapshot alike, both wait no more for it, and its request is gone. No byte of memory
changes. -/
def Obligations.AtomicsPerformed : Prop :=
  (∀ (s : State) (id core c off : Nat) (x : Access) (op : AtomOp) (ty : AtomTy) (near : Bool) (v w : Word) (d : SReg),
     s.access id = some (core, x) → x.id = id → x.st = .pending → x.kind = .atom op ty near v w d → s.flights = [] →
     vaKind x.va = .window c off → off + ty.size ≤ 0x1C000 → corePresent s c = true → (s.core core).part.isSome = true →
     (s.core c).part = (s.core core).part → (s.core c).watches = [] → (s.core c).ls.wf = true →
     let n := ty.size
     let old := wordOfLe ((List.range n).map fun i => s.byte (.ls c (off + i)))
     let new := atomApply op ty old v w
     ∃ t, exec (.atomicPerform id false) s = .next t ∧
       (∀ i, i < n → t.byte (.ls c (off + i)) = new.extractLsb' (8 * i) 8) ∧
       (∀ p, (∀ i, i < n → p ≠ .ls c (off + i)) → t.byte p = s.byte p) ∧
       ∃ y, y ∈ (t.core core).accs ∧ y = { x with st := .performed old }) ∧
  (∀ (ty : AtomTy) (old v w : Word), ty ≠ .f32 →
     let b := 8 * ty.size
     let x := old.toNat % 2 ^ b
     let y := v.toNat % 2 ^ b
     let num := fun (n : Nat) => if (ty = .i32 ∨ ty = .i64) ∧ 2 ^ (b - 1) ≤ n then (n : Int) - 2 ^ b else n
     let r := fun op => (atomApply op ty old v w).toNat
     r .add = (x + y) % 2 ^ b ∧ r .swap = y ∧ r .cas = (if x = y then w.toNat % 2 ^ b else x) ∧
     (∀ j, j < b → (r .and).testBit j = (x.testBit j && y.testBit j) ∧ (r .or).testBit j = (x.testBit j || y.testBit j) ∧
       (r .xor).testBit j = (x.testBit j != y.testBit j)) ∧
     (r .min = x ∨ r .min = y) ∧ num (r .min) = min (num x) (num y) ∧ (r .max = x ∨ r .max = y) ∧ num (r .max) = max (num x) (num y)) ∧
  (∀ (s : State) (id : Nat) (x : Access) (d : SReg) (old : Word), s.live = true → s.cc.accs = [x] → x.id = id → x.st = .performed old →
     x.act = s.me.id → s.me.pend = [.s d] → s.me.snap.pend = [.s d] → s.cc.acts.map (·.2.id) = [s.me.id] → d ≠ 0 →
     let lands := fun (v : Word) => ∃ t, exec (.atomicReply s.cur id) s = .next t ∧ SameBytes s t ∧ t.cc.accs = [] ∧
       t.me = { s.me with regs := s.me.regs.setS d v, pend := [],
                          snap := { s.me.snap with regs := s.me.snap.regs.setS d v, pend := [] } }
     (∀ op ty near v w, x.kind = .atom op ty near v w d →
       lands (if ty = .i32 then BitVec.ofInt 64 (old.setWidth 32 : BitVec 32).toInt
         else if ty.size = 4 then BitVec.ofNat 64 (old.toNat % 2 ^ 32) else old)) ∧
     (∀ desc, x.kind = .claim desc d → lands old))

open Sys2Proof Sys2Proof.Machine in
/-- 04 R125: `nest.claim` checks the alignment of sA at issue and then is a commit point that sends one request; nothing else is read yet. 04 R125:
the chunk of a claim never passes the total, and never is smaller than MIN while so much is left: so the chunks of one counter cover the
iterations once. 04 R127: `nest.next` with a point left puts its coordinates in i0 to i3, level n - 1 innermost, moves NCUR on and transfers to
sA; with none left it changes nothing. While a claim has not returned it does not issue (R125). With a count of 0 the bundle completes too, and
the coordinates are free values (log 81). -/
def Obligations.NestClaimsAndPoints : Prop :=
  (∀ (s : State) (d a : SReg), s.live = true → s.phase ≠ .dry → s.cc.rb = [] → s.cc.accs = [] → s.cc.mxq = [] → d ≠ 0 →
     (s.rs a).toNat % 8 = 0 →
     let va := (s.rs a).toNat
     let waits := { s.me with pend := Reg.s d :: s.me.pend.filter (· ≠ Reg.s d) }
     ∃ r, exec (.nestClaim d a) s = .next r ∧ SameBytes s r ∧ r.sansCC = (s.asked true va).sansCC ∧
       r.cc.accs = [s.request (.claim va d) va 8 true true 0 (some (beforeSnap s.me))] ∧ r.cc.rb = [] ∧
       r.me = { waits with snap := snapOf waits s.me.npc, attempts := 0, claims := [], barClaims := [], potClaims := [] }) ∧
  (∀ (total mn k p old : Nat), 0 < mn → 0 < k → 0 < p →
     let c := claimChunk total mn k p old
     (total ≤ old → c = 0) ∧
     (old < total → 0 < c ∧ old + c ≤ total ∧ min mn (total - old) ≤ c ∧ total - old ≤ k * p * max c mn)) ∧
  ((∀ (s : State) (a : SReg), s.live = true → s.phase = .whole → claimOut s.cc s.me.id = true →
     (s.me.nest.cur.toNat < s.me.nest.fin.toNat → (s.rs a).toNat % 8 = 0) → Answers (.nestNext a) s { s.me with npc := s.me.pc }) ∧
   ∀ (s : State) (a : SReg), s.live = true → s.phase ≠ .dry → claimOut s.cc s.me.id = false →
     let n := s.me.nest
     (n.fin.toNat ≤ n.cur.toNat → Answers (.nestNext a) s s.me) ∧
     (n.cur.toNat < n.fin.toNat → (s.rs a).toNat % 8 = 0 → n.n ≤ 4 →
       ∃ r : Regs, Answers (.nestNext a) s { s.me with regs := r, nest := { n with cur := n.cur + 1 }, npc := (s.rs a).toNat, taken := true } ∧
         r.s = s.me.regs.s ∧ r.v = s.me.regs.v ∧ r.k = s.me.regs.k ∧
         ((∀ e, e < n.n → n.counts.getD e 0 ≠ 0) → ∀ d : IReg,
           let inner := ((List.range n.n).filter fun e => decide (d.toNat < e)).map fun e => (n.counts.getD e 0).toNat
           r.getI d = if d.toNat < n.n then
               BitVec.ofNat 64 (n.cur.toNat / inner.prod % (n.counts.getD d.toNat 0).toNat) * n.steps.getD d.toNat 0
             else 0)))

open Sys2Proof Sys2Proof.Machine in
/-- 10 R282, R283: `wait.any` with every slot unused returns 5; else it commits, leaves one arm for each slot in use, parks, and waits for sD. 10
R283: a slot is armed at a local-store window while its word holds the expected value, and fires at once when it does not or the table of 16
watches is full. No byte of memory changes. 10 R283 (Table 10.6): a timeout that has passed with every slot armed and none fired ends the wait
with code 5 in sD and queues the activation; earlier, with a slot fired, or where a re-arm is forced (code 4, 20 R471), the timeout changes
nothing. -/
def Obligations.WaitAnyCourse : Prop :=
  (∀ (s : State) (d a b : SReg), s.live = true → s.phase ≠ .dry → s.cc.rb = [] → s.cc.accs = [] → s.cc.mxq = [] → d ≠ 0 →
     let off := bitsNat (s.rs a) 16 0
     let sl := waitSlots s off
     off % 64 = 0 → (lsPlace s.me (BitVec.ofNat 64 off) 64).isSome = true →
     (∀ x ∈ sl, x.addr ≠ 0 → x.addr % 8 = 0 ∧ vaRefused (BitVec.ofNat 64 x.addr) = false ∧ isQuad x.addr = false) →
     ∃ t, exec (.waitAny d a b) s = .next t ∧ SameBytes s t ∧ t.cc.rb = [] ∧
       ((∀ x ∈ sl, x.addr = 0) → t.live = true ∧ t.me.regs = s.me.regs.setS d 5 ∧ t.cc.accs = []) ∧
       ((∃ x ∈ sl, x.addr ≠ 0) → t.cc.run = none ∧
         t.cc.accs.map (fun x => (x.kind, x.va)) =
           (sl.zipIdx.filter (fun x => decide (x.1.addr ≠ 0))).map (fun x => (AccKind.arm x.2, x.1.addr)) ∧
         ∃ ctx m, s.cc.run = some ctx ∧ fget t.cc.acts ctx = some m ∧ m.regs = s.me.regs ∧ m.pc = s.me.npc ∧ .s d ∈ m.pend ∧
           m.park = .waitAny sl (if s.rs b = 0 then none else some (s.rs b).toNat) false d)) ∧
  (∀ (s : State) (core ctx n c off : Nat) (a : Act) (x : Access) (sl : List WSlot) (dl : Option Nat) (f : Bool) (d : SReg),
     fget (s.core core).acts ctx = some a → a.park = .waitAny sl dl f d → (s.core core).accs = [x] → x.act = a.id → x.st = .pending →
     x.kind = .arm n → n < sl.length → vaKind x.va = .window c off → corePresent s c = true → (s.core c).part = some a.part → off + 8 ≤ 0x1C000 →
     let word := wordOfLe ((List.range 8).map fun i => s.byte (.ls c (off + i)))
     let full := 16 ≤ (s.core c).watches.length
     let same := word = (sl.map (·.exp)).getD n 0
     ∃ t m sl' dl', exec (.watchArm core ctx n) s = .next t ∧ SameBytes s t ∧ (t.core core).accs = [] ∧
       fget (t.core core).acts ctx = some m ∧ m.park = .waitAny sl' dl' f d ∧ (sl'.getD n ⟨0, 0, false, false⟩).armed = true ∧
       (¬same ∨ full → (sl'.getD n ⟨0, 0, false, false⟩).fired = true ∧ (t.core c).watches = (s.core c).watches) ∧
       (same → ¬full → (t.core c).watches = (s.core c).watches ++ [{ core := core, ctx := ctx, slot := n, part := a.part, va := x.va }])) ∧
  (∀ (s : State) (core ctx : Nat) (a : Act) (sl : List WSlot) (t : Nat) (f : Bool) (d : SReg),
     fget (s.core core).acts ctx = some a → a.park = .waitAny sl (some t) f d → a.pend = [.s d] → d ≠ 0 →
     let due := f = false ∧ allArmed sl = true ∧ (∀ x ∈ sl, x.fired = false) ∧ t ≤ s.now
     (¬due → exec (.waitAnyTimeout core ctx) s = .next s) ∧
     (due → ∃ u m, exec (.waitAnyTimeout core ctx) s = .next u ∧ SameBytes s u ∧ fget (u.core core).acts ctx = some m ∧
       m.park = .queued ∧ m.regs = a.regs.setS d 5 ∧ m.pend = [] ∧ m.pc = a.pc ∧
       ∃ e ∈ (u.core core).queue, e.kind = .ctx ctx))

open Sys2Proof Sys2Proof.Machine in
/-- 13 R318-R320: a send form whose checks pass reads its 16-byte aligned block through its own earlier stores, buffers one message with the header of
Table 13.3 and up to 14 payload words, and leaves the request that confirms the target's control block. No byte of memory changes and nothing is
sent yet. 13 R348, R349, R352, R353, R358: launches, kills, triggers and barrier frees append one entry to the retire buffer, and forms that name
a control block leave the request that confirms it; `region.stat` leaves an acquiring load of two words of the block. Nothing happens at the block
or the unit yet. A predecessor of 0 names the executing region. -/
def Obligations.SendsAndRegionFormsBuffer : Prop :=
  (∀ (s : State) (a b : SReg), s.live = true → s.phase ≠ .dry →
     let off := bitsNat (s.rs b) 16 0
     let w0 := readLsWord s off
     let n := bitsNat w0 31 28
     let r := (readLsWord s (off + 8)).toNat
     let rcb := if r = 0 then s.me.rp else r
     let v := s.rs a
     off % 16 = 0 → n ≤ 14 → bitsNat w0 63 32 % 8 = 0 → (lsPlace s.me (BitVec.ofNat 64 off) (16 + 8 * n)).isSome = true → rcb % 512 = 0 →
     s.hasRoom (16 + 8 * n) →
     let hdr : Hdr := { ver := 1, kind := 0, rcb := rcb, prio := bitsNat w0 5 3, eoff := bitsNat w0 63 32, len := n, e4 := s.e4,
                        spkg := s.pkg, src := s.cur }
     let pay := (List.range n).map fun i => readLsWord s (off + 16 + 8 * i)
     let sends := fun (i : Instr) (t : MsgTarget) => AnswersCore i s (s.asked true rcb)
       ((s.cc.buffering s.me (16 + 8 * n) (.msg hdr pay t)).withRequest (s.request (.probe false none) rcb 8 false false 2 none))
     (bitsNat v 37 32 ≠ s.pkg ∨ (corePresent s (bitsNat v 11 0) = true ∧ (s.core (bitsNat v 11 0)).part = some s.mypart) →
       sends (.sendR a b) (.core (bitsNat v 37 32) (bitsNat v 11 0))) ∧
     sends (.sendA a b) (.owner (fold9 v.toNat % 64)) ∧
     sends (.sendAny b) .any) ∧
  (∀ (s : State) (d a b : SReg), s.live = true → s.phase ≠ .dry →
     let v := (s.rs a).toNat
     let p := if s.rs b = 0 then s.me.rp else (s.rs b).toNat
     let u := s.asked true v
     let probe := fun (s : State) (rcb : Nat) => s.request (.probe false none) rcb 8 false false 2 none
     (v % 512 = 0 → s.hasRoom 16 →
       AnswersCore (.regionLaunch a) s u ((s.cc.buffering s.me 16 (.launch v false 0)).withRequest (probe s v))) ∧
     (v % 512 = 0 → (s.rs b).toNat % 512 = 0 → s.hasRoom 16 →
       AnswersCore (.regionLaunchEarly a b) s (u.asked true p)
         (((s.cc.buffering s.me 16 (.launch v true p)).withRequest (probe s v)).withRequest (probe u p))) ∧
     (v % 512 = 0 → s.hasRoom 8 →
       AnswersCore (.regionKill a) s u ((s.cc.buffering s.me 8 (.kill v)).withRequest (probe s v))) ∧
     ((s.rs a + 8).toNat % 8 = 0 → vaRefused (s.rs a + 8) = false → redCovers s (myPlace s (v + 8) 64) 64 = false →
       AnswersCore (.regionStat d a) s u
         ((s.cc.withRequest (s.request (.load .global (.stat d) false) v 8 true false 2 none)).awaiting (.s d))) ∧
     (s.hasRoom 8 → AnswersCore .launchTrig s s (s.cc.buffering s.me 8 .trig)) ∧
     (cdPresent s (bitsNat (s.rs a) 9 0 / 64) = true → s.hasRoom 8 →
       AnswersCore (.barFree a) s s (s.cc.buffering s.me 8 (.barFree (bitsNat (s.rs a) 9 0)))))

open Sys2Proof Sys2Proof.Machine in
/-- 13 R337-R340 (Table 13.7): with nothing outstanding, `act.end` frees its context and leaves the decrement of LIVE under way; `act.migrate` to
another core sends its whole activation there as one message of KIND 4, to go on after the bundle, and to its own core only commits; `act.info`
reads the header and place of its activation; `act.fail` takes the recorded fault, with the low 16 bits of sA, to the fault domain. -/
def Obligations.ActivationForms : Prop :=
  ∀ (s : State) (d a : SReg) (ctx : Nat), s.live = true → s.phase ≠ .dry → s.cc.run = some ctx → frising s.cc.acts = true →
    let m := s.me
    let v := s.rs a
    let idle := s.cc.rb = [] ∧ s.cc.accs = [] ∧ s.cc.mxq = [] ∧ s.flights = [] ∧ s.cc.errDue = none
    (idle → ∃ t f, exec .actEnd s = .next t ∧ SameBytes s t ∧ t.cc.run = none ∧ fget t.cc.acts ctx = none ∧ t.flights = [f] ∧
      f.op = .liveDec m.rp ∧ f.part = m.part ∧ f.act = m.prog) ∧
    (idle → bitsNat v 37 32 = s.pkg → bitsNat v 11 0 = s.cur → corePresent s s.cur = true → s.cc.part = some s.mypart →
      ∃ t, exec (.actMigrate a) s = .next t ∧ SameBytes s t ∧
        t.me = { m with snap := snapOf m m.npc, attempts := 0, claims := [], barClaims := [], potClaims := [] }) ∧
    (idle → bitsNat v 37 32 = s.pkg → bitsNat v 11 0 ≠ s.cur → corePresent s (bitsNat v 11 0) = true →
      (s.core (bitsNat v 11 0)).part = some s.mypart →
      ∃ t g b, exec (.actMigrate a) s = .next t ∧ SameBytes s t ∧ t.cc.run = none ∧ fget t.cc.acts ctx = none ∧
        t.msgs = s.msgs ++ [g] ∧ g.core = bitsNat v 11 0 ∧ g.hdr.kind = 4 ∧ g.hdr.rcb = m.rp ∧ g.st = .travelling ∧ g.act = some b ∧
        b.id = m.id ∧ b.regs = m.regs ∧ b.flags = m.flags ∧ b.pc = m.npc ∧ b.extLen = m.extLen) ∧
    Answers (.actInfo d) s (s.withS d (BitVec.ofNat 64
      (m.hdr.src + m.hdr.prio * 2 ^ 12 + (if m.hdr.e4 then 2 ^ 15 else 0) + m.hdr.len * 2 ^ 16 + m.ring * 2 ^ 20 +
        bitsNat m.status 9 8 * 2 ^ 22 + m.hdr.kind * 2 ^ 24 + m.hdr.spkg * 2 ^ 32 + m.extBase / 4096 * 2 ^ 40))) ∧
    (s.mode ≠ 2 → unconfirmed s.cc m.id = false → exec (.actFail a) s = .next (faultDomain s s.cur ctx
      { code := bitsNat m.cause 7 0, late := bitAt m.cause 8, aw := bitAt m.cause 9, epc := m.epc.toNat, tval := m.tval,
        sw := bitsNat v 15 0 }))

open Sys2Proof Sys2Proof.Machine in
/-- 13 R343: a detected error, or 2^24 cycles without a bundle, ends the attempt of the running activation while its region's RETRY allows another:
what it has not committed is discarded, its context is free, and it waits to restart with one more attempt on its count. No byte of memory
changes. An expiry before its time changes nothing. (In the drain of a commit point an error waits for its end, 13 R342.) 13 R343, R344: an
attempt that waits to restart is kept a usable context and extent on the lowest-numbered other core of its cluster that has them. Once its
committed requests are complete it restarts there: its extent is copied, its registers, flags and pc are those of its snapshot, and it is queued.
Every other byte stays. -/
def Obligations.AttemptsEndAndRestart : Prop :=
  (∀ (s : State) (core ctx : Nat) (a : Act), (s.core core).run = some ctx → fget (s.core core).acts ctx = some a →
     frising (s.core core).acts = true → (∀ e ∈ (s.core core).rb, ∀ runs c, e.op ≠ .ast runs c) → a.claims = [] → a.barClaims = [] → a.potClaims = [] → a.park = .running → (s.core core).draining = false →
     (s.core core).errDue = none →
     a.attempts < fieldOf (hwPeek s a.part (a.rp + 8)) 7 3 →
     let ends := fun (i : Instr) => ∃ t, exec i s = .next t ∧ SameBytes s t ∧ (t.core core).run = none ∧ fget (t.core core).acts ctx = none ∧
       (t.core core).rb = [] ∧ t.restarts = s.restarts ++ [(core, { a with attempts := a.attempts + 1 }, ctx)]
     ends (.detectedError core) ∧
     ((s.core core).lastIssue + 2 ^ 24 ≤ s.now → ends (.watchdogExpiry core)) ∧
     (s.now < (s.core core).lastIssue + 2 ^ 24 → exec (.watchdogExpiry core) s = .next s)) ∧
  ((∀ (s : State) (src core n ctx b : Nat) (a : Act), s.restarts = [(src, a, n)] → booked s a.id = false →
     restartCore s (src, a, n) = some core → ctxFor s core a.ring = some ctx → freeExtent s core a.extLen = some b →
     clusterOf core = clusterOf src ∧ core ≠ src ∧ (s.core core).part = some a.part ∧ fget (s.core core).acts ctx = none ∧
       (a.id, ctx, b, a.extLen) ∈ ((bookRestarts s).core core).resv ∧
       ∀ c, c < core → clusterOf c = clusterOf src → c ≠ src → corePresent s c = true → (s.core c).part = some a.part →
         (s.core c).swapping = false → ctxFor s c a.ring = none ∨ freeExtent s c a.extLen = none) ∧
   ∀ (s : State) (src core n ctx b : Nat) (a : Act), s.restarts = [(src, a, n)] → restartReady s (src, a, n) = true →
     (s.core core).resv = [(a.id, ctx, b, a.extLen)] → (s.core core).ls.wf = true →
     ∃ t m, exec (.retryRestart core false) s = .next t ∧ t.restarts = [] ∧ fget (t.core core).acts ctx = some m ∧
       m.regs = a.snap.regs ∧ m.flags = a.snap.flags ∧ m.pc = a.snap.pc ∧ m.npc = a.snap.pc ∧ m.extBase = b ∧
       m.extLen = a.extLen ∧ m.attempts = a.attempts ∧ m.park = .queued ∧ (∃ e ∈ (t.core core).queue, e.kind = .ctx ctx) ∧
       (∀ i, i < a.extLen → t.byte (.ls core (m.extBase + i)) = s.byte (.ls src (a.extBase + i))) ∧
       ∀ p, (∀ i, i < a.extLen → p ≠ .ls core (m.extBase + i)) → t.byte p = s.byte p)

open Sys2Proof Sys2Proof.Machine in
/-- 13 R321 (Table 13.4): a drained message to a core of this package, whose block translates, is released: LIVE of its running region counts it, its
priority is lowered to the region's, and it travels. For a region that is not running it is dropped and counts nowhere. 13 R322, R325, R326, R331:
a message that has arrived, or whose wait is over, lands in its ring when its record fits and its core's run queue has room: header and payload
stand at the ring's tail, or at position 0 behind a pad record of KIND 3 where the record would cross the ring's end. TAIL advances by the
record's size and the pad's, and the queue holds it at its priority. Every other byte stays. A refused message is not sent again before its wait
ends. -/
def Obligations.MessagesReleasedAndLand : Prop :=
  (∀ (s : State) (f : Flight) (h : Hdr) (pay : List Word) (c : Nat) (pte : Word) (lv pa : Nat), s.flights = [f] →
     f.op = .msg h pay (.core s.pkg c) → xlateHw s f.part h.rcb .w = .ok pte lv pa → homeWait s f.part h.rcb pte pa true = none →
     let w := hwPeek s f.part (h.rcb + 8)
     ∃ t, exec (.messageRelease f.id) s = .next t ∧ t.flights = [] ∧
       (fieldOf w 13 3 = 2 → ∃ m, t.msgs = s.msgs ++ [m] ∧ m.core = c ∧ m.pay = pay ∧ m.part = f.part ∧ m.st = .travelling ∧ m.dest = none ∧
         m.hdr = { h with prio := min h.prio (fieldOf w 2 3) } ∧
         { t with msgs := s.msgs, fresh := s.fresh } =
           { hwPoke { s with flights := [] } f.part (h.rcb + 64) (hwPeek { s with flights := [] } f.part (h.rcb + 64) + 1) with fresh := s.fresh }) ∧
       (fieldOf w 13 3 ≠ 2 → t = msgDropped { s with flights := [] } f.part h.rcb s.pkg c)) ∧
  (∀ (s : State) (m : Msg), s.msgs = [m] → m.dest = none → corePresent s m.core = true → (s.core m.core).part = some m.part → (s.core m.core).swapping = false →
     (s.partn m.part).st ≠ 1 → regionState s m.part m.hdr.rcb = 2 → (s.core m.core).ls.wf = true → (s.core m.core).queue = [] →
     let k := s.core m.core
     let base := 0x1E400 + 0x700 * m.ring
     let head := lsWord k base
     let tail := lsWord k (base + 8)
     let z := (16 + 8 * m.pay.length + 15) / 16 * 16
     let q := tail % 1728
     let pad := if 1728 < q + z then 1728 - q else 0
     let pos := if 1728 < q + z then 0 else q
     m.pay.length ≤ 14 → head ≤ tail → tail % 16 = 0 → pad + z ≤ 1728 - (tail - head) → tail + pad + z < 2 ^ 64 →
     let words := m.hdr.word0 :: m.hdr.word8 0 :: m.pay.map (·.toNat)
     let lands := fun (i : Instr) => ∃ t e, exec i s = .next t ∧ t.msgs = [] ∧
       (t.core m.core).queue = [e] ∧ e.kind = .msg m.ring pos ∧ e.prio = m.hdr.prio ∧ e.since = s.now ∧ e.resv = decide (m.ring = 3) ∧
       lsWord (t.core m.core) (base + 8) = tail + pad + z ∧
       (∀ j, j < words.length → lsWord (t.core m.core) (base + 64 + pos + 8 * j) = words.getD j 0 % 2 ^ 64) ∧
       (pad ≠ 0 → fieldOf (lsWord (t.core m.core) (base + 64 + q)) 57 3 = 3) ∧
       ∀ p, (∀ o, (base + 8 ≤ o ∧ o < base + 16) ∨ (base + 64 + pos ≤ o ∧ o < base + 64 + pos + 8 * words.length) ∨
         (pad ≠ 0 ∧ base + 64 + q ≤ o ∧ o < base + 80 + q) → p ≠ .ls m.core o) →
         t.byte p = s.byte p
     (m.st = .travelling → lands (.messageLand m.id)) ∧
     (∀ w due, m.st = .refused w due → (due ≤ s.now → lands (.messageRetry m.id)) ∧ (s.now < due → exec (.messageRetry m.id) s = .next s)))

open Sys2Proof Sys2Proof.Machine in
/-- 13 R328-R331 (Tables 13.5 and 4.12): an idle core dispatches its best entry. A context goes on as it was. A landed message of its own number
format starts an activation with the payload in s1 and on, its extent's length in s61, its block in s63, the message's priority, and pc at the
region's code plus EOFF. 13 R321, R331, R333, R334: pre-emption queues the running user-mode activation when an entry of higher effective priority
waits; an entry ages by one for each 2^16 cycles; a wait at issue of 256 cycles parks the activation; a parked one whose condition holds is
queued, with its result. What is queued stands at STATUS.PRIO with no ageing: its effective priority starts from there (log 34, the model's
reading of R333). A report copies the length of the run queue. None changes a byte of memory. -/
def Obligations.SchedulerCourse : Prop :=
  (∀ (s : State) (core : Nat) (q : QEnt), (s.core core).run = none → corePresent s core = true → (s.core core).swapping = false →
     (s.core core).part.isSome = true → (s.core core).errDue = none → bestEntry s core = some q →
     let k := s.core core
     (∀ n a, q.kind = .ctx n → fget k.acts n = some a → ∃ t, exec (.dispatch core) s = .next t ∧ SameBytes s t ∧
       (t.core core).run = some n ∧ fget (t.core core).acts n = some { a with park := .running } ∧ (t.core core).queue = k.queue.erase q) ∧
     (∀ ring pos x b, q.kind = .msg ring pos → ctxFor s core ring = some x →
       let w0 := lsWord k (0x1E400 + 0x700 * ring + 64 + pos)
       let w8 := lsWord k (0x1E400 + 0x700 * ring + 72 + pos)
       let h := Hdr.ofWords w0 w8
       let part := k.part.getD 0
       let len := extentLen s part h.rcb
       freeExtent s core len = some b → (∀ r ∈ k.recs, r.ring = ring → r.pos = pos → r.act = none) → h.e4 = bitAt k.fmt 0 → h.len ≤ 14 →
       ∃ t a, exec (.dispatch core) s = .next t ∧ (t.core core).run = some x ∧ fget (t.core core).acts x = some a ∧ a.id = s.fresh ∧
         (∀ i, i < h.len → a.regs.getS (BitVec.ofNat 6 (i + 1)) = BitVec.ofNat 64 (lsWord k (0x1E400 + 0x700 * ring + 80 + pos + 8 * i))) ∧
         a.regs.getS 61 = BitVec.ofNat 64 (len / 16 * 16) ∧ a.regs.getS 63 = BitVec.ofNat 64 h.rcb ∧ a.extBase = b ∧ a.extLen = len ∧ a.mode = 0 ∧
         bitsNat a.status 14 12 = h.prio ∧ bitsNat a.status 9 8 = x ∧ a.park = .running ∧
         a.pc = (hwPeek s part (h.rcb + 32) + h.eoff) % 2 ^ 64)) ∧
  (∀ (s : State) (core : Nat),
     let k := s.core core
     (∃ t, exec (.runQueueReport core) s = .next t ∧ SameBytes s t ∧ t.core core = { k with report := k.queue.length, reportAt := s.now }) ∧
     (∀ n e, k.queue[n]? = some e → ∃ t, exec (.priorityAgeing core n) s = .next t ∧ SameBytes s t ∧
       (t.core core).queue = k.queue.set n (if e.since + 65536 * (e.aged + 1) ≤ s.now then { e with aged := e.aged + 1 } else e)) ∧
     ∀ ctx a, fget k.acts ctx = some a →
       let queued := fun (t : State) => ∃ e ∈ (t.core core).queue, e.kind = .ctx ctx ∧ e.prio = bitsNat a.status 14 12 ∧ e.since = s.now
       let parks := fun (i : Instr) (p : Park) (f : State → Prop) => ∃ t m, exec i s = .next t ∧ SameBytes s t ∧ (t.core core).run = none ∧
         fget (t.core core).acts ctx = some m ∧ m.park = p ∧ m.regs = a.regs ∧ m.pc = a.npc ∧ f t
       (k.run = some ctx → k.rb = [] → k.accs = [] → k.mxq = [] → a.mode = 0 → a.stepDue = false → a.flagsWr = none → a.park = .running →
         ∀ q, bestEntry s core = some q →
           (bitsNat a.status 14 12 < q.eff s.now → parks (.preemption core) .queued queued) ∧
           (q.eff s.now ≤ bitsNat a.status 14 12 → exec (.preemption core) s = .next s)) ∧
       (∀ from_, k.waitFrom = some from_ → k.run = some ctx → k.rb = [] → k.accs = [] → k.mxq = [] → from_ + 256 ≤ s.now →
         parks (.issueWaitPark core) .issue fun _ => True) ∧
       (∀ from_, k.waitFrom = some from_ → s.now < from_ + 256 → exec (.issueWaitPark core) s = .next s) ∧
       (k.waitFrom = none → exec (.issueWaitPark core) s = .next s) ∧
       (a.park = .issue → waitOver s core a = false → exec (.activationWake core ctx) s = .next s) ∧
       (a.park = .issue → waitOver s core a = true → ∃ t, exec (.activationWake core ctx) s = .next t ∧ SameBytes s t ∧
         fget (t.core core).acts ctx = some { a with park := .queued } ∧ queued t) ∧
       (∀ sl dl f d i, a.park = .waitAny sl dl f d → sl.findIdx? (·.fired) = some i → allArmed sl = true → a.pend = [.s d] → d ≠ 0 →
         ∃ t m, exec (.activationWake core ctx) s = .next t ∧ SameBytes s t ∧ fget (t.core core).acts ctx = some m ∧ m.park = .queued ∧
           m.regs = a.regs.setS d (BitVec.ofNat 64 i) ∧ m.pend = [] ∧ queued t))

open Sys2Proof Sys2Proof.Machine in
/-- 13 R347, R349, R350, R352: a drained launch, trigger or kill is performed at its block. A launch that fails a check writes only DONE, with END 4
and the code of Table 13.10; one that passes and has no predecessor starts its region. The trigger of a region fires once. A kill ends a strict
descendant that is pending or running and leaves every other region. The decrement that finds LIVE at 1 completes the region. The launch of an
image (02 R71-R73) writes its block and sections, and then launches it as a child of the launching region; a `.tiles` directive beyond the budget
ends it with 8, a `.pot` directive whose pot cannot be opened with 9, in DONE. That an image is launched in one move, is checked before its
claims, leaves after a failure what its first two steps wrote, and fails in those steps with a free code, is the model's choice (log 86). -/
def Obligations.RegionEvents : Prop :=
  (∀ (s : State) (f : Flight), s.flights = [f] →
    let u : State := { s with flights := [] }
    let region := fun (rcb : Nat) => ∃ pte lv pa, xlateHw s f.part rcb .w = .ok pte lv pa ∧ homeWait s f.part rcb pte pa true = none
    (∀ rcb, f.op = .launch rcb false 0 → region rcb →
      let b := inherit s f.part rcb (some f.rp)
      let code := launchStatus s f.part rcb (some f.rp) none none b
      let count := fieldOf (hwPeek s f.part (rcb + 72)) 32 32 + 1
      (code ≠ 0 → exec (.launchPerform f.id) s =
        .next { hwPoke s f.part (rcb + 72) (4 + 256 * code + count % 2 ^ 32 * 2 ^ 32) with flights := [] }) ∧
      (code = 0 → exec (.launchPerform f.id) s =
        .next ((launchGo s f.part rcb (some f.rp) none (some f.core) (bitAt (s.core f.core).fmt 0) b).dropFlight f.id))) ∧
    (f.op = .trig → (⟨f.part, f.rp⟩ ∈ s.triggered → exec (.launchTrigger f.id) s = .next u) ∧
      (⟨f.part, f.rp⟩ ∉ s.triggered → s.pendingRegions = [] →
        exec (.launchTrigger f.id) s = .next { u with triggered := s.triggered ++ [⟨f.part, f.rp⟩] })) ∧
    (∀ rcb, f.op = .kill rcb → region rcb →
      let st := regionState s f.part rcb
      let strict := rcb ≠ f.rp ∧ f.rp ∈ chainOf s f.part 8 rcb
      (strict → st = 1 ∨ st = 2 → exec (.regionKillPerform f.id) s = .next (failRegion u f.part rcb 3)) ∧
      (¬strict ∨ (st ≠ 1 ∧ st ≠ 2) → exec (.regionKillPerform f.id) s = .next u)) ∧
    (∀ rcb, f.op = .liveDec rcb →
      (hwPeek s f.part (rcb + 64) = 1 → exec (.regionComplete f.part rcb) s = .next (liveDecrement u f.part rcb)) ∧
      (hwPeek s f.part (rcb + 64) ≠ 1 → exec (.regionComplete f.part rcb) s = .next s))) ∧
  ∀ (s : State) (core ctx : Nat) (img : Image) (a : Act), (s.core core).running = some (ctx, a) → imageOk img = true →
    let u := (imageBuild a.part img s).1
    let built := (imageBuild a.part img s).2 = true
    let b := inherit u a.part img.rcb (some a.rp)
    let code := launchChecks u a.part img.rcb (some a.rp) none none b
    let fails := fun (n : Nat) => imageLaunch core img s = launchDone u a.part img.rcb 4 n
    (¬built → ∃ n, 0 < n ∧ n < 256 ∧ imageLaunch core img s = launchDone u.used a.part img.rcb 4 n) ∧
    (built → code ≠ 0 → fails code) ∧
    (∀ t, built → code = 0 → t ∈ img.tiles → b.tiles < t.count → fails 8) ∧
    (∀ x, built → code = 0 → img.tiles = [] → img.pots = [x] → vaRemote u a.part x.addr = none → x.d < 4 → fails 9) ∧
    (built → code = 0 → img.tiles = [] → img.pots = [] → parentRuns u a.part (some a.rp) = true →
      imageLaunch core img s = launchGo u a.part img.rcb (some a.rp) none (some core) (bitAt (u.core core).fmt 0) b)

open Sys2Proof Sys2Proof.Machine in
/-- 13 R354-R357: `bar.init` takes a free unit for 1 to 4096 arrivals, with COUNT 0 and PHASE as it was, and returns 0, or 1 when the unit is in use
and 2 for a bad count, with nothing else changed; `bar.arrive.nb` leaves its arrival under way after a commit point; `bar.arrive` parks too;
`bar.wait` returns the phase once it differs from the one named, and a wait that its unit has released returns what released it. No byte of memory
changes. 13 R356 (Table 13.14): an arrival acts on its unit. For another region's unit it fails with ACCESS; beyond EXPECTED with BARRIER and the
counts in TVAL; short of it COUNT grows; at EXPECTED COUNT returns to 0 and PHASE advances by one modulo 2^16. A `bar.arrive.nb` gets the phase
that it found. -/
def Obligations.Barriers : Prop :=
  (∀ (s : State) (d a b : SReg) (ctx : Nat), s.live = true → s.phase ≠ .dry → s.cc.rb = [] → s.cc.accs = [] → s.cc.mxq = [] → s.cc.run = some ctx →
     let v := s.rs a
     let u := bitsNat v 9 0
     let n := (s.rs b).toNat
     let bar := s.bar u
     let own : Own := ⟨s.me.part, s.me.rp⟩
     cdPresent s (u / 64) = true →
     let waits := { s.me with pend := if d = 0 then s.me.pend else Reg.s d :: s.me.pend.filter (· ≠ Reg.s d) }
     let after := { waits with snap := snapOf waits s.me.npc, attempts := 0, claims := [], barClaims := [], potClaims := [] }
     let asks := fun (block : Bool) => [s.request (.arrive u n d block) v.toNat 8 false true 0 (some (beforeSnap s.me))]
     (n = 0 ∨ 4096 < n → Answers (.barInit d a b) s (s.withS d 2)) ∧
     (0 < n → n ≤ 4096 → bar.owner.isSome = true → Answers (.barInit d a b) s (s.withS d 1)) ∧
     (0 < n → n ≤ 4096 → bar.owner = none → ∃ t, exec (.barInit d a b) s = .next t ∧ SameBytes s t ∧
       t.bar u = { bar with owner := some own, exp := n, cnt := 0, claim := s.fresh } ∧ (∀ w, w ≠ u → w < 1024 → t.bar w = s.bar w) ∧
       t.me = { s.withS d 0 with barClaims := s.me.barClaims ++ [(u, s.fresh)] }) ∧
     (0 < n → n ≤ 4096 → ∃ t, exec (.barArriveNb d a b) s = .next t ∧ SameBytes s t ∧ t.cc.rb = [] ∧ t.cc.accs = asks false ∧
       t.bar u = bar ∧ t.me = after) ∧
     (0 < n → n ≤ 4096 → ∃ t, exec (.barArrive d a b) s = .next t ∧ SameBytes s t ∧ t.cc.accs = asks true ∧ t.cc.run = none ∧ t.bar u = bar ∧
       fget t.cc.acts ctx = some { after with park := .barrier u 0 d false, pc := s.me.npc }) ∧
     (bar.owner = some own → s.me.barWait = none → bar.phase ≠ (s.rs b).setWidth 16 →
       Answers (.barWait d a b) s (s.withS d (bar.phase.setWidth 64))) ∧
     (bar.owner = some own → s.me.barWait = none → bar.phase = (s.rs b).setWidth 16 → s.phase = .whole →
       exec (.barWait d a b) s = .next (s.onMe fun m => { m with barWait := some (u, none), waitFor := some .barrier, npc := m.pc })) ∧
     (∀ r, s.me.barWait = some (u, some r) → Answers (.barWait d a b) s (s.withS d r))) ∧
  (∀ (s : State) (core ctx u n : Nat) (d : SReg) (x : Access) (a : Act), (s.core core).accs = [x] → x.st = .pending → x.kind = .arrive u n d false →
     s.flights = [] → s.findAct x.act = some a → a.id = x.act → fget (s.core core).acts ctx = some a → a.pend = [.s d] → d ≠ 0 →
     (∀ b ∈ heldActs s, b.park = .running ∨ b.park = .queued) →
     let bar := s.bar u
     let mine := bar.owner = some ⟨a.part, a.rp⟩
     let fails := fun (c : Nat) (v : Word) => ∃ t, exec (.barrierArrival core x.id) s = .next t ∧ SameBytes s t ∧ t.bar u = bar ∧
       (t.core core).accs = [{ x with st := .failed c v 0 }]
     let lands := fun (b : Bar) => ∃ t m, exec (.barrierArrival core x.id) s = .next t ∧ SameBytes s t ∧ (t.core core).accs = [] ∧ t.bar u = b ∧
       fget (t.core core).acts ctx = some m ∧ m.regs = a.regs.setS d (bar.phase.setWidth 64) ∧ m.pend = []
     (¬mine → fails 4 (BitVec.ofNat 64 x.va)) ∧
     (mine → bar.exp < bar.cnt + n → fails 8 (BitVec.ofNat 64 (n * 2 ^ 32 + bar.cnt * 2 ^ 16 + u))) ∧
     (mine → bar.cnt + n < bar.exp → lands { bar with cnt := bar.cnt + n }) ∧
     (mine → bar.cnt + n = bar.exp → lands { bar with cnt := 0, phase := bar.phase + 1 }))

open Sys2Proof Sys2Proof.Machine in
/-- 07 R202, R228 (Tables 7.1 and 7.9): the probe of a buffered effect is answered where its address lies. At a present core's window, and at a page
that grants the access, it is confirmed and leaves; else it fails with the cause, the address and the walk level. A reduction that the host
coherence agent lacks fails with ATOM (10 R272). Nothing else changes. 07 R230, 04 R139: a late fault other than PAGE in user mode is taken at the
bundle F that made the access: what later bundles wrote to registers is undone from what they recorded, the buffered effects of F and of later
bundles are discarded, CAUSE has LATE, EPC names F, and the runtime's handler is entered. No byte of memory changes. -/
def Obligations.ProbesAndLateFaults : Prop :=
  (∀ (s : State) (core : Nat) (x : Access) (red : Option (AtomOp × AtomTy)), (s.core core).accs = [x] → x.st = .pending → x.kind = .probe false red →
     let part := ((s.core core).part).getD 0
     let answered := fun (f : Access → Prop) (confirmed : Bool) => ∃ t, exec (.accessConfirm core x.id) s = .next t ∧ SameBytes s t ∧
       (if confirmed then (t.core core).accs = [] else ∃ y, (t.core core).accs = [y] ∧ f y) ∧ (t.core core).rb = (s.core core).rb ∧
       (t.core core).acts = (s.core core).acts
     (∀ c off, vaKind x.va = .window c off →
       (corePresent s c = true → (s.core c).part = some part → off + x.size ≤ 0x1C000 → answered (fun _ => False) true) ∧
       (corePresent s c = false ∨ (s.core c).part ≠ some part ∨ 0x1C000 < off + x.size →
         answered (fun y => y = { x with st := .failed 4 (BitVec.ofNat 64 x.va) 0 }) false)) ∧
     (∀ pte pa, locate s part x.va x.size (if red.isSome then .r else .w) .w = .home pte pa →
       ((∀ op ty, red = some (op, ty) → paHost pa = true → hostAtom op ty = true) → answered (fun _ => False) true) ∧
       (∀ op ty, red = some (op, ty) → paHost pa = true → hostAtom op ty = false →
         answered (fun y => y = { x with st := .failed 6 (BitVec.ofNat 64 x.va) 0 }) false)) ∧
     (∀ c l, locate s part x.va x.size (if red.isSome then .r else .w) .w = .fault c l →
       answered (fun y => y = { x with st := .failed c (BitVec.ofNat 64 x.va) l }) false)) ∧
  (∀ (s : State) (core ctx : Nat) (a : Act) (x : Access) (c l : Nat) (v : Word) (nr : Bool), (s.core core).run = some ctx →
     fget (s.core core).acts ctx = some a → (s.core core).accs = [x] → x.act = a.id → x.st = .failed c v l → x.kind = .probe nr none →
     x.before = none → a.park = .running → c ≠ 5 → bitAt (s.core core).tvec 0 = true → (s.core core).acts.map (·.2.id) = [a.id] →
     (∀ e ∈ (s.core core).rb, ∀ runs b, e.op ≠ .ast runs b) →
     let k := s.core core
     let b := (k.undo.filter (fun u => decide (x.seq < u.seq))).reverse.foldl (fun b u => undoItem b u.item) a
     b.mode = 0 → ∃ t m, exec (.lateFault core) s = .next t ∧ SameBytes s t ∧ (t.core core).run = some ctx ∧ fget (t.core core).acts ctx = some m ∧
       (t.core core).accs = [] ∧ (t.core core).rb = k.rb.filter (fun e => decide (e.seq < x.seq)) ∧
       m.regs = b.regs ∧ m.flags = b.flags ∧ m.cause = BitVec.ofNat 64 (c + 256) ∧ m.epc = BitVec.ofNat 64 (x.pc % 2 ^ 57 / 8 * 8) ∧ m.tval = v ∧
       m.status = setMode b.status 1 ∧ m.pc = bitsNat k.tvec 56 3 * 8 ∧ m.npc = m.pc)

open Sys2Proof Sys2Proof.Machine in
/-- 07 R231, R232 (Tables 7.8 and 4.16): an activation parked on a page fault, with no result to come, goes to the lowest free fibre slot, whose bytes
hold its registers, its address and STATE 1; an upcall starts in its context in runtime mode at UVEC's handler with slot, address, INFO and pc in
s1 to s4; LIVE counts it. INFO.CONLY is 1 for a data access. -/
def Obligations.PageUpcallStarts : Prop :=
  ∀ (s : State) (core ctx va kind level n : Nat) (conly : Bool) (a : Act), fget (s.core core).acts ctx = some a → a.park = .page va kind level conly →
    a.pend = [] → (∀ c ∈ s.cores, c.2.mxq = []) → (s.core core).run = none → (s.core core).ls.wf = true → n < 8 →
    let k := s.core core
    let free := fun (i : Nat) => lsWord k (fibreBase i + 0x470) % 2 = 0 ∧ fget k.fibres i = none
    free n → (∀ i, i < n → ¬free i) → va < 2 ^ 64 →
    let info := kind + 4 * level + (if kind = 2 then 0 else 32) + 256 * bitsNat a.status 14 12
    ∃ t u, exec (.pageUpcall core ctx) s = .next t ∧ (t.core core).run = some ctx ∧ fget (t.core core).acts ctx = some u ∧
      fget (t.core core).fibres n = some { a with conly := conly || decide (kind = 2) } ∧ u.mode = 1 ∧ u.pc = bitsNat k.uvec 56 3 * 8 ∧ u.rp = a.rp ∧
      bitsNat u.status 14 12 = bitsNat a.status 14 12 ∧ bitsNat u.status 9 8 = bitsNat a.status 9 8 ∧
      u.regs.getS 1 = BitVec.ofNat 64 n ∧ u.regs.getS 2 = BitVec.ofNat 64 va ∧ u.regs.getS 3 = BitVec.ofNat 64 info ∧
      u.regs.getS 4 = BitVec.ofNat 64 (a.pc % 2 ^ 57 / 8 * 8) ∧ u.regs.getS 63 = BitVec.ofNat 64 a.rp ∧
      (∀ i, i < 63 → lsWord (t.core core) (fibreBase n + 8 * i) = (a.regs.getS (BitVec.ofNat 6 (i + 1))).toNat) ∧
      lsWord (t.core core) (fibreBase n + 0x460) = va ∧ lsWord (t.core core) (fibreBase n + 0x470) = 1 ∧
      t.slices = (hwPoke s a.part (a.rp + 64) (hwPeek s a.part (a.rp + 64) + 1)).slices

open Sys2Proof Sys2Proof.Machine in
/-- 07 R222-R225 (Tables 7.6 and 7.7): a walk for an address that an access at its home waits for. When it finds a leaf, the slice caches it and from
then on translates the address under each permission as the page tables say; when it finds none, the access takes its cause and level. No byte of
memory changes. 10 R280, 07 R234, R235, R314: a home that holds a line which no watch names grants it to a core for a near atomic, and recalls it
with the data that the core's L1 has; a `clean` of a dirty line, of whose memory no other package holds a copy, writes it back to DRAM and keeps
it clean. Nothing else in memory changes. 07 R216, R237 (Table 7.11): the merge of a block's read misses ends without a trace in memory; a due
hotness sample leaves the slice and is counted in HEAD, then recorded as four words of the log, the third the cycles since the package left boot,
the last its number plus one; a record that cannot be written is dropped, and with no descriptor the sample goes. -/
def Obligations.WalksLinesAndSamples : Prop :=
  (∀ (s : State) (part va : Nat), vaKind va = .translated → xlate s part va .r = .miss → (part, va) ∈ wanted s →
     ∃ t, exec (.pageWalk (homeOf s va) part va false) s = .next t ∧ SameBytes s t ∧
       (∀ pte l pa, walkAny s part va = .ok pte l pa → ∀ p, xlate t part va p = walk s part va p) ∧
       (∀ c l, walkAny s part va = .fault c l → ∀ p, xlate t part va p = .fault c l)) ∧
  (∀ (s : State) (part va w : Nat) (l : Line), lineFind (s.slice (homeOf s va)) part va = some (w, l) →
     let h := homeOf s va
     (∀ core x op ty v v' d pte pa, (s.access x.id) = some (core, x) → x.kind = .atom op ty true v v' d → x.st = .pending → x.va = va →
       (s.core core).part = some part → locate s part va 1 .r .w = .home pte pa → paHost pa = false → pteRemote s pte = none →
       lineWatched (s.slice h) part va = false → homeWait s part va pte pa true = none → l.owner = none → l.sharers = [] →
       fget (s.core core).l1 (va / 32 % 128) = none →
       ∃ t m, exec (.nearOwnershipGrant core ⟨x.id, false⟩) s = .next t ∧ SameBytes s t ∧ lineFind (t.slice h) part va = some (w, m) ∧
         m.owner = some core ∧ m.sharers = [core] ∧ m.data = l.data) ∧
     (∀ c i y, l.owner = some c → l1Find (s.core c) part va false = some (i, y) →
       ∃ t, exec (.nearRecall part va) s = .next t ∧ SameBytes s t ∧
         lineFind (t.slice h) part va = some (w, { l with data := y.data, dirty := true, owner := none })) ∧
     (∀ f pte pa lv, s.flights = [f] → f.op = .clean va 32 → f.part = part → va % 32 = 0 → vaKind va = .translated →
       xlateAny s part va = .ok pte lv pa →
       pteRemote s pte = none → paHost pa = false → l.pa = pa → l.rm = none → l.part = part → l.tag = va / 32 → l.dirty = true → l.owner = none →
       s.slices = [(h, s.slice h)] → (s.slice h).lines = [(va / 32 % 4096, [(w, l)])] → s.dram.wf = true → s.cleans = [] →
       (s.slice h).peers = [] → s.tagsOut = [] →
       ∃ t, exec (.cleanPerform f.id) s = .next t ∧ t.flights = [] ∧ lineFind (t.slice h) part va = some (w, { l with dirty := false }) ∧
         (∀ i, i < 32 → t.byte (.dram (paLinear s pa + i)) = l.data.extractLsb' (8 * i) 8) ∧
         ∀ p, (∀ i, i < 32 → p ≠ .dram (paLinear s pa + i)) → t.byte p = s.byte p)) ∧
  (∀ (s : State), (∀ ed block, ∃ t, exec (.dramBurst ed block) s = .next t ∧ SameBytes s t ∧ ∀ x ∈ (t.edge ed).merge, x.1 ≠ block) ∧
     ∀ (slice part va core typ : Nat), (s.slice slice).samples = [(part, va, core, typ)] →
     let u := s.onSlice slice fun g => { g with samples := [] }
     let d := (s.partn part).hot.toNat
     let word := fun (o : Nat) => ofLe (physRead s (d + o) 8)
     let i := word 16
     let r := word 0 + 32 * (i % 2 ^ (word 8 % 32))
     let h := physWrite u (d + 16) (leBytes 8 (i + 1))
     (d = 0 → exec (.hotnessSample slice part) s = .next u) ∧
     (d ≠ 0 → (∀ c, hwWrite h part r 8 (va % 2 ^ 57) = .error c → exec (.hotnessSample slice part) s = .next h) ∧
       ∀ h1 h2 h3 h4, hwWrite h part r 8 (va % 2 ^ 57) = .ok h1 → hwWrite h1 part (r + 8) 8 (core + typ * 2 ^ 16 + slice * 2 ^ 20) = .ok h2 →
         hwWrite h2 part (r + 16) 8 (s.now - s.bootAt) = .ok h3 → hwWrite h3 part (r + 24) 8 (i + 1) = .ok h4 →
         exec (.hotnessSample slice part) s = .next h4))

open Sys2Proof Sys2Proof.Machine in
/-- 06 R172, R174, R175, R179-R190: a matrix instruction whose checks pass and that has room in its core's queue appends one request, with the format
bits of its issue, and makes its registers wait. Nothing of its effect happens yet. A K-step on a full partial, or on one of another class,
promotes first and sets WARN.QUAL; `mx.sync` goes on, and its activation issues no bundle while an earlier request of the core is out. -/
def Obligations.MatrixIssue : Prop :=
  ∀ (s : State) (c : AccReg) (xa xb : XReg) (sa sb d : SReg), s.live = true → s.phase ≠ .dry → unconfirmed s.cc s.me.id = false →
    (s.cc.mxq.filter (fun r => !r.started)).length < 2 →
    let a := s.rs sa
    let b := s.rs sb
    let req := fun (op : MxOp) => ({ id := s.fresh, act := s.me.id, seq := s.me.seq, op := op, e4 := s.e4, zs := s.zs, started := false, res := .none,
                                     flags := 0, committed := false, waitAt := none, prog := s.me.prog } : MxReq)
    let adds := fun (i : Instr) (u : State) (op : MxOp) (accs : List Access) => ∃ t, exec i s = .next t ∧ SameBytes s t ∧
      t.sansCC = u.sansCC ∧ t.cc.mxq = s.cc.mxq ++ [req op] ∧ t.cc.accs = s.cc.accs ++ accs ∧ t.cc.warn = u.cc.warn ∧
      t.me = { s.me with pend := op.dsts.foldl (fun l r => if r = .s 0 then l else r :: l.filter (· ≠ r)) s.me.pend }
    let queues := fun (i : Instr) (op : MxOp) => adds i s.used1 op []
    (∀ i f, (i, f) ∈ [(Instr.mxMmaE4m3 c xa xb, 0), (.mxMmaE5m2 c xa xb, 1), (.mxMmxE4m3 c xa xb, 2), (.mxMmxE5m2 c xa xb, 3), (.mxMmaI8 c xa xb, 4),
        (.mxMmaBf16 c xa xb, 5), (.mxCmmaBf16 c xa xb, 6)] →
      let pp := (mxProject s.me (mxReqsOf s s.me.id) c).1
      let imp := decide (pp = 4 ∨ (0 < pp ∧ (mxProject s.me (mxReqsOf s s.me.id) c).2 ≠ mmaClass f))
      adds i (s.qualIf imp).used1 (.mma f c xa xb imp) []) ∧
    (bitsNat a 16 0 % 4 = 0 → (lsPlace s.me (BitVec.ofNat 64 (bitsNat a 16 0)) 256).isSome = true →
      queues (.mxProm c sa sb) (.prom c (some
        ((List.range 64).map fun i => BitVec.ofNat 32 (ofLe (((readLs s (bitsNat a 16 0) 256).drop (4 * i)).take 4)), b.setWidth 32)))) ∧
    queues (.mxPromU c) (.prom c none) ∧ queues (.mxAzero c) (.azero c) ∧ queues (.mxStat d c) (.stat d c) ∧ queues (.mxDrop c) (.drop c) ∧
    (∀ i op rows chunks, (i, op, rows, chunks) ∈ [(Instr.mxLd xa sa sb, MxOp.ld false false xa a b, 64, 1), (.mxLd2 xa sa sb, .ld true false xa a b, 64, 2),
        (.mxLdt xa sa sb, .ld false true xa a b, 32, 2), (.mxAstF32 c sa sb, .ast false c a b, 64, 8), (.mxAstBf16 c sa sb, .ast true c a b, 64, 4),
        (.mxAldF32 c sa sb, .ald c a b, 64, 8)] →
      opndTrap s a b rows chunks = none → opndWait s a b rows = none → queues i op) ∧
    (∀ i q4, (i, q4) ∈ [(Instr.mxLdwQ4 xa sa sb, true), (.mxLdwE4m3 xa sa sb, false)] → ldwTrap s q4 a b = none →
      (∀ p ∈ ldwPieces q4 a b, redCovers s (myPlace s p.1 p.2) p.2 = false) →
      adds i (s.used1.asked true a.toNat) (.ldw q4 xa a b) [s.used1.request (.ldw s.fresh) a.toNat 0 false false 2 none]) ∧
    exec .mxSync s = .next (s.onMe fun a => { a with mxHold := s.fresh }) ∧
    ∀ (u : State) (core : Nat) (a : Act) (r : MxReq), r ∈ (u.core core).mxq → r.id < a.mxHold → mayIssue u core a = false

open Sys2Proof Sys2Proof.Machine in
/-- 06 R171-R173, R192: a free stage starts the request of the first core, after the one that it last served, whose oldest unstarted request is the
stage's: the request keeps its place in the queue and the stage is taken. A K-step starts while its cluster holds leave tokens; with none it asks
the governor for 64, once, and waits. No byte of memory changes. 06 R183, R186-R188, R190, R191, R194, R195 (Table 6.6): a completed request
changes its activation's matrix state, waits no more and frees its stage. `mx.azero` clears accumulator and pending count, `mx.drop` the pending
count, `mx.stat` reports pending count and class (CLS 0 of a context without a partial is log 77, the model's reading); a K-step of integers
becomes the partial, or is added to it modulo 2^32; an integer promotion adds the pending partial to the accumulator and leaves none. Bringing an
activation's state into the core takes away no other's. -/
def Obligations.MatrixRequestsRun : Prop :=
  (∀ (s : State) (cl stage core : Nat) (g : Stage) (r : MxReq) (a : Act), (s.cluster cl).stages[stage]? = some g → g.busy = none →
     ([1, 2, 3, 4].map fun d => 4 * cl + (g.last + d) % 4).findSome? (fun c => (mxCandidate s c stage).map fun r => (c, r)) = some (core, r) →
     s.findAct r.act = some a →
     let starts := ∃ t, exec (.mxRequestStart cl stage) s = .next t ∧ SameBytes s t ∧
       (t.cluster cl).stages[stage]? = some { busy := some (core, r.id), last := core % 4 } ∧
       (t.core core).mxq = (s.core core).mxq.map fun q => if q.id = r.id then
         { q with started := true, res := (mxStart s core a.mx r).1, flags := (mxStart s core a.mx r).2, waitAt := none } else q
     ((∀ f c xa xb imp, r.op ≠ .mma f c xa xb imp) → starts) ∧
     (∀ f c xa xb imp, r.op = .mma f c xa xb imp →
       (0 < (s.cluster cl).held → starts) ∧
       ((s.cluster cl).held = 0 →
         ∃ t, exec (.mxRequestStart cl stage) s = .next t ∧ SameBytes s t ∧ (t.cluster cl).stages = (s.cluster cl).stages ∧ (t.cluster cl).asked ≠ 0 ∧
           ((s.cluster cl).asked = 0 → (t.cluster cl).asked = 64 ∧
             (t.die (cl / 64)).reqs = (s.die (cl / 64)).reqs ++ [{ pool := .mx cl core, n := 64, refused := false, since := s.now }]) ∧
           ((s.cluster cl).asked ≠ 0 → t.dies = s.dies)))) ∧
  (∀ (s : State) (r : MxReq) (ctx : Nat) (a : Act), s.live = true → s.cc.run = some ctx → s.me = a → s.cc.mxq = [r] → r.act = a.id →
     s.findAct r.act = some a → r.committed = false → mxReqsOf s a.id = [r] → (∀ y ∈ s.cc.accs, y.act = a.id → y.acq = false) →
     let lands := fun (m : MxState) (regs : Regs) (pend : List Reg) => ∃ t, exec (.mxRequestComplete s.cur r.id) s = .next t ∧ SameBytes s t ∧
       t.cc.mxq = [] ∧ t.me = { a with mx := m, regs := regs, pend := pend } ∧
       ∀ g ∈ (t.cluster (clusterOf s.cur)).stages, g.busy ≠ some (s.cur, r.id)
     let out := fun (x : Reg) => a.pend.filter fun y => !([x].contains y)
     (∀ c, r.op = .azero c → r.started = true → lands ((a.mx.setAcc c 0).setCtx c emptyCtx) a.regs (out (.a c))) ∧
     (∀ c, r.op = .drop c → lands (a.mx.setCtx c emptyCtx) a.regs a.pend) ∧
     (∀ d c, r.op = .stat d c →
       let x := a.mx.ctx.get c.toFin
       lands a.mx (a.regs.setS d (if x.pp = 0 then 0 else BitVec.ofNat 64 (x.pp + 16 * x.cls + (if x.blkz then 128 else 0)))) (out (.s d))) ∧
     (∀ c xa xb v rz bz, r.op = .mma 4 c xa xb false → r.started = true → r.res = .part v rz bz → r.flags = 0 → (a.mx.ctx.get c.toFin).pp = 0 →
       lands (a.mx.setCtx c { part := v, pp := 1, cls := 2, rowz := rz, blkz := bz }) a.regs a.pend) ∧
     (let part := fun (v : BitVec 131072) (n : Nat) => (v.extractLsb' (32 * n) 32).toNat
      let x := fun (c : AccReg) => a.mx.ctx.get c.toFin
      (∀ c xa xb v rz bz, r.op = .mma 4 c xa xb false → r.started = true → r.res = .part v rz bz → r.flags = 0 → 0 < (x c).pp → (x c).cls = 2 →
        ∃ y : MxCtx, lands (a.mx.setCtx c y) a.regs a.pend ∧ y.pp = (x c).pp + 1 ∧ y.cls = 2 ∧
          ∀ n, n < 4096 → part y.part n = (part (x c).part n + part v n) % 2 ^ 32) ∧
      ∀ c sc, r.op = .prom c sc → r.started = true → 0 < (x c).pp → (x c).cls = 2 →
        ∃ v, lands ((a.mx.setAcc c v).setCtx c emptyCtx) a.regs (out (.a c)) ∧
          ∀ n, n < 4096 → part v n = (part (x c).part n + part (a.mx.acc.get c.toFin) n) % 2 ^ 32) ∧
     (s.cc.mxq.any (fun q => decide (q.act = a.id) && !q.started) = true → fget s.cc.acts ctx = some a →
       ∃ t, exec (.mxStateCopy s.cur ctx) s = .next t ∧ SameBytes s t ∧ t.me = { a with mxPlaced := true } ∧
         ∀ n b, n ≠ ctx → fget s.cc.acts n = some b → fget t.cc.acts n = some { b with mxPlaced := false }))

open Sys2Proof Sys2Proof.Machine in
/-- 06 R183, R186 (03 R99): the elements of an integer K-step are the sums of the products of signed bytes, modulo 2^32; promoted, they are added
modulo 2^32 to the accumulator; partials of integer K-steps add up element by element. -/
def Obligations.MatrixArithmetic : Prop :=
  (∀ (e4 imag : Bool) (a b : List Nat),
    ((kElem 4 e4 a b imag).val : Int) = ((a.zip b).map fun x => sByte x.1 * sByte x.2).sum % 2 ^ 32 ∧ (kElem 4 e4 a b imag).flags = 0) ∧
  (∀ (sa sb p acc : Nat), promElem 2 sa sb p acc = ⟨(p + acc) % 2 ^ 32, 0⟩) ∧
  (∀ (x : MxCtx) (v : BitVec 131072) (rz : BitVec 64) (bz : Bool) (n : Nat), 0 < x.pp → n < 4096 →
    let y := addPartial 2 x v rz bz
    y.1.pp = x.pp + 1 ∧ y.2 = 0 ∧
    (y.1.part.extractLsb' (32 * n) 32).toNat = ((x.part.extractLsb' (32 * n) 32).toNat + (v.extractLsb' (32 * n) 32).toNat) % 2 ^ 32)

open Sys2Proof Sys2Proof.Machine in
/-- 08 R246-R249 (Tables 8.1-8.3): a command form whose descriptor passes takes the lowest free entry of the completion table with its generation
advanced, keeps a copy of the 64-byte descriptor, puts one entry of 64 bytes into the retire buffer and answers a handle that names core,
generation and entry. The engine has done nothing yet: no byte of memory changes. 08 R264-R266 (Table 8.6): the three forms that take a handle
answer STALE for one that names no entry of the activation. `cp.wait` and `cp.poll` of a done entry answer its status and free it, with its
generation kept; `cp.poll` of one under way answers 0; `cp.cancel` of a command that still queues ends it with CANCELLED. -/
def Obligations.CopyForms : Prop :=
  (∀ (s : State) (d a b : SReg) (id : Nat), s.live = true → s.phase ≠ .dry → unconfirmed s.cc s.me.id = false → s.hasRoom 64 → id < 512 →
     (s.cc.cp id).st = .free → (∀ j, j < id → (s.cc.cp j).st ≠ .free) →
     let off := bitsNat (s.rs a) 16 0
     let desc := cpDesc s (s.rs a)
     off % 64 = 0 → (lsPlace s.me (BitVec.ofNat 64 off) 64).isSome = true →
     ∀ i f pat, (i, f, pat) ∈ [(Instr.cpCopy d a, CpForm.copy, (0 : Word)), (.cpGather d a, .gather, 0), (.cpScatter d a, .scatter, 0),
         (.cpFill d a b, .fill, s.rs b), (.cpMcast d a, .mcast, 0), (.cpWalk d a, .walk, 0), (.cpCow d a, .cow, 0)] →
       cpCheck s f desc = none →
       let gen := (s.cc.cp id).gen + 1
       ∃ t, exec i s = .next t ∧ SameBytes s t ∧ t.sansCC = s.sansCC ∧
         t.me = s.withS d (BitVec.ofNat 64 (s.cur * 2 ^ 25 + gen.toNat * 2 ^ 9 + id)) ∧
         t.cc.rb = s.cc.rb ++ [{ seq := s.me.seq, size := 64, op := .cp id, pc := s.pc }] ∧ t.cc.accs = s.cc.accs ∧ t.cc.cpq = s.cc.cpq ∧
         t.cc.cp id = { CpEnt.reset with
           gen := gen, st := .buffered, owner := some s.me.id, rcb := s.me.rp, part := s.me.part, ent := entrantOf s s.me.part s.me.rp s.cur,
           form := f, desc := desc, pattern := pat, act := s.me.prog, seq := s.me.seq } ∧
         ∀ j, j ≠ id → t.cc.cp j = s.cc.cp j) ∧
  (∀ (s : State) (d a : SReg), s.live = true → s.phase ≠ .dry → unconfirmed s.cc s.me.id = false →
     let h := s.rs a
     let id := bitsNat h 8 0
     let e := s.cc.cp id
     let named := bitsNat h 36 25 = s.cur ∧ bitsNat h 24 9 = e.gen.toNat ∧ e.owner = some s.me.id
     let frees := fun (i : Instr) (v : Word) => ∃ t, exec i s = .next t ∧ SameBytes s t ∧ t.me = s.withS d v ∧
       t.cc.cp id = { CpEnt.reset with gen := e.gen } ∧ (∀ j, j ≠ id → t.cc.cp j = s.cc.cp j) ∧ id ∉ t.cc.cpq ∧ t.cc.accs = s.cc.accs
     (¬named → ∀ i ∈ [Instr.cpWait d a, .cpPoll d a, .cpCancel d a], Answers i s (s.withS d 4)) ∧
     (named → e.st = .done → id ∉ s.cc.cpq → ∀ i ∈ [Instr.cpWait d a, .cpPoll d a, .cpCancel d a], frees i e.status) ∧
     (named → e.st = .queued ∨ e.st = .running → Answers (.cpPoll d a) s (s.withS d 0)) ∧
     (named → e.st = .queued → (e.d 7).toNat = 0 → e.tmask = 0 → e.hole = false → e.value = 0 → (∀ x ∈ e.names s.cur, ((s.cluster x.1).tile x.2).st ≠ 3) → frees (.cpCancel d a) 2) ∧
     (named → e.st = .running → s.phase = .whole → ∃ t, exec (.cpCancel d a) s = .next t ∧ SameBytes s t ∧ t.cc.cp id = { e with cancel := true } ∧
       t.me = { s.me with npc := s.me.pc, waitFor := some (.cpDone id) }))

open Sys2Proof Sys2Proof.Machine in
/-- 08 R250, R251, R255, R260-R263, R266, R267: the engine starts the command at the head of its queue when its tiles are as they must be, ends it
with TSTATE when they are not, and never starts one that was cancelled in the queue. A gather, scatter or walk starts with the 32-bit words that
it reads first. A piece of a fill of one block of 32 bytes writes exactly its bytes, those of the 8-byte pattern repeated; with its last byte the
command completes, or it only reads that byte ahead, which is open (R252): the entry is done with OK, and every other byte of memory stays. A
command that names a tile whose bytes a swap has not brought back moves nothing (20 R473). A cancelled command that stops is done with CANCELLED. -/
def Obligations.CopyEngineRuns : Prop :=
  ∀ (s : State) (core id : Nat),
    let k := s.core core
    let e := k.cp id
    let cl := clusterOf core
    let pat := (List.range 32).map fun b => BitVec.ofNat 8 (e.pattern.toNat / 256 ^ (b % 8))
    let place := (Opnd.of (e.d 0) (e.d 1)).byte (fun t => ((s.cluster cl).tile t).base) 0 0
    let tame := (e.d 7).toNat = 0 ∧ e.owner.isSome = true ∧ e.tmask = 0 ∧ e.hole = false ∧ ∀ x ∈ e.names core, ((s.cluster x.1).tile x.2).st ≠ 3
    let done := fun (t : State) (status : Word) => ((t.core core).cp id).st = .done ∧ ((t.core core).cp id).status = status ∧
      ((t.core core).cp id).owner = e.owner ∧ ((t.core core).cp id).gen = e.gen
    let writes := fun (t : State) (x n : Nat) => (∀ i, x ≤ i → i < x + n → t.byte (.spad cl (place + i)) = pat.getD i 0) ∧
      ∀ p, (∀ i, x ≤ i → i < x + n → p ≠ .spad cl (place + i)) → t.byte p = s.byte p
    let block := e.form = .fill ∧ e.rows = 1 ∧ e.rb = 32 ∧ isSpad (e.d 0) = true ∧ e.srcAt = [pat] ∧ e.early = [] ∧ (s.cluster cl).spad.wf = true
    (∀ q, k.cpq = id :: q → e.st = .queued → e.cancel = true → tame →
      ∃ t, exec (.cpStart ⟨core, false⟩) s = .next t ∧ SameBytes s t ∧ (t.core core).cpq = q ∧ done t 2) ∧
    (∀ q, k.cpq = id :: q → e.st = .queued → e.cancel = false → (k.cps.filter (fun x => decide (x.2.st = .running))).length < 512 →
      e.refills s core = false → cpEarlier s e = false →
      (e.tilesOk s core = true → e.form = .copy ∨ e.form = .fill ∨ e.form = .cow → ∃ t, exec (.cpStart ⟨core, false⟩) s = .next t ∧ SameBytes s t ∧
        (t.core core).cpq = q ∧ ((t.core core).cp id).st = .running ∧ ((t.core core).cp id).desc = e.desc ∧ ((t.core core).cp id).owner = e.owner) ∧
      (∀ u b, e.tilesOk s core = true → e.form = .gather ∨ e.form = .scatter ∨ e.form = .walk →
        (piecesOf e.first.1 e.first.2).findSome? (engWait s core e.part e.rcb false) = none →
        engReads core e.part e.rcb false (piecesOf e.first.1 e.first.2) s [] = .ok u b →
        ∃ t, exec (.cpStart ⟨core, false⟩) s = .next t ∧ ((t.core core).cp id).st = .running ∧ ((t.core core).cp id).group = words32 b) ∧
      (e.tilesOk s core = false → tame → ∃ t, exec (.cpStart ⟨core, false⟩) s = .next t ∧ SameBytes s t ∧ (t.core core).cpq = q ∧ done t 6)) ∧
    (block → ∀ x n err, 0 < n → x + n ≤ 32 → ∃ t, cpMove s core e err x n = .moved t ∧ writes t x n) ∧
    (block → ∀ x, x < 32 → e.left = [(x, x + 1)] → e.st = .running → e.cancel = false → tame → e.fault = none → e.rdy = false → 0 < k.cpHeld →
      e.refills s core = false → s.asks = [] → ∃ t, exec (.cpComplete core id false) s = .next t ∧
        (if s.freeBit = true then SameBytes s t ∧ ((t.core core).cp id).st = .running ∧ ((t.core core).cp id).left = e.left
         else done t 1 ∧ writes t x 1)) ∧
    (e.st = .running → e.cancel = false → e.refills s core = true → exec (.cpComplete core id false) s = .next s) ∧
    (e.st = .running → e.cancel = true → e.form = .copy → tame →
      ∃ t, exec (.cpCancelStop core id 0) s = .next t ∧ SameBytes s t ∧ done t 2)

open Sys2Proof Sys2Proof.Machine in
/-- 14 R389-R393 (Tables 14.5, 14.7 and 14.8): `fab.slot` and `fab.peer` read the rotor and a peer's links; `fab.ctr` reads a counter outside user
mode, and raises ACCESS in user mode or for an absent link or counter; `fab.wait` answers 0x41 for its own position or one outside the domain, the
slot when that peer's slot is open, and else parks after a commit point; `fab.pf` asks for the blocks of its range that the proxy lacks, of at
most 4096 bytes, and never faults. None changes a byte of memory. -/
def Obligations.FabricForms : Prop :=
  ∀ (s : State) (d a b : SReg), s.live = true → s.phase ≠ .dry →
    let v := s.rs a
    let q := bitsNat v 5 0
    let l := bitsNat v 8 0
    let c := bitsNat v 15 12
    let n := (s.rs b).toNat
    Answers (.fabSlot d) s (s.withS d (BitVec.ofNat 64 (s.domain * 2 ^ 48 + s.rot % 2 ^ 24 * 2 ^ 24 + (if s.guard then 2 ^ 22 else 0) +
      s.slot % 64 * 2 ^ 16 + (s.now - s.slotAt) % 2 ^ 16))) ∧
    Answers (.fabPeer d a) s (s.withS d (fabPeerWord s q)) ∧
    (s.mode ≠ 0 → l < 288 → c < 12 → Answers (.fabCtr d a) s (s.withS d
      (if c = 11 then (if (s.link l).retired then 1 else 0)
       else if c = 10 then (s.link l).ctr[10] + (((s.link l).fullAt.map fun t => BitVec.ofNat 64 (s.now - t)).getD 0)
       else (s.link l).ctr.toList.getD c 0))) ∧
    (s.mode = 0 ∨ 288 ≤ l ∨ 12 ≤ c → s.phase = .whole → unconfirmed s.cc s.me.id = false →
      exec (.fabCtr d a) s = .next (trapMe s { code := 4, late := false, aw := false, epc := s.pc, tval := v })) ∧
    (q = s.pkg ∨ s.domain ≤ q → Answers (.fabWait d a b) s (s.withS d 0x41)) ∧
    (q ≠ s.pkg → q < s.domain → peerNow s = q → s.guard = false → Answers (.fabWait d a b) s (s.withS d (BitVec.ofNat 64 s.slot))) ∧
    (∀ ctx, q ≠ s.pkg → q < s.domain → peerNow s ≠ q ∨ s.guard = true → s.cc.rb = [] → s.cc.accs = [] → s.cc.mxq = [] → s.cc.run = some ctx → d ≠ 0 →
      ∃ t m, exec (.fabWait d a b) s = .next t ∧ SameBytes s t ∧ t.cc.run = none ∧ fget t.cc.acts ctx = some m ∧ m.regs = s.me.regs ∧
        m.pc = s.me.npc ∧ .s d ∈ m.pend ∧ m.snap.pc = s.me.pc ∧ m.park = .fabWait q (if n = 0 then none else some (s.now + n)) false d) ∧
    (∃ t, exec (.fabPf a b) s = .next t ∧ SameBytes s t ∧ t.me = s.me ∧ (n = 0 → t = s)) ∧
    (n ≤ 4096 → s.rreqs = [] → s.tagsOut = [] → ∀ blk pte lv pa pkg, blk % 128 = 0 → v.toNat / 128 * 128 ≤ blk → blk < v.toNat + n →
      vaKind blk = .translated → xlateHw s s.mypart blk .r = .ok pte lv pa → pteRemote s pte = some pkg →
      proxyState (s.slice (homeOf s blk)) s.mypart blk = .i →
      ∃ t, exec (.fabPf a b) s = .next t ∧
        ∃ r ∈ t.rreqs, r.va = blk ∧ r.pkg = pkg ∧ r.part = s.mypart ∧ r.excl = false ∧ r.since = s.now)

open Sys2Proof Sys2Proof.Machine in
/-- 14 R361, R362, R386, R393: a slot that has lasted its length ends in the guard of the next; after the last slot of a rotation slot 0 starts and
ROT counts; a changed slot length holds from such a boundary on, which one is open (log 95). After 0.2 us the guard ends and waits for the current
peer return the slot; a wait whose timeout has passed returns 0x40, and a forced one 0x42 only. Before its time nothing happens. 14 R380-R385:
link and lane management. A link that retrains carries nothing and counts it, and retires instead when eight retrains count against it; it returns
with its unacknowledged flits to be sent first (which control flits had arrived is open, log 64), and a retired one leaves them at the front of
their queue, where those that it has no room for wait to enter it (R371, log 61); one retrain is forgotten after 10 s; a lane beyond its error
threshold retrains, then is checked, then serves again; a link comes up at the lower version; a NAK has every flit from the named one on sent
again, and when three replays of one flit have failed the link retrains. No byte of memory changes but for the report of a retirement. -/
def Obligations.RotorAndLinks : Prop :=
  (∀ (s : State),
     let ended := s.slotAt + s.slotLen * 2100
     let slots := fun (slot rot len : Nat) => ({ s with
       slotAt := ended, slot := slot, rot := rot, slotLen := len, guard := true,
       links := fmapVals (fun _ l => { l with slotCtl := 0, slotAll := 0 }) s.links } : State)
     (s.now < ended → exec .fabricSlotStart s = .next s) ∧
     (ended ≤ s.now → s.slot + 1 < s.domain - 1 → exec .fabricSlotStart s = .next (slots (s.slot + 1) s.rot s.slotLen)) ∧
     (ended ≤ s.now → s.domain - 1 ≤ s.slot + 1 → s.swaps = [] → s.slotNext = s.slotLen →
       exec .fabricSlotStart s = .next (slots 0 (s.rot + 1) s.slotLen)) ∧
     (ended ≤ s.now → s.domain - 1 ≤ s.slot + 1 → s.swaps = [] → s.slotNext ≠ s.slotLen →
       ∃ len, (len = s.slotLen ∨ len = s.slotNext) ∧ exec .fabricSlotStart s = .next { slots 0 (s.rot + 1) len with free := s.free + 1 }) ∧
     (s.guard = false ∨ s.now < s.slotAt + 420 → exec .guardEnd s = .next s) ∧
     (s.guard = true → s.slotAt + 420 ≤ s.now → s.trains = [] → (∀ x ∈ allActs s, ∀ q t f d, x.2.2.park ≠ .fabWait q t f d) →
       exec .guardEnd s = .next { s with guard := false }) ∧
     (∀ c x a q tmo f d, s.cores = [(c, s.core c)] → (s.core c).acts = [(x, a)] → a.park = .fabWait q tmo f d → a.pend = [.s d] → d ≠ 0 →
       let returns := fun (i : Instr) (v : Word) => ∃ t m, exec i s = .next t ∧ SameBytes s t ∧ fget (t.core c).acts x = some m ∧ m.park = .queued ∧
         m.regs = a.regs.setS d v ∧ m.pend = [] ∧ m.pc = a.pc
       (f = false → s.guard = true → s.slotAt + 420 ≤ s.now → s.trains = [] → peerNow s = q → returns .guardEnd (BitVec.ofNat 64 s.slot)) ∧
       (f = false → ∀ w, tmo = some w → w ≤ s.now → returns (.fabWaitTimeout c x) 0x40) ∧
       (f = true → returns (.activationWake c x) 0x42 ∧ exec (.fabWaitTimeout c x) s = .next s ∧
         (s.guard = true → s.slotAt + 420 ≤ s.now → s.trains = [] → exec .guardEnd s = .next { s with guard := false })) ∧
       (∀ w, tmo = some w → s.now < w → exec (.fabWaitTimeout c x) s = .next s))) ∧
  (∀ (s : State) (l : Nat),
     let k := s.link l
     let becomes := fun (i : Instr) (f : Link → Prop) => ∃ t, exec i s = .next t ∧ SameBytes s t ∧ f (t.link l) ∧ ∀ m, m ≠ l → t.link m = s.link m
     (linkUp_ s l = true → k.training = false → (k.ctr[5]).toNat < 8 → becomes (.linkRetrain l) fun x =>
       x.training = true ∧ x.ctr[5] = k.ctr[5] + 1 ∧ x.ctr[4] = k.ctr[4] + 1 ∧ x.conns = k.conns) ∧
     (linkUp_ s l = true → k.training = false → 8 ≤ (k.ctr[5]).toNat →
       (k.conns = [] → exec (.linkRetrain l) s = .next
         (report (s.onLink l fun k => { k with retired := true, conns := [] }) (.ed (l / 36)) none 7 0 0 (BitVec.ofNat 64 l))) ∧
       (∀ p c, k.conns = [(p, c)] → c.replay ≠ [] → (∀ x ∈ c.replay, x.1 ≠ 32 ∧ x.2.dst.toNat = p) →
         let q := c.replay ++ (fget (s.edge (l / 36)).bulkQ p).getD []
         let room := if s.qmax < 40 then 2 ^ s.qmax / 136 else q.length
         ∃ t, exec (.linkRetrain l) s = .next t ∧ (t.link l).retired = true ∧ fget (t.edge (l / 36)).bulkQ p = some (q.take room) ∧
           (fget (t.edge (l / 36)).held p).getD [] = q.drop room ++ (fget (s.edge (l / 36)).held p).getD [])) ∧
     (k.training = true → becomes (.linkRetrainEnd l) fun x => x.training = false ∧ ∀ p, fget k.conns p = some (k.conn p) → (k.conn p).resend = [] →
       let c := k.conn p
       (x.conn p).replay = c.replay ∧ (x.conn p).txSeq = c.txSeq ∧ ∃ j, j ≤ c.ctlSent.length ∧
         (x.conn p).resend = ((c.ctlSent.drop j).zipIdx.map fun y => (y.1.1, ctlOut c y.2 y.1.2)) ++ c.replay ∧
         (x.conn p).txCtl = (c.ctlSent.length - j) % 4096) ∧
     becomes (.linkRestore l) (fun x => x = if k.retired then { k with retired := false, training := false } else k) ∧
     (k.ctr[5] ≠ 0 → k.decayAt + 21000000000 ≤ s.now → becomes (.leakyBucketDecay l) fun x => x.ctr[5] = k.ctr[5] - 1 ∧ x.decayAt = s.now) ∧
     (k.ctr[5] = 0 ∨ s.now < k.decayAt + 21000000000 → becomes (.leakyBucketDecay l) fun x => x = k) ∧
     (∀ lane errs, ∀ h : lane < 8,
       (k.lanes[lane] = .up → lanesUp k = 8 → s.berth * 2 ^ 27 < errs * 10 ^ 8 → becomes (.laneErrorWindow l lane errs) fun x =>
         x.lanes[lane] = .train ∧ x.ctr[6] = k.ctr[6] + 1) ∧
       (k.lanes[lane] = .check → errs * 10 ^ 8 < s.berth * 2 ^ 23 → becomes (.laneErrorWindow l lane errs) fun x =>
         x.lanes[lane] = .up ∧ x.ctr[7] = k.ctr[7] + 1) ∧
       (k.lanes[lane] = .check → s.berth * 2 ^ 23 ≤ errs * 10 ^ 8 → becomes (.laneErrorWindow l lane errs) fun x => x.lanes[lane] = .train) ∧
       (k.lanes[lane] = .train → becomes (.laneRetrainEnd l lane) fun x => x.lanes[lane] = .check)) ∧
     (∀ ver, l < 288 → edPresent s (l / 36) = true → 1 ≤ ver → becomes (.linkUp l ver) fun x => fget x.vers (peerNow s) = some 1) ∧
     (let c := k.conn (peerNow s)
      linkUp_ s l = true → c.resend = [] →
       (∀ n, c.txCtl < 4096 → n ≤ c.txCtl → becomes (.nak l false n) fun x =>
         (x.conn (peerNow s)).resend = c.ctlSent.drop (c.ctlSent.length - (c.txCtl - n)) ∧ x.ctr[3] = k.ctr[3] + 1) ∧
       (∀ n, c.replay.length ≤ 2048 → c.txSeq < 4096 → n < c.replay.length → c.fails < 2 →
         becomes (.nak l true ((c.txSeq + 4096 - c.replay.length + n) % 4096)) fun x => (x.conn (peerNow s)).resend = c.replay.drop n) ∧
       (∀ n, c.replay.length ≤ 2048 → c.txSeq < 4096 → n < c.replay.length → c.fails = 2 → k.training = false → (k.ctr[5]).toNat < 8 →
         c.nakAt = (c.txSeq + 4096 - c.replay.length + n) % 4096 → becomes (.nak l true c.nakAt) fun x => x.training = true)))

open Sys2Proof Sys2Proof.Machine in
/-- 14 R364, R365, R369, R372 (Table 14.2): a link in service whose slot is open sends the control flit that waits for the current peer, numbered and
with its CRC, and it leaves its queue. An intact bulk flit that comes in its order is taken, counted and acknowledged by what the link sends next;
one with a wrong CRC, or after a gap, is not delivered, and a NAK waits to be sent, one for the flits that were already on their way; one that has
arrived before is not delivered again (R380). Bit 13 of TAG as "no other copy", a block's lines from its lowest byte up, the bytes that the CRC
takes in turn and the payload of a NAK are log 12, and one NAK for a gap is log 64: the model's choices. 14 R364-R368, R372, R375-R377: each event
of the fabric completes where its conditions hold, whatever else is under way. A link that can start a flit sends one, counts it and is busy for
its time; an intact flit that comes in its order is taken and counted; a reply ends its request with the block in its state; an invalidation
leaves the proxy without the block; the home answers a request that no copy stands in the way of, and notes the copy, which it asks back at once
where a word of the block is watched (log 107); a request that has waited for FTO rotations is given up. 14 R368, R375-R377: blocks of other
packages. A line reply ends the request that it answers and puts the block into M for a write, else E or S as it says; an invalidation has the
proxy give its block up; the home answers a request for a block of a page that it holds and notes the copy, which it asks back at once where a
word of the block is watched (log 107); a request without an answer for FTO rotations ends, its accesses fail with ACCESS, and an RTO event is
raised. -/
def Obligations.FlitsAndRemoteBlocks : Prop :=
  (∀ (s : State) (l : Nat), linkUp_ s l = true → (s.link l).training = false →
     let k := s.link l
     let e := l / 36
     let peer := peerNow s
     let c := k.conn peer
     (∀ part f, s.guard = false → slotRoom s k = true → (fget k.vers peer).isSome = true → c.naks = [] → c.resend = [] → k.slotCtl = 0 →
       fget (s.edge e).ctlQ peer = some [(part, f)] → streamLink s part e peer f.bulk = some l →
       ∃ t g, exec (.flitBoundary l) s = .next t ∧ SameBytes s t ∧ fget (t.edge e).ctlQ peer = some [] ∧ ((t.link l).conn peer).ctlSent.getLast? = some (part, g) ∧
         g.payload = f.payload ∧ g.typ = f.typ ∧ g.dst = f.dst ∧ g.ack = BitVec.ofNat 12 c.rxSeq ∧
         g.crc = flitCrc (0xFFFF ^^^ BitVec.ofNat 16 (c.txCtl % 4096)) { g with crc := f.crc } ∧
         ((t.link l).conn peer).txCtl = (c.txCtl + 1) % 4096 ∧ (t.link l).slotAll = k.slotAll + 1) ∧
     (∀ fl : Flit, fl.bulk = true →
       (fl.crc = flitCrc 0xFFFF { fl with crc := 0 } → fl.seq.toNat = c.rxSeq → fl.dst.toNat = s.pkg → fl.typ = 0 →
         ∃ t x, exec (.flitReceive l fl) s = .next t ∧ SameBytes s t ∧ t.inbox = s.inbox ++ [x] ∧ x.pkg = peer ∧
           (∃ data, x.what = .reply data (fl.tag.getLsbD 13) (fl.tag.toNat % 2 ^ 13) ∧ data.length = 4 ∧
             ∀ i, i < 4 → data.getD i 0 = fl.payload.extractLsb' (256 * i) 256) ∧
           ((t.link l).conn peer).rxSeq = (c.rxSeq + 1) % 4096 ∧ (t.link l).ctr[1] = k.ctr[1] + 1) ∧
       (c.rxSeq < 4096 →
         let ok := fl.crc = flitCrc 0xFFFF { fl with crc := 0 }
         let after := (fl.seq.toNat + 4096 - c.rxSeq) % 4096
         let asks := fun (m : Nat) => ∃ g : Flit, g.typ = 5 ∧ g.payload.toNat % 2 ^ 64 = c.rxSeq ∧
           exec (.flitReceive l fl) s = .next (s.onLink l fun k => k.onConn peer fun c => { c with gapTo := some m, naks := c.naks ++ [g] })
         let late := fun (naks : List Flit) => ∃ t, exec (.flitReceive l fl) s = .next t ∧ SameBytes s t ∧ t.inbox = s.inbox ∧ t.edges = s.edges ∧
           ((t.link l).conn peer).rxSeq = c.rxSeq ∧ ((t.link l).conn peer).gapTo = some fl.seq.toNat ∧ ((t.link l).conn peer).naks = naks ∧
           (t.link l).ctr[1] = k.ctr[1] + 1
         (¬ok → asks c.rxSeq) ∧
         (ok → 0 < after → after < 2048 → c.gapTo = none → ∃ g : Flit, g.typ = 5 ∧ g.payload.toNat % 2 ^ 64 = c.rxSeq ∧ late (c.naks ++ [g])) ∧
         (ok → 0 < after → after < 2048 → ∀ m, c.gapTo = some m → m < 4096 → 0 < (fl.seq.toNat + 4096 - m) % 4096 →
           (fl.seq.toNat + 4096 - m) % 4096 ≤ 2048 → late c.naks) ∧
         (ok → 2048 ≤ after → ∃ t, exec (.flitReceive l fl) s = .next t ∧ SameBytes s t ∧ t.inbox = s.inbox ∧ t.edges = s.edges ∧
           ((t.link l).conn peer).rxSeq = c.rxSeq ∧ ((t.link l).conn peer).naks = c.naks)))) ∧
  (∀ s : State,
     (∀ l, linkSends s l = true → ∃ t, exec (.flitBoundary l) s = .next t ∧ SameBytes s t ∧
       (t.link l).slotAll = (s.link l).slotAll + 1 ∧ (t.link l).ctr[0] = (s.link l).ctr[0] + 1 ∧
       (t.link l).busyTo = flitStart s (s.link l) + flitTime (s.link l)) ∧
     (∀ l fl, linkUp_ s l = true → (s.link l).training = false →
       let c := (s.link l).conn (peerNow s)
       (fl.bulk = true → fl.crc = flitCrc 0xFFFF { fl with crc := 0 } → fl.seq.toNat = c.rxSeq →
         ∃ t, exec (.flitReceive l fl) s = .next t ∧ (t.link l).ctr[1] = (s.link l).ctr[1] + 1 ∧
           ((t.link l).conn (peerNow s)).rxSeq = (c.rxSeq + 1) % 4096) ∧
       (fl.bulk = false → fl.crc = flitCrc (0xFFFF ^^^ BitVec.ofNat 16 (c.rxCtl % 4096)) { fl with crc := 0 } → fl.typ ≠ 5 →
         ∃ t, exec (.flitReceive l fl) s = .next t ∧ (t.link l).ctr[1] = (s.link l).ctr[1] + 1 ∧
           ((t.link l).conn (peerNow s)).rxCtl = (c.rxCtl + 1) % 4096)) ∧
     (∀ x, s.inbound x.id = some x →
       let gone := fun (t : State) => t.inbound x.id = none
       (∀ data ex tag r, x.what = .reply data ex tag → s.rreqs.find? (fun q => decide (q.id % 2 ^ 13 = tag ∧ q.pkg = x.pkg)) = some r →
         ∃ t, exec (.proxyLineReply x.id) s = .next t ∧ gone t ∧ (∀ q ∈ t.rreqs, q.id ≠ r.id) ∧
           proxyState (t.slice r.slice) r.part r.va = (if r.excl then .m else if ex then .e else .s)) ∧
       (∀ data ex tag, x.what = .reply data ex tag → s.rreqs.find? (fun q => decide (q.id % 2 ^ 13 = tag ∧ q.pkg = x.pkg)) = none →
         ∃ t, exec (.proxyLineReply x.id) s = .next t ∧ gone t ∧ SameBytes s t ∧ t.slices = s.slices) ∧
       (∀ va, x.what = .invalidate va → (∀ r ∈ s.rreqs, ¬(r.part = x.part ∧ r.pkg = x.pkg ∧ r.va / 128 = va / 128 ∧ r.id % 2 ^ 13 = x.tag)) →
         ∃ t, exec (.homeInvalidate x.id) s = .next t ∧ gone t ∧ proxyState (t.slice (homeOf s va)) x.part va = .i) ∧
       (∀ ex va pte lv pa, x.what = .request ex va →
         let b := va / 128 * 128
         let mine := fun (p : PeerCopy) => p.part = x.part ∧ p.blk = va / 128
         xlateHw s x.part b (if ex then .w else .r) = .ok pte lv pa → pteRemote s pte = none →
         (∀ p ∈ (s.slice (homeOf s b)).peers, mine p → if p.pkg = x.pkg then p.asked = false else ex = false ∧ p.excl = false) →
         trainComing s x.part b = false → bulkFull s (sliceEdge s (homeOf s b)) x.pkg 1 = false →
         ∃ t, exec (.homeRemoteRequest x.id) s = .next t ∧ gone t ∧
           ∃ p ∈ (t.slice (homeOf s b)).peers, mine p ∧ p.pkg = x.pkg ∧ p.tag = x.tag ∧
             (p.asked = true ↔ p.excl = true ∧ watched s (homeOf s b) x.part va = true) ∧
             (p.excl = true ↔ ex = true ∨ ∀ y ∈ (s.slice (homeOf s b)).peers, mine y → y.pkg = x.pkg))) ∧
     (∀ id r, s.rreqs.find? (fun q => decide (q.id = id)) = some r → r.since + s.fto * (s.domain - 1) * s.slotLen * 2100 ≤ s.now →
       ∃ t, exec (.remoteRequestTimeout id) s = .next t ∧ ∀ q ∈ t.rreqs, q.id ≠ id)) ∧
  (∀ (s : State) (x : Inbound), s.inbox = [x] →
     (∀ data ex tag r, x.what = .reply data ex tag → s.rreqs = [r] → r.id % 2 ^ 13 = tag → r.pkg = x.pkg →
       ∃ t, exec (.proxyLineReply x.id) s = .next t ∧ t.inbox = [] ∧ t.rreqs = [] ∧
         proxyState (t.slice r.slice) r.part r.va = (if r.excl then .m else if ex then .e else .s)) ∧
     (∀ va, x.what = .invalidate va → s.rreqs = [] →
       ∃ t, exec (.homeInvalidate x.id) s = .next t ∧ t.inbox = [] ∧ proxyState (t.slice (homeOf s va)) x.part va = .i) ∧
     (∀ ex va pte lv pa, x.what = .request ex va →
       let b := va / 128 * 128
       xlateHw s x.part b (if ex then .w else .r) = .ok pte lv pa → pteRemote s pte = none → (s.slice (homeOf s b)).peers = [] →
       bulkFull s (sliceEdge s (homeOf s b)) x.pkg 1 = false →
       ∃ t, exec (.homeRemoteRequest x.id) s = .next t ∧ t.inbox = [] ∧
         (t.slice (homeOf s b)).peers = [{ part := x.part, blk := va / 128, pkg := x.pkg, excl := true,
                                              asked := watched s (homeOf s b) x.part va, tag := x.tag }]) ∧
     (∀ r, s.rreqs = [r] →
       (s.now < r.since + s.fto * (s.domain - 1) * s.slotLen * 2100 → exec (.remoteRequestTimeout r.id) s = .next s) ∧
       (r.since + s.fto * (s.domain - 1) * s.slotLen * 2100 ≤ s.now → ∃ t, exec (.remoteRequestTimeout r.id) s = .next t ∧ t.rreqs = [] ∧
         ∀ c y, frising s.cores = true → fget s.cores c = some (s.core c) → y ∈ (s.core c).accs → y.st = .pending →
           y.kind.toMemory = true → (s.core c).part = some r.part →
           vaKind y.va = .translated → y.va / 128 = r.va / 128 → (∀ z ∈ (s.core c).accs, z.id = y.id → z = y) →
           { y with st := .failed 4 (BitVec.ofNat 64 y.va) 0 } ∈ (t.core c).accs)))

open Sys2Proof Sys2Proof.Machine in
/-- 15 R397-R402, R408, R411, R412 (Tables 15.4-15.8): pot forms at issue. Posts and state changes append one entry to the retire buffer; `pot.open`
at a slice of this package takes the lowest free entry, and answers its handle, or the code of what is missing; `pot.stat` leaves a request and
makes sD wait; a read is a commit point that sends its request, with the operands of its block, and parks. No byte of memory changes. -/
def Obligations.PotForms : Prop :=
  ∀ (s : State) (d a b : SReg), s.live = true → s.phase ≠ .dry →
    let h := s.rs a
    let v := s.rs b
    let entry := fun (i : Instr) (n : Nat) (op : RbOp) => AnswersCore i s s (s.cc.buffering s.me n op)
    let word := fun (i : Nat) => readLsWord s (bitsNat v 16 0 + 8 * i)
    (s.hasRoom 8 → entry (.potClose a) 8 (.potClose h) ∧ entry (.potSeal a) 8 (.potSeal h) ∧ entry (.potExp a b) 8 (.potExp h v) ∧
      entry (.potReset a b) 8 (.potReset h (v.setWidth 32))) ∧
    (s.hasRoom 32 → postTrap s h v = none → entry (.potPost a b) 32 (.post h (postBlk s v) [])) ∧
    (unconfirmed s.cc s.me.id = false → bitsNat v 7 0 < 4 ∨ (16 ≤ bitsNat v 7 0 ∧ bitsNat v 7 0 < 32) →
      AnswersCore (.potStat d a b) s s.used1 ((s.cc.withRequest (s.request (.potStat h v d) 0 8 false false 2 none)).awaiting (.s d))) ∧
    (∀ n, unconfirmed s.cc s.me.id = false → potBlkTrap s v = none → bitsNat (word 2) 62 57 = 0 → vaRemote s s.mypart (word 2).toNat = none →
      let hm := homeOf s (word 2).toNat
      let g := s.slice hm
      let size := bitsNat (word 0) 15 0
      let fast := bitAt (word 0) 16
      let free := fun (i : Nat) => ((fget g.pots i).getD Pot.reset).isOpen = false
      let inc := nextInc ((fget g.pots n).getD Pot.reset).inc
      let handle := potHandle s.pkg hm n inc
      (size < 4 ∨ 16384 < size ∨ size % 4 ≠ 0 → Answers (.potOpen d b) s (s.withS d (BitVec.ofNat 64 (3 * 2 ^ 32)))) ∧
      (4 ≤ size → size ≤ 16384 → size % 4 = 0 → (∀ i, i < 16 → ¬free i) → Answers (.potOpen d b) s (s.withS d (BitVec.ofNat 64 (2 ^ 32)))) ∧
      (4 ≤ size → size ≤ 16384 → size % 4 = 0 → n < 16 → free n → (∀ i, i < n → ¬free i) →
        (potStore g < potUsed g + potSize size fast → Answers (.potOpen d b) s (s.withS d (BitVec.ofNat 64 (2 * 2 ^ 32)))) ∧
        (potUsed g + potSize size fast ≤ potStore g → s.pkg < 64 → hm < 512 → ∃ t, exec (.potOpen d b) s = .next t ∧ SameBytes s t ∧
          t.me = { s.withS d handle with potClaims := s.me.potClaims ++ [handle] } ∧
          fget (t.slice hm).pots n = some (
            { isOpen := true, inc := inc, d := size, fast := fast, l := bitsNat (word 0) 23 20, g := (word 0).extractLsb' 32 32, e := word 1,
              landed := Vector.replicate 16 0, sum := List.replicate size 0, sat := false, rej := 0, part := s.mypart } : Pot)))) ∧
    (∀ ctx i sealing, (i, sealing) ∈ [(Instr.potRead d a b, false), (.potReadSeal d a b, true)] → s.cc.run = some ctx → s.cc.rb = [] → s.cc.accs = [] →
      s.cc.mxq = [] → d ≠ 0 → readTrap s h v = none →
      ∃ t m r, exec i s = .next t ∧ SameBytes s t ∧ t.cc.run = none ∧ fget t.cc.acts ctx = some m ∧ m.park = .potRead r.id ∧ m.regs = s.me.regs ∧
        m.pc = s.me.npc ∧ .s d ∈ m.pend ∧ t.potReads = s.potReads ++ [r] ∧ r.handle = h ∧ r.need = word 0 ∧ r.dst = bitsNat (word 1) 16 0 ∧
        r.bf16 = bitAt (word 1) 17 ∧ r.limit = bitsNat (word 1) 63 32 ∧ r.first = bitsNat (word 2) 15 0 ∧ r.count = bitsNat (word 2) 31 16 ∧
        r.sealing = sealing ∧ r.st = .travelling)

open Sys2Proof Sys2Proof.Machine in
/-- 15 R398-R401, R404, R411 (Table 15.5): drained operations at their pot. A post lands when its slot is expected, its elements lie in the pot, its
generation is one of the pot's last L + 1, and its slot has not landed in it: its elements are added and its bit of the row is set. Else only the
count of rejections grows. A seal starts the next generation with its row empty; an expectation is replaced; a reset clears sums and rows at a
generation; a close leaves a closed entry that keeps its incarnation. On a stale handle a change of state has no effect. 15 R405, R408-R411, 14
R379 (Tables 15.5 and 15.9): reads at their pot. With every needed slot landed, or its limit passed, a read takes sums, mask and generation at
once, and a sealing one starts the next generation; else it waits, or with 64 waiting at the slice is sent again after 64 cycles; one with a stale
handle fails with ACCESS. A reply writes the values and the dword at offset 24 of its block to local store, the mask to sD, and queues the
activation. A post that another package never answers ends with LOST, and INFO 0 (log 70; R405 gives 0 for STALE). -/
def Obligations.PotEffects : Prop :=
  (∀ (s : State) (f : Flight) (h : Word) (p : Pot), s.flights = [f] → s.potReads = [] → potPkg h = s.pkg → potAt s f.part h = some p →
     let becomes := fun (q : Pot) => ∃ t, exec (.potPostPerform f.id) s = .next t ∧ SameBytes s t ∧ t.flights = [] ∧
       fget (t.slice (potSlice h)).pots (potEnt h) = some q
     (∀ b data, f.op = .post h b data → b.cw = 0 → b.count < 1024 ∨ f.leaveOk = true → f.sent = none →
       let age := (p.g - b.gen).toNat
       let row := p.landed.get (Fin.ofNat 16 b.gen.toNat)
       let lands := p.e.getLsbD b.slot = true ∧ b.first + b.count ≤ p.d ∧ age < 2 ^ 31 ∧ age ≤ p.l ∧ row.getLsbD b.slot = false
       (lands → becomes { p.add b data with landed := p.landed.set (b.gen.toNat % 16) (row ||| BitVec.ofNat 64 (2 ^ b.slot)) (Nat.mod_lt _ (by decide)) }) ∧
       (¬lands → becomes { p with rej := p.rej + 1 })) ∧
     (f.op = .potSeal h → becomes
       { p with g := p.g + 1, landed := p.landed.set ((p.g + 1).toNat % 16) 0 (Nat.mod_lt _ (by decide)) }) ∧
     (∀ e, f.op = .potExp h e → becomes { p with e := e }) ∧
     (∀ g, f.op = .potReset h g → becomes
       { p with g := g, landed := Vector.replicate 16 0, sum := List.replicate p.d 0, sat := false, rej := 0 }) ∧
     (f.op = .potClose h → becomes { Pot.reset with inc := p.inc }) ∧
     ∀ (h' : Word) (op : RbOp), op ∈ [.potSeal h', .potExp h' 0, .potReset h' 0, .potClose h'] → f.op = op → potPkg h' = s.pkg →
       potAt s f.part h' = none → exec (.potPostPerform f.id) s = .next { s with flights := [] }) ∧
  (∀ (s : State) (r : PotRd), s.potReads = [r] → r.far = none →
     (∀ p, s.flights = [] → potPkg r.handle = s.pkg → potAt s r.part r.handle = some p → r.first + r.count ≤ p.d → r.count ≠ 0 →
       let short := r.need &&& p.e &&& ~~~(p.landed.get (Fin.ofNat 16 p.g.toNat)) ≠ 0
       let ended := fun (since : Nat) => r.limit ≠ 0xFFFFFFFF ∧ since + r.limit ≤ s.now
       let v := potVals p r.first r.count r.bf16
       let takes := fun (i : Instr) (since : Option Nat) => ∃ t, exec i s = .next t ∧ SameBytes s t ∧
         t.potReads = [{ r with since := since, st := .answered (p.landed.get (Fin.ofNat 16 p.g.toNat)) v.val p.g p.sat (decide short) false v.flags }] ∧
         fget (t.slice (potSlice r.handle)).pots (potEnt r.handle) = some (if r.sealing then p.sealed else p)
       (r.st = .travelling → r.since = none → (¬short ∨ ended s.now → takes (.potReadPerform r.id) (some s.now)) ∧
         (short → ¬ended s.now → exec (.potReadPerform r.id) s = .next { s with potReads := [{ r with since := some s.now, st := .waiting }] })) ∧
       (∀ t0, r.st = .waiting → r.since = some t0 → ended t0 → takes (.potReadLimit r.id) (some t0)) ∧
       (∀ t0, r.st = .waiting → r.since = some t0 → ¬ended t0 → exec (.potReadLimit r.id) s = .next s) ∧
       (∀ w, r.st = .held w → r.since = none → ¬short → w ≤ s.now → takes (.potReadResend r.id) (some s.now)) ∧
       (∀ w, r.st = .held w → s.now < w → exec (.potReadResend r.id) s = .next s)) ∧
     (s.flights = [] → potPkg r.handle = s.pkg → potAt s r.part r.handle = none → r.st = .travelling →
       ∃ t, exec (.potReadPerform r.id) s = .next t ∧ SameBytes s t ∧ t.potReads = [] ∧
         ∀ x, (s.core r.core).part = some r.part → x ∈ (s.core r.core).accs → x.id = r.id →
           { x with st := .failed 4 r.handle 0 } ∈ (t.core r.core).accs) ∧
     (∀ (u : State) (l : List PotRd) (p : Pot), u.potReads = l ++ [r] → u.flights = [] → potPkg r.handle = u.pkg → potAt u r.part r.handle = some p →
       l.length = 64 → (∀ y ∈ l, y.st = .waiting ∧ potSlice y.handle = potSlice r.handle ∧ y.handle ≠ r.handle ∧ y.id ≠ r.id) →
       r.first + r.count ≤ p.d → r.count ≠ 0 → r.st = .travelling → r.since = none →
       r.need &&& p.e &&& ~~~(p.landed.get (Fin.ofNat 16 p.g.toNat)) ≠ 0 → ¬(r.limit ≠ 0xFFFFFFFF ∧ r.limit = 0) →
       exec (.potReadPerform r.id) u = .next { u with potReads := l ++ [{ r with since := some u.now, st := .held (u.now + 64) }] }) ∧
     (∀ mask vals gen sat short closed flags ctx a x d da ba, r.st = .answered mask vals gen sat short closed flags → s.cores = [(r.core, s.core r.core)] →
       (s.core r.core).accs = [x] → x.id = r.id → x.kind = .potRead d → (s.core r.core).acts = [(ctx, a)] → a.id = r.act → (s.partn r.part).st = 2 →
       a.pend = [.s d] → d ≠ 0 → vals ≠ [] → s.flights = [] → (s.core r.core).watches = [] → (s.core r.core).ls.wf = true →
       let bytes := vals.flatMap fun v => leBytes (if r.bf16 then 2 else 4) v.toNat
       lsPlace a (BitVec.ofNat 64 r.dst) bytes.length = some da → lsPlace a (BitVec.ofNat 64 r.blk) 32 = some ba →
       overlap da bytes.length (ba + 24) 8 = false →
       ∃ t m, exec (.potReadReply r.id) s = .next t ∧ t.potReads = [] ∧ (t.core r.core).accs = [] ∧ fget (t.core r.core).acts ctx = some m ∧
         m.park = .queued ∧ m.regs = a.regs.setS d mask ∧ m.flags = a.flags ||| flags ∧ m.pend = [] ∧
         (∀ i, i < bytes.length → t.byte (.ls r.core (da + i)) = bytes.getD i 0) ∧
         lsWord (t.core r.core) (ba + 24) = gen.toNat + (if sat then 2 ^ 32 else 0) + (if short then 2 ^ 33 else 0) + (if closed then 2 ^ 34 else 0) ∧
         ∀ p, (∀ o, (da ≤ o ∧ o < da + bytes.length) ∨ (ba + 24 ≤ o ∧ o < ba + 32) → p ≠ .ls r.core o) → t.byte p = s.byte p) ∧
     (∀ f h b data since n, s.posts = [(n, f, since)] → f.op = .post h b data → postObjWait s f b = none →
       (s.now < since + s.fto * (s.domain - 1) * s.slotLen * 2100 → exec (.postTrainTimeout n) s = .next s) ∧
       (since + s.fto * (s.domain - 1) * s.slotLen * 2100 ≤ s.now → exec (.postTrainTimeout n) s =
         .next (postComplete { s with posts := [] } f h b.cw 8 0))))

open Sys2Proof Sys2Proof.Machine in
/-- 17 R423, R424, R431, R432, R435, R436, R441, R444, R446, R453 (Tables 17.3 and 17.7): the `qd.` and `reel.` forms, of an activation with nothing
outstanding. Opening launches the block: a failed check returns its code, a reel's launch 0, and a quadrille's parks. A form of a member outside
any quadrille, or outside any reel, raises ACCESS with `rp` in TVAL. Status forms read the quadrille or the reel and are commit points; a detach,
a score and a finish act on their member or entrant; an exit and the round barrier park. A field that the home of another package holds is asked
for there. -/
def Obligations.GangForms : Prop :=
  ∀ (s : State) (d a : SReg) (ctx : Nat), s.live = true → s.phase ≠ .dry → s.cc.run = some ctx → s.cc.rb = [] → s.cc.accs = [] → s.cc.mxq = [] →
    s.flights = [] → d ≠ 0 →
    let m := s.me
    let v := s.rs a
    let k := bitsNat v 7 0
    let committed := fun (m : Act) => { m with snap := snapOf m m.npc, attempts := 0, claims := [], barClaims := [], potClaims := [] }
    let reads := fun (i : Instr) (w : Word) => ∃ t, exec i s = .next t ∧ SameBytes s t ∧ t.me = committed (s.withS d w)
    let waits := committed { m with pend := .s d :: m.pend.filter (· ≠ .s d) }
    let asks := fun (i : Instr) (rcb p e : Nat) => ∃ t, exec i s = .next t ∧ SameBytes s t ∧ t.me = waits ∧
      t.cc.accs = [s.request (.gangStat rcb p k e d) 0 8 true false 0 (some (beforeSnap s.me))]
    let parks := fun (i : Instr) (p : Park) => ∃ t, exec i s = .next t ∧ SameBytes s t ∧ t.cc.run = none ∧
      fget t.cc.acts ctx = some { waits with park := p, pc := m.npc }
    (∀ i kind, (i, kind) ∈ [(Instr.qdOpen d a, 1), (.reelOpen d a, 2)] → v.toNat % 512 = 0 →
      ∀ pte lv pa, xlateHw s s.mypart v.toNat .w = .ok pte lv pa → homeWait s s.mypart v.toNat pte pa true = none →
      let r := launchAt s s.mypart v.toNat (some m.rp) none (some kind) (some s.cur) s.e4
      exec i s = .next (if r.2 ≠ 0 ∨ kind = 2 then commitAt (r.1.ws d (BitVec.ofNat 64 r.2)) s.cur m.npc
        else parkMe (commitAt (r.1.pendReg (.s d)) s.cur m.npc) (.qdOpen v.toNat d))) ∧
    (∀ q p, quadOf s s.mypart m.rp = some q → q.home = some p → k ≤ 4 → k ≠ 1 → asks (.qdStat d a) q.rcb p 0x1000) ∧
    (∀ q, quadOf s s.mypart m.rp = some q → q.home = none →
      (k = 0 → reads (.qdStat d a) (if q.open_ then BitVec.ofNat 64 (0x0101000000000000 + q.qid * 2 ^ 26) else 0)) ∧
      (k = 1 → reads (.qdStat d a) (match memberOf s q (clusterOf s.cur) with
        | some i => BitVec.ofNat 64 i
        | none => BitVec.ofInt 64 (-1))) ∧
      (k = 2 → reads (.qdStat d a) q.det) ∧ (k = 3 → reads (.qdStat d a) q.dep) ∧
      (k = 4 → reads (.qdStat d a) (BitVec.ofNat 64 (q.m + q.gran * 2 ^ 16 + q.tseg * 2 ^ 32))) ∧
      (∀ i, memberOf s q (clusterOf s.cur) = some i →
        (exec .qdDetach s = .next (commitAt (if q.open_ && !q.det.getLsbD i then quadChanged (memberTell s q i false) { q with det := q.det ||| BitVec.ofNat 64 (2 ^ i) }
          else s) s.cur m.npc)) ∧
        (s.quads = [q] → q.closed = false → q.det.getLsbD i = true → parks (.qdExit d) (.qdExit q.rcb d)) ∧
        (s.quads = [q] → q.closed = true → q.det.getLsbD i = true → reads (.qdExit d) q.dep) ∧
        (s.quads = [q] → q.closed = false → q.open_ = true → q.det.getLsbD i = false → q.dep.getLsbD i = false →
          let now := q.det ||| BitVec.ofNat 64 (2 ^ i)
          let u := quadChanged s { q with det := now }
          exec (.qdExit d) s = .next (if (now ||| q.dep) &&& lowBits q.m = lowBits q.m then commitAt (u.ws d q.dep) s.cur m.npc
            else parkMe (commitAt (u.pendReg (.s d)) s.cur m.npc) (.qdExit q.rcb d))))) ∧
    (quadOf s s.mypart m.rp = none → s.phase = .whole → ∀ i ∈ [Instr.qdStat d a, .qdDetach, .qdExit d],
      exec i s = .next (trapMe s { code := 4, late := false, aw := false, epc := s.pc, tval := s.rs 63 })) ∧
    (∀ r, reelOf s s.mypart m.rp = some r → parks (.reelSync d) (.round (some d) false)) ∧
    (∀ r p, reelOf s s.mypart m.rp = some r → r.home = some p → k ≤ 6 → asks (.reelStat d a) r.rcb p ((r.entrant s.cur).getD 64)) ∧
    (∀ r, reelOf s s.mypart m.rp = some r → r.home = none →
      (∀ e, r.entrant s.cur = some e →
        exec (.reelScore a) s = .next (commitAt (paramWrite (setReel (s.onMe fun m => { m with score := v }) { r with scores := r.scores.set e v })
          r.part (r.params + 64 + 8 * e) v.toNat) s.cur m.npc) ∧
        (let fin := r.fin ||| BitVec.ofNat 64 (2 ^ e)
         exec (.reelDone d) s = .next (parkMe (commitAt ((reelNews (paramWrite (setReel s { r with fin := fin }) r.part (r.params + 48) fin.toNat)
           { r with fin := fin } 2 0).pendReg (.s d)) s.cur m.npc) (.round (some d) true))) ∧
        (k = 0 → reads (.reelStat d a) (BitVec.ofNat 64 e)) ∧ (k = 5 → reads (.reelStat d a) (BitVec.ofNat 64 (r.held.getD e []).length)) ∧
        (k = 6 → reads (.reelStat d a) (r.scores.getD e 0))) ∧
      (k = 1 → reads (.reelStat d a) (BitVec.ofNat 64 r.round)) ∧ (k = 2 → reads (.reelStat d a) r.alive) ∧ (k = 3 → reads (.reelStat d a) r.fin) ∧
      (k = 4 → reads (.reelStat d a) (BitVec.ofNat 64
        (if r.cap = 0 then min (r.a0 * 2 ^ r.round) (2 ^ 47 - 1) else min (min (r.a0 * 2 ^ r.round) (2 ^ 47 - 1)) r.cap)))) ∧
    (reelOf s s.mypart m.rp = none → s.phase = .whole → ∀ i ∈ [Instr.reelScore a, .reelDone d, .reelSync d, .reelStat d a],
      exec i s = .next (trapMe s { code := 4, late := false, aw := false, epc := s.pc, tval := s.rs 63 }))

open Sys2Proof Sys2Proof.Machine in
/-- 17 R427-R429, R443, R446-R448: a waiting quadrille reserves its next member, on a cluster of this package that is the partition's, with its tile
free, fewer than four quadrilles and room, else changes nothing. That the reservation claims entry TSEG for the region, which R427 claims once
every member is reserved, is log 71, the model's reading. An access to an open window is performed at the member's scratchpad: a load returns its
bytes and a store writes exactly its bytes. An activation whose allowance is used up parks at the round barrier; a timeout marks its reel; a round
ends when every alive entrant has stopped; a package that is not the home of a reel tells the home of its part in it (log 109). -/
def Obligations.GangEvents : Prop :=
  (∀ (s : State) (q : Quad) (i cl : Nat), s.quads = [q] → q.home = none → q.open_ = false → q.closed = false → (s.partn q.part).st = 2 →
    q.next = some i → q.members.getD i (0, 0) = (s.pkg, cl) → q.reserved.length + 1 < q.m →
    let t := (s.cluster cl).tile q.tseg
    (t.owner.isSome = true ∨ t.st = 3 ∨ memberOk s q.part (s.pkg, cl) = false → exec (.qdAdmission q.id) s = .next s) ∧
    (t.owner = none → t.st ≠ 3 → memberOk s q.part (s.pkg, cl) = true → quadsOn s cl < 4 → ∀ b, freeRun (s.cluster cl) q.gran = some b →
      exec (.qdAdmission q.id) s =
        .next (setQuad (claimTile s cl q.tseg b q.gran ⟨q.part, q.rcb⟩ none 0) { q with reserved := q.reserved ++ [i], asked := false, granted := false }))) ∧
  (∀ (s : State) (x : Access) (r : SReg) (sx : Bool) (cl off : Nat), s.live = true → s.cc.accs = [x] → x.act = s.me.id → x.st = .pending →
    x.dual = false → x.got = [] → x.kind = .load .global (.s r sx) false → s.flights = [] → (∀ c ∈ s.cores, c.2.mxq = []) → s.cc.rb = [] → r ≠ 0 → s.me.pend = [.s r] →
    s.cc.acts.map (·.2.id) = [s.me.id] → 0 < x.size → x.size ≤ 8 → isQuad x.va = true → s.access x.id = some (s.cur, x) → s.findAct x.act = some s.me →
    quadPlace s s.cur ((s.cc.part).getD 0) s.me.rp x.va x.size = .ok (s.pkg, cl, off) →
    let v := ofLe ((List.range x.size).map fun i => s.byte (.spad cl (off + i)))
    ∃ t, exec (.windowAccess x.id) s = .next t ∧ SameBytes s t ∧ t.cc.accs = [] ∧
      t.me = { s.withS r (if sx then BitVec.ofInt 64 (BitVec.ofNat (8 * x.size) v).toInt else BitVec.ofNat 64 v) with pend := [] }) ∧
  (∀ (s : State) (f : Flight) (va cl off : Nat) (data : List Byte) (rel : Bool) (h : Nat), s.flights = [f] → f.op = .store .global va data rel h →
    isQuad va = true → s.access f.id = none → quadPlace s f.core f.part f.rp va data.length = .ok (s.pkg, cl, off) → (s.cluster cl).spad.wf = true →
    ∃ t, exec (.windowAccess f.id) s = .next t ∧ t.flights = [] ∧ (∀ i, i < data.length → t.byte (.spad cl (off + i)) = data.getD i 0) ∧
      ∀ p, (∀ i, i < data.length → p ≠ .spad cl (off + i)) → t.byte p = s.byte p) ∧
  (∀ (s : State) (core ctx : Nat) (a : Act), (s.core core).run = some ctx → fget (s.core core).acts ctx = some a → a.stepDue = false → a.flagsWr = none →
    a.park = .running → (s.core core).rb = [] → (s.core core).accs = [] → (s.core core).mxq = [] →
    (mustBarrier s core a = true → ∃ t m, exec (.allowanceExhausted core) s = .next t ∧ SameBytes s t ∧ (t.core core).run = none ∧
      fget (t.core core).acts ctx = some m ∧ m.park = .round none false ∧ m.regs = a.regs ∧ m.pc = a.npc) ∧
    (mustBarrier s core a = false → exec (.allowanceExhausted core) s = .next s)) ∧
  (∀ (s : State) (r : Reel), s.reels = [r] →
    let late := { r with late := true }
    (r.home = none → r.late = false → r.rto ≠ 0 → (s.partn r.part).st = 2 → r.since + r.rto ≤ s.now →
      exec (.roundTimeout r.id) s = .next (reelNews { s with reels := [late] } late 2 0)) ∧
    (r.home.isSome = true ∨ r.late = true ∨ r.rto = 0 ∨ s.now < r.since + r.rto → exec (.roundTimeout r.id) s = .next s) ∧
    (∀ p, r.home = some p → exec (.roundEnd r.id) s = .next (reelReport s r p)) ∧
    (r.home = none → roundOver s r = false → exec (.roundEnd r.id) s = .next s) ∧
    (∀ w rest, r.home = none → roundOver s r = true → r.ranks = w :: rest → exec (.roundEnd r.id) s =
      .next (if r.fin.getLsbD w || decide (rest.length ≤ 1) then closeReel s r w rest else nextRound s r (w :: rest))))

open Sys2Proof Sys2Proof.Machine in
/-- 20 R462, R463, R470, R476-R478, R485 (Tables 20.3 and 20.5): `leave` asks the governor for tokens up to the pool's 4096; the C 0x3A forms run in
system mode only, and elsewhere raise ACCESS with the C-word in TVAL. They read and write management registers, invalidate translations, report an
event, and begin a swap or a kill, which answers its status later; a check that fails answers its code and changes nothing else. -/
def Obligations.SystemForms : Prop :=
  ∀ (s : State) (d a b : SReg), s.live = true → s.phase ≠ .dry →
    let v := s.rs a
    let w := s.rs b
    let n := bitsNat v 12 0
    let cl := clusterOf s.cur
    let c := s.cluster cl
    let reg := bitsNat v 15 0
    let ask := fun (p : Pool) (r : Nat) => (s.die (dieOf s.cur)).reqs ++ [{ pool := p, n := r, refused := false, since := s.now }]
    (bitsNat w 1 0 = 0 → n ≤ 4096 → let r := min n (4096 - c.held - c.asked)
      (r = 0 → exec (.leave a b) s = .next s) ∧
      (r ≠ 0 → ∃ t, exec (.leave a b) s = .next t ∧ SameBytes s t ∧ t.me = s.me ∧ (t.cluster cl).asked = c.asked + r ∧
        (t.die (dieOf s.cur)).reqs = ask (.mx cl s.cur) r)) ∧
    (bitsNat w 1 0 = 1 → n ≤ 4096 → let r := min n (4096 - s.cc.cpHeld - s.cc.cpAsked)
      (r = 0 → exec (.leave a b) s = .next s) ∧
      (r ≠ 0 → ∃ t, exec (.leave a b) s = .next t ∧ SameBytes s t ∧ t.me = s.me ∧ t.cc.cpAsked = s.cc.cpAsked + r ∧
        (t.die (dieOf s.cur)).reqs = ask (.cp s.cur) r)) ∧
    (s.mode ≠ 2 → s.phase = .whole → unconfirmed s.cc s.me.id = false →
      ∀ i ∈ [Instr.sysTlbinv d a b, .sysMrd d a, .sysMwr a b, .sysSwap d a b, .sysKill d a, .sysEvt a b], exec i s =
        .next (trapMe s { code := 4, late := false, aw := false, epc := s.pc, tval := BitVec.ofNat 64 (s.me.bundle.toNat % 2 ^ 32) })) ∧
    (s.mode = 2 → unconfirmed s.cc s.me.id = false →
      (∀ x, mgmtRead s reg = some x → Answers (.sysMrd d a) s (s.withS d x)) ∧
      (∀ u, mgmtWrite s reg w = .ok u → exec (.sysMwr a b) s = .next u) ∧
      (reg = 0x400 → 4 ≤ w.toNat → w.toNat ≤ 20 → exec (.sysMwr a b) s = .next { s with slotNext := w.toNat }) ∧
      (reg = 0x403 → 2 ≤ w.toNat → w.toNat ≤ 16 → exec (.sysMwr a b) s = .next { s with fto := w.toNat }) ∧
      (bitsNat v 58 57 = 0 → (s.partn (bitsNat v 63 59)).st = 0 → Answers (.sysTlbinv d a b) s (s.withS d 1)) ∧
      (bitsNat v 58 57 = 0 → (s.partn (bitsNat v 63 59)).st ≠ 0 →
        exec (.sysTlbinv d a b) s = .next ((tlbInvalidate s (bitsNat v 63 59) (bitsNat v 56 0) w.toNat).ws d 0)) ∧
      exec (.sysEvt a b) s = .next (report s (.cd (dieOf s.cur)) (some s.cur) 15 (bitsNat v 7 0) s.mypart w) ∧
      (s.swaps = [] → ((s.partn (bitsNat v 4 0)).st = 0 → Answers (.sysKill d a) s (s.withS d 1)) ∧
        ((s.partn (bitsNat v 4 0)).st ≠ 0 → d ≠ 0 → ∃ t x, exec (.sysKill d a) s = .next t ∧ SameBytes s t ∧ t.swaps = [x] ∧ x.p = bitsNat v 4 0 ∧
          x.kill = true ∧ x.core = some (s.me.id, d) ∧ ∀ c, (s.core c).part = some (bitsNat v 4 0) → (t.core c).swapping = true) ∧
        (let p := bitsNat v 5 0
         let q := bitsNat w 5 0
         let mine := fun (p : Nat) => p < 32 ∧ (s.partn p).gran.getLsbD (granOf s.cur) = true
         p ≤ 32 → q ≤ 32 → p ≠ q → ¬mine p → ¬mine q →
          (swapStatus s p q ≠ 0 → Answers (.sysSwap d a b) s (s.withS d (BitVec.ofNat 64 (swapStatus s p q)))) ∧
          (swapStatus s p q = 0 → spanFar s p = false → spanFar s q = false → d ≠ 0 → ∃ t x, exec (.sysSwap d a b) s = .next t ∧ SameBytes s t ∧
            t.swaps = [x] ∧ x.p = p ∧ x.q = q ∧ x.core = some (s.me.id, d) ∧ x.agreed = true ∧ x.kill = false ∧
            (p < 32 → ∀ c, (s.core c).part = some p → (t.core c).swapping = true)))))

open Sys2Proof Sys2Proof.Machine in
/-- 20 R487, R488, R492, R494, R498 (Tables 20.12 and 20.13): commands of the host to a booted package that executes no other. Version 0 answers
BADVER, an unknown number BADCMD, arguments out of range BADARG, and a partition in another state STATE, with nothing else changed; a command that
succeeds has its effect and answers OK with its results. The model's choices: COPY's direction codes 0 and 1 (log 52); the order of HELLO's
results, PSWAP's status as its first result under OK, RKILL's OK without effect, STATE of TLBINV and PKILL, and EVRING's count from 0 (log 55);
PSWAP and PKILL wait while another swap is under way (log 49). -/
def Obligations.HostCommands : Prop :=
  ∀ (s : State) (h : HostReq), s.booted = true → hostPath s h = true → hostBusy s = false →
    let arg := fun (i : Nat) => (h.args.getD i 0).toNat
    let ans := fun (i : Instr) (u : State) (status : Nat) (res : List Word) => exec i s = .next (hostReply u h status res)
    let commands := [Instr.hello h, .bootrpt h, .pcreate h, .pswap h, .pkill h, .pset h, .tlbinv h, .launch h, .rkill h, .plimit h, .evring h, .fabset h,
      .linkrst h, .attest h, .copy h, .netxfer h]
    (h.ver = 0 → ∀ i ∈ commands, ans i s 1 []) ∧
    (h.ver ≠ 0 →
      ans (.hello h) s 0 [1, BitVec.ofNat 64 s.pkg, bootWord s 0] ∧
      (arg 0 ≤ 9 → ans (.bootrpt h) s 0 ((List.range 12).map fun i => bootWord s (arg 0 + i))) ∧
      (arg 0 < 32 → (s.partn (arg 0)).st = 0 → granOk s (h.args.getD 1 0) = true → arg 2 % 0x4000000 = 0 → arg 2 < 2 ^ 48 → arg 4 % 4096 = 0 →
        arg 4 < 2 ^ 48 → ∃ t, exec (.pcreate h) s = .next (hostReply t h 0 []) ∧ (t.partn (arg 0)).st = 1 ∧ (t.partn (arg 0)).gran = h.args.getD 1 0 ∧
          (t.partn (arg 0)).ctx = arg 2 ∧ (t.partn (arg 0)).span = h.args.getD 3 0 ∧ (t.partn (arg 0)).ptroot = arg 4 ∧
          (∀ p, p ≠ arg 0 → t.partn p = s.partn p) ∧ SameBytes s t) ∧
      (arg 0 < 32 → (s.partn (arg 0)).st ≠ 0 → ans (.pcreate h) s 4 []) ∧
      (32 < arg 0 ∨ 32 < arg 1 ∨ arg 0 = arg 1 → ans (.pswap h) s 3 []) ∧
      (arg 0 ≤ 32 → arg 1 ≤ 32 → arg 0 ≠ arg 1 → s.swaps = [] →
        (swapStatus s (arg 0) (arg 1) ≠ 0 → ans (.pswap h) s 0 [BitVec.ofNat 64 (swapStatus s (arg 0) (arg 1))]) ∧
        (swapStatus s (arg 0) (arg 1) = 0 → exec (.pswap h) s = .next (startSwap s (arg 0) (arg 1) none (some h)))) ∧
      (32 ≤ arg 0 → ans (.pkill h) s 3 []) ∧ (arg 0 < 32 → (s.partn (arg 0)).st = 0 → s.swaps = [] → ans (.pkill h) s 4 []) ∧
      (arg 0 < 32 → (s.partn (arg 0)).st ≠ 0 → s.swaps = [] → exec (.pkill h) s = .next (startKill s (arg 0) none (some h))) ∧
      (s.swaps ≠ [] → (arg 0 < 32 → exec (.pkill h) s = .next s) ∧
        (arg 0 ≤ 32 → arg 1 ≤ 32 → arg 0 ≠ arg 1 → exec (.pswap h) s = .next s)) ∧
      (arg 0 < 32 → arg 1 < 16 → ∀ u, mgmtWrite s (16 * arg 0 + arg 1) (h.args.getD 2 0) = .ok u → ans (.pset h) u 0 []) ∧
      (arg 0 < 32 → (s.partn (arg 0)).st = 0 → arg 1 < 2 ^ 57 → ans (.tlbinv h) s 4 []) ∧
      (arg 0 < 32 → (s.partn (arg 0)).st ≠ 0 → arg 1 < 2 ^ 57 → ans (.tlbinv h) (tlbInvalidate s (arg 0) (arg 1) (arg 2)) 0 []) ∧
      (arg 0 < 32 → (s.partn (arg 0)).st ≠ 2 → ans (.launch h) s 4 []) ∧
      (arg 0 < 32 → (s.partn (arg 0)).st = 2 → arg 1 % 512 = 0 → arg 1 ≠ 0 → ∀ pte l pa, xlateHw s (arg 0) (arg 1) .w = .ok pte l pa →
        let r := launchAt s (arg 0) (arg 1) none none (some 3) none false
        (r.2 ≠ 0 → ans (.launch h) r.1 3 []) ∧
        (r.2 = 0 → ans (.launch h) (r.1.onPart (arg 0) fun x => { x with root := h.args.getD 1 0 }) 0 [])) ∧
      (arg 0 < 32 → arg 1 % 512 = 0 → (s.partn (arg 0)).st = 2 →
        let root := (s.partn (arg 0)).root.toNat
        let hit := arg 1 ≠ root ∧ inRegion s (arg 0) (arg 1) root = true ∧ (regionState s (arg 0) (arg 1) = 1 ∨ regionState s (arg 0) (arg 1) = 2)
        (hit → ans (.rkill h) (failRegion s (arg 0) (arg 1) 3) 0 []) ∧ (¬hit → ans (.rkill h) s 0 [])) ∧
      (arg 0 < 100 ∨ 2400 < arg 0 → ans (.plimit h) s 3 []) ∧
      (100 ≤ arg 0 → arg 0 ≤ 2400 → ∃ t, exec (.plimit h) s = .next (hostReply t h 0 []) ∧ SameBytes s t ∧ t.plim = arg 0 ∧
        ∀ c, c < 16 → cdPresent s c = true → dieBudget t c = arg 0 / 60) ∧
      (8 ≤ arg 0 ∨ edPresent s (arg 0) = false ∨ arg 2 < 6 ∨ 16 < arg 2 ∨ 2 ^ 47 ≤ arg 1 ∨ 2 ^ 47 ≤ arg 3 → ans (.evring h) s 3 []) ∧
      (arg 0 < 8 → edPresent s (arg 0) = true → 6 ≤ arg 2 → arg 2 ≤ 16 → arg 1 < 2 ^ 47 → arg 3 < 2 ^ 47 → ∃ t, exec (.evring h) s = .next (hostReply t h 0 []) ∧ SameBytes s t ∧
        (t.edge (arg 0)).evBase = arg 1 ∧ (t.edge (arg 0)).evSize = 2 ^ arg 2 ∧ (t.edge (arg 0)).evConsAt = arg 3 ∧
        (t.edge (arg 0)).evWritten = 0) ∧
      (arg 0 = 0x400 → 4 ≤ arg 1 → arg 1 ≤ 20 → ans (.fabset h) { s with slotNext := arg 1 } 0 []) ∧
      (arg 0 < 0x400 ∨ 0x403 < arg 0 → ans (.fabset h) s 3 []) ∧
      (arg 0 < 288 → edPresent s (arg 0 / 36) = true → ans (.linkrst h) (s.onLink (arg 0) fun k => if k.retired then { k with retired := false, training := false } else k) 0 []) ∧
      (arg 4 < 2 ^ 47 → ans (.attest h)
        { s with host := mwrite s.host (arg 4) (attestReport s [h.args.getD 0 0, h.args.getD 1 0, h.args.getD 2 0, h.args.getD 3 0]) } 0 []) ∧
      (arg 1 + arg 3 ≤ 2 ^ 47 → deviceOk s (arg 2) (arg 3) = true →
        (arg 0 = 0 → ans (.copy h) (deviceWrite s (arg 2) (mread s.host (arg 1) (arg 3))) 0 []) ∧
        (arg 0 = 1 → ans (.copy h) { s with host := mwrite s.host (arg 1) (deviceRead s (arg 2) (arg 3)) } 0 [])) ∧
      (arg 0 < 8 → edPresent s (arg 0) = true → deviceOk s (arg 2) (arg 4) = true → 0 < arg 4 →
        exec (.netxfer h) s = .next { s with netx := [{ port := arg 0, left := arg 4, req := h }] }) ∧
      (∀ num, hostKnown num = false → ans (.hostBadcmd num h) s 2 []))

open Sys2Proof Sys2Proof.Machine in
/-- 20 R465, R468, R472, R473, R478, R483, R489, R490, R494, 02 R32, R48: what the package does on its own. The governor grants the request at the
head of a fresh window; an edge die with room writes the record that waits; power-on with every die accepted boots the package once, in a domain
of an even number of positions from 2 to 64 (14 R360); a die that does not answer is silent; Trivet creates a partition and writes registers as
the table allows, and a write that traps is a machine check of its management core, after which the edge die's own Trivet state is reset and a
transfer in progress there answers RESET, with no event (R480; what is reset, whichever port the transfer uses, and that nothing is reported, is
log 104, the model's choice); tile bytes come back, those that something waits for first; a swap whose cores have halted is exchanged in one move
(log 51) and answered; a peer's bytes arrive, and its acknowledgement ends a transfer; an unassigned word raises ILLEGAL. -/
def Obligations.PlatformEvents : Prop :=
  ∀ (s : State),
    (∀ die cl core n since, die < 16 → cdPresent s die = true → (s.die die).reqs = [{ pool := .mx cl core, n := n, refused := false, since := since }] →
      since / 2100 ≤ (s.die die).window → s.now / 2100 = (s.die die).window → (s.die die).granted = 0 →
      ∃ t, exec (.governorWindow die) s = .next t ∧ SameBytes s t ∧ (t.die die).reqs = [] ∧ (t.die die).granted = n * 7210 ∧
        (t.cluster cl).held = (s.cluster cl).held + n ∧ (t.cluster cl).asked = (s.cluster cl).asked - n) ∧
    (∀ ed r, (∀ c, c < 16 → cdPresent s c = true → servingEdge s c = ed → (s.die c).ev = { pend := none, cnt := [] }) →
      (s.edge ed).ev = { pend := some r, cnt := [] } →
      (evFull s ed = false → exec (.eventRingRoom ed) s =
        .next (pendDone (evWrite (s.onEdge ed fun g => { g with ev := { pend := none, cnt := [] } }) ed r) r.part r.core)) ∧
      (evFull s ed = true → exec (.eventRingRoom ed) s = .next s)) ∧
    (∀ b : BootInput, (s.booted = true ∨ domainOk b.domain b.pkg.toNat = false → exec (.powerOn b) s = .next s) ∧
      (s.booted = false → domainOk b.domain b.pkg.toNat = true → s.silent = [] → b.cds = 0xFFFF → b.eds = 0xFF → exec (.powerOn b) s = .next { s with
        booted := true, pkg := b.pkg.toNat, domain := b.domain, cds := 0xFFFF, eds := 0xFF, bootAt := s.now, release := b.release,
        measures := (List.range 24).map fun n => b.measures.getD n 0 })) ∧
    (∀ die, s.booted = false → die ∉ s.silent → exec (.dieAuthTimeout die) s = .next { s with silent := s.silent ++ [die] }) ∧
    (∀ p, p < 32 → (s.partn p).st = 0 → ∃ t, exec (.pstateCreate p) s = .next t ∧ SameBytes s t ∧ (t.partn p).st = 1 ∧ (t.partn p).ptroot = 0 ∧
      (t.partn p).gran = (s.partn p).gran ∧ ∀ q, q ≠ p → t.partn q = s.partn q) ∧
    (∀ p, p < 32 → (s.partn p).st ≠ 0 → exec (.pstateCreate p) s = .next s) ∧
    (∀ ed, ed < 8 → edPresent s ed = true → (∀ n v u, mgmtWrite s n v = .ok u → exec (.mgmtRegisterWrite ⟨ed, n⟩ v) s = .next u) ∧
      ∀ n v e, mgmtWrite s n v = .error e → s.swaps = [] →
        (s.netx = [] → exec (.mgmtRegisterWrite ⟨ed, n⟩ v) s = .next (s.onEdge ed Edge.fresh)) ∧
        ∀ y, s.netx = [y] → exec (.mgmtRegisterWrite ⟨ed, n⟩ v) s =
          .next ((if y.req.ed = ed then hostReply { s with netx := [] } y.req 5 [] else s).onEdge ed Edge.fresh)) ∧
    (∀ cl n, ((s.cluster cl).tile n).refill = true →
      tileWanted s cl n = true ∨ (∀ x ∈ (s.cluster cl).tiles, x.2.refill = true → tileWanted s cl x.1 = false) → ∃ t, exec (.tileRefill cl n) s = .next t ∧ SameBytes s t ∧
      (t.cluster cl).tile n = { (s.cluster cl).tile n with refill := false }) ∧
    (∀ w, s.swaps = [w] → w.agreed = true → let mine := if w.p < 32 then residentCores s w.p else []
      let u := giveBack (mine.foldl haltDrain s) w.p
      (mine.all (coreHalted u w.p) = false ∨ (w.kill = false ∧ holdsHere u w.p = true) → exec (.swapRestoreDone w.p w.q) s = .next u) ∧
      (mine.all (coreHalted u w.p) = true → w.kill = true ∨ holdsHere u w.p = false → exec (.swapRestoreDone w.p w.q) s = .next (swapAnswer
        (if w.kill then killPart (mine.foldl haltCommit u) w.p else exchange (mine.foldl haltCommit u) w.p w.q) w 0))) ∧
    (∀ port, port < 8 → edPresent s port = true →
      (∀ pa b, deviceOk s pa b.length = true → exec (.uetTransferReceive port (.data pa b)) s = .next (deviceWrite s pa b)) ∧
      (∀ y n, s.netx = [y] → y.port = port →
        (y.left ≤ n → exec (.uetTransferReceive port (.ack n)) s = .next (hostReply { s with netx := [] } y.req 0 [])) ∧
        (n < y.left → exec (.uetTransferReceive port (.ack n)) s = .next { s with netx := [{ y with left := y.left - n }] }))) ∧
    (∀ aw w, s.phase = .whole → unconfirmed s.cc s.me.id = false → exec (.unassignedWord aw w) s = .next (trapMe s
      { code := 1, late := false, aw := aw, epc := s.pc, tval := BitVec.ofNat 64 ((if aw then 2 ^ 32 else 0) + w.toNat) }))

open Sys2Proof Sys2Proof.Machine in
/-- 02 R32, R36, 07 R228 and log 1: how a step runs the decoded instructions. When the next move is a core's issue, and the bits fetched at its pc
decode to a bundle whose registers have no write pending, the step is the execution of the bundle's words at the state with the operands latched:
a word that traps or waits at issue does so for the bundle, else both words' meanings apply, the results of registers that both write are the
A-word's, what the C-word adds to FLAGS and WARN comes first, and the pc and the time of the next issue move on. A bundle with an unassigned word
takes its ILLEGAL. A move that is an event is that event's meaning, where of two commands of the host that arrive in one cycle ED 0's is first (20
R488); with no move given, the step is one of the moves that may be made, or a cycle. A move that would have written a block of which another
package holds a copy has only had the copy recalled (14 R376). -/
def Obligations.StepRunsInstruction : Prop :=
  (∀ (s u : State) (core ctx : Nat) (rest : List Move) (a : Act) (w : BitVec 64), s.agenda = .issue core :: rest → corePresent s core = true →
    (s.core core).running = some (ctx, a) → a.stepDue = false →
    let r : State := { s with agenda := rest, cur := core, phase := .whole, owed := [] }
    let fin := settleMove (.issue core) rest { s with agenda := rest }
    mayIssue r core a = true → fetch { r with now := max r.now (s.core core).nextIssue } core a.part a.pc = .ok u w →
    (∀ aw x lone, parse u.me.conly w = .bad aw x lone →
      step s = fin (trapBundle core (.unassignedWord aw x) lone (u.onCore core fun k => { k with earned := 0 }))) ∧
    ∀ b, parse u.me.conly w = .ok b → interlocked u.me b = false →
      let p := pace core b u
      fabricDue u p.now = false →
      (bitAt (p.core core).cctl 0 = true → shortRead (p.core core) b.reads = none) →
      let l := latchBundle core w b p
      (dryRun b.c l = .traps → step s = fin (trapBundle core b.c b.lone l)) ∧
      (dryRun b.c l ≠ .traps → dryRun b.a l = .traps → step s = fin (trapBundle core b.a b.lone l)) ∧
      (dryRun b.c l = .waits → dryRun b.a l ≠ .traps → step s = fin (waitBundle core b.c l)) ∧
      (dryRun b.c l = .acts → dryRun b.a l = .waits → step s = fin (waitBundle core b.a l)) ∧
      (dryRun b.c l = .acts → dryRun b.a l = .acts → unconfirmed (l.core core) l.me.id = false →
        ∀ ta tc, exec b.a (aloneA l) = .next ta → exec b.c { midBundle core b l ta with phase := .go } = .next tc →
          step s = fin (.next (closeBundle core b l.me
            (noteFixed core b.c b.common (dualFix core b (midBundle core b l ta).me (warnA core l.me ta tc))))))) ∧
  (∀ (s : State) (i : Instr) (rest : List Move), hostOrder s.agenda = .event i :: rest → moveWaits s (.event i) = false → isBundleWord i = false →
    step s = settleMove (.event i) rest { s with agenda := rest } (exec i { s with agenda := rest, phase := .whole, owed := [] })) ∧
  (∀ (s : State) (core : Nat) (img : Image) (rest : List Move), s.agenda = .image core img :: rest →
    step s = settleMove (.image core img) rest { s with agenda := rest } (.next (imageLaunch core img { s with agenda := rest, owed := [] }))) ∧
  ∀ (s : State), s.agenda = [] →
    let l := openMoves (Config.freeNat (s.free + 1)) s
    let n := s.freeNat % (l.length + 1)
    let u := { s with free := s.free + 2 }
    (∀ m, l[n]? = some m → step s =
      if (owedOf (runMove m u)).isEmpty then runMove m u else .next (askOwed u (owedOf (runMove m u)))) ∧
    (l[n]? = none → step s = .next { u with now := s.now + 1 })

open Sys2Proof Sys2Proof.Machine in
/-- 02 R29, R30, R41-R49 (Tables 2.1, 2.2, 2.5-2.8): words that the spec builds field by field decode to the instructions it builds them for. Examples
of chapters 02, 04 to 08, 10, 11, 13 to 15, 17 and 20; and two words with a code that no table assigns, and one with a reserved bit. -/
def Obligations.DecodeWords : Prop :=
  (∀ x ∈ ([
      (0x10453FFD, some (.bNez 5 0x1FFD)),
      (0x82440001, some (.li 4 1)),
      (0x82840000, some (.lis 4 0)),
      (0x05031242, some (.ldG 3 4 2 0 2 0 2)),
      (0x8507269E, some (.ldG 7 9 2 1 0 1 14)),
      (0x85421340, some (.stG 2 4 3 0 2 0 0)),
      (0x84850C1A, some (.ldS 5 12 6 2)),
      (0x84C70C02, some (.stS 7 12 0 2)),
      (0x86000010, some (.rocInv)),
      (0x86402403, some (.tileReady 9)),
      (0x86C55005, some (.cpWalk 5 20)),
      (0x86C500B3, some (.cpFill 5 0 11)),
      (0x87072404, some (.atomAdd 7 9 0 1 0)),
      (0x870A313E, some (.atomCas 10 12 3 3 1)),
      (0x87451028, some (.redAdd 5 4 2 2 0)),
      (0x87850000, some (.waitAny 5 0 0)),
      (0x87DC0000, some (.fence 3 2)),
      (0x880050C0, some (.sendR 20 12)),
      (0x89052004, some (.fabWait 5 8 0)),
      (0x89451081, some (.potRead 5 4 8)),
      (0x89852000, some (.qdOpen 5 8)),
      (0x89C02401, some (.reelScore 9)),
      (0x0E000070, some (.trap 7)),
      (0x8E4028B0, some (.leave 10 11)),
      (0x8E852090, some (.sysTlbinv 5 8 9))] : List (BitVec 32 × Option Instr)), (decodeC x.1).map (·.instr) = x.2) ∧
  (∀ x ∈ ([
      (0x00860840, some (.add 3 1 2)),
      (0x010A29FF, some (.addImm 5 5 0x1FF)),
      (0x02A63A42, some (.cmpLt 19 7 18)),
      (0x2A044343, some (.vfmaF32 1 2 3 2 0)),
      (0x6D0C2401, some (.vsubF32S 3 1 8 0)),
      (0xEC906010, some (.vsfuExp2 4 3 0 1)),
      (0x10298000, some (.mxMmaE4m3 1 2 3)),
      (0x11101458, some (.mxLd 4 10 11)),
      (0x10A028A8, some (.mxProm 1 20 21))] : List (BitVec 32 × Option Instr)), (decodeA x.1).map (·.instr) = x.2) ∧
  (decodeC 0x82440001).map (fun x => (x.lone, x.wait, x.rsv)) = some (true, 0, false) ∧
  (decodeC 0x10453FFD).map (fun x => (x.lone, x.wait, x.rsv)) = some (false, 1, false) ∧
  (decodeA 0xEC906010).map (fun x => (x.lone, x.wait, x.rsv)) = some (false, 7, false) ∧
  -- control register 0x19, branch condition 6 ; `jr s7` with a reserved bit
  decodeC 0b0_000_001011_000100_011001_000000_0000#32 = none ∧ decodeC 0b0_000_000001_000101_110_0000000000000#32 = none ∧
  (decodeC 0b0_000_000101_000000_000111_000001_0000#32).map (fun x => (x.instr, x.rsv)) = some (.jr 7, true)

open Sys2Proof Sys2Proof.Machine in
/-- 02 R28-R32, R41-R48: decoding and encoding agree. A bundle that holds the words of two well-formed instructions decodes to those two instructions
with every operand, the larger stall count and no reserved bit; with the lone bit the A-word counts as `nop` (R31), and a nonzero one earns
WARN.LONE. 02 R43, R48: what decodes is well formed and has a word of its own: encoding it gives a word that decodes to it again, and the two
words differ only where the first had reserved bits. -/
def Obligations.DecodeAndEncodeAgree : Prop :=
  (∀ (ic ia : Instr) (wc wa : BitVec 3) (lone : Bool) (c a : BitVec 32), ic.wf = true → ia.wf = true → encodeC lone wc ic = some c →
     encodeA wa ia = some a →
     parse false (a ++ c) = .ok
       (if lone then { c := ic, a := .nopA, wait := wc.toNat, lone := if a = 0 then 0 else wLONE, rsv := 0 }
        else { c := ic, a := ia, wait := max wc.toNat wa.toNat, lone := 0, rsv := 0 })) ∧
  ((∀ (w : BitVec 32) (x : DWord), decodeC w = some x → x.instr.wf = true ∧ ∃ c, encodeC x.lone x.wait x.instr = some c ∧
     decodeC c = some { x with rsv := false } ∧ (x.rsv = false ↔ c = w)) ∧
   ∀ (w : BitVec 32) (x : DWord), decodeA w = some x → x.instr.wf = true ∧ ∃ a, encodeA x.wait x.instr = some a ∧
     decodeA a = some { x with rsv := false } ∧ (x.rsv = false ↔ a = w))

open Sys2Proof Sys2Proof.Machine in
/-- 02 R53, R54, 03 Table 3.7, 04 Tables 4.11-4.18 and 20 R468: the machine after reset, by the reset columns of the register tables: formats,
warnings, control, count and event registers of every core are 0, no partition is created, and the fabric's settings hold the defaults of 14 Table
14.4. That no core runs a bundle, that nothing is under way, and that memory reads as zero are the model's choice (logs 3 and 4). -/
def Obligations.ResetState : Prop :=
  let s := State.reset
  s.wf = true ∧ s.booted = false ∧ s.agenda = [] ∧ (∀ p, s.byte p = 0) ∧
  (∀ c, (s.core c).run = none ∧ (s.core c).cctl = 0 ∧ (s.core c).fmt = 0 ∧ (s.core c).warn = 0 ∧ (s.core c).warnpc = 0 ∧
    (s.core c).instret = 0 ∧ (s.core c).evt = 0 ∧ (s.core c).rb = [] ∧ (s.core c).accs = [] ∧ (s.core c).watches = [] ∧ (s.core c).cpHeld = 0) ∧
  (∀ p, (s.partn p).st = 0) ∧ s.flights = [] ∧ s.msgs = [] ∧ s.quads = [] ∧ s.reels = [] ∧ s.potReads = [] ∧
  s.slotLen = 10 ∧ s.qmax = 19 ∧ s.berth = 100 ∧ s.fto = 4

open Sys2Proof Sys2Proof.Machine in
/-- The canonical form of memory (the model's own, log 4): every memory of the package, each core's local store and shadow bank, each cluster's
scratchpad, DRAM, host memory and what swapped-out partitions keep, stays a list of cells at rising addresses without the value that an unlisted
address reads as, whatever step is made. -/
def Obligations.MemoryStaysCanonical : Prop :=
  ∀ (s t : State), s.wf = true → step s = .next t → t.wf = true

open Sys2Proof Sys2Proof.Machine in
/-- 20 R489, R491: once a package has booted, its number and domain, the dies that are present, their measurements and the boot ROM's release stay as
boot found them, whatever step is made. -/
def Obligations.BootFactsStay : Prop :=
  ∀ (s t : State), s.booted = true → step s = .next t → t.booted = true ∧ t.bootFacts = s.bootFacts
end

