-- ==== Sys2Proof/Laws/State.lean ====
section
/-! SUPPORT. Reading a field after an update of the state: one lemma for each field and update, and what a file says after
an entry is set. -/

namespace Sys2Proof.Machine

/-! ### Numbered files -/

@[simp] theorem fget_fset_same {α : Type} (m : FMap α) (n : Nat) (v : α) : fget (fset m n v) n = some v := by
  induction m with
  | nil => simp [fset, fget]
  | cons x r ih =>
    obtain ⟨k, w⟩ := x
    simp only [fset]
    split
    · simp [fget]
    · split
      · simp [fget]
      · rename_i h₁ h₂
        simp [fget, h₁, h₂, ih]

@[simp] theorem fget_fset_ne {α : Type} (m : FMap α) {n n' : Nat} (v : α) (h : n' ≠ n) : fget (fset m n v) n' = fget m n' := by
  induction m with
  | nil => simp [fset, fget, h]
  | cons x r ih =>
    obtain ⟨k, w⟩ := x
    simp only [fset]
    split
    · rename_i h₁
      simp only [fget, h, if_false]
      split
      · rw [if_neg (by omega), if_pos (by omega)]
      · rfl
    · split
      · subst_vars; simp [fget, h]
      · simp only [fget, ih]


/-! ### `setCore` -/

@[simp] theorem State.setCore_phase (s : State) (c : Nat) (k : Core) : (s.setCore c k).phase = s.phase := rfl
@[simp] theorem State.setCore_verdict (s : State) (c : Nat) (k : Core) : (s.setCore c k).verdict = s.verdict := rfl
@[simp] theorem State.setCore_owed (s : State) (c : Nat) (k : Core) : (s.setCore c k).owed = s.owed := rfl
@[simp] theorem State.setCore_now (s : State) (c : Nat) (k : Core) : (s.setCore c k).now = s.now := rfl
@[simp] theorem State.setCore_free (s : State) (c : Nat) (k : Core) : (s.setCore c k).free = s.free := rfl
@[simp] theorem State.setCore_fresh (s : State) (c : Nat) (k : Core) : (s.setCore c k).fresh = s.fresh := rfl
@[simp] theorem State.setCore_cur (s : State) (c : Nat) (k : Core) : (s.setCore c k).cur = s.cur := rfl
@[simp] theorem State.setCore_agenda (s : State) (c : Nat) (k : Core) : (s.setCore c k).agenda = s.agenda := rfl
@[simp] theorem State.setCore_booted (s : State) (c : Nat) (k : Core) : (s.setCore c k).booted = s.booted := rfl
@[simp] theorem State.setCore_bootAt (s : State) (c : Nat) (k : Core) : (s.setCore c k).bootAt = s.bootAt := rfl
@[simp] theorem State.setCore_pkg (s : State) (c : Nat) (k : Core) : (s.setCore c k).pkg = s.pkg := rfl
@[simp] theorem State.setCore_domain (s : State) (c : Nat) (k : Core) : (s.setCore c k).domain = s.domain := rfl
@[simp] theorem State.setCore_cds (s : State) (c : Nat) (k : Core) : (s.setCore c k).cds = s.cds := rfl
@[simp] theorem State.setCore_eds (s : State) (c : Nat) (k : Core) : (s.setCore c k).eds = s.eds := rfl
@[simp] theorem State.setCore_measures (s : State) (c : Nat) (k : Core) : (s.setCore c k).measures = s.measures := rfl
@[simp] theorem State.setCore_release (s : State) (c : Nat) (k : Core) : (s.setCore c k).release = s.release := rfl
@[simp] theorem State.setCore_silent (s : State) (c : Nat) (k : Core) : (s.setCore c k).silent = s.silent := rfl
@[simp] theorem State.setCore_clusters (s : State) (c : Nat) (k : Core) : (s.setCore c k).clusters = s.clusters := rfl
@[simp] theorem State.setCore_dies (s : State) (c : Nat) (k : Core) : (s.setCore c k).dies = s.dies := rfl
@[simp] theorem State.setCore_slices (s : State) (c : Nat) (k : Core) : (s.setCore c k).slices = s.slices := rfl
@[simp] theorem State.setCore_edges (s : State) (c : Nat) (k : Core) : (s.setCore c k).edges = s.edges := rfl
@[simp] theorem State.setCore_links (s : State) (c : Nat) (k : Core) : (s.setCore c k).links = s.links := rfl
@[simp] theorem State.setCore_parts (s : State) (c : Nat) (k : Core) : (s.setCore c k).parts = s.parts := rfl
@[simp] theorem State.setCore_dram (s : State) (c : Nat) (k : Core) : (s.setCore c k).dram = s.dram := rfl
@[simp] theorem State.setCore_host (s : State) (c : Nat) (k : Core) : (s.setCore c k).host = s.host := rfl
@[simp] theorem State.setCore_flights (s : State) (c : Nat) (k : Core) : (s.setCore c k).flights = s.flights := rfl
@[simp] theorem State.setCore_msgs (s : State) (c : Nat) (k : Core) : (s.setCore c k).msgs = s.msgs := rfl
@[simp] theorem State.setCore_potReads (s : State) (c : Nat) (k : Core) : (s.setCore c k).potReads = s.potReads := rfl
@[simp] theorem State.setCore_quads (s : State) (c : Nat) (k : Core) : (s.setCore c k).quads = s.quads := rfl
@[simp] theorem State.setCore_reels (s : State) (c : Nat) (k : Core) : (s.setCore c k).reels = s.reels := rfl
@[simp] theorem State.setCore_restarts (s : State) (c : Nat) (k : Core) : (s.setCore c k).restarts = s.restarts := rfl
@[simp] theorem State.setCore_pendingRegions (s : State) (c : Nat) (k : Core) : (s.setCore c k).pendingRegions = s.pendingRegions := rfl
@[simp] theorem State.setCore_triggered (s : State) (c : Nat) (k : Core) : (s.setCore c k).triggered = s.triggered := rfl
@[simp] theorem State.setCore_inbox (s : State) (c : Nat) (k : Core) : (s.setCore c k).inbox = s.inbox := rfl
@[simp] theorem State.setCore_rreqs (s : State) (c : Nat) (k : Core) : (s.setCore c k).rreqs = s.rreqs := rfl
@[simp] theorem State.setCore_cleans (s : State) (c : Nat) (k : Core) : (s.setCore c k).cleans = s.cleans := rfl
@[simp] theorem State.setCore_posts (s : State) (c : Nat) (k : Core) : (s.setCore c k).posts = s.posts := rfl
@[simp] theorem State.setCore_trains (s : State) (c : Nat) (k : Core) : (s.setCore c k).trains = s.trains := rfl
@[simp] theorem State.setCore_asks (s : State) (c : Nat) (k : Core) : (s.setCore c k).asks = s.asks := rfl
@[simp] theorem State.setCore_qids (s : State) (c : Nat) (k : Core) : (s.setCore c k).qids = s.qids := rfl
@[simp] theorem State.setCore_msgCounts (s : State) (c : Nat) (k : Core) : (s.setCore c k).msgCounts = s.msgCounts := rfl
@[simp] theorem State.setCore_netx (s : State) (c : Nat) (k : Core) : (s.setCore c k).netx = s.netx := rfl
@[simp] theorem State.setCore_swaps (s : State) (c : Nat) (k : Core) : (s.setCore c k).swaps = s.swaps := rfl
@[simp] theorem State.setCore_slotLen (s : State) (c : Nat) (k : Core) : (s.setCore c k).slotLen = s.slotLen := rfl
@[simp] theorem State.setCore_slotNext (s : State) (c : Nat) (k : Core) : (s.setCore c k).slotNext = s.slotNext := rfl
@[simp] theorem State.setCore_qmax (s : State) (c : Nat) (k : Core) : (s.setCore c k).qmax = s.qmax := rfl
@[simp] theorem State.setCore_berth (s : State) (c : Nat) (k : Core) : (s.setCore c k).berth = s.berth := rfl
@[simp] theorem State.setCore_fto (s : State) (c : Nat) (k : Core) : (s.setCore c k).fto = s.fto := rfl
@[simp] theorem State.setCore_plim (s : State) (c : Nat) (k : Core) : (s.setCore c k).plim = s.plim := rfl
@[simp] theorem State.setCore_dbs (s : State) (c : Nat) (k : Core) : (s.setCore c k).dbs = s.dbs := rfl
@[simp] theorem State.setCore_slot (s : State) (c : Nat) (k : Core) : (s.setCore c k).slot = s.slot := rfl
@[simp] theorem State.setCore_rot (s : State) (c : Nat) (k : Core) : (s.setCore c k).rot = s.rot := rfl
@[simp] theorem State.setCore_slotAt (s : State) (c : Nat) (k : Core) : (s.setCore c k).slotAt = s.slotAt := rfl
@[simp] theorem State.setCore_guard (s : State) (c : Nat) (k : Core) : (s.setCore c k).guard = s.guard := rfl

/-! ### `onCore` -/

@[simp] theorem State.onCore_phase (s : State) (c : Nat) (f : Core → Core) : (s.onCore c f).phase = s.phase := rfl
@[simp] theorem State.onCore_verdict (s : State) (c : Nat) (f : Core → Core) : (s.onCore c f).verdict = s.verdict := rfl
@[simp] theorem State.onCore_owed (s : State) (c : Nat) (f : Core → Core) : (s.onCore c f).owed = s.owed := rfl
@[simp] theorem State.onCore_now (s : State) (c : Nat) (f : Core → Core) : (s.onCore c f).now = s.now := rfl
@[simp] theorem State.onCore_free (s : State) (c : Nat) (f : Core → Core) : (s.onCore c f).free = s.free := rfl
@[simp] theorem State.onCore_fresh (s : State) (c : Nat) (f : Core → Core) : (s.onCore c f).fresh = s.fresh := rfl
@[simp] theorem State.onCore_cur (s : State) (c : Nat) (f : Core → Core) : (s.onCore c f).cur = s.cur := rfl
@[simp] theorem State.onCore_agenda (s : State) (c : Nat) (f : Core → Core) : (s.onCore c f).agenda = s.agenda := rfl
@[simp] theorem State.onCore_booted (s : State) (c : Nat) (f : Core → Core) : (s.onCore c f).booted = s.booted := rfl
@[simp] theorem State.onCore_bootAt (s : State) (c : Nat) (f : Core → Core) : (s.onCore c f).bootAt = s.bootAt := rfl
@[simp] theorem State.onCore_pkg (s : State) (c : Nat) (f : Core → Core) : (s.onCore c f).pkg = s.pkg := rfl
@[simp] theorem State.onCore_domain (s : State) (c : Nat) (f : Core → Core) : (s.onCore c f).domain = s.domain := rfl
@[simp] theorem State.onCore_cds (s : State) (c : Nat) (f : Core → Core) : (s.onCore c f).cds = s.cds := rfl
@[simp] theorem State.onCore_eds (s : State) (c : Nat) (f : Core → Core) : (s.onCore c f).eds = s.eds := rfl
@[simp] theorem State.onCore_measures (s : State) (c : Nat) (f : Core → Core) : (s.onCore c f).measures = s.measures := rfl
@[simp] theorem State.onCore_release (s : State) (c : Nat) (f : Core → Core) : (s.onCore c f).release = s.release := rfl
@[simp] theorem State.onCore_silent (s : State) (c : Nat) (f : Core → Core) : (s.onCore c f).silent = s.silent := rfl
@[simp] theorem State.onCore_clusters (s : State) (c : Nat) (f : Core → Core) : (s.onCore c f).clusters = s.clusters := rfl
@[simp] theorem State.onCore_dies (s : State) (c : Nat) (f : Core → Core) : (s.onCore c f).dies = s.dies := rfl
@[simp] theorem State.onCore_slices (s : State) (c : Nat) (f : Core → Core) : (s.onCore c f).slices = s.slices := rfl
@[simp] theorem State.onCore_edges (s : State) (c : Nat) (f : Core → Core) : (s.onCore c f).edges = s.edges := rfl
@[simp] theorem State.onCore_links (s : State) (c : Nat) (f : Core → Core) : (s.onCore c f).links = s.links := rfl
@[simp] theorem State.onCore_parts (s : State) (c : Nat) (f : Core → Core) : (s.onCore c f).parts = s.parts := rfl
@[simp] theorem State.onCore_dram (s : State) (c : Nat) (f : Core → Core) : (s.onCore c f).dram = s.dram := rfl
@[simp] theorem State.onCore_host (s : State) (c : Nat) (f : Core → Core) : (s.onCore c f).host = s.host := rfl
@[simp] theorem State.onCore_flights (s : State) (c : Nat) (f : Core → Core) : (s.onCore c f).flights = s.flights := rfl
@[simp] theorem State.onCore_msgs (s : State) (c : Nat) (f : Core → Core) : (s.onCore c f).msgs = s.msgs := rfl
@[simp] theorem State.onCore_potReads (s : State) (c : Nat) (f : Core → Core) : (s.onCore c f).potReads = s.potReads := rfl
@[simp] theorem State.onCore_quads (s : State) (c : Nat) (f : Core → Core) : (s.onCore c f).quads = s.quads := rfl
@[simp] theorem State.onCore_reels (s : State) (c : Nat) (f : Core → Core) : (s.onCore c f).reels = s.reels := rfl
@[simp] theorem State.onCore_restarts (s : State) (c : Nat) (f : Core → Core) : (s.onCore c f).restarts = s.restarts := rfl
@[simp] theorem State.onCore_pendingRegions (s : State) (c : Nat) (f : Core → Core) : (s.onCore c f).pendingRegions = s.pendingRegions := rfl
@[simp] theorem State.onCore_triggered (s : State) (c : Nat) (f : Core → Core) : (s.onCore c f).triggered = s.triggered := rfl
@[simp] theorem State.onCore_inbox (s : State) (c : Nat) (f : Core → Core) : (s.onCore c f).inbox = s.inbox := rfl
@[simp] theorem State.onCore_rreqs (s : State) (c : Nat) (f : Core → Core) : (s.onCore c f).rreqs = s.rreqs := rfl
@[simp] theorem State.onCore_cleans (s : State) (c : Nat) (f : Core → Core) : (s.onCore c f).cleans = s.cleans := rfl
@[simp] theorem State.onCore_posts (s : State) (c : Nat) (f : Core → Core) : (s.onCore c f).posts = s.posts := rfl
@[simp] theorem State.onCore_trains (s : State) (c : Nat) (f : Core → Core) : (s.onCore c f).trains = s.trains := rfl
@[simp] theorem State.onCore_asks (s : State) (c : Nat) (f : Core → Core) : (s.onCore c f).asks = s.asks := rfl
@[simp] theorem State.onCore_qids (s : State) (c : Nat) (f : Core → Core) : (s.onCore c f).qids = s.qids := rfl
@[simp] theorem State.onCore_msgCounts (s : State) (c : Nat) (f : Core → Core) : (s.onCore c f).msgCounts = s.msgCounts := rfl
@[simp] theorem State.onCore_netx (s : State) (c : Nat) (f : Core → Core) : (s.onCore c f).netx = s.netx := rfl
@[simp] theorem State.onCore_swaps (s : State) (c : Nat) (f : Core → Core) : (s.onCore c f).swaps = s.swaps := rfl
@[simp] theorem State.onCore_slotLen (s : State) (c : Nat) (f : Core → Core) : (s.onCore c f).slotLen = s.slotLen := rfl
@[simp] theorem State.onCore_slotNext (s : State) (c : Nat) (f : Core → Core) : (s.onCore c f).slotNext = s.slotNext := rfl
@[simp] theorem State.onCore_qmax (s : State) (c : Nat) (f : Core → Core) : (s.onCore c f).qmax = s.qmax := rfl
@[simp] theorem State.onCore_berth (s : State) (c : Nat) (f : Core → Core) : (s.onCore c f).berth = s.berth := rfl
@[simp] theorem State.onCore_fto (s : State) (c : Nat) (f : Core → Core) : (s.onCore c f).fto = s.fto := rfl
@[simp] theorem State.onCore_plim (s : State) (c : Nat) (f : Core → Core) : (s.onCore c f).plim = s.plim := rfl
@[simp] theorem State.onCore_dbs (s : State) (c : Nat) (f : Core → Core) : (s.onCore c f).dbs = s.dbs := rfl
@[simp] theorem State.onCore_slot (s : State) (c : Nat) (f : Core → Core) : (s.onCore c f).slot = s.slot := rfl
@[simp] theorem State.onCore_rot (s : State) (c : Nat) (f : Core → Core) : (s.onCore c f).rot = s.rot := rfl
@[simp] theorem State.onCore_slotAt (s : State) (c : Nat) (f : Core → Core) : (s.onCore c f).slotAt = s.slotAt := rfl
@[simp] theorem State.onCore_guard (s : State) (c : Nat) (f : Core → Core) : (s.onCore c f).guard = s.guard := rfl

/-! ### `onCC` -/

@[simp] theorem State.onCC_phase (s : State) (f : Core → Core) : (s.onCC f).phase = s.phase := rfl
@[simp] theorem State.onCC_verdict (s : State) (f : Core → Core) : (s.onCC f).verdict = s.verdict := rfl
@[simp] theorem State.onCC_owed (s : State) (f : Core → Core) : (s.onCC f).owed = s.owed := rfl
@[simp] theorem State.onCC_now (s : State) (f : Core → Core) : (s.onCC f).now = s.now := rfl
@[simp] theorem State.onCC_free (s : State) (f : Core → Core) : (s.onCC f).free = s.free := rfl
@[simp] theorem State.onCC_fresh (s : State) (f : Core → Core) : (s.onCC f).fresh = s.fresh := rfl
@[simp] theorem State.onCC_cur (s : State) (f : Core → Core) : (s.onCC f).cur = s.cur := rfl
@[simp] theorem State.onCC_agenda (s : State) (f : Core → Core) : (s.onCC f).agenda = s.agenda := rfl
@[simp] theorem State.onCC_booted (s : State) (f : Core → Core) : (s.onCC f).booted = s.booted := rfl
@[simp] theorem State.onCC_bootAt (s : State) (f : Core → Core) : (s.onCC f).bootAt = s.bootAt := rfl
@[simp] theorem State.onCC_pkg (s : State) (f : Core → Core) : (s.onCC f).pkg = s.pkg := rfl
@[simp] theorem State.onCC_domain (s : State) (f : Core → Core) : (s.onCC f).domain = s.domain := rfl
@[simp] theorem State.onCC_cds (s : State) (f : Core → Core) : (s.onCC f).cds = s.cds := rfl
@[simp] theorem State.onCC_eds (s : State) (f : Core → Core) : (s.onCC f).eds = s.eds := rfl
@[simp] theorem State.onCC_measures (s : State) (f : Core → Core) : (s.onCC f).measures = s.measures := rfl
@[simp] theorem State.onCC_release (s : State) (f : Core → Core) : (s.onCC f).release = s.release := rfl
@[simp] theorem State.onCC_silent (s : State) (f : Core → Core) : (s.onCC f).silent = s.silent := rfl
@[simp] theorem State.onCC_clusters (s : State) (f : Core → Core) : (s.onCC f).clusters = s.clusters := rfl
@[simp] theorem State.onCC_dies (s : State) (f : Core → Core) : (s.onCC f).dies = s.dies := rfl
@[simp] theorem State.onCC_slices (s : State) (f : Core → Core) : (s.onCC f).slices = s.slices := rfl
@[simp] theorem State.onCC_edges (s : State) (f : Core → Core) : (s.onCC f).edges = s.edges := rfl
@[simp] theorem State.onCC_links (s : State) (f : Core → Core) : (s.onCC f).links = s.links := rfl
@[simp] theorem State.onCC_parts (s : State) (f : Core → Core) : (s.onCC f).parts = s.parts := rfl
@[simp] theorem State.onCC_dram (s : State) (f : Core → Core) : (s.onCC f).dram = s.dram := rfl
@[simp] theorem State.onCC_host (s : State) (f : Core → Core) : (s.onCC f).host = s.host := rfl
@[simp] theorem State.onCC_flights (s : State) (f : Core → Core) : (s.onCC f).flights = s.flights := rfl
@[simp] theorem State.onCC_msgs (s : State) (f : Core → Core) : (s.onCC f).msgs = s.msgs := rfl
@[simp] theorem State.onCC_potReads (s : State) (f : Core → Core) : (s.onCC f).potReads = s.potReads := rfl
@[simp] theorem State.onCC_quads (s : State) (f : Core → Core) : (s.onCC f).quads = s.quads := rfl
@[simp] theorem State.onCC_reels (s : State) (f : Core → Core) : (s.onCC f).reels = s.reels := rfl
@[simp] theorem State.onCC_restarts (s : State) (f : Core → Core) : (s.onCC f).restarts = s.restarts := rfl
@[simp] theorem State.onCC_pendingRegions (s : State) (f : Core → Core) : (s.onCC f).pendingRegions = s.pendingRegions := rfl
@[simp] theorem State.onCC_triggered (s : State) (f : Core → Core) : (s.onCC f).triggered = s.triggered := rfl
@[simp] theorem State.onCC_inbox (s : State) (f : Core → Core) : (s.onCC f).inbox = s.inbox := rfl
@[simp] theorem State.onCC_rreqs (s : State) (f : Core → Core) : (s.onCC f).rreqs = s.rreqs := rfl
@[simp] theorem State.onCC_cleans (s : State) (f : Core → Core) : (s.onCC f).cleans = s.cleans := rfl
@[simp] theorem State.onCC_posts (s : State) (f : Core → Core) : (s.onCC f).posts = s.posts := rfl
@[simp] theorem State.onCC_trains (s : State) (f : Core → Core) : (s.onCC f).trains = s.trains := rfl
@[simp] theorem State.onCC_asks (s : State) (f : Core → Core) : (s.onCC f).asks = s.asks := rfl
@[simp] theorem State.onCC_qids (s : State) (f : Core → Core) : (s.onCC f).qids = s.qids := rfl
@[simp] theorem State.onCC_msgCounts (s : State) (f : Core → Core) : (s.onCC f).msgCounts = s.msgCounts := rfl
@[simp] theorem State.onCC_netx (s : State) (f : Core → Core) : (s.onCC f).netx = s.netx := rfl
@[simp] theorem State.onCC_swaps (s : State) (f : Core → Core) : (s.onCC f).swaps = s.swaps := rfl
@[simp] theorem State.onCC_slotLen (s : State) (f : Core → Core) : (s.onCC f).slotLen = s.slotLen := rfl
@[simp] theorem State.onCC_slotNext (s : State) (f : Core → Core) : (s.onCC f).slotNext = s.slotNext := rfl
@[simp] theorem State.onCC_qmax (s : State) (f : Core → Core) : (s.onCC f).qmax = s.qmax := rfl
@[simp] theorem State.onCC_berth (s : State) (f : Core → Core) : (s.onCC f).berth = s.berth := rfl
@[simp] theorem State.onCC_fto (s : State) (f : Core → Core) : (s.onCC f).fto = s.fto := rfl
@[simp] theorem State.onCC_plim (s : State) (f : Core → Core) : (s.onCC f).plim = s.plim := rfl
@[simp] theorem State.onCC_dbs (s : State) (f : Core → Core) : (s.onCC f).dbs = s.dbs := rfl
@[simp] theorem State.onCC_slot (s : State) (f : Core → Core) : (s.onCC f).slot = s.slot := rfl
@[simp] theorem State.onCC_rot (s : State) (f : Core → Core) : (s.onCC f).rot = s.rot := rfl
@[simp] theorem State.onCC_slotAt (s : State) (f : Core → Core) : (s.onCC f).slotAt = s.slotAt := rfl
@[simp] theorem State.onCC_guard (s : State) (f : Core → Core) : (s.onCC f).guard = s.guard := rfl

/-! ### `onMe` -/

@[simp] theorem State.onMe_phase (s : State) (f : Act → Act) : (s.onMe f).phase = s.phase := rfl
@[simp] theorem State.onMe_verdict (s : State) (f : Act → Act) : (s.onMe f).verdict = s.verdict := rfl
@[simp] theorem State.onMe_owed (s : State) (f : Act → Act) : (s.onMe f).owed = s.owed := rfl
@[simp] theorem State.onMe_now (s : State) (f : Act → Act) : (s.onMe f).now = s.now := rfl
@[simp] theorem State.onMe_free (s : State) (f : Act → Act) : (s.onMe f).free = s.free := rfl
@[simp] theorem State.onMe_fresh (s : State) (f : Act → Act) : (s.onMe f).fresh = s.fresh := rfl
@[simp] theorem State.onMe_cur (s : State) (f : Act → Act) : (s.onMe f).cur = s.cur := rfl
@[simp] theorem State.onMe_agenda (s : State) (f : Act → Act) : (s.onMe f).agenda = s.agenda := rfl
@[simp] theorem State.onMe_booted (s : State) (f : Act → Act) : (s.onMe f).booted = s.booted := rfl
@[simp] theorem State.onMe_bootAt (s : State) (f : Act → Act) : (s.onMe f).bootAt = s.bootAt := rfl
@[simp] theorem State.onMe_pkg (s : State) (f : Act → Act) : (s.onMe f).pkg = s.pkg := rfl
@[simp] theorem State.onMe_domain (s : State) (f : Act → Act) : (s.onMe f).domain = s.domain := rfl
@[simp] theorem State.onMe_cds (s : State) (f : Act → Act) : (s.onMe f).cds = s.cds := rfl
@[simp] theorem State.onMe_eds (s : State) (f : Act → Act) : (s.onMe f).eds = s.eds := rfl
@[simp] theorem State.onMe_measures (s : State) (f : Act → Act) : (s.onMe f).measures = s.measures := rfl
@[simp] theorem State.onMe_release (s : State) (f : Act → Act) : (s.onMe f).release = s.release := rfl
@[simp] theorem State.onMe_silent (s : State) (f : Act → Act) : (s.onMe f).silent = s.silent := rfl
@[simp] theorem State.onMe_clusters (s : State) (f : Act → Act) : (s.onMe f).clusters = s.clusters := rfl
@[simp] theorem State.onMe_dies (s : State) (f : Act → Act) : (s.onMe f).dies = s.dies := rfl
@[simp] theorem State.onMe_slices (s : State) (f : Act → Act) : (s.onMe f).slices = s.slices := rfl
@[simp] theorem State.onMe_edges (s : State) (f : Act → Act) : (s.onMe f).edges = s.edges := rfl
@[simp] theorem State.onMe_links (s : State) (f : Act → Act) : (s.onMe f).links = s.links := rfl
@[simp] theorem State.onMe_parts (s : State) (f : Act → Act) : (s.onMe f).parts = s.parts := rfl
@[simp] theorem State.onMe_dram (s : State) (f : Act → Act) : (s.onMe f).dram = s.dram := rfl
@[simp] theorem State.onMe_host (s : State) (f : Act → Act) : (s.onMe f).host = s.host := rfl
@[simp] theorem State.onMe_flights (s : State) (f : Act → Act) : (s.onMe f).flights = s.flights := rfl
@[simp] theorem State.onMe_msgs (s : State) (f : Act → Act) : (s.onMe f).msgs = s.msgs := rfl
@[simp] theorem State.onMe_potReads (s : State) (f : Act → Act) : (s.onMe f).potReads = s.potReads := rfl
@[simp] theorem State.onMe_quads (s : State) (f : Act → Act) : (s.onMe f).quads = s.quads := rfl
@[simp] theorem State.onMe_reels (s : State) (f : Act → Act) : (s.onMe f).reels = s.reels := rfl
@[simp] theorem State.onMe_restarts (s : State) (f : Act → Act) : (s.onMe f).restarts = s.restarts := rfl
@[simp] theorem State.onMe_pendingRegions (s : State) (f : Act → Act) : (s.onMe f).pendingRegions = s.pendingRegions := rfl
@[simp] theorem State.onMe_triggered (s : State) (f : Act → Act) : (s.onMe f).triggered = s.triggered := rfl
@[simp] theorem State.onMe_inbox (s : State) (f : Act → Act) : (s.onMe f).inbox = s.inbox := rfl
@[simp] theorem State.onMe_rreqs (s : State) (f : Act → Act) : (s.onMe f).rreqs = s.rreqs := rfl
@[simp] theorem State.onMe_cleans (s : State) (f : Act → Act) : (s.onMe f).cleans = s.cleans := rfl
@[simp] theorem State.onMe_posts (s : State) (f : Act → Act) : (s.onMe f).posts = s.posts := rfl
@[simp] theorem State.onMe_trains (s : State) (f : Act → Act) : (s.onMe f).trains = s.trains := rfl
@[simp] theorem State.onMe_asks (s : State) (f : Act → Act) : (s.onMe f).asks = s.asks := rfl
@[simp] theorem State.onMe_qids (s : State) (f : Act → Act) : (s.onMe f).qids = s.qids := rfl
@[simp] theorem State.onMe_msgCounts (s : State) (f : Act → Act) : (s.onMe f).msgCounts = s.msgCounts := rfl
@[simp] theorem State.onMe_netx (s : State) (f : Act → Act) : (s.onMe f).netx = s.netx := rfl
@[simp] theorem State.onMe_swaps (s : State) (f : Act → Act) : (s.onMe f).swaps = s.swaps := rfl
@[simp] theorem State.onMe_slotLen (s : State) (f : Act → Act) : (s.onMe f).slotLen = s.slotLen := rfl
@[simp] theorem State.onMe_slotNext (s : State) (f : Act → Act) : (s.onMe f).slotNext = s.slotNext := rfl
@[simp] theorem State.onMe_qmax (s : State) (f : Act → Act) : (s.onMe f).qmax = s.qmax := rfl
@[simp] theorem State.onMe_berth (s : State) (f : Act → Act) : (s.onMe f).berth = s.berth := rfl
@[simp] theorem State.onMe_fto (s : State) (f : Act → Act) : (s.onMe f).fto = s.fto := rfl
@[simp] theorem State.onMe_plim (s : State) (f : Act → Act) : (s.onMe f).plim = s.plim := rfl
@[simp] theorem State.onMe_dbs (s : State) (f : Act → Act) : (s.onMe f).dbs = s.dbs := rfl
@[simp] theorem State.onMe_slot (s : State) (f : Act → Act) : (s.onMe f).slot = s.slot := rfl
@[simp] theorem State.onMe_rot (s : State) (f : Act → Act) : (s.onMe f).rot = s.rot := rfl
@[simp] theorem State.onMe_slotAt (s : State) (f : Act → Act) : (s.onMe f).slotAt = s.slotAt := rfl
@[simp] theorem State.onMe_guard (s : State) (f : Act → Act) : (s.onMe f).guard = s.guard := rfl

/-! ### `onAct` -/

@[simp] theorem State.onAct_phase (s : State) (c x : Nat) (f : Act → Act) : (s.onAct c x f).phase = s.phase := rfl
@[simp] theorem State.onAct_verdict (s : State) (c x : Nat) (f : Act → Act) : (s.onAct c x f).verdict = s.verdict := rfl
@[simp] theorem State.onAct_owed (s : State) (c x : Nat) (f : Act → Act) : (s.onAct c x f).owed = s.owed := rfl
@[simp] theorem State.onAct_now (s : State) (c x : Nat) (f : Act → Act) : (s.onAct c x f).now = s.now := rfl
@[simp] theorem State.onAct_free (s : State) (c x : Nat) (f : Act → Act) : (s.onAct c x f).free = s.free := rfl
@[simp] theorem State.onAct_fresh (s : State) (c x : Nat) (f : Act → Act) : (s.onAct c x f).fresh = s.fresh := rfl
@[simp] theorem State.onAct_cur (s : State) (c x : Nat) (f : Act → Act) : (s.onAct c x f).cur = s.cur := rfl
@[simp] theorem State.onAct_agenda (s : State) (c x : Nat) (f : Act → Act) : (s.onAct c x f).agenda = s.agenda := rfl
@[simp] theorem State.onAct_booted (s : State) (c x : Nat) (f : Act → Act) : (s.onAct c x f).booted = s.booted := rfl
@[simp] theorem State.onAct_bootAt (s : State) (c x : Nat) (f : Act → Act) : (s.onAct c x f).bootAt = s.bootAt := rfl
@[simp] theorem State.onAct_pkg (s : State) (c x : Nat) (f : Act → Act) : (s.onAct c x f).pkg = s.pkg := rfl
@[simp] theorem State.onAct_domain (s : State) (c x : Nat) (f : Act → Act) : (s.onAct c x f).domain = s.domain := rfl
@[simp] theorem State.onAct_cds (s : State) (c x : Nat) (f : Act → Act) : (s.onAct c x f).cds = s.cds := rfl
@[simp] theorem State.onAct_eds (s : State) (c x : Nat) (f : Act → Act) : (s.onAct c x f).eds = s.eds := rfl
@[simp] theorem State.onAct_measures (s : State) (c x : Nat) (f : Act → Act) : (s.onAct c x f).measures = s.measures := rfl
@[simp] theorem State.onAct_release (s : State) (c x : Nat) (f : Act → Act) : (s.onAct c x f).release = s.release := rfl
@[simp] theorem State.onAct_silent (s : State) (c x : Nat) (f : Act → Act) : (s.onAct c x f).silent = s.silent := rfl
@[simp] theorem State.onAct_clusters (s : State) (c x : Nat) (f : Act → Act) : (s.onAct c x f).clusters = s.clusters := rfl
@[simp] theorem State.onAct_dies (s : State) (c x : Nat) (f : Act → Act) : (s.onAct c x f).dies = s.dies := rfl
@[simp] theorem State.onAct_slices (s : State) (c x : Nat) (f : Act → Act) : (s.onAct c x f).slices = s.slices := rfl
@[simp] theorem State.onAct_edges (s : State) (c x : Nat) (f : Act → Act) : (s.onAct c x f).edges = s.edges := rfl
@[simp] theorem State.onAct_links (s : State) (c x : Nat) (f : Act → Act) : (s.onAct c x f).links = s.links := rfl
@[simp] theorem State.onAct_parts (s : State) (c x : Nat) (f : Act → Act) : (s.onAct c x f).parts = s.parts := rfl
@[simp] theorem State.onAct_dram (s : State) (c x : Nat) (f : Act → Act) : (s.onAct c x f).dram = s.dram := rfl
@[simp] theorem State.onAct_host (s : State) (c x : Nat) (f : Act → Act) : (s.onAct c x f).host = s.host := rfl
@[simp] theorem State.onAct_flights (s : State) (c x : Nat) (f : Act → Act) : (s.onAct c x f).flights = s.flights := rfl
@[simp] theorem State.onAct_msgs (s : State) (c x : Nat) (f : Act → Act) : (s.onAct c x f).msgs = s.msgs := rfl
@[simp] theorem State.onAct_potReads (s : State) (c x : Nat) (f : Act → Act) : (s.onAct c x f).potReads = s.potReads := rfl
@[simp] theorem State.onAct_quads (s : State) (c x : Nat) (f : Act → Act) : (s.onAct c x f).quads = s.quads := rfl
@[simp] theorem State.onAct_reels (s : State) (c x : Nat) (f : Act → Act) : (s.onAct c x f).reels = s.reels := rfl
@[simp] theorem State.onAct_restarts (s : State) (c x : Nat) (f : Act → Act) : (s.onAct c x f).restarts = s.restarts := rfl
@[simp] theorem State.onAct_pendingRegions (s : State) (c x : Nat) (f : Act → Act) : (s.onAct c x f).pendingRegions = s.pendingRegions := rfl
@[simp] theorem State.onAct_triggered (s : State) (c x : Nat) (f : Act → Act) : (s.onAct c x f).triggered = s.triggered := rfl
@[simp] theorem State.onAct_inbox (s : State) (c x : Nat) (f : Act → Act) : (s.onAct c x f).inbox = s.inbox := rfl
@[simp] theorem State.onAct_rreqs (s : State) (c x : Nat) (f : Act → Act) : (s.onAct c x f).rreqs = s.rreqs := rfl
@[simp] theorem State.onAct_cleans (s : State) (c x : Nat) (f : Act → Act) : (s.onAct c x f).cleans = s.cleans := rfl
@[simp] theorem State.onAct_posts (s : State) (c x : Nat) (f : Act → Act) : (s.onAct c x f).posts = s.posts := rfl
@[simp] theorem State.onAct_trains (s : State) (c x : Nat) (f : Act → Act) : (s.onAct c x f).trains = s.trains := rfl
@[simp] theorem State.onAct_asks (s : State) (c x : Nat) (f : Act → Act) : (s.onAct c x f).asks = s.asks := rfl
@[simp] theorem State.onAct_qids (s : State) (c x : Nat) (f : Act → Act) : (s.onAct c x f).qids = s.qids := rfl
@[simp] theorem State.onAct_msgCounts (s : State) (c x : Nat) (f : Act → Act) : (s.onAct c x f).msgCounts = s.msgCounts := rfl
@[simp] theorem State.onAct_netx (s : State) (c x : Nat) (f : Act → Act) : (s.onAct c x f).netx = s.netx := rfl
@[simp] theorem State.onAct_swaps (s : State) (c x : Nat) (f : Act → Act) : (s.onAct c x f).swaps = s.swaps := rfl
@[simp] theorem State.onAct_slotLen (s : State) (c x : Nat) (f : Act → Act) : (s.onAct c x f).slotLen = s.slotLen := rfl
@[simp] theorem State.onAct_slotNext (s : State) (c x : Nat) (f : Act → Act) : (s.onAct c x f).slotNext = s.slotNext := rfl
@[simp] theorem State.onAct_qmax (s : State) (c x : Nat) (f : Act → Act) : (s.onAct c x f).qmax = s.qmax := rfl
@[simp] theorem State.onAct_berth (s : State) (c x : Nat) (f : Act → Act) : (s.onAct c x f).berth = s.berth := rfl
@[simp] theorem State.onAct_fto (s : State) (c x : Nat) (f : Act → Act) : (s.onAct c x f).fto = s.fto := rfl
@[simp] theorem State.onAct_plim (s : State) (c x : Nat) (f : Act → Act) : (s.onAct c x f).plim = s.plim := rfl
@[simp] theorem State.onAct_dbs (s : State) (c x : Nat) (f : Act → Act) : (s.onAct c x f).dbs = s.dbs := rfl
@[simp] theorem State.onAct_slot (s : State) (c x : Nat) (f : Act → Act) : (s.onAct c x f).slot = s.slot := rfl
@[simp] theorem State.onAct_rot (s : State) (c x : Nat) (f : Act → Act) : (s.onAct c x f).rot = s.rot := rfl
@[simp] theorem State.onAct_slotAt (s : State) (c x : Nat) (f : Act → Act) : (s.onAct c x f).slotAt = s.slotAt := rfl
@[simp] theorem State.onAct_guard (s : State) (c x : Nat) (f : Act → Act) : (s.onAct c x f).guard = s.guard := rfl

/-! ### `onCluster` -/

@[simp] theorem State.onCluster_phase (s : State) (c : Nat) (f : Cluster → Cluster) : (s.onCluster c f).phase = s.phase := rfl
@[simp] theorem State.onCluster_verdict (s : State) (c : Nat) (f : Cluster → Cluster) : (s.onCluster c f).verdict = s.verdict := rfl
@[simp] theorem State.onCluster_owed (s : State) (c : Nat) (f : Cluster → Cluster) : (s.onCluster c f).owed = s.owed := rfl
@[simp] theorem State.onCluster_now (s : State) (c : Nat) (f : Cluster → Cluster) : (s.onCluster c f).now = s.now := rfl
@[simp] theorem State.onCluster_free (s : State) (c : Nat) (f : Cluster → Cluster) : (s.onCluster c f).free = s.free := rfl
@[simp] theorem State.onCluster_fresh (s : State) (c : Nat) (f : Cluster → Cluster) : (s.onCluster c f).fresh = s.fresh := rfl
@[simp] theorem State.onCluster_cur (s : State) (c : Nat) (f : Cluster → Cluster) : (s.onCluster c f).cur = s.cur := rfl
@[simp] theorem State.onCluster_agenda (s : State) (c : Nat) (f : Cluster → Cluster) : (s.onCluster c f).agenda = s.agenda := rfl
@[simp] theorem State.onCluster_booted (s : State) (c : Nat) (f : Cluster → Cluster) : (s.onCluster c f).booted = s.booted := rfl
@[simp] theorem State.onCluster_bootAt (s : State) (c : Nat) (f : Cluster → Cluster) : (s.onCluster c f).bootAt = s.bootAt := rfl
@[simp] theorem State.onCluster_pkg (s : State) (c : Nat) (f : Cluster → Cluster) : (s.onCluster c f).pkg = s.pkg := rfl
@[simp] theorem State.onCluster_domain (s : State) (c : Nat) (f : Cluster → Cluster) : (s.onCluster c f).domain = s.domain := rfl
@[simp] theorem State.onCluster_cds (s : State) (c : Nat) (f : Cluster → Cluster) : (s.onCluster c f).cds = s.cds := rfl
@[simp] theorem State.onCluster_eds (s : State) (c : Nat) (f : Cluster → Cluster) : (s.onCluster c f).eds = s.eds := rfl
@[simp] theorem State.onCluster_measures (s : State) (c : Nat) (f : Cluster → Cluster) : (s.onCluster c f).measures = s.measures := rfl
@[simp] theorem State.onCluster_release (s : State) (c : Nat) (f : Cluster → Cluster) : (s.onCluster c f).release = s.release := rfl
@[simp] theorem State.onCluster_silent (s : State) (c : Nat) (f : Cluster → Cluster) : (s.onCluster c f).silent = s.silent := rfl
@[simp] theorem State.onCluster_cores (s : State) (c : Nat) (f : Cluster → Cluster) : (s.onCluster c f).cores = s.cores := rfl
@[simp] theorem State.onCluster_dies (s : State) (c : Nat) (f : Cluster → Cluster) : (s.onCluster c f).dies = s.dies := rfl
@[simp] theorem State.onCluster_slices (s : State) (c : Nat) (f : Cluster → Cluster) : (s.onCluster c f).slices = s.slices := rfl
@[simp] theorem State.onCluster_edges (s : State) (c : Nat) (f : Cluster → Cluster) : (s.onCluster c f).edges = s.edges := rfl
@[simp] theorem State.onCluster_links (s : State) (c : Nat) (f : Cluster → Cluster) : (s.onCluster c f).links = s.links := rfl
@[simp] theorem State.onCluster_parts (s : State) (c : Nat) (f : Cluster → Cluster) : (s.onCluster c f).parts = s.parts := rfl
@[simp] theorem State.onCluster_dram (s : State) (c : Nat) (f : Cluster → Cluster) : (s.onCluster c f).dram = s.dram := rfl
@[simp] theorem State.onCluster_host (s : State) (c : Nat) (f : Cluster → Cluster) : (s.onCluster c f).host = s.host := rfl
@[simp] theorem State.onCluster_flights (s : State) (c : Nat) (f : Cluster → Cluster) : (s.onCluster c f).flights = s.flights := rfl
@[simp] theorem State.onCluster_msgs (s : State) (c : Nat) (f : Cluster → Cluster) : (s.onCluster c f).msgs = s.msgs := rfl
@[simp] theorem State.onCluster_potReads (s : State) (c : Nat) (f : Cluster → Cluster) : (s.onCluster c f).potReads = s.potReads := rfl
@[simp] theorem State.onCluster_quads (s : State) (c : Nat) (f : Cluster → Cluster) : (s.onCluster c f).quads = s.quads := rfl
@[simp] theorem State.onCluster_reels (s : State) (c : Nat) (f : Cluster → Cluster) : (s.onCluster c f).reels = s.reels := rfl
@[simp] theorem State.onCluster_restarts (s : State) (c : Nat) (f : Cluster → Cluster) : (s.onCluster c f).restarts = s.restarts := rfl
@[simp] theorem State.onCluster_pendingRegions (s : State) (c : Nat) (f : Cluster → Cluster) : (s.onCluster c f).pendingRegions = s.pendingRegions := rfl
@[simp] theorem State.onCluster_triggered (s : State) (c : Nat) (f : Cluster → Cluster) : (s.onCluster c f).triggered = s.triggered := rfl
@[simp] theorem State.onCluster_inbox (s : State) (c : Nat) (f : Cluster → Cluster) : (s.onCluster c f).inbox = s.inbox := rfl
@[simp] theorem State.onCluster_rreqs (s : State) (c : Nat) (f : Cluster → Cluster) : (s.onCluster c f).rreqs = s.rreqs := rfl
@[simp] theorem State.onCluster_cleans (s : State) (c : Nat) (f : Cluster → Cluster) : (s.onCluster c f).cleans = s.cleans := rfl
@[simp] theorem State.onCluster_posts (s : State) (c : Nat) (f : Cluster → Cluster) : (s.onCluster c f).posts = s.posts := rfl
@[simp] theorem State.onCluster_trains (s : State) (c : Nat) (f : Cluster → Cluster) : (s.onCluster c f).trains = s.trains := rfl
@[simp] theorem State.onCluster_asks (s : State) (c : Nat) (f : Cluster → Cluster) : (s.onCluster c f).asks = s.asks := rfl
@[simp] theorem State.onCluster_qids (s : State) (c : Nat) (f : Cluster → Cluster) : (s.onCluster c f).qids = s.qids := rfl
@[simp] theorem State.onCluster_msgCounts (s : State) (c : Nat) (f : Cluster → Cluster) : (s.onCluster c f).msgCounts = s.msgCounts := rfl
@[simp] theorem State.onCluster_netx (s : State) (c : Nat) (f : Cluster → Cluster) : (s.onCluster c f).netx = s.netx := rfl
@[simp] theorem State.onCluster_swaps (s : State) (c : Nat) (f : Cluster → Cluster) : (s.onCluster c f).swaps = s.swaps := rfl
@[simp] theorem State.onCluster_slotLen (s : State) (c : Nat) (f : Cluster → Cluster) : (s.onCluster c f).slotLen = s.slotLen := rfl
@[simp] theorem State.onCluster_slotNext (s : State) (c : Nat) (f : Cluster → Cluster) : (s.onCluster c f).slotNext = s.slotNext := rfl
@[simp] theorem State.onCluster_qmax (s : State) (c : Nat) (f : Cluster → Cluster) : (s.onCluster c f).qmax = s.qmax := rfl
@[simp] theorem State.onCluster_berth (s : State) (c : Nat) (f : Cluster → Cluster) : (s.onCluster c f).berth = s.berth := rfl
@[simp] theorem State.onCluster_fto (s : State) (c : Nat) (f : Cluster → Cluster) : (s.onCluster c f).fto = s.fto := rfl
@[simp] theorem State.onCluster_plim (s : State) (c : Nat) (f : Cluster → Cluster) : (s.onCluster c f).plim = s.plim := rfl
@[simp] theorem State.onCluster_dbs (s : State) (c : Nat) (f : Cluster → Cluster) : (s.onCluster c f).dbs = s.dbs := rfl
@[simp] theorem State.onCluster_slot (s : State) (c : Nat) (f : Cluster → Cluster) : (s.onCluster c f).slot = s.slot := rfl
@[simp] theorem State.onCluster_rot (s : State) (c : Nat) (f : Cluster → Cluster) : (s.onCluster c f).rot = s.rot := rfl
@[simp] theorem State.onCluster_slotAt (s : State) (c : Nat) (f : Cluster → Cluster) : (s.onCluster c f).slotAt = s.slotAt := rfl
@[simp] theorem State.onCluster_guard (s : State) (c : Nat) (f : Cluster → Cluster) : (s.onCluster c f).guard = s.guard := rfl

/-! ### `onDie` -/

@[simp] theorem State.onDie_phase (s : State) (d : Nat) (f : Die → Die) : (s.onDie d f).phase = s.phase := rfl
@[simp] theorem State.onDie_verdict (s : State) (d : Nat) (f : Die → Die) : (s.onDie d f).verdict = s.verdict := rfl
@[simp] theorem State.onDie_owed (s : State) (d : Nat) (f : Die → Die) : (s.onDie d f).owed = s.owed := rfl
@[simp] theorem State.onDie_now (s : State) (d : Nat) (f : Die → Die) : (s.onDie d f).now = s.now := rfl
@[simp] theorem State.onDie_free (s : State) (d : Nat) (f : Die → Die) : (s.onDie d f).free = s.free := rfl
@[simp] theorem State.onDie_fresh (s : State) (d : Nat) (f : Die → Die) : (s.onDie d f).fresh = s.fresh := rfl
@[simp] theorem State.onDie_cur (s : State) (d : Nat) (f : Die → Die) : (s.onDie d f).cur = s.cur := rfl
@[simp] theorem State.onDie_agenda (s : State) (d : Nat) (f : Die → Die) : (s.onDie d f).agenda = s.agenda := rfl
@[simp] theorem State.onDie_booted (s : State) (d : Nat) (f : Die → Die) : (s.onDie d f).booted = s.booted := rfl
@[simp] theorem State.onDie_bootAt (s : State) (d : Nat) (f : Die → Die) : (s.onDie d f).bootAt = s.bootAt := rfl
@[simp] theorem State.onDie_pkg (s : State) (d : Nat) (f : Die → Die) : (s.onDie d f).pkg = s.pkg := rfl
@[simp] theorem State.onDie_domain (s : State) (d : Nat) (f : Die → Die) : (s.onDie d f).domain = s.domain := rfl
@[simp] theorem State.onDie_cds (s : State) (d : Nat) (f : Die → Die) : (s.onDie d f).cds = s.cds := rfl
@[simp] theorem State.onDie_eds (s : State) (d : Nat) (f : Die → Die) : (s.onDie d f).eds = s.eds := rfl
@[simp] theorem State.onDie_measures (s : State) (d : Nat) (f : Die → Die) : (s.onDie d f).measures = s.measures := rfl
@[simp] theorem State.onDie_release (s : State) (d : Nat) (f : Die → Die) : (s.onDie d f).release = s.release := rfl
@[simp] theorem State.onDie_silent (s : State) (d : Nat) (f : Die → Die) : (s.onDie d f).silent = s.silent := rfl
@[simp] theorem State.onDie_cores (s : State) (d : Nat) (f : Die → Die) : (s.onDie d f).cores = s.cores := rfl
@[simp] theorem State.onDie_clusters (s : State) (d : Nat) (f : Die → Die) : (s.onDie d f).clusters = s.clusters := rfl
@[simp] theorem State.onDie_slices (s : State) (d : Nat) (f : Die → Die) : (s.onDie d f).slices = s.slices := rfl
@[simp] theorem State.onDie_edges (s : State) (d : Nat) (f : Die → Die) : (s.onDie d f).edges = s.edges := rfl
@[simp] theorem State.onDie_links (s : State) (d : Nat) (f : Die → Die) : (s.onDie d f).links = s.links := rfl
@[simp] theorem State.onDie_parts (s : State) (d : Nat) (f : Die → Die) : (s.onDie d f).parts = s.parts := rfl
@[simp] theorem State.onDie_dram (s : State) (d : Nat) (f : Die → Die) : (s.onDie d f).dram = s.dram := rfl
@[simp] theorem State.onDie_host (s : State) (d : Nat) (f : Die → Die) : (s.onDie d f).host = s.host := rfl
@[simp] theorem State.onDie_flights (s : State) (d : Nat) (f : Die → Die) : (s.onDie d f).flights = s.flights := rfl
@[simp] theorem State.onDie_msgs (s : State) (d : Nat) (f : Die → Die) : (s.onDie d f).msgs = s.msgs := rfl
@[simp] theorem State.onDie_potReads (s : State) (d : Nat) (f : Die → Die) : (s.onDie d f).potReads = s.potReads := rfl
@[simp] theorem State.onDie_quads (s : State) (d : Nat) (f : Die → Die) : (s.onDie d f).quads = s.quads := rfl
@[simp] theorem State.onDie_reels (s : State) (d : Nat) (f : Die → Die) : (s.onDie d f).reels = s.reels := rfl
@[simp] theorem State.onDie_restarts (s : State) (d : Nat) (f : Die → Die) : (s.onDie d f).restarts = s.restarts := rfl
@[simp] theorem State.onDie_pendingRegions (s : State) (d : Nat) (f : Die → Die) : (s.onDie d f).pendingRegions = s.pendingRegions := rfl
@[simp] theorem State.onDie_triggered (s : State) (d : Nat) (f : Die → Die) : (s.onDie d f).triggered = s.triggered := rfl
@[simp] theorem State.onDie_inbox (s : State) (d : Nat) (f : Die → Die) : (s.onDie d f).inbox = s.inbox := rfl
@[simp] theorem State.onDie_rreqs (s : State) (d : Nat) (f : Die → Die) : (s.onDie d f).rreqs = s.rreqs := rfl
@[simp] theorem State.onDie_cleans (s : State) (d : Nat) (f : Die → Die) : (s.onDie d f).cleans = s.cleans := rfl
@[simp] theorem State.onDie_posts (s : State) (d : Nat) (f : Die → Die) : (s.onDie d f).posts = s.posts := rfl
@[simp] theorem State.onDie_trains (s : State) (d : Nat) (f : Die → Die) : (s.onDie d f).trains = s.trains := rfl
@[simp] theorem State.onDie_asks (s : State) (d : Nat) (f : Die → Die) : (s.onDie d f).asks = s.asks := rfl
@[simp] theorem State.onDie_qids (s : State) (d : Nat) (f : Die → Die) : (s.onDie d f).qids = s.qids := rfl
@[simp] theorem State.onDie_msgCounts (s : State) (d : Nat) (f : Die → Die) : (s.onDie d f).msgCounts = s.msgCounts := rfl
@[simp] theorem State.onDie_netx (s : State) (d : Nat) (f : Die → Die) : (s.onDie d f).netx = s.netx := rfl
@[simp] theorem State.onDie_swaps (s : State) (d : Nat) (f : Die → Die) : (s.onDie d f).swaps = s.swaps := rfl
@[simp] theorem State.onDie_slotLen (s : State) (d : Nat) (f : Die → Die) : (s.onDie d f).slotLen = s.slotLen := rfl
@[simp] theorem State.onDie_slotNext (s : State) (d : Nat) (f : Die → Die) : (s.onDie d f).slotNext = s.slotNext := rfl
@[simp] theorem State.onDie_qmax (s : State) (d : Nat) (f : Die → Die) : (s.onDie d f).qmax = s.qmax := rfl
@[simp] theorem State.onDie_berth (s : State) (d : Nat) (f : Die → Die) : (s.onDie d f).berth = s.berth := rfl
@[simp] theorem State.onDie_fto (s : State) (d : Nat) (f : Die → Die) : (s.onDie d f).fto = s.fto := rfl
@[simp] theorem State.onDie_plim (s : State) (d : Nat) (f : Die → Die) : (s.onDie d f).plim = s.plim := rfl
@[simp] theorem State.onDie_dbs (s : State) (d : Nat) (f : Die → Die) : (s.onDie d f).dbs = s.dbs := rfl
@[simp] theorem State.onDie_slot (s : State) (d : Nat) (f : Die → Die) : (s.onDie d f).slot = s.slot := rfl
@[simp] theorem State.onDie_rot (s : State) (d : Nat) (f : Die → Die) : (s.onDie d f).rot = s.rot := rfl
@[simp] theorem State.onDie_slotAt (s : State) (d : Nat) (f : Die → Die) : (s.onDie d f).slotAt = s.slotAt := rfl
@[simp] theorem State.onDie_guard (s : State) (d : Nat) (f : Die → Die) : (s.onDie d f).guard = s.guard := rfl

/-! ### `onSlice` -/

@[simp] theorem State.onSlice_phase (s : State) (h : Nat) (f : Slice → Slice) : (s.onSlice h f).phase = s.phase := rfl
@[simp] theorem State.onSlice_verdict (s : State) (h : Nat) (f : Slice → Slice) : (s.onSlice h f).verdict = s.verdict := rfl
@[simp] theorem State.onSlice_owed (s : State) (h : Nat) (f : Slice → Slice) : (s.onSlice h f).owed = s.owed := rfl
@[simp] theorem State.onSlice_now (s : State) (h : Nat) (f : Slice → Slice) : (s.onSlice h f).now = s.now := rfl
@[simp] theorem State.onSlice_free (s : State) (h : Nat) (f : Slice → Slice) : (s.onSlice h f).free = s.free := rfl
@[simp] theorem State.onSlice_fresh (s : State) (h : Nat) (f : Slice → Slice) : (s.onSlice h f).fresh = s.fresh := rfl
@[simp] theorem State.onSlice_cur (s : State) (h : Nat) (f : Slice → Slice) : (s.onSlice h f).cur = s.cur := rfl
@[simp] theorem State.onSlice_agenda (s : State) (h : Nat) (f : Slice → Slice) : (s.onSlice h f).agenda = s.agenda := rfl
@[simp] theorem State.onSlice_booted (s : State) (h : Nat) (f : Slice → Slice) : (s.onSlice h f).booted = s.booted := rfl
@[simp] theorem State.onSlice_bootAt (s : State) (h : Nat) (f : Slice → Slice) : (s.onSlice h f).bootAt = s.bootAt := rfl
@[simp] theorem State.onSlice_pkg (s : State) (h : Nat) (f : Slice → Slice) : (s.onSlice h f).pkg = s.pkg := rfl
@[simp] theorem State.onSlice_domain (s : State) (h : Nat) (f : Slice → Slice) : (s.onSlice h f).domain = s.domain := rfl
@[simp] theorem State.onSlice_cds (s : State) (h : Nat) (f : Slice → Slice) : (s.onSlice h f).cds = s.cds := rfl
@[simp] theorem State.onSlice_eds (s : State) (h : Nat) (f : Slice → Slice) : (s.onSlice h f).eds = s.eds := rfl
@[simp] theorem State.onSlice_measures (s : State) (h : Nat) (f : Slice → Slice) : (s.onSlice h f).measures = s.measures := rfl
@[simp] theorem State.onSlice_release (s : State) (h : Nat) (f : Slice → Slice) : (s.onSlice h f).release = s.release := rfl
@[simp] theorem State.onSlice_silent (s : State) (h : Nat) (f : Slice → Slice) : (s.onSlice h f).silent = s.silent := rfl
@[simp] theorem State.onSlice_cores (s : State) (h : Nat) (f : Slice → Slice) : (s.onSlice h f).cores = s.cores := rfl
@[simp] theorem State.onSlice_clusters (s : State) (h : Nat) (f : Slice → Slice) : (s.onSlice h f).clusters = s.clusters := rfl
@[simp] theorem State.onSlice_dies (s : State) (h : Nat) (f : Slice → Slice) : (s.onSlice h f).dies = s.dies := rfl
@[simp] theorem State.onSlice_edges (s : State) (h : Nat) (f : Slice → Slice) : (s.onSlice h f).edges = s.edges := rfl
@[simp] theorem State.onSlice_links (s : State) (h : Nat) (f : Slice → Slice) : (s.onSlice h f).links = s.links := rfl
@[simp] theorem State.onSlice_parts (s : State) (h : Nat) (f : Slice → Slice) : (s.onSlice h f).parts = s.parts := rfl
@[simp] theorem State.onSlice_dram (s : State) (h : Nat) (f : Slice → Slice) : (s.onSlice h f).dram = s.dram := rfl
@[simp] theorem State.onSlice_host (s : State) (h : Nat) (f : Slice → Slice) : (s.onSlice h f).host = s.host := rfl
@[simp] theorem State.onSlice_flights (s : State) (h : Nat) (f : Slice → Slice) : (s.onSlice h f).flights = s.flights := rfl
@[simp] theorem State.onSlice_msgs (s : State) (h : Nat) (f : Slice → Slice) : (s.onSlice h f).msgs = s.msgs := rfl
@[simp] theorem State.onSlice_potReads (s : State) (h : Nat) (f : Slice → Slice) : (s.onSlice h f).potReads = s.potReads := rfl
@[simp] theorem State.onSlice_quads (s : State) (h : Nat) (f : Slice → Slice) : (s.onSlice h f).quads = s.quads := rfl
@[simp] theorem State.onSlice_reels (s : State) (h : Nat) (f : Slice → Slice) : (s.onSlice h f).reels = s.reels := rfl
@[simp] theorem State.onSlice_restarts (s : State) (h : Nat) (f : Slice → Slice) : (s.onSlice h f).restarts = s.restarts := rfl
@[simp] theorem State.onSlice_pendingRegions (s : State) (h : Nat) (f : Slice → Slice) : (s.onSlice h f).pendingRegions = s.pendingRegions := rfl
@[simp] theorem State.onSlice_triggered (s : State) (h : Nat) (f : Slice → Slice) : (s.onSlice h f).triggered = s.triggered := rfl
@[simp] theorem State.onSlice_inbox (s : State) (h : Nat) (f : Slice → Slice) : (s.onSlice h f).inbox = s.inbox := rfl
@[simp] theorem State.onSlice_rreqs (s : State) (h : Nat) (f : Slice → Slice) : (s.onSlice h f).rreqs = s.rreqs := rfl
@[simp] theorem State.onSlice_cleans (s : State) (h : Nat) (f : Slice → Slice) : (s.onSlice h f).cleans = s.cleans := rfl
@[simp] theorem State.onSlice_posts (s : State) (h : Nat) (f : Slice → Slice) : (s.onSlice h f).posts = s.posts := rfl
@[simp] theorem State.onSlice_trains (s : State) (h : Nat) (f : Slice → Slice) : (s.onSlice h f).trains = s.trains := rfl
@[simp] theorem State.onSlice_asks (s : State) (h : Nat) (f : Slice → Slice) : (s.onSlice h f).asks = s.asks := rfl
@[simp] theorem State.onSlice_qids (s : State) (h : Nat) (f : Slice → Slice) : (s.onSlice h f).qids = s.qids := rfl
@[simp] theorem State.onSlice_msgCounts (s : State) (h : Nat) (f : Slice → Slice) : (s.onSlice h f).msgCounts = s.msgCounts := rfl
@[simp] theorem State.onSlice_netx (s : State) (h : Nat) (f : Slice → Slice) : (s.onSlice h f).netx = s.netx := rfl
@[simp] theorem State.onSlice_swaps (s : State) (h : Nat) (f : Slice → Slice) : (s.onSlice h f).swaps = s.swaps := rfl
@[simp] theorem State.onSlice_slotLen (s : State) (h : Nat) (f : Slice → Slice) : (s.onSlice h f).slotLen = s.slotLen := rfl
@[simp] theorem State.onSlice_slotNext (s : State) (h : Nat) (f : Slice → Slice) : (s.onSlice h f).slotNext = s.slotNext := rfl
@[simp] theorem State.onSlice_qmax (s : State) (h : Nat) (f : Slice → Slice) : (s.onSlice h f).qmax = s.qmax := rfl
@[simp] theorem State.onSlice_berth (s : State) (h : Nat) (f : Slice → Slice) : (s.onSlice h f).berth = s.berth := rfl
@[simp] theorem State.onSlice_fto (s : State) (h : Nat) (f : Slice → Slice) : (s.onSlice h f).fto = s.fto := rfl
@[simp] theorem State.onSlice_plim (s : State) (h : Nat) (f : Slice → Slice) : (s.onSlice h f).plim = s.plim := rfl
@[simp] theorem State.onSlice_dbs (s : State) (h : Nat) (f : Slice → Slice) : (s.onSlice h f).dbs = s.dbs := rfl
@[simp] theorem State.onSlice_slot (s : State) (h : Nat) (f : Slice → Slice) : (s.onSlice h f).slot = s.slot := rfl
@[simp] theorem State.onSlice_rot (s : State) (h : Nat) (f : Slice → Slice) : (s.onSlice h f).rot = s.rot := rfl
@[simp] theorem State.onSlice_slotAt (s : State) (h : Nat) (f : Slice → Slice) : (s.onSlice h f).slotAt = s.slotAt := rfl
@[simp] theorem State.onSlice_guard (s : State) (h : Nat) (f : Slice → Slice) : (s.onSlice h f).guard = s.guard := rfl

/-! ### `onEdge` -/

@[simp] theorem State.onEdge_phase (s : State) (e : Nat) (f : Edge → Edge) : (s.onEdge e f).phase = s.phase := rfl
@[simp] theorem State.onEdge_verdict (s : State) (e : Nat) (f : Edge → Edge) : (s.onEdge e f).verdict = s.verdict := rfl
@[simp] theorem State.onEdge_owed (s : State) (e : Nat) (f : Edge → Edge) : (s.onEdge e f).owed = s.owed := rfl
@[simp] theorem State.onEdge_now (s : State) (e : Nat) (f : Edge → Edge) : (s.onEdge e f).now = s.now := rfl
@[simp] theorem State.onEdge_free (s : State) (e : Nat) (f : Edge → Edge) : (s.onEdge e f).free = s.free := rfl
@[simp] theorem State.onEdge_fresh (s : State) (e : Nat) (f : Edge → Edge) : (s.onEdge e f).fresh = s.fresh := rfl
@[simp] theorem State.onEdge_cur (s : State) (e : Nat) (f : Edge → Edge) : (s.onEdge e f).cur = s.cur := rfl
@[simp] theorem State.onEdge_agenda (s : State) (e : Nat) (f : Edge → Edge) : (s.onEdge e f).agenda = s.agenda := rfl
@[simp] theorem State.onEdge_booted (s : State) (e : Nat) (f : Edge → Edge) : (s.onEdge e f).booted = s.booted := rfl
@[simp] theorem State.onEdge_bootAt (s : State) (e : Nat) (f : Edge → Edge) : (s.onEdge e f).bootAt = s.bootAt := rfl
@[simp] theorem State.onEdge_pkg (s : State) (e : Nat) (f : Edge → Edge) : (s.onEdge e f).pkg = s.pkg := rfl
@[simp] theorem State.onEdge_domain (s : State) (e : Nat) (f : Edge → Edge) : (s.onEdge e f).domain = s.domain := rfl
@[simp] theorem State.onEdge_cds (s : State) (e : Nat) (f : Edge → Edge) : (s.onEdge e f).cds = s.cds := rfl
@[simp] theorem State.onEdge_eds (s : State) (e : Nat) (f : Edge → Edge) : (s.onEdge e f).eds = s.eds := rfl
@[simp] theorem State.onEdge_measures (s : State) (e : Nat) (f : Edge → Edge) : (s.onEdge e f).measures = s.measures := rfl
@[simp] theorem State.onEdge_release (s : State) (e : Nat) (f : Edge → Edge) : (s.onEdge e f).release = s.release := rfl
@[simp] theorem State.onEdge_silent (s : State) (e : Nat) (f : Edge → Edge) : (s.onEdge e f).silent = s.silent := rfl
@[simp] theorem State.onEdge_cores (s : State) (e : Nat) (f : Edge → Edge) : (s.onEdge e f).cores = s.cores := rfl
@[simp] theorem State.onEdge_clusters (s : State) (e : Nat) (f : Edge → Edge) : (s.onEdge e f).clusters = s.clusters := rfl
@[simp] theorem State.onEdge_dies (s : State) (e : Nat) (f : Edge → Edge) : (s.onEdge e f).dies = s.dies := rfl
@[simp] theorem State.onEdge_slices (s : State) (e : Nat) (f : Edge → Edge) : (s.onEdge e f).slices = s.slices := rfl
@[simp] theorem State.onEdge_links (s : State) (e : Nat) (f : Edge → Edge) : (s.onEdge e f).links = s.links := rfl
@[simp] theorem State.onEdge_parts (s : State) (e : Nat) (f : Edge → Edge) : (s.onEdge e f).parts = s.parts := rfl
@[simp] theorem State.onEdge_dram (s : State) (e : Nat) (f : Edge → Edge) : (s.onEdge e f).dram = s.dram := rfl
@[simp] theorem State.onEdge_host (s : State) (e : Nat) (f : Edge → Edge) : (s.onEdge e f).host = s.host := rfl
@[simp] theorem State.onEdge_flights (s : State) (e : Nat) (f : Edge → Edge) : (s.onEdge e f).flights = s.flights := rfl
@[simp] theorem State.onEdge_msgs (s : State) (e : Nat) (f : Edge → Edge) : (s.onEdge e f).msgs = s.msgs := rfl
@[simp] theorem State.onEdge_potReads (s : State) (e : Nat) (f : Edge → Edge) : (s.onEdge e f).potReads = s.potReads := rfl
@[simp] theorem State.onEdge_quads (s : State) (e : Nat) (f : Edge → Edge) : (s.onEdge e f).quads = s.quads := rfl
@[simp] theorem State.onEdge_reels (s : State) (e : Nat) (f : Edge → Edge) : (s.onEdge e f).reels = s.reels := rfl
@[simp] theorem State.onEdge_restarts (s : State) (e : Nat) (f : Edge → Edge) : (s.onEdge e f).restarts = s.restarts := rfl
@[simp] theorem State.onEdge_pendingRegions (s : State) (e : Nat) (f : Edge → Edge) : (s.onEdge e f).pendingRegions = s.pendingRegions := rfl
@[simp] theorem State.onEdge_triggered (s : State) (e : Nat) (f : Edge → Edge) : (s.onEdge e f).triggered = s.triggered := rfl
@[simp] theorem State.onEdge_inbox (s : State) (e : Nat) (f : Edge → Edge) : (s.onEdge e f).inbox = s.inbox := rfl
@[simp] theorem State.onEdge_rreqs (s : State) (e : Nat) (f : Edge → Edge) : (s.onEdge e f).rreqs = s.rreqs := rfl
@[simp] theorem State.onEdge_cleans (s : State) (e : Nat) (f : Edge → Edge) : (s.onEdge e f).cleans = s.cleans := rfl
@[simp] theorem State.onEdge_posts (s : State) (e : Nat) (f : Edge → Edge) : (s.onEdge e f).posts = s.posts := rfl
@[simp] theorem State.onEdge_trains (s : State) (e : Nat) (f : Edge → Edge) : (s.onEdge e f).trains = s.trains := rfl
@[simp] theorem State.onEdge_asks (s : State) (e : Nat) (f : Edge → Edge) : (s.onEdge e f).asks = s.asks := rfl
@[simp] theorem State.onEdge_qids (s : State) (e : Nat) (f : Edge → Edge) : (s.onEdge e f).qids = s.qids := rfl
@[simp] theorem State.onEdge_msgCounts (s : State) (e : Nat) (f : Edge → Edge) : (s.onEdge e f).msgCounts = s.msgCounts := rfl
@[simp] theorem State.onEdge_netx (s : State) (e : Nat) (f : Edge → Edge) : (s.onEdge e f).netx = s.netx := rfl
@[simp] theorem State.onEdge_swaps (s : State) (e : Nat) (f : Edge → Edge) : (s.onEdge e f).swaps = s.swaps := rfl
@[simp] theorem State.onEdge_slotLen (s : State) (e : Nat) (f : Edge → Edge) : (s.onEdge e f).slotLen = s.slotLen := rfl
@[simp] theorem State.onEdge_slotNext (s : State) (e : Nat) (f : Edge → Edge) : (s.onEdge e f).slotNext = s.slotNext := rfl
@[simp] theorem State.onEdge_qmax (s : State) (e : Nat) (f : Edge → Edge) : (s.onEdge e f).qmax = s.qmax := rfl
@[simp] theorem State.onEdge_berth (s : State) (e : Nat) (f : Edge → Edge) : (s.onEdge e f).berth = s.berth := rfl
@[simp] theorem State.onEdge_fto (s : State) (e : Nat) (f : Edge → Edge) : (s.onEdge e f).fto = s.fto := rfl
@[simp] theorem State.onEdge_plim (s : State) (e : Nat) (f : Edge → Edge) : (s.onEdge e f).plim = s.plim := rfl
@[simp] theorem State.onEdge_dbs (s : State) (e : Nat) (f : Edge → Edge) : (s.onEdge e f).dbs = s.dbs := rfl
@[simp] theorem State.onEdge_slot (s : State) (e : Nat) (f : Edge → Edge) : (s.onEdge e f).slot = s.slot := rfl
@[simp] theorem State.onEdge_rot (s : State) (e : Nat) (f : Edge → Edge) : (s.onEdge e f).rot = s.rot := rfl
@[simp] theorem State.onEdge_slotAt (s : State) (e : Nat) (f : Edge → Edge) : (s.onEdge e f).slotAt = s.slotAt := rfl
@[simp] theorem State.onEdge_guard (s : State) (e : Nat) (f : Edge → Edge) : (s.onEdge e f).guard = s.guard := rfl

/-! ### `onLink` -/

@[simp] theorem State.onLink_phase (s : State) (l : Nat) (f : Link → Link) : (s.onLink l f).phase = s.phase := rfl
@[simp] theorem State.onLink_verdict (s : State) (l : Nat) (f : Link → Link) : (s.onLink l f).verdict = s.verdict := rfl
@[simp] theorem State.onLink_owed (s : State) (l : Nat) (f : Link → Link) : (s.onLink l f).owed = s.owed := rfl
@[simp] theorem State.onLink_now (s : State) (l : Nat) (f : Link → Link) : (s.onLink l f).now = s.now := rfl
@[simp] theorem State.onLink_free (s : State) (l : Nat) (f : Link → Link) : (s.onLink l f).free = s.free := rfl
@[simp] theorem State.onLink_fresh (s : State) (l : Nat) (f : Link → Link) : (s.onLink l f).fresh = s.fresh := rfl
@[simp] theorem State.onLink_cur (s : State) (l : Nat) (f : Link → Link) : (s.onLink l f).cur = s.cur := rfl
@[simp] theorem State.onLink_agenda (s : State) (l : Nat) (f : Link → Link) : (s.onLink l f).agenda = s.agenda := rfl
@[simp] theorem State.onLink_booted (s : State) (l : Nat) (f : Link → Link) : (s.onLink l f).booted = s.booted := rfl
@[simp] theorem State.onLink_bootAt (s : State) (l : Nat) (f : Link → Link) : (s.onLink l f).bootAt = s.bootAt := rfl
@[simp] theorem State.onLink_pkg (s : State) (l : Nat) (f : Link → Link) : (s.onLink l f).pkg = s.pkg := rfl
@[simp] theorem State.onLink_domain (s : State) (l : Nat) (f : Link → Link) : (s.onLink l f).domain = s.domain := rfl
@[simp] theorem State.onLink_cds (s : State) (l : Nat) (f : Link → Link) : (s.onLink l f).cds = s.cds := rfl
@[simp] theorem State.onLink_eds (s : State) (l : Nat) (f : Link → Link) : (s.onLink l f).eds = s.eds := rfl
@[simp] theorem State.onLink_measures (s : State) (l : Nat) (f : Link → Link) : (s.onLink l f).measures = s.measures := rfl
@[simp] theorem State.onLink_release (s : State) (l : Nat) (f : Link → Link) : (s.onLink l f).release = s.release := rfl
@[simp] theorem State.onLink_silent (s : State) (l : Nat) (f : Link → Link) : (s.onLink l f).silent = s.silent := rfl
@[simp] theorem State.onLink_cores (s : State) (l : Nat) (f : Link → Link) : (s.onLink l f).cores = s.cores := rfl
@[simp] theorem State.onLink_clusters (s : State) (l : Nat) (f : Link → Link) : (s.onLink l f).clusters = s.clusters := rfl
@[simp] theorem State.onLink_dies (s : State) (l : Nat) (f : Link → Link) : (s.onLink l f).dies = s.dies := rfl
@[simp] theorem State.onLink_slices (s : State) (l : Nat) (f : Link → Link) : (s.onLink l f).slices = s.slices := rfl
@[simp] theorem State.onLink_edges (s : State) (l : Nat) (f : Link → Link) : (s.onLink l f).edges = s.edges := rfl
@[simp] theorem State.onLink_parts (s : State) (l : Nat) (f : Link → Link) : (s.onLink l f).parts = s.parts := rfl
@[simp] theorem State.onLink_dram (s : State) (l : Nat) (f : Link → Link) : (s.onLink l f).dram = s.dram := rfl
@[simp] theorem State.onLink_host (s : State) (l : Nat) (f : Link → Link) : (s.onLink l f).host = s.host := rfl
@[simp] theorem State.onLink_flights (s : State) (l : Nat) (f : Link → Link) : (s.onLink l f).flights = s.flights := rfl
@[simp] theorem State.onLink_msgs (s : State) (l : Nat) (f : Link → Link) : (s.onLink l f).msgs = s.msgs := rfl
@[simp] theorem State.onLink_potReads (s : State) (l : Nat) (f : Link → Link) : (s.onLink l f).potReads = s.potReads := rfl
@[simp] theorem State.onLink_quads (s : State) (l : Nat) (f : Link → Link) : (s.onLink l f).quads = s.quads := rfl
@[simp] theorem State.onLink_reels (s : State) (l : Nat) (f : Link → Link) : (s.onLink l f).reels = s.reels := rfl
@[simp] theorem State.onLink_restarts (s : State) (l : Nat) (f : Link → Link) : (s.onLink l f).restarts = s.restarts := rfl
@[simp] theorem State.onLink_pendingRegions (s : State) (l : Nat) (f : Link → Link) : (s.onLink l f).pendingRegions = s.pendingRegions := rfl
@[simp] theorem State.onLink_triggered (s : State) (l : Nat) (f : Link → Link) : (s.onLink l f).triggered = s.triggered := rfl
@[simp] theorem State.onLink_inbox (s : State) (l : Nat) (f : Link → Link) : (s.onLink l f).inbox = s.inbox := rfl
@[simp] theorem State.onLink_rreqs (s : State) (l : Nat) (f : Link → Link) : (s.onLink l f).rreqs = s.rreqs := rfl
@[simp] theorem State.onLink_cleans (s : State) (l : Nat) (f : Link → Link) : (s.onLink l f).cleans = s.cleans := rfl
@[simp] theorem State.onLink_posts (s : State) (l : Nat) (f : Link → Link) : (s.onLink l f).posts = s.posts := rfl
@[simp] theorem State.onLink_trains (s : State) (l : Nat) (f : Link → Link) : (s.onLink l f).trains = s.trains := rfl
@[simp] theorem State.onLink_asks (s : State) (l : Nat) (f : Link → Link) : (s.onLink l f).asks = s.asks := rfl
@[simp] theorem State.onLink_qids (s : State) (l : Nat) (f : Link → Link) : (s.onLink l f).qids = s.qids := rfl
@[simp] theorem State.onLink_msgCounts (s : State) (l : Nat) (f : Link → Link) : (s.onLink l f).msgCounts = s.msgCounts := rfl
@[simp] theorem State.onLink_netx (s : State) (l : Nat) (f : Link → Link) : (s.onLink l f).netx = s.netx := rfl
@[simp] theorem State.onLink_swaps (s : State) (l : Nat) (f : Link → Link) : (s.onLink l f).swaps = s.swaps := rfl
@[simp] theorem State.onLink_slotLen (s : State) (l : Nat) (f : Link → Link) : (s.onLink l f).slotLen = s.slotLen := rfl
@[simp] theorem State.onLink_slotNext (s : State) (l : Nat) (f : Link → Link) : (s.onLink l f).slotNext = s.slotNext := rfl
@[simp] theorem State.onLink_qmax (s : State) (l : Nat) (f : Link → Link) : (s.onLink l f).qmax = s.qmax := rfl
@[simp] theorem State.onLink_berth (s : State) (l : Nat) (f : Link → Link) : (s.onLink l f).berth = s.berth := rfl
@[simp] theorem State.onLink_fto (s : State) (l : Nat) (f : Link → Link) : (s.onLink l f).fto = s.fto := rfl
@[simp] theorem State.onLink_plim (s : State) (l : Nat) (f : Link → Link) : (s.onLink l f).plim = s.plim := rfl
@[simp] theorem State.onLink_dbs (s : State) (l : Nat) (f : Link → Link) : (s.onLink l f).dbs = s.dbs := rfl
@[simp] theorem State.onLink_slot (s : State) (l : Nat) (f : Link → Link) : (s.onLink l f).slot = s.slot := rfl
@[simp] theorem State.onLink_rot (s : State) (l : Nat) (f : Link → Link) : (s.onLink l f).rot = s.rot := rfl
@[simp] theorem State.onLink_slotAt (s : State) (l : Nat) (f : Link → Link) : (s.onLink l f).slotAt = s.slotAt := rfl
@[simp] theorem State.onLink_guard (s : State) (l : Nat) (f : Link → Link) : (s.onLink l f).guard = s.guard := rfl

/-! ### `onPart` -/

@[simp] theorem State.onPart_phase (s : State) (p : Nat) (f : Part → Part) : (s.onPart p f).phase = s.phase := rfl
@[simp] theorem State.onPart_verdict (s : State) (p : Nat) (f : Part → Part) : (s.onPart p f).verdict = s.verdict := rfl
@[simp] theorem State.onPart_owed (s : State) (p : Nat) (f : Part → Part) : (s.onPart p f).owed = s.owed := rfl
@[simp] theorem State.onPart_now (s : State) (p : Nat) (f : Part → Part) : (s.onPart p f).now = s.now := rfl
@[simp] theorem State.onPart_free (s : State) (p : Nat) (f : Part → Part) : (s.onPart p f).free = s.free := rfl
@[simp] theorem State.onPart_fresh (s : State) (p : Nat) (f : Part → Part) : (s.onPart p f).fresh = s.fresh := rfl
@[simp] theorem State.onPart_cur (s : State) (p : Nat) (f : Part → Part) : (s.onPart p f).cur = s.cur := rfl
@[simp] theorem State.onPart_agenda (s : State) (p : Nat) (f : Part → Part) : (s.onPart p f).agenda = s.agenda := rfl
@[simp] theorem State.onPart_booted (s : State) (p : Nat) (f : Part → Part) : (s.onPart p f).booted = s.booted := rfl
@[simp] theorem State.onPart_bootAt (s : State) (p : Nat) (f : Part → Part) : (s.onPart p f).bootAt = s.bootAt := rfl
@[simp] theorem State.onPart_pkg (s : State) (p : Nat) (f : Part → Part) : (s.onPart p f).pkg = s.pkg := rfl
@[simp] theorem State.onPart_domain (s : State) (p : Nat) (f : Part → Part) : (s.onPart p f).domain = s.domain := rfl
@[simp] theorem State.onPart_cds (s : State) (p : Nat) (f : Part → Part) : (s.onPart p f).cds = s.cds := rfl
@[simp] theorem State.onPart_eds (s : State) (p : Nat) (f : Part → Part) : (s.onPart p f).eds = s.eds := rfl
@[simp] theorem State.onPart_measures (s : State) (p : Nat) (f : Part → Part) : (s.onPart p f).measures = s.measures := rfl
@[simp] theorem State.onPart_release (s : State) (p : Nat) (f : Part → Part) : (s.onPart p f).release = s.release := rfl
@[simp] theorem State.onPart_silent (s : State) (p : Nat) (f : Part → Part) : (s.onPart p f).silent = s.silent := rfl
@[simp] theorem State.onPart_cores (s : State) (p : Nat) (f : Part → Part) : (s.onPart p f).cores = s.cores := rfl
@[simp] theorem State.onPart_clusters (s : State) (p : Nat) (f : Part → Part) : (s.onPart p f).clusters = s.clusters := rfl
@[simp] theorem State.onPart_dies (s : State) (p : Nat) (f : Part → Part) : (s.onPart p f).dies = s.dies := rfl
@[simp] theorem State.onPart_slices (s : State) (p : Nat) (f : Part → Part) : (s.onPart p f).slices = s.slices := rfl
@[simp] theorem State.onPart_edges (s : State) (p : Nat) (f : Part → Part) : (s.onPart p f).edges = s.edges := rfl
@[simp] theorem State.onPart_links (s : State) (p : Nat) (f : Part → Part) : (s.onPart p f).links = s.links := rfl
@[simp] theorem State.onPart_dram (s : State) (p : Nat) (f : Part → Part) : (s.onPart p f).dram = s.dram := rfl
@[simp] theorem State.onPart_host (s : State) (p : Nat) (f : Part → Part) : (s.onPart p f).host = s.host := rfl
@[simp] theorem State.onPart_flights (s : State) (p : Nat) (f : Part → Part) : (s.onPart p f).flights = s.flights := rfl
@[simp] theorem State.onPart_msgs (s : State) (p : Nat) (f : Part → Part) : (s.onPart p f).msgs = s.msgs := rfl
@[simp] theorem State.onPart_potReads (s : State) (p : Nat) (f : Part → Part) : (s.onPart p f).potReads = s.potReads := rfl
@[simp] theorem State.onPart_quads (s : State) (p : Nat) (f : Part → Part) : (s.onPart p f).quads = s.quads := rfl
@[simp] theorem State.onPart_reels (s : State) (p : Nat) (f : Part → Part) : (s.onPart p f).reels = s.reels := rfl
@[simp] theorem State.onPart_restarts (s : State) (p : Nat) (f : Part → Part) : (s.onPart p f).restarts = s.restarts := rfl
@[simp] theorem State.onPart_pendingRegions (s : State) (p : Nat) (f : Part → Part) : (s.onPart p f).pendingRegions = s.pendingRegions := rfl
@[simp] theorem State.onPart_triggered (s : State) (p : Nat) (f : Part → Part) : (s.onPart p f).triggered = s.triggered := rfl
@[simp] theorem State.onPart_inbox (s : State) (p : Nat) (f : Part → Part) : (s.onPart p f).inbox = s.inbox := rfl
@[simp] theorem State.onPart_rreqs (s : State) (p : Nat) (f : Part → Part) : (s.onPart p f).rreqs = s.rreqs := rfl
@[simp] theorem State.onPart_cleans (s : State) (p : Nat) (f : Part → Part) : (s.onPart p f).cleans = s.cleans := rfl
@[simp] theorem State.onPart_posts (s : State) (p : Nat) (f : Part → Part) : (s.onPart p f).posts = s.posts := rfl
@[simp] theorem State.onPart_trains (s : State) (p : Nat) (f : Part → Part) : (s.onPart p f).trains = s.trains := rfl
@[simp] theorem State.onPart_asks (s : State) (p : Nat) (f : Part → Part) : (s.onPart p f).asks = s.asks := rfl
@[simp] theorem State.onPart_qids (s : State) (p : Nat) (f : Part → Part) : (s.onPart p f).qids = s.qids := rfl
@[simp] theorem State.onPart_msgCounts (s : State) (p : Nat) (f : Part → Part) : (s.onPart p f).msgCounts = s.msgCounts := rfl
@[simp] theorem State.onPart_netx (s : State) (p : Nat) (f : Part → Part) : (s.onPart p f).netx = s.netx := rfl
@[simp] theorem State.onPart_swaps (s : State) (p : Nat) (f : Part → Part) : (s.onPart p f).swaps = s.swaps := rfl
@[simp] theorem State.onPart_slotLen (s : State) (p : Nat) (f : Part → Part) : (s.onPart p f).slotLen = s.slotLen := rfl
@[simp] theorem State.onPart_slotNext (s : State) (p : Nat) (f : Part → Part) : (s.onPart p f).slotNext = s.slotNext := rfl
@[simp] theorem State.onPart_qmax (s : State) (p : Nat) (f : Part → Part) : (s.onPart p f).qmax = s.qmax := rfl
@[simp] theorem State.onPart_berth (s : State) (p : Nat) (f : Part → Part) : (s.onPart p f).berth = s.berth := rfl
@[simp] theorem State.onPart_fto (s : State) (p : Nat) (f : Part → Part) : (s.onPart p f).fto = s.fto := rfl
@[simp] theorem State.onPart_plim (s : State) (p : Nat) (f : Part → Part) : (s.onPart p f).plim = s.plim := rfl
@[simp] theorem State.onPart_dbs (s : State) (p : Nat) (f : Part → Part) : (s.onPart p f).dbs = s.dbs := rfl
@[simp] theorem State.onPart_slot (s : State) (p : Nat) (f : Part → Part) : (s.onPart p f).slot = s.slot := rfl
@[simp] theorem State.onPart_rot (s : State) (p : Nat) (f : Part → Part) : (s.onPart p f).rot = s.rot := rfl
@[simp] theorem State.onPart_slotAt (s : State) (p : Nat) (f : Part → Part) : (s.onPart p f).slotAt = s.slotAt := rfl
@[simp] theorem State.onPart_guard (s : State) (p : Nat) (f : Part → Part) : (s.onPart p f).guard = s.guard := rfl

/-! ### `used` -/

@[simp] theorem State.used_phase (s : State) : (s.used).phase = s.phase := rfl
@[simp] theorem State.used_verdict (s : State) : (s.used).verdict = s.verdict := rfl
@[simp] theorem State.used_owed (s : State) : (s.used).owed = s.owed := rfl
@[simp] theorem State.used_now (s : State) : (s.used).now = s.now := rfl
@[simp] theorem State.used_fresh (s : State) : (s.used).fresh = s.fresh := rfl
@[simp] theorem State.used_cur (s : State) : (s.used).cur = s.cur := rfl
@[simp] theorem State.used_agenda (s : State) : (s.used).agenda = s.agenda := rfl
@[simp] theorem State.used_booted (s : State) : (s.used).booted = s.booted := rfl
@[simp] theorem State.used_bootAt (s : State) : (s.used).bootAt = s.bootAt := rfl
@[simp] theorem State.used_pkg (s : State) : (s.used).pkg = s.pkg := rfl
@[simp] theorem State.used_domain (s : State) : (s.used).domain = s.domain := rfl
@[simp] theorem State.used_cds (s : State) : (s.used).cds = s.cds := rfl
@[simp] theorem State.used_eds (s : State) : (s.used).eds = s.eds := rfl
@[simp] theorem State.used_measures (s : State) : (s.used).measures = s.measures := rfl
@[simp] theorem State.used_release (s : State) : (s.used).release = s.release := rfl
@[simp] theorem State.used_silent (s : State) : (s.used).silent = s.silent := rfl
@[simp] theorem State.used_cores (s : State) : (s.used).cores = s.cores := rfl
@[simp] theorem State.used_clusters (s : State) : (s.used).clusters = s.clusters := rfl
@[simp] theorem State.used_dies (s : State) : (s.used).dies = s.dies := rfl
@[simp] theorem State.used_slices (s : State) : (s.used).slices = s.slices := rfl
@[simp] theorem State.used_edges (s : State) : (s.used).edges = s.edges := rfl
@[simp] theorem State.used_links (s : State) : (s.used).links = s.links := rfl
@[simp] theorem State.used_parts (s : State) : (s.used).parts = s.parts := rfl
@[simp] theorem State.used_dram (s : State) : (s.used).dram = s.dram := rfl
@[simp] theorem State.used_host (s : State) : (s.used).host = s.host := rfl
@[simp] theorem State.used_flights (s : State) : (s.used).flights = s.flights := rfl
@[simp] theorem State.used_msgs (s : State) : (s.used).msgs = s.msgs := rfl
@[simp] theorem State.used_potReads (s : State) : (s.used).potReads = s.potReads := rfl
@[simp] theorem State.used_quads (s : State) : (s.used).quads = s.quads := rfl
@[simp] theorem State.used_reels (s : State) : (s.used).reels = s.reels := rfl
@[simp] theorem State.used_restarts (s : State) : (s.used).restarts = s.restarts := rfl
@[simp] theorem State.used_pendingRegions (s : State) : (s.used).pendingRegions = s.pendingRegions := rfl
@[simp] theorem State.used_triggered (s : State) : (s.used).triggered = s.triggered := rfl
@[simp] theorem State.used_inbox (s : State) : (s.used).inbox = s.inbox := rfl
@[simp] theorem State.used_rreqs (s : State) : (s.used).rreqs = s.rreqs := rfl
@[simp] theorem State.used_cleans (s : State) : (s.used).cleans = s.cleans := rfl
@[simp] theorem State.used_posts (s : State) : (s.used).posts = s.posts := rfl
@[simp] theorem State.used_trains (s : State) : (s.used).trains = s.trains := rfl
@[simp] theorem State.used_asks (s : State) : (s.used).asks = s.asks := rfl
@[simp] theorem State.used_qids (s : State) : (s.used).qids = s.qids := rfl
@[simp] theorem State.used_msgCounts (s : State) : (s.used).msgCounts = s.msgCounts := rfl
@[simp] theorem State.used_netx (s : State) : (s.used).netx = s.netx := rfl
@[simp] theorem State.used_swaps (s : State) : (s.used).swaps = s.swaps := rfl
@[simp] theorem State.used_slotLen (s : State) : (s.used).slotLen = s.slotLen := rfl
@[simp] theorem State.used_slotNext (s : State) : (s.used).slotNext = s.slotNext := rfl
@[simp] theorem State.used_qmax (s : State) : (s.used).qmax = s.qmax := rfl
@[simp] theorem State.used_berth (s : State) : (s.used).berth = s.berth := rfl
@[simp] theorem State.used_fto (s : State) : (s.used).fto = s.fto := rfl
@[simp] theorem State.used_plim (s : State) : (s.used).plim = s.plim := rfl
@[simp] theorem State.used_dbs (s : State) : (s.used).dbs = s.dbs := rfl
@[simp] theorem State.used_slot (s : State) : (s.used).slot = s.slot := rfl
@[simp] theorem State.used_rot (s : State) : (s.used).rot = s.rot := rfl
@[simp] theorem State.used_slotAt (s : State) : (s.used).slotAt = s.slotAt := rfl
@[simp] theorem State.used_guard (s : State) : (s.used).guard = s.guard := rfl

/-! ### `used1` -/

@[simp] theorem State.used1_phase (s : State) : (s.used1).phase = s.phase := rfl
@[simp] theorem State.used1_verdict (s : State) : (s.used1).verdict = s.verdict := rfl
@[simp] theorem State.used1_owed (s : State) : (s.used1).owed = s.owed := rfl
@[simp] theorem State.used1_now (s : State) : (s.used1).now = s.now := rfl
@[simp] theorem State.used1_free (s : State) : (s.used1).free = s.free := rfl
@[simp] theorem State.used1_cur (s : State) : (s.used1).cur = s.cur := rfl
@[simp] theorem State.used1_agenda (s : State) : (s.used1).agenda = s.agenda := rfl
@[simp] theorem State.used1_booted (s : State) : (s.used1).booted = s.booted := rfl
@[simp] theorem State.used1_bootAt (s : State) : (s.used1).bootAt = s.bootAt := rfl
@[simp] theorem State.used1_pkg (s : State) : (s.used1).pkg = s.pkg := rfl
@[simp] theorem State.used1_domain (s : State) : (s.used1).domain = s.domain := rfl
@[simp] theorem State.used1_cds (s : State) : (s.used1).cds = s.cds := rfl
@[simp] theorem State.used1_eds (s : State) : (s.used1).eds = s.eds := rfl
@[simp] theorem State.used1_measures (s : State) : (s.used1).measures = s.measures := rfl
@[simp] theorem State.used1_release (s : State) : (s.used1).release = s.release := rfl
@[simp] theorem State.used1_silent (s : State) : (s.used1).silent = s.silent := rfl
@[simp] theorem State.used1_cores (s : State) : (s.used1).cores = s.cores := rfl
@[simp] theorem State.used1_clusters (s : State) : (s.used1).clusters = s.clusters := rfl
@[simp] theorem State.used1_dies (s : State) : (s.used1).dies = s.dies := rfl
@[simp] theorem State.used1_slices (s : State) : (s.used1).slices = s.slices := rfl
@[simp] theorem State.used1_edges (s : State) : (s.used1).edges = s.edges := rfl
@[simp] theorem State.used1_links (s : State) : (s.used1).links = s.links := rfl
@[simp] theorem State.used1_parts (s : State) : (s.used1).parts = s.parts := rfl
@[simp] theorem State.used1_dram (s : State) : (s.used1).dram = s.dram := rfl
@[simp] theorem State.used1_host (s : State) : (s.used1).host = s.host := rfl
@[simp] theorem State.used1_flights (s : State) : (s.used1).flights = s.flights := rfl
@[simp] theorem State.used1_msgs (s : State) : (s.used1).msgs = s.msgs := rfl
@[simp] theorem State.used1_potReads (s : State) : (s.used1).potReads = s.potReads := rfl
@[simp] theorem State.used1_quads (s : State) : (s.used1).quads = s.quads := rfl
@[simp] theorem State.used1_reels (s : State) : (s.used1).reels = s.reels := rfl
@[simp] theorem State.used1_restarts (s : State) : (s.used1).restarts = s.restarts := rfl
@[simp] theorem State.used1_pendingRegions (s : State) : (s.used1).pendingRegions = s.pendingRegions := rfl
@[simp] theorem State.used1_triggered (s : State) : (s.used1).triggered = s.triggered := rfl
@[simp] theorem State.used1_inbox (s : State) : (s.used1).inbox = s.inbox := rfl
@[simp] theorem State.used1_rreqs (s : State) : (s.used1).rreqs = s.rreqs := rfl
@[simp] theorem State.used1_cleans (s : State) : (s.used1).cleans = s.cleans := rfl
@[simp] theorem State.used1_posts (s : State) : (s.used1).posts = s.posts := rfl
@[simp] theorem State.used1_trains (s : State) : (s.used1).trains = s.trains := rfl
@[simp] theorem State.used1_asks (s : State) : (s.used1).asks = s.asks := rfl
@[simp] theorem State.used1_qids (s : State) : (s.used1).qids = s.qids := rfl
@[simp] theorem State.used1_msgCounts (s : State) : (s.used1).msgCounts = s.msgCounts := rfl
@[simp] theorem State.used1_netx (s : State) : (s.used1).netx = s.netx := rfl
@[simp] theorem State.used1_swaps (s : State) : (s.used1).swaps = s.swaps := rfl
@[simp] theorem State.used1_slotLen (s : State) : (s.used1).slotLen = s.slotLen := rfl
@[simp] theorem State.used1_slotNext (s : State) : (s.used1).slotNext = s.slotNext := rfl
@[simp] theorem State.used1_qmax (s : State) : (s.used1).qmax = s.qmax := rfl
@[simp] theorem State.used1_berth (s : State) : (s.used1).berth = s.berth := rfl
@[simp] theorem State.used1_fto (s : State) : (s.used1).fto = s.fto := rfl
@[simp] theorem State.used1_plim (s : State) : (s.used1).plim = s.plim := rfl
@[simp] theorem State.used1_dbs (s : State) : (s.used1).dbs = s.dbs := rfl
@[simp] theorem State.used1_slot (s : State) : (s.used1).slot = s.slot := rfl
@[simp] theorem State.used1_rot (s : State) : (s.used1).rot = s.rot := rfl
@[simp] theorem State.used1_slotAt (s : State) : (s.used1).slotAt = s.slotAt := rfl
@[simp] theorem State.used1_guard (s : State) : (s.used1).guard = s.guard := rfl

@[simp] theorem fset_fset {α : Type} (m : FMap α) (n : Nat) (v w : α) : fset (fset m n v) n w = fset m n w := by
  induction m with
  | nil => simp [fset]
  | cons x r ih =>
    obtain ⟨k, u⟩ := x
    simp only [fset]
    split
    · simp [fset]
    · split
      · simp [fset]
      · rename_i h₁ h₂
        simp [fset, h₁, h₂, ih]

/-! ### The parts of the state -/

@[simp] theorem State.core_onCore_same (s : State) (c : Nat) (f : Core → Core) : (s.onCore c f).core c = f (s.core c) := by
  simp [State.core, State.onCore, State.setCore]

@[simp] theorem State.core_onCore_ne (s : State) {c c' : Nat} (f : Core → Core) (h : c' ≠ c) : (s.onCore c f).core c' = s.core c' := by
  simp [State.core, State.onCore, State.setCore, h]

@[simp] theorem State.core_onCluster (s : State) (c c' : Nat) (f : Cluster → Cluster) : (s.onCluster c f).core c' = s.core c' := rfl
@[simp] theorem State.core_onDie (s : State) (d c' : Nat) (f : Die → Die) : (s.onDie d f).core c' = s.core c' := rfl
@[simp] theorem State.core_onSlice (s : State) (h c' : Nat) (f : Slice → Slice) : (s.onSlice h f).core c' = s.core c' := rfl
@[simp] theorem State.core_onEdge (s : State) (e c' : Nat) (f : Edge → Edge) : (s.onEdge e f).core c' = s.core c' := rfl
@[simp] theorem State.core_onLink (s : State) (l c' : Nat) (f : Link → Link) : (s.onLink l f).core c' = s.core c' := rfl
@[simp] theorem State.core_onPart (s : State) (p c' : Nat) (f : Part → Part) : (s.onPart p f).core c' = s.core c' := rfl
@[simp] theorem State.core_used (s : State) (c' : Nat) : s.used.core c' = s.core c' := rfl
@[simp] theorem State.core_used1 (s : State) (c' : Nat) : s.used1.core c' = s.core c' := rfl

@[simp] theorem State.cluster_onCluster_same (s : State) (c : Nat) (f : Cluster → Cluster) :
    (s.onCluster c f).cluster c = f (s.cluster c) := by
  simp [State.cluster, State.onCluster]

@[simp] theorem State.cluster_onCluster_ne (s : State) {c c' : Nat} (f : Cluster → Cluster) (h : c' ≠ c) :
    (s.onCluster c f).cluster c' = s.cluster c' := by
  simp [State.cluster, State.onCluster, h]

@[simp] theorem State.cluster_onCore (s : State) (c c' : Nat) (f : Core → Core) : (s.onCore c f).cluster c' = s.cluster c' := rfl

@[simp] theorem State.die_onDie_same (s : State) (d : Nat) (f : Die → Die) : (s.onDie d f).die d = f (s.die d) := by
  simp [State.die, State.onDie]

@[simp] theorem State.slice_onSlice_same (s : State) (h : Nat) (f : Slice → Slice) : (s.onSlice h f).slice h = f (s.slice h) := by
  simp [State.slice, State.onSlice]

@[simp] theorem State.edge_onEdge_same (s : State) (e : Nat) (f : Edge → Edge) : (s.onEdge e f).edge e = f (s.edge e) := by
  simp [State.edge, State.onEdge]

@[simp] theorem State.link_onLink_same (s : State) (l : Nat) (f : Link → Link) : (s.onLink l f).link l = f (s.link l) := by
  simp [State.link, State.onLink]

@[simp] theorem State.partn_onPart_same (s : State) (p : Nat) (f : Part → Part) : (s.onPart p f).partn p = f (s.partn p) := by
  simp [State.partn, State.onPart]

@[simp] theorem State.cc_onCC (s : State) (f : Core → Core) : (s.onCC f).cc = f s.cc := by
  simp [State.cc, State.onCC]

/-! ### The running activation -/

@[simp] theorem Core.onRun_part (k : Core) (f : Act → Act) : (k.onRun f).part = k.part := by unfold Core.onRun; split <;> (try split) <;> rfl
@[simp] theorem Core.onRun_halted (k : Core) (f : Act → Act) : (k.onRun f).halted = k.halted := by unfold Core.onRun; split <;> (try split) <;> rfl
@[simp] theorem Core.onRun_swapping (k : Core) (f : Act → Act) : (k.onRun f).swapping = k.swapping := by unfold Core.onRun; split <;> (try split) <;> rfl
@[simp] theorem Core.onRun_run (k : Core) (f : Act → Act) : (k.onRun f).run = k.run := by unfold Core.onRun; split <;> (try split) <;> rfl
@[simp] theorem Core.onRun_fibres (k : Core) (f : Act → Act) : (k.onRun f).fibres = k.fibres := by unfold Core.onRun; split <;> (try split) <;> rfl
@[simp] theorem Core.onRun_cctl (k : Core) (f : Act → Act) : (k.onRun f).cctl = k.cctl := by unfold Core.onRun; split <;> (try split) <;> rfl
@[simp] theorem Core.onRun_tvec (k : Core) (f : Act → Act) : (k.onRun f).tvec = k.tvec := by unfold Core.onRun; split <;> (try split) <;> rfl
@[simp] theorem Core.onRun_rscr (k : Core) (f : Act → Act) : (k.onRun f).rscr = k.rscr := by unfold Core.onRun; split <;> (try split) <;> rfl
@[simp] theorem Core.onRun_uvec (k : Core) (f : Act → Act) : (k.onRun f).uvec = k.uvec := by unfold Core.onRun; split <;> (try split) <;> rfl
@[simp] theorem Core.onRun_fmt (k : Core) (f : Act → Act) : (k.onRun f).fmt = k.fmt := by unfold Core.onRun; split <;> (try split) <;> rfl
@[simp] theorem Core.onRun_warn (k : Core) (f : Act → Act) : (k.onRun f).warn = k.warn := by unfold Core.onRun; split <;> (try split) <;> rfl
@[simp] theorem Core.onRun_warnpc (k : Core) (f : Act → Act) : (k.onRun f).warnpc = k.warnpc := by unfold Core.onRun; split <;> (try split) <;> rfl
@[simp] theorem Core.onRun_earned (k : Core) (f : Act → Act) : (k.onRun f).earned = k.earned := by unfold Core.onRun; split <;> (try split) <;> rfl
@[simp] theorem Core.onRun_instret (k : Core) (f : Act → Act) : (k.onRun f).instret = k.instret := by unfold Core.onRun; split <;> (try split) <;> rfl
@[simp] theorem Core.onRun_leaveW (k : Core) (f : Act → Act) : (k.onRun f).leaveW = k.leaveW := by unfold Core.onRun; split <;> (try split) <;> rfl
@[simp] theorem Core.onRun_evt (k : Core) (f : Act → Act) : (k.onRun f).evt = k.evt := by unfold Core.onRun; split <;> (try split) <;> rfl
@[simp] theorem Core.onRun_scause (k : Core) (f : Act → Act) : (k.onRun f).scause = k.scause := by unfold Core.onRun; split <;> (try split) <;> rfl
@[simp] theorem Core.onRun_sepc (k : Core) (f : Act → Act) : (k.onRun f).sepc = k.sepc := by unfold Core.onRun; split <;> (try split) <;> rfl
@[simp] theorem Core.onRun_stval (k : Core) (f : Act → Act) : (k.onRun f).stval = k.stval := by unfold Core.onRun; split <;> (try split) <;> rfl
@[simp] theorem Core.onRun_ls (k : Core) (f : Act → Act) : (k.onRun f).ls = k.ls := by unfold Core.onRun; split <;> (try split) <;> rfl
@[simp] theorem Core.onRun_shadow (k : Core) (f : Act → Act) : (k.onRun f).shadow = k.shadow := by unfold Core.onRun; split <;> (try split) <;> rfl
@[simp] theorem Core.onRun_shadowOf (k : Core) (f : Act → Act) : (k.onRun f).shadowOf = k.shadowOf := by unfold Core.onRun; split <;> (try split) <;> rfl
@[simp] theorem Core.onRun_watches (k : Core) (f : Act → Act) : (k.onRun f).watches = k.watches := by unfold Core.onRun; split <;> (try split) <;> rfl
@[simp] theorem Core.onRun_l1 (k : Core) (f : Act → Act) : (k.onRun f).l1 = k.l1 := by unfold Core.onRun; split <;> (try split) <;> rfl
@[simp] theorem Core.onRun_icache (k : Core) (f : Act → Act) : (k.onRun f).icache = k.icache := by unfold Core.onRun; split <;> (try split) <;> rfl
@[simp] theorem Core.onRun_rb (k : Core) (f : Act → Act) : (k.onRun f).rb = k.rb := by unfold Core.onRun; split <;> (try split) <;> rfl
@[simp] theorem Core.onRun_undo (k : Core) (f : Act → Act) : (k.onRun f).undo = k.undo := by unfold Core.onRun; split <;> (try split) <;> rfl
@[simp] theorem Core.onRun_accs (k : Core) (f : Act → Act) : (k.onRun f).accs = k.accs := by unfold Core.onRun; split <;> (try split) <;> rfl
@[simp] theorem Core.onRun_fixed (k : Core) (f : Act → Act) : (k.onRun f).fixed = k.fixed := by unfold Core.onRun; split <;> (try split) <;> rfl
@[simp] theorem Core.onRun_dist (k : Core) (f : Act → Act) : (k.onRun f).dist = k.dist := by unfold Core.onRun; split <;> (try split) <;> rfl
@[simp] theorem Core.onRun_sfuAt (k : Core) (f : Act → Act) : (k.onRun f).sfuAt = k.sfuAt := by unfold Core.onRun; split <;> (try split) <;> rfl
@[simp] theorem Core.onRun_waitFrom (k : Core) (f : Act → Act) : (k.onRun f).waitFrom = k.waitFrom := by unfold Core.onRun; split <;> (try split) <;> rfl
@[simp] theorem Core.onRun_lastIssue (k : Core) (f : Act → Act) : (k.onRun f).lastIssue = k.lastIssue := by unfold Core.onRun; split <;> (try split) <;> rfl
@[simp] theorem Core.onRun_nextIssue (k : Core) (f : Act → Act) : (k.onRun f).nextIssue = k.nextIssue := by unfold Core.onRun; split <;> (try split) <;> rfl
@[simp] theorem Core.onRun_mxq (k : Core) (f : Act → Act) : (k.onRun f).mxq = k.mxq := by unfold Core.onRun; split <;> (try split) <;> rfl
@[simp] theorem Core.onRun_queue (k : Core) (f : Act → Act) : (k.onRun f).queue = k.queue := by unfold Core.onRun; split <;> (try split) <;> rfl
@[simp] theorem Core.onRun_recs (k : Core) (f : Act → Act) : (k.onRun f).recs = k.recs := by unfold Core.onRun; split <;> (try split) <;> rfl
@[simp] theorem Core.onRun_report (k : Core) (f : Act → Act) : (k.onRun f).report = k.report := by unfold Core.onRun; split <;> (try split) <;> rfl
@[simp] theorem Core.onRun_reportAt (k : Core) (f : Act → Act) : (k.onRun f).reportAt = k.reportAt := by unfold Core.onRun; split <;> (try split) <;> rfl
@[simp] theorem Core.onRun_cpq (k : Core) (f : Act → Act) : (k.onRun f).cpq = k.cpq := by unfold Core.onRun; split <;> (try split) <;> rfl
@[simp] theorem Core.onRun_cps (k : Core) (f : Act → Act) : (k.onRun f).cps = k.cps := by unfold Core.onRun; split <;> (try split) <;> rfl
@[simp] theorem Core.onRun_cpHeld (k : Core) (f : Act → Act) : (k.onRun f).cpHeld = k.cpHeld := by unfold Core.onRun; split <;> (try split) <;> rfl
@[simp] theorem Core.onRun_cpAsked (k : Core) (f : Act → Act) : (k.onRun f).cpAsked = k.cpAsked := by unfold Core.onRun; split <;> (try split) <;> rfl
@[simp] theorem Core.onRun_moved (k : Core) (f : Act → Act) : (k.onRun f).moved = k.moved := by unfold Core.onRun; split <;> (try split) <;> rfl
@[simp] theorem Core.onRun_ftoFetch (k : Core) (f : Act → Act) : (k.onRun f).ftoFetch = k.ftoFetch := by unfold Core.onRun; split <;> (try split) <;> rfl
@[simp] theorem Core.onRun_cpWaitAt (k : Core) (f : Act → Act) : (k.onRun f).cpWaitAt = k.cpWaitAt := by unfold Core.onRun; split <;> (try split) <;> rfl
@[simp] theorem Core.onRun_draining (k : Core) (f : Act → Act) : (k.onRun f).draining = k.draining := by unfold Core.onRun; split <;> (try split) <;> rfl
@[simp] theorem Core.onRun_errDue (k : Core) (f : Act → Act) : (k.onRun f).errDue = k.errDue := by unfold Core.onRun; split <;> (try split) <;> rfl
@[simp] theorem Core.onRun_resv (k : Core) (f : Act → Act) : (k.onRun f).resv = k.resv := by unfold Core.onRun; split <;> (try split) <;> rfl
@[simp] theorem Core.onRun_cycleWas (k : Core) (f : Act → Act) : (k.onRun f).cycleWas = k.cycleWas := by unfold Core.onRun; split <;> (try split) <;> rfl
@[simp] theorem Core.onRun_cycleAt (k : Core) (f : Act → Act) : (k.onRun f).cycleAt = k.cycleAt := by unfold Core.onRun; split <;> (try split) <;> rfl

@[simp] theorem Core.onRun_running (k : Core) (f : Act → Act) :
    (k.onRun f).running = k.running.map fun x => (x.1, f x.2) := by
  cases hr : k.run with
  | none => simp [Core.onRun, Core.running, hr]
  | some x => cases ha : fget k.acts x with
    | none => simp [Core.onRun, Core.running, hr, ha]
    | some a => simp [Core.onRun, Core.running, hr, ha]

@[simp] theorem State.live_onMe (s : State) (f : Act → Act) : (s.onMe f).live = s.live := by
  simp [State.live, State.onMe]

theorem State.me_onMe (s : State) (f : Act → Act) (h : s.live = true) : (s.onMe f).me = f s.me := by
  simp only [State.live] at h
  obtain ⟨x, hx⟩ := Option.isSome_iff_exists.mp h
  simp [State.me, State.onMe, hx]

@[simp] theorem State.onMe_cc_part (s : State) (f : Act → Act) : (s.onMe f).cc.part = s.cc.part := by simp [State.onMe]
@[simp] theorem State.onMe_cc_halted (s : State) (f : Act → Act) : (s.onMe f).cc.halted = s.cc.halted := by simp [State.onMe]
@[simp] theorem State.onMe_cc_swapping (s : State) (f : Act → Act) : (s.onMe f).cc.swapping = s.cc.swapping := by simp [State.onMe]
@[simp] theorem State.onMe_cc_run (s : State) (f : Act → Act) : (s.onMe f).cc.run = s.cc.run := by simp [State.onMe]
@[simp] theorem State.onMe_cc_fibres (s : State) (f : Act → Act) : (s.onMe f).cc.fibres = s.cc.fibres := by simp [State.onMe]
@[simp] theorem State.onMe_cc_cctl (s : State) (f : Act → Act) : (s.onMe f).cc.cctl = s.cc.cctl := by simp [State.onMe]
@[simp] theorem State.onMe_cc_tvec (s : State) (f : Act → Act) : (s.onMe f).cc.tvec = s.cc.tvec := by simp [State.onMe]
@[simp] theorem State.onMe_cc_rscr (s : State) (f : Act → Act) : (s.onMe f).cc.rscr = s.cc.rscr := by simp [State.onMe]
@[simp] theorem State.onMe_cc_uvec (s : State) (f : Act → Act) : (s.onMe f).cc.uvec = s.cc.uvec := by simp [State.onMe]
@[simp] theorem State.onMe_cc_fmt (s : State) (f : Act → Act) : (s.onMe f).cc.fmt = s.cc.fmt := by simp [State.onMe]
@[simp] theorem State.onMe_cc_warn (s : State) (f : Act → Act) : (s.onMe f).cc.warn = s.cc.warn := by simp [State.onMe]
@[simp] theorem State.onMe_cc_warnpc (s : State) (f : Act → Act) : (s.onMe f).cc.warnpc = s.cc.warnpc := by simp [State.onMe]
@[simp] theorem State.onMe_cc_earned (s : State) (f : Act → Act) : (s.onMe f).cc.earned = s.cc.earned := by simp [State.onMe]
@[simp] theorem State.onMe_cc_instret (s : State) (f : Act → Act) : (s.onMe f).cc.instret = s.cc.instret := by simp [State.onMe]
@[simp] theorem State.onMe_cc_leaveW (s : State) (f : Act → Act) : (s.onMe f).cc.leaveW = s.cc.leaveW := by simp [State.onMe]
@[simp] theorem State.onMe_cc_evt (s : State) (f : Act → Act) : (s.onMe f).cc.evt = s.cc.evt := by simp [State.onMe]
@[simp] theorem State.onMe_cc_scause (s : State) (f : Act → Act) : (s.onMe f).cc.scause = s.cc.scause := by simp [State.onMe]
@[simp] theorem State.onMe_cc_sepc (s : State) (f : Act → Act) : (s.onMe f).cc.sepc = s.cc.sepc := by simp [State.onMe]
@[simp] theorem State.onMe_cc_stval (s : State) (f : Act → Act) : (s.onMe f).cc.stval = s.cc.stval := by simp [State.onMe]
@[simp] theorem State.onMe_cc_ls (s : State) (f : Act → Act) : (s.onMe f).cc.ls = s.cc.ls := by simp [State.onMe]
@[simp] theorem State.onMe_cc_shadow (s : State) (f : Act → Act) : (s.onMe f).cc.shadow = s.cc.shadow := by simp [State.onMe]
@[simp] theorem State.onMe_cc_shadowOf (s : State) (f : Act → Act) : (s.onMe f).cc.shadowOf = s.cc.shadowOf := by simp [State.onMe]
@[simp] theorem State.onMe_cc_watches (s : State) (f : Act → Act) : (s.onMe f).cc.watches = s.cc.watches := by simp [State.onMe]
@[simp] theorem State.onMe_cc_l1 (s : State) (f : Act → Act) : (s.onMe f).cc.l1 = s.cc.l1 := by simp [State.onMe]
@[simp] theorem State.onMe_cc_icache (s : State) (f : Act → Act) : (s.onMe f).cc.icache = s.cc.icache := by simp [State.onMe]
@[simp] theorem State.onMe_cc_rb (s : State) (f : Act → Act) : (s.onMe f).cc.rb = s.cc.rb := by simp [State.onMe]
@[simp] theorem State.onMe_cc_undo (s : State) (f : Act → Act) : (s.onMe f).cc.undo = s.cc.undo := by simp [State.onMe]
@[simp] theorem State.onMe_cc_accs (s : State) (f : Act → Act) : (s.onMe f).cc.accs = s.cc.accs := by simp [State.onMe]
@[simp] theorem State.onMe_cc_fixed (s : State) (f : Act → Act) : (s.onMe f).cc.fixed = s.cc.fixed := by simp [State.onMe]
@[simp] theorem State.onMe_cc_dist (s : State) (f : Act → Act) : (s.onMe f).cc.dist = s.cc.dist := by simp [State.onMe]
@[simp] theorem State.onMe_cc_sfuAt (s : State) (f : Act → Act) : (s.onMe f).cc.sfuAt = s.cc.sfuAt := by simp [State.onMe]
@[simp] theorem State.onMe_cc_waitFrom (s : State) (f : Act → Act) : (s.onMe f).cc.waitFrom = s.cc.waitFrom := by simp [State.onMe]
@[simp] theorem State.onMe_cc_lastIssue (s : State) (f : Act → Act) : (s.onMe f).cc.lastIssue = s.cc.lastIssue := by simp [State.onMe]
@[simp] theorem State.onMe_cc_nextIssue (s : State) (f : Act → Act) : (s.onMe f).cc.nextIssue = s.cc.nextIssue := by simp [State.onMe]
@[simp] theorem State.onMe_cc_mxq (s : State) (f : Act → Act) : (s.onMe f).cc.mxq = s.cc.mxq := by simp [State.onMe]
@[simp] theorem State.onMe_cc_queue (s : State) (f : Act → Act) : (s.onMe f).cc.queue = s.cc.queue := by simp [State.onMe]
@[simp] theorem State.onMe_cc_recs (s : State) (f : Act → Act) : (s.onMe f).cc.recs = s.cc.recs := by simp [State.onMe]
@[simp] theorem State.onMe_cc_report (s : State) (f : Act → Act) : (s.onMe f).cc.report = s.cc.report := by simp [State.onMe]
@[simp] theorem State.onMe_cc_reportAt (s : State) (f : Act → Act) : (s.onMe f).cc.reportAt = s.cc.reportAt := by simp [State.onMe]
@[simp] theorem State.onMe_cc_cpq (s : State) (f : Act → Act) : (s.onMe f).cc.cpq = s.cc.cpq := by simp [State.onMe]
@[simp] theorem State.onMe_cc_cps (s : State) (f : Act → Act) : (s.onMe f).cc.cps = s.cc.cps := by simp [State.onMe]
@[simp] theorem State.onMe_cc_cpHeld (s : State) (f : Act → Act) : (s.onMe f).cc.cpHeld = s.cc.cpHeld := by simp [State.onMe]
@[simp] theorem State.onMe_cc_cpAsked (s : State) (f : Act → Act) : (s.onMe f).cc.cpAsked = s.cc.cpAsked := by simp [State.onMe]
@[simp] theorem State.onMe_cc_moved (s : State) (f : Act → Act) : (s.onMe f).cc.moved = s.cc.moved := by simp [State.onMe]
@[simp] theorem State.onMe_cc_ftoFetch (s : State) (f : Act → Act) : (s.onMe f).cc.ftoFetch = s.cc.ftoFetch := by simp [State.onMe]
@[simp] theorem State.onMe_cc_cpWaitAt (s : State) (f : Act → Act) : (s.onMe f).cc.cpWaitAt = s.cc.cpWaitAt := by simp [State.onMe]
@[simp] theorem State.onMe_cc_draining (s : State) (f : Act → Act) : (s.onMe f).cc.draining = s.cc.draining := by simp [State.onMe]
@[simp] theorem State.onMe_cc_errDue (s : State) (f : Act → Act) : (s.onMe f).cc.errDue = s.cc.errDue := by simp [State.onMe]
@[simp] theorem State.onMe_cc_resv (s : State) (f : Act → Act) : (s.onMe f).cc.resv = s.cc.resv := by simp [State.onMe]
@[simp] theorem State.onMe_cc_cycleWas (s : State) (f : Act → Act) : (s.onMe f).cc.cycleWas = s.cc.cycleWas := by simp [State.onMe]
@[simp] theorem State.onMe_cc_cycleAt (s : State) (f : Act → Act) : (s.onMe f).cc.cycleAt = s.cc.cycleAt := by simp [State.onMe]

@[simp] theorem Core.onRun_onRun (k : Core) (f g : Act → Act) : (k.onRun f).onRun g = k.onRun fun a => g (f a) := by
  cases hr : k.run with
  | none => simp [Core.onRun, hr]
  | some x => cases ha : fget k.acts x with
    | none => simp [Core.onRun, hr, ha]
    | some a => simp [Core.onRun, hr, ha, fset_fset]

@[simp] theorem State.onCC_onCC (s : State) (f g : Core → Core) : (s.onCC f).onCC g = s.onCC fun k => g (f k) := by
  simp [State.onCC, State.onCore, State.setCore, State.core]

@[simp] theorem State.onMe_onMe (s : State) (f g : Act → Act) : (s.onMe f).onMe g = s.onMe fun a => g (f a) := by
  simp [State.onMe]

@[simp] theorem State.sansMe_onMe (s : State) (f : Act → Act) : (s.onMe f).sansMe = s.sansMe := by
  simp [State.sansMe]

@[simp] theorem State.sansCC_onCC (s : State) (f : Core → Core) : (s.onCC f).sansCC = s.sansCC := by
  simp [State.sansCC]

/-! ### Bytes of memory -/

theorem SameBytes.refl (s : State) : SameBytes s s := fun _ => rfl

theorem SameBytes.trans {s t u : State} (h : SameBytes s t) (h' : SameBytes t u) : SameBytes s u := fun p => (h' p).trans (h p)

theorem sameBytes_onCC (s : State) (f : Core → Core) (h₁ : (f s.cc).ls = s.cc.ls) (h₂ : (f s.cc).shadow = s.cc.shadow) :
    SameBytes s (s.onCC f) := by
  intro p
  cases p with
  | ls c a =>
    by_cases hc : c = s.cur
    · subst hc; simpa [State.byte, State.onCC, State.cc] using congrArg (mget · a) h₁
    · simp [State.byte, State.onCC, hc]
  | shadow c a =>
    by_cases hc : c = s.cur
    · subst hc; simpa [State.byte, State.onCC, State.cc] using congrArg (mget · a) h₂
    · simp [State.byte, State.onCC, hc]
  | spad c a => rfl
  | dram a => rfl
  | host a => rfl

theorem sameBytes_onMe (s : State) (f : Act → Act) : SameBytes s (s.onMe f) :=
  sameBytes_onCC s _ (Core.onRun_ls _ _) (Core.onRun_shadow _ _)

/-! ### Answers -/

/-- An instruction that goes on with a changed activation answers it. -/
theorem answersOver_onMe {i : Instr} {s u : State} {f : Act → Act} {a : Act} (h : u.live = true)
    (he : exec i s = .next (u.onMe f)) (ha : f u.me = a) : AnswersOver i s u a :=
  ⟨_, he, (State.me_onMe u f h).trans ha, State.sansMe_onMe u f, sameBytes_onMe u f⟩

theorem answers_onMe {i : Instr} {s : State} {f : Act → Act} {a : Act} (h : s.live = true)
    (he : exec i s = .next (s.onMe f)) (ha : f s.me = a) : Answers i s a := answersOver_onMe h he ha

/-- An instruction that changes nothing answers the activation as it was. -/
theorem answers_self {i : Instr} {s : State} (he : exec i s = .next s) : Answers i s s.me :=
  ⟨s, he, rfl, rfl, SameBytes.refl s⟩

theorem answersCore_onCC {i : Instr} {s u : State} {f : Core → Core} {k : Core} (he : exec i s = .next (u.onCC f))
    (hb : SameBytes s (u.onCC f)) (hk : f u.cc = k) : AnswersCore i s u k :=
  ⟨_, he, (State.cc_onCC u f).trans hk, State.sansCC_onCC u f, hb⟩

end Sys2Proof.Machine
end

