-- ==== Sys2Proof/Laws/Answers.lean ====
section
/-! SUPPORT. What the shared operations of instructions do, each said once: the guard, results in registers, transfers of control, taking a
trap. -/

namespace Sys2Proof.Machine

/-! ### The running activation -/

theorem live_run {s : State} (h : s.live = true) : ∃ x, s.cc.run = some x ∧ fget s.cc.acts x = some s.me := by
  unfold State.live Core.running at h
  unfold State.me Core.running
  cases hr : s.cc.run with
  | none => simp [hr] at h
  | some x =>
    cases ha : fget s.cc.acts x with
    | none => simp [hr, ha] at h
    | some a => exact ⟨x, rfl, by simp [ha]⟩

theorem onAct_eq_onMe {s : State} {x : Nat} (f : Act → Act) (hx : s.cc.run = some x) : s.onAct s.cur x f = s.onMe f := by
  have hx' : (s.core s.cur).run = some x := hx
  simp only [State.onAct, State.onMe, State.onCC, State.onCore, Core.onRun, hx']

/-- A change of a core that keeps which activation runs keeps that activation. -/
theorem State.live_onCC {s : State} {f : Core → Core} (h : (f s.cc).running = s.cc.running) : (s.onCC f).live = s.live := by
  simp [State.live, h]

theorem State.me_onCC {s : State} {f : Core → Core} (h : (f s.cc).running = s.cc.running) : (s.onCC f).me = s.me := by
  simp [State.me, h]

/-! ### The guard -/

theorem guarded_acts {s k : State} (h : s.phase ≠ .dry) : guarded s none none k = .next k := by
  unfold guarded; cases hp : s.phase <;> simp_all

theorem guarded_traps {s k : State} {t : Trap} {h : Option State} (hp : s.phase = .whole) (hu : unconfirmed s.cc s.me.id = false) :
    guarded s (some t) h k = .next (trapMe s t) := by
  simp [guarded, hp, hu]

theorem guarded_waits {s k u : State} (hp : s.phase = .whole) : guarded s none (some u) k = .next (stall u) := by
  simp [guarded, hp]

/-! ### Results in registers -/

theorem answersOver_ws {i : Instr} {s u : State} {d : SReg} {v v' : Word} (h : u.live = true) (hu : u.me = s.me)
    (he : exec i s = .next (u.ws d v)) (hv : v = v') : AnswersOver i s u (s.withS d v') :=
  answersOver_onMe h he (by rw [hu, hv]; rfl)

theorem answers_ws {i : Instr} {s : State} {d : SReg} {v v' : Word} (h : s.live = true) (he : exec i s = .next (s.ws d v)) (hv : v = v') :
    Answers i s (s.withS d v') := answersOver_ws h rfl he hv

theorem answers_wsF {i : Instr} {s : State} {d : SReg} {r : Flagged Int} {v f : Word} (h : s.live = true)
    (he : exec i s = .next (s.wsF d r)) (hv : BitVec.ofInt 64 r.val = v) (hf : r.flags = f) : Answers i s (s.withSF d v f) := by
  refine answers_onMe (f := fun a => { a with regs := a.regs.setS d v, flags := a.flags ||| f }) h ?_ rfl
  rw [he, State.wsF, hv, hf]
  exact congrArg _ (State.onMe_onMe _ _ _)

theorem answers_wk {i : Instr} {s : State} {d : KReg} {v v' : BitVec 16} (h : s.live = true) (he : exec i s = .next (s.wk d v))
    (hv : v = v') : Answers i s (s.withK d v') := answers_onMe h he (by rw [hv]; rfl)

theorem answersOver_wv {i : Instr} {s u : State} {d : VReg} {v v' : BitVec 128} (h : u.live = true) (hu : u.me = s.me)
    (he : exec i s = .next (u.wv d v)) (hv : v = v') : AnswersOver i s u (s.withV d v') :=
  answersOver_onMe h he (by rw [hu, hv]; rfl)

theorem answersOver_wvF {i : Instr} {s u : State} {d : VReg} {v : BitVec 128} {f : Word} (h : u.live = true) (hu : u.me = s.me)
    (he : exec i s = .next ((u.wv d v).orFlags f)) : AnswersOver i s u (s.withVF d v f) := by
  refine answersOver_onMe (f := fun a => { a with regs := a.regs.setV d v, flags := a.flags ||| f }) h ?_ (by rw [hu]; rfl)
  rw [he]
  exact congrArg _ (State.onMe_onMe _ _ _)

/-! ### Saturation (03 R76) -/

theorem satSigned_val (w : Nat) (x : Int) : (satSigned w x).val = nearestS w x := by
  have h2 : (0 : Int) < 2 ^ (w - 1) := Int.pow_pos (by decide)
  unfold satSigned nearestS
  split
  · simp; omega
  · split
    · simp; omega
    · simp; omega

theorem satSigned_flags (w : Nat) (x : Int) : (satSigned w x).flags = satFlag x (nearestS w x) := by
  have h2 : (0 : Int) < 2 ^ (w - 1) := Int.pow_pos (by decide)
  unfold satSigned nearestS satFlag
  split
  · rw [if_neg]; omega
  · split
    · rw [if_neg]; omega
    · rw [if_pos]; omega

theorem satUnsigned_val (w : Nat) (x : Int) : (satUnsigned w x).val = nearestU w x := by
  have h2 : (0 : Int) < 2 ^ w := Int.pow_pos (by decide)
  unfold satUnsigned nearestU
  split
  · simp; omega
  · split
    · simp; omega
    · simp; omega

theorem satUnsigned_flags (w : Nat) (x : Int) : (satUnsigned w x).flags = satFlag x (nearestU w x) := by
  have h2 : (0 : Int) < 2 ^ w := Int.pow_pos (by decide)
  unfold satUnsigned nearestU satFlag
  split
  · rw [if_neg]; omega
  · split
    · rw [if_neg]; omega
    · rw [if_pos]; omega

/-! ### WARN (02 R52, R54) -/

@[simp] theorem warnCore_run (k : Core) (w : Word) (pc : Nat) : (warnCore k w pc).run = k.run := by
  unfold warnCore; split <;> rfl

@[simp] theorem warnCore_acts (k : Core) (w : Word) (pc : Nat) : (warnCore k w pc).acts = k.acts := by
  unfold warnCore; split <;> rfl

@[simp] theorem warnCore_running (k : Core) (w : Word) (pc : Nat) : (warnCore k w pc).running = k.running := by
  simp only [Core.running, warnCore_run, warnCore_acts]

@[simp] theorem warnCore_ls (k : Core) (w : Word) (pc : Nat) : (warnCore k w pc).ls = k.ls := by
  unfold warnCore; split <;> rfl

@[simp] theorem warnCore_shadow (k : Core) (w : Word) (pc : Nat) : (warnCore k w pc).shadow = k.shadow := by
  unfold warnCore; split <;> rfl

@[simp] theorem State.me_warn (s : State) (w : Word) : (s.warn w).me = s.me := State.me_onCC (by simp)
@[simp] theorem State.live_warn (s : State) (w : Word) : (s.warn w).live = s.live := State.live_onCC (by simp)
@[simp] theorem State.me_qualIf (s : State) (c : Bool) : (s.qualIf c).me = s.me := by unfold State.qualIf; split <;> simp
@[simp] theorem State.live_qualIf (s : State) (c : Bool) : (s.qualIf c).live = s.live := by unfold State.qualIf; split <;> simp

/-! ### Taking a trap (04 R139) -/

/-- In user mode with TVEC.EN the trap enters the runtime's handler. -/
theorem trapMe_user {s : State} {t : Trap} (h : s.live = true) (hm : s.mode = 0) (ht : bitAt s.cc.tvec 0 = true) :
    trapMe s t = (s.onCC fun k => { k with fixed := [] }).onMe fun a =>
      { a with cause := t.cause, epc := pcWord t.epc, tval := t.tval, status := setMode a.status 1,
               pc := bitsNat s.cc.tvec 56 3 * 8, npc := bitsNat s.cc.tvec 56 3 * 8, barWait := none } := by
  obtain ⟨x, hx, ha⟩ := live_run h
  have ha' : fget (s.core s.cur).acts x = some s.me := ha
  have hx' : (s.core s.cur).run = some x := hx
  have hm' : s.me.mode = 0 := hm
  have ht' : bitAt (s.core s.cur).tvec 0 = true := ht
  have e : (s.onCore s.cur fun k => { k with fixed := if k.run = some x then [] else k.fixed }) = s.onCC fun k => { k with fixed := [] } := by
    simp only [State.onCC, State.onCore, hx', if_true]
  simp only [trapMe, hx, trapEntry, ha', hm', if_true, ht']
  rw [e, ← onAct_eq_onMe (x := x) _ (by simpa using hx)]
  rfl

end Sys2Proof.Machine
end

