-- ==== Sys2Proof/Laws/Memory.lean ====
section
/-! SUPPORT. Memories: what a byte reads after a store, and that every operation over a memory keeps the canonical form. -/

namespace Sys2Proof.Machine

/-! ### Numbered files in rising order -/

theorem frising_cons {α : Type} (x : Nat × α) (r : FMap α) : frising (x :: r) = true ↔ (∀ y ∈ r, x.1 < y.1) ∧ frising r = true := by
  induction r generalizing x with
  | nil => simp [frising]
  | cons y r ih =>
    obtain ⟨a, v⟩ := x
    obtain ⟨b, w⟩ := y
    simp only [frising, Bool.and_eq_true, decide_eq_true_eq, List.mem_cons, forall_eq_or_imp]
    constructor
    · rintro ⟨h, hr⟩
      exact ⟨⟨h, fun z hz => Nat.lt_trans h ((ih (b, w)).1 hr |>.1 z hz)⟩, hr⟩
    · rintro ⟨⟨h, -⟩, hr⟩
      exact ⟨h, hr⟩

theorem frising_tail {α : Type} {x : Nat × α} {r : FMap α} (h : frising (x :: r) = true) : frising r = true := ((frising_cons x r).1 h).2

theorem fget_mem {α : Type} {m : FMap α} {n : Nat} {v : α} (h : fget m n = some v) : (n, v) ∈ m := by
  induction m with
  | nil => simp [fget] at h
  | cons x r ih =>
    obtain ⟨k, w⟩ := x
    simp only [fget] at h
    split at h
    · cases h; subst_vars; exact List.mem_cons_self ..
    · split at h
      · cases h
      · exact List.mem_cons_of_mem _ (ih h)

theorem fget_of_mem {α : Type} {m : FMap α} (hm : frising m = true) {x : Nat × α} (h : x ∈ m) : fget m x.1 = some x.2 := by
  induction m with
  | nil => cases h
  | cons y r ih =>
    obtain ⟨hlt, hr⟩ := (frising_cons y r).1 hm
    obtain ⟨k, w⟩ := y
    rcases List.mem_cons.1 h with rfl | h
    · simp [fget]
    · have := hlt x h
      simp only [fget]
      rw [if_neg (by simp only at this; omega), if_neg (by simp only at this; omega)]
      exact ih hr h

theorem mem_fset {α : Type} {m : FMap α} {n : Nat} {v : α} {x : Nat × α} (h : x ∈ fset m n v) : x = (n, v) ∨ x ∈ m := by
  induction m with
  | nil => simpa [fset] using h
  | cons y r ih =>
    obtain ⟨k, w⟩ := y
    simp only [fset] at h
    split at h
    · simpa using h
    · split at h
      · rcases List.mem_cons.1 h with h | h
        · exact .inl h
        · exact .inr (List.mem_cons_of_mem _ h)
      · rcases List.mem_cons.1 h with h | h
        · exact .inr (h ▸ List.mem_cons_self ..)
        · exact (ih h).imp_right (List.mem_cons_of_mem _)

theorem mem_ferase {α : Type} {m : FMap α} {n : Nat} {x : Nat × α} (h : x ∈ ferase m n) : x ∈ m := by
  induction m with
  | nil => simp [ferase] at h
  | cons y r ih =>
    obtain ⟨k, w⟩ := y
    simp only [ferase] at h
    split at h
    · exact List.mem_cons_of_mem _ h
    · rcases List.mem_cons.1 h with h | h
      · exact h ▸ List.mem_cons_self ..
      · exact List.mem_cons_of_mem _ (ih h)

theorem frising_fset {α : Type} {m : FMap α} (n : Nat) (v : α) (h : frising m = true) : frising (fset m n v) = true := by
  induction m with
  | nil => simp [fset, frising]
  | cons y r ih =>
    obtain ⟨hlt, hr⟩ := (frising_cons y r).1 h
    obtain ⟨k, w⟩ := y
    simp only [fset]
    split
    · rename_i hk
      refine (frising_cons _ _).2 ⟨fun z hz => ?_, h⟩
      rcases List.mem_cons.1 hz with rfl | hz
      · exact hk
      · exact Nat.lt_trans hk (hlt z hz)
    · split
      · subst_vars; exact (frising_cons _ _).2 ⟨hlt, hr⟩
      · refine (frising_cons _ _).2 ⟨fun z hz => ?_, ih hr⟩
        rcases mem_fset hz with rfl | hz
        · show k < n; omega
        · exact hlt z hz

theorem frising_ferase {α : Type} {m : FMap α} (n : Nat) (h : frising m = true) : frising (ferase m n) = true := by
  induction m with
  | nil => simp [ferase, frising]
  | cons y r ih =>
    obtain ⟨hlt, hr⟩ := (frising_cons y r).1 h
    obtain ⟨k, w⟩ := y
    simp only [ferase]
    split
    · exact hr
    · exact (frising_cons _ _).2 ⟨fun z hz => hlt z (mem_ferase hz), ih hr⟩

theorem frising_filter {α : Type} {m : FMap α} (p : Nat × α → Bool) (h : frising m = true) : frising (m.filter p) = true := by
  induction m with
  | nil => rfl
  | cons y r ih =>
    obtain ⟨hlt, hr⟩ := (frising_cons y r).1 h
    rw [List.filter_cons]
    split
    · exact (frising_cons _ _).2 ⟨fun z hz => hlt z (List.mem_filter.1 hz).1, ih hr⟩
    · exact ih hr

theorem fget_eq_none_of_lt {α : Type} {m : FMap α} {n : Nat} (h : ∀ x ∈ m, n < x.1) : fget m n = none := by
  cases m with
  | nil => rfl
  | cons y r =>
    obtain ⟨k, w⟩ := y
    have := h (k, w) (List.mem_cons_self ..)
    simp only at this
    simp only [fget]
    rw [if_neg (by omega), if_pos this]

theorem fget_ferase_same {α : Type} {m : FMap α} (n : Nat) (h : frising m = true) : fget (ferase m n) n = none := by
  induction m with
  | nil => rfl
  | cons y r ih =>
    obtain ⟨hlt, hr⟩ := (frising_cons y r).1 h
    obtain ⟨k, w⟩ := y
    simp only [ferase]
    split
    · subst_vars; exact fget_eq_none_of_lt hlt
    · simp only [fget]
      rename_i hk
      rw [if_neg hk]
      split
      · rfl
      · exact ih hr

theorem fget_ferase_ne {α : Type} {m : FMap α} {n n' : Nat} (hm : frising m = true) (h : n' ≠ n) : fget (ferase m n) n' = fget m n' := by
  induction m with
  | nil => rfl
  | cons y r ih =>
    obtain ⟨hlt, hr⟩ := (frising_cons y r).1 hm
    obtain ⟨k, w⟩ := y
    simp only [ferase]
    split
    · subst_vars
      simp only [fget, if_neg h]
      split
      · exact fget_eq_none_of_lt fun z hz => Nat.lt_trans ‹_› (hlt z hz)
      · rfl
    · simp only [fget, ih hr]

@[simp] theorem fget_fmapVals {α : Type} (f : Nat → α → α) (m : FMap α) (n : Nat) : fget (fmapVals f m) n = (fget m n).map (f n) := by
  induction m with
  | nil => rfl
  | cons y r ih =>
    obtain ⟨k, w⟩ := y
    simp only [fmapVals, List.map_cons, fget] at ih ⊢
    split
    · subst_vars; rfl
    · split
      · rfl
      · exact ih

/-! ### Memories -/

theorem Memory.wf_iff {m : Memory} : m.wf = true ↔ frising m = true ∧ ∀ c ∈ m, c.2 ≠ Config.unlistedByte := by
  simp [Memory.wf, List.all_eq_true]

@[simp] theorem Memory.wf_nil : Memory.wf [] = true := rfl

theorem Memory.wf_mset {m : Memory} (a : Nat) (b : Byte) (h : m.wf = true) : (mset m a b).wf = true := by
  obtain ⟨hr, hc⟩ := Memory.wf_iff.1 h
  refine Memory.wf_iff.2 ?_
  unfold mset
  split
  · exact ⟨frising_ferase a hr, fun c hm => hc c (mem_ferase hm)⟩
  · refine ⟨frising_fset a b hr, fun c hm => ?_⟩
    rcases mem_fset hm with rfl | hm
    · assumption
    · exact hc c hm

theorem Memory.wf_mwrite {m : Memory} (a : Nat) (l : List Byte) (h : m.wf = true) : (mwrite m a l).wf = true := by
  induction l generalizing m a with
  | nil => exact h
  | cons b r ih => exact ih (a + 1) (Memory.wf_mset a b h)

theorem Memory.wf_filter {m : Memory} (p : Host.Cell → Bool) (h : m.wf = true) : Memory.wf (m.filter p) = true := by
  obtain ⟨hr, hc⟩ := Memory.wf_iff.1 h
  exact Memory.wf_iff.2 ⟨frising_filter p hr, fun c hm => hc c (List.mem_filter.1 hm).1⟩

/-- Two canonical memories that read alike are the same list. -/
theorem Memory.eq_of_mget {m n : Memory} (hm : m.wf = true) (hn : n.wf = true) (h : ∀ a, mget m a = mget n a) : m = n := by
  induction m generalizing n with
  | nil =>
    cases n with
    | nil => rfl
    | cons y r =>
      exfalso
      have hy := fget_of_mem (Memory.wf_iff.1 hn).1 (List.mem_cons_self (a := y) (l := r))
      have := h y.1
      rw [mget, mget, hy] at this
      exact (Memory.wf_iff.1 hn).2 y (List.mem_cons_self ..) this.symm
  | cons x r ih =>
    obtain ⟨hmr, hmc⟩ := Memory.wf_iff.1 hm
    obtain ⟨hxl, hxr⟩ := (frising_cons x r).1 hmr
    have hx := fget_of_mem hmr (List.mem_cons_self (a := x) (l := r))
    have hxn := hmc x (List.mem_cons_self ..)
    cases n with
    | nil =>
      exfalso
      have := h x.1
      rw [mget, mget, hx] at this
      exact hxn this
    | cons y t =>
      obtain ⟨hnr, hnc⟩ := Memory.wf_iff.1 hn
      obtain ⟨hyl, hyr⟩ := (frising_cons y t).1 hnr
      have hy := fget_of_mem hnr (List.mem_cons_self (a := y) (l := t))
      have hyn := hnc y (List.mem_cons_self ..)
      have hxy : x = y := by
        have e1 := h x.1
        have e2 := h y.1
        have lt1 : ¬x.1 < y.1 := fun hlt => by
          have : fget (y :: t) x.1 = none := fget_eq_none_of_lt fun z hz => by
            rcases List.mem_cons.1 hz with rfl | hz
            · exact hlt
            · exact Nat.lt_trans hlt (hyl z hz)
          simp only [mget, hx, this, Option.getD_some, Option.getD_none] at e1
          exact hxn e1
        have lt2 : ¬y.1 < x.1 := fun hlt => by
          have : fget (x :: r) y.1 = none := fget_eq_none_of_lt fun z hz => by
            rcases List.mem_cons.1 hz with rfl | hz
            · exact hlt
            · exact Nat.lt_trans hlt (hxl z hz)
          simp only [mget, hy, this, Option.getD_some, Option.getD_none] at e2
          exact hyn e2.symm
        have ek : x.1 = y.1 := by omega
        have hx' : fget (y :: t) x.1 = some y.2 := ek ▸ hy
        simp only [mget, hx, hx', Option.getD_some] at e1
        exact Prod.ext ek e1
      subst hxy
      refine congrArg _ (ih (Memory.wf_iff.2 ⟨hxr, fun c hc => hmc c (List.mem_cons_of_mem _ hc)⟩)
        (Memory.wf_iff.2 ⟨hyr, fun c hc => hnc c (List.mem_cons_of_mem _ hc)⟩) fun a => ?_)
      have e := h a
      obtain ⟨k, w⟩ := x
      simp only [mget, fget] at e ⊢
      split at e
      · subst_vars; rw [fget_eq_none_of_lt hxl, fget_eq_none_of_lt hyl]
      · split at e
        · rw [fget_eq_none_of_lt fun z hz => Nat.lt_trans ‹_› (hxl z hz), fget_eq_none_of_lt fun z hz => Nat.lt_trans ‹_› (hyl z hz)]
        · exact e

/-! ### Reading after a store -/

@[simp] theorem mget_nil (a : Nat) : mget [] a = Config.unlistedByte := rfl

theorem mget_mset_same {m : Memory} (a : Nat) (b : Byte) (h : m.wf = true) : mget (mset m a b) a = b := by
  unfold mget mset
  split
  · rw [fget_ferase_same a (Memory.wf_iff.1 h).1]; exact (‹b = _›).symm
  · simp

theorem mget_mset_ne {m : Memory} {a a' : Nat} (b : Byte) (h : m.wf = true) (ha : a' ≠ a) : mget (mset m a b) a' = mget m a' := by
  unfold mget mset
  split
  · rw [fget_ferase_ne (Memory.wf_iff.1 h).1 ha]
  · rw [fget_fset_ne m b ha]

/-- A store leaves every byte outside its own alone. -/
theorem mget_mwrite_out {m : Memory} {a : Nat} {l : List Byte} {x : Nat} (h : m.wf = true) (hx : x < a ∨ a + l.length ≤ x) :
    mget (mwrite m a l) x = mget m x := by
  induction l generalizing m a with
  | nil => rfl
  | cons b r ih =>
    simp only [List.length_cons] at hx
    rw [mwrite, ih (Memory.wf_mset a b h) (by omega), mget_mset_ne b h (by omega)]

/-- A byte that a store covers reads as stored. -/
theorem mget_mwrite_in {m : Memory} {a : Nat} {l : List Byte} {i : Nat} (h : m.wf = true) (hi : i < l.length) :
    mget (mwrite m a l) (a + i) = l[i] := by
  induction l generalizing m a i with
  | nil => simp at hi
  | cons b r ih =>
    rw [mwrite]
    cases i with
    | zero => rw [mget_mwrite_out (Memory.wf_mset a b h) (by omega)]; exact mget_mset_same a b h
    | succ i =>
      have := ih (m := mset m a b) (a := a + 1) (i := i) (Memory.wf_mset a b h) (by simpa using hi)
      rw [show a + (i + 1) = a + 1 + i by omega, this]
      rfl

theorem mread_mwrite {m : Memory} {a : Nat} {l : List Byte} (h : m.wf = true) : mread (mwrite m a l) a l.length = l := by
  refine List.ext_getElem (by simp [mread]) fun i h1 h2 => ?_
  simp only [mread, List.getElem_map, List.getElem_range]
  exact mget_mwrite_in h h2

theorem mread_mwrite_out {m : Memory} {a x n : Nat} {l : List Byte} (h : m.wf = true) (hx : x + n ≤ a ∨ a + l.length ≤ x) :
    mread (mwrite m a l) x n = mread m x n := by
  unfold mread
  refine List.map_congr_left fun k hk => ?_
  have := List.mem_range.1 hk
  exact mget_mwrite_out h (by omega)

@[simp] theorem leBytes_length (n v : Nat) : (leBytes n v).length = n := by
  induction n generalizing v with
  | zero => rfl
  | succ n ih => simp [leBytes, ih]

theorem ofLe_leBytes (n v : Nat) : ofLe (leBytes n v) = v % 256 ^ n := by
  induction n generalizing v with
  | zero => simp [leBytes, ofLe, Nat.mod_one]
  | succ n ih =>
    have e : (256 : Nat) ^ (n + 1) = 256 * 256 ^ n := by rw [Nat.pow_succ, Nat.mul_comm]
    rw [leBytes, ofLe, ih, BitVec.toNat_ofNat, e, Nat.mod_mul]

/-- A dword of local store after it was written. -/
theorem lsWord_lsPoke {k : Core} (a v : Nat) (h : k.ls.wf = true) : lsWord (lsPoke k a v) a = v % 2 ^ 64 := by
  have e := mread_mwrite (a := a) (l := leBytes 8 v) h
  rw [leBytes_length] at e
  simp only [lsWord, lsPoke, e, ofLe_leBytes, Nat.reducePow]

/-! ### Canonical memories of a state -/

theorem State.wf_iff {s : State} : s.wf = true ↔ s.dram.wf = true ∧ s.host.wf = true ∧ (∀ x ∈ s.cores, x.2.wf = true) ∧
    (∀ x ∈ s.clusters, x.2.spad.wf = true) ∧ ∀ x ∈ s.parts, x.2.wf = true := by
  simp only [State.wf, Bool.and_eq_true, List.all_eq_true, and_assoc]

theorem State.reset_wf : State.reset.wf = true := rfl

theorem Core.wf_iff {k : Core} : k.wf = true ↔ k.ls.wf = true ∧ k.shadow.wf = true := by simp [Core.wf]

theorem Part.wf_iff {p : Part} : p.wf = true ↔ (∀ x ∈ p.cores, x.2.wf = true) ∧ ∀ x ∈ p.clusters, x.2.spad.wf = true := by simp [Part.wf]

theorem State.core_wf {s : State} (h : s.wf = true) (c : Nat) : (s.core c).wf = true := by
  unfold State.core
  cases hc : fget s.cores c with
  | none => rfl
  | some k => exact (State.wf_iff.1 h).2.2.1 _ (fget_mem hc)

theorem State.cluster_wf {s : State} (h : s.wf = true) (c : Nat) : (s.cluster c).spad.wf = true := by
  unfold State.cluster
  cases hc : fget s.clusters c with
  | none => rfl
  | some k => exact (State.wf_iff.1 h).2.2.2.1 _ (fget_mem hc)

theorem State.partn_wf {s : State} (h : s.wf = true) (p : Nat) : (s.partn p).wf = true := by
  unfold State.partn
  cases hc : fget s.parts p with
  | none => rfl
  | some k => exact (State.wf_iff.1 h).2.2.2.2 _ (fget_mem hc)

theorem State.wf_onCore {s : State} {c : Nat} {f : Core → Core} (h : s.wf = true) (hf : (f (s.core c)).wf = true) : (s.onCore c f).wf = true := by
  obtain ⟨h1, h2, h3, h4, h5⟩ := State.wf_iff.1 h
  refine State.wf_iff.2 ⟨h1, h2, fun x hx => ?_, h4, h5⟩
  rcases mem_fset hx with rfl | hx
  · exact hf
  · exact h3 x hx

/-- A change of a core that keeps its two memories. -/
theorem State.wf_onCore_keeps {s : State} {c : Nat} {f : Core → Core} (h : s.wf = true) (h1 : (f (s.core c)).ls = (s.core c).ls)
    (h2 : (f (s.core c)).shadow = (s.core c).shadow) : (s.onCore c f).wf = true :=
  State.wf_onCore h (by simpa only [Core.wf, h1, h2] using State.core_wf h c)

theorem State.wf_onCluster {s : State} {c : Nat} {f : Cluster → Cluster} (h : s.wf = true) (hf : (f (s.cluster c)).spad.wf = true) :
    (s.onCluster c f).wf = true := by
  obtain ⟨h1, h2, h3, h4, h5⟩ := State.wf_iff.1 h
  refine State.wf_iff.2 ⟨h1, h2, h3, fun x hx => ?_, h5⟩
  rcases mem_fset hx with rfl | hx
  · exact hf
  · exact h4 x hx

theorem State.wf_onPart {s : State} {p : Nat} {f : Part → Part} (h : s.wf = true) (hf : (f (s.partn p)).wf = true) : (s.onPart p f).wf = true := by
  obtain ⟨h1, h2, h3, h4, h5⟩ := State.wf_iff.1 h
  refine State.wf_iff.2 ⟨h1, h2, h3, h4, fun x hx => ?_⟩
  rcases mem_fset hx with rfl | hx
  · exact hf
  · exact h5 x hx

@[simp] theorem State.wf_onSlice (s : State) (h : Nat) (f : Slice → Slice) : (s.onSlice h f).wf = s.wf := rfl
@[simp] theorem State.wf_onDie (s : State) (d : Nat) (f : Die → Die) : (s.onDie d f).wf = s.wf := rfl
@[simp] theorem State.wf_onEdge (s : State) (e : Nat) (f : Edge → Edge) : (s.onEdge e f).wf = s.wf := rfl
@[simp] theorem State.wf_onLink (s : State) (l : Nat) (f : Link → Link) : (s.onLink l f).wf = s.wf := rfl
@[simp] theorem State.wf_used (s : State) : s.used.wf = s.wf := rfl
@[simp] theorem State.wf_used1 (s : State) : s.used1.wf = s.wf := rfl

theorem Core.wf_lsPoke {k : Core} (a v : Nat) (h : k.wf = true) : (lsPoke k a v).wf = true :=
  Core.wf_iff.2 ⟨Memory.wf_mwrite _ _ (Core.wf_iff.1 h).1, (Core.wf_iff.1 h).2⟩

theorem physWrite_wf {s : State} (pa : Nat) (l : List Byte) (h : s.wf = true) : (physWrite s pa l).wf = true := by
  obtain ⟨h1, h2, h3⟩ := State.wf_iff.1 h
  unfold physWrite
  split
  · exact State.wf_iff.2 ⟨h1, Memory.wf_mwrite _ _ h2, h3⟩
  · exact State.wf_iff.2 ⟨Memory.wf_mwrite _ _ h1, h2, h3⟩

theorem evWrite_wf {s : State} (e : Nat) (r : EvRec) (h : s.wf = true) : (evWrite s e r).wf = true := by
  obtain ⟨h1, h2, h3⟩ := State.wf_iff.1 h
  exact State.wf_iff.2 ⟨h1, Memory.wf_mwrite _ _ h2, h3⟩

theorem deviceWrite_wf {s : State} (pa : Nat) (l : List Byte) (h : s.wf = true) : (deviceWrite s pa l).wf = true := by
  induction l generalizing s pa with
  | nil => exact h
  | cons b r ih =>
    obtain ⟨h1, h2⟩ := State.wf_iff.1 h
    exact ih _ (State.wf_iff.2 ⟨Memory.wf_mset _ b h1, h2⟩)

theorem hostReply_wf {s : State} (r : HostReq) (st : Nat) (res : List Word) (h : s.wf = true) : (hostReply s r st res).wf = true := by
  obtain ⟨h1, h2, h3⟩ := State.wf_iff.1 h
  exact State.wf_iff.2 ⟨h1, Memory.wf_mwrite _ _ (Memory.wf_mwrite _ _ h2), h3⟩

theorem claimTile_wf {s : State} (cl t base n : Nat) (o : Own) (ent : Option Nat) (st : Nat) (h : s.wf = true) :
    (claimTile s cl t base n o ent st).wf = true := State.wf_onCluster h (Memory.wf_filter _ (State.cluster_wf h cl))

theorem spadStore_wf {s : State} (cl a : Nat) (b : List Byte) (h : s.wf = true) : (spadStore s cl a b).wf = true :=
  State.wf_onCluster h (Memory.wf_mwrite _ _ (State.cluster_wf h cl))

/-! ### What a store leaves of the package's bytes -/

theorem State.byte_onCore_mwrite {s : State} {c a : Nat} {l : List Byte} (h : (s.core c).ls.wf = true) (p : Place)
    (hp : ∀ i, i < l.length → p ≠ .ls c (a + i)) : (s.onCore c fun k => { k with ls := mwrite k.ls a l }).byte p = s.byte p := by
  cases p with
  | ls c' o =>
    by_cases hc : c' = c
    · subst hc
      simp only [State.byte, State.core_onCore_same]
      refine mget_mwrite_out h ?_
      by_cases ho : o < a
      · exact .inl ho
      · refine .inr (Nat.le_of_not_lt fun hl => hp (o - a) (by omega) ?_)
        rw [show a + (o - a) = o by omega]
    · simp only [State.byte, State.core_onCore_ne _ _ hc]
  | shadow c' o =>
    by_cases hc : c' = c
    · subst hc; simp only [State.byte, State.core_onCore_same]
    · simp only [State.byte, State.core_onCore_ne _ _ hc]
  | spad | dram | host => rfl

theorem State.byte_onCore_mwrite_in {s : State} {c a i : Nat} {l : List Byte} (h : (s.core c).ls.wf = true) (hi : i < l.length) :
    (s.onCore c fun k => { k with ls := mwrite k.ls a l }).byte (.ls c (a + i)) = l[i] := by
  simp only [State.byte, State.core_onCore_same]
  exact mget_mwrite_in h hi

theorem State.byte_spadStore {s : State} {cl a : Nat} {l : List Byte} (h : (s.cluster cl).spad.wf = true) (p : Place)
    (hp : ∀ i, i < l.length → p ≠ .spad cl (a + i)) : (spadStore s cl a l).byte p = s.byte p := by
  cases p with
  | spad c' o =>
    by_cases hc : c' = cl
    · subst hc
      simp only [State.byte, spadStore, State.cluster_onCluster_same]
      refine mget_mwrite_out h ?_
      by_cases ho : o < a
      · exact .inl ho
      · refine .inr (Nat.le_of_not_lt fun hl => hp (o - a) (by omega) ?_)
        rw [show a + (o - a) = o by omega]
    · simp only [State.byte, spadStore, State.cluster_onCluster_ne _ _ hc]
  | ls | shadow | dram | host => rfl

theorem State.byte_spadStore_in {s : State} {cl a i : Nat} {l : List Byte} (h : (s.cluster cl).spad.wf = true) (hi : i < l.length) :
    (spadStore s cl a l).byte (.spad cl (a + i)) = l[i] := by
  simp only [State.byte, spadStore, State.cluster_onCluster_same]
  exact mget_mwrite_in h hi

end Sys2Proof.Machine
end

