-- ==== Sys2Proof/Laws/PerInstr.lean ====
section
/-! SUPPORT. Encoding and decoding agree, instruction by instruction: the body that the encoder makes decodes to the
instruction it was made from (02 R41-R48). -/

namespace Sys2Proof.Laws

set_option linter.unusedSimpArgs false

theorem xlo {n m s l : Nat} (x : BitVec n) (y : BitVec m) (h : s + l ≤ m) : (x ++ y).extractLsb' s l = y.extractLsb' s l :=
  BitVec.extractLsb'_append_eq_of_add_le h

theorem xhi {n m s l : Nat} (x : BitVec n) (y : BitVec m) (h : m ≤ s) : (x ++ y).extractLsb' s l = x.extractLsb' (s - m) l :=
  BitVec.extractLsb'_append_eq_of_le h

theorem vregOf_wide (t : VReg) : vregOf (t.setWidth 6) = some t := by
  have h : t.toNat % 64 < 32 := by have := t.isLt; omega
  simp [vregOf, h]

theorem kregOf_wide (t : KReg) : kregOf (t.setWidth 5) = some t := by
  have h : t.toNat % 32 < 8 := by have := t.isLt; omega
  simp [kregOf, h]

theorem kregOf_wide6 (t : KReg) : kregOf (t.setWidth 6) = some t := by
  have h : t.toNat % 64 < 8 := by have := t.isLt; omega
  simp [kregOf, h]

theorem iregOf_wide (t : IReg) : iregOf (t.setWidth 6) = some t := by
  have h : t.toNat % 64 < 4 := by have := t.isLt; omega
  simp [iregOf, h]

theorem xlo2 {n a b : Nat} (x : BitVec n) (y : BitVec a) (z : BitVec b) :
    ((x ++ y) ++ z).extractLsb' 0 (a + b) = y ++ z := by
  apply BitVec.eq_of_getLsbD_eq
  intro i hi
  simp only [BitVec.getLsbD_extractLsb', BitVec.getLsbD_append, Nat.zero_add]
  by_cases h : i < b
  · simp [h, hi]
  · have : i - b < a := by omega
    simp [h, hi, this]

theorem twoBits (v : BitVec 2) : v = 0 ∨ v = 1 ∨ v = 2 ∨ v = 3 := by revert v; decide

theorem oneBit (v : BitVec 1) : v = 0 ∨ v = 1 := by revert v; decide

/-- The body of a well-formed instruction decodes to that instruction. -/
def Encoding.Statement (i : Instr) : Prop :=
  i.wf = true →
    (∀ x, encodeCBody i = some x → decodeCBody x = some i) ∧ (∀ x, encodeABody i = some x → decodeABody x = some i)

/-! ### Fields of each format (Tables 2.5, 2.6) -/

theorem Encoding.fmt_A_6_23 (f0 : BitVec 6) (f1 : BitVec 23) :
    BitVec.extractLsb' 23 6 (f0 ++ f1 : BitVec 29) = f0 ∧
    BitVec.extractLsb' 0 23 (f0 ++ f1 : BitVec 29) = f1 :=
  ⟨show BitVec.extractLsb' (n := 6 + 23) 23 6 (f0 ++ f1) = f0 from by rw [xhi _ _ (by decide)]; exact BitVec.extractLsb'_eq_self,
   show BitVec.extractLsb' (n := 6 + 23) 0 23 (f0 ++ f1) = f1 from by rw [xlo _ _ (by decide)]; exact BitVec.extractLsb'_eq_self⟩

theorem Encoding.fmt_C_6_22 (f0 : BitVec 6) (f1 : BitVec 22) :
    BitVec.extractLsb' 22 6 (f0 ++ f1 : BitVec 28) = f0 ∧
    BitVec.extractLsb' 0 22 (f0 ++ f1 : BitVec 28) = f1 :=
  ⟨show BitVec.extractLsb' (n := 6 + 22) 22 6 (f0 ++ f1) = f0 from by rw [xhi _ _ (by decide)]; exact BitVec.extractLsb'_eq_self,
   show BitVec.extractLsb' (n := 6 + 22) 0 22 (f0 ++ f1) = f1 from by rw [xlo _ _ (by decide)]; exact BitVec.extractLsb'_eq_self⟩

theorem Encoding.fmt_C_6_6_3_13 (f0 : BitVec 6) (f1 : BitVec 6) (f2 : BitVec 3) (f3 : BitVec 13) :
    BitVec.extractLsb' 22 6 (f0 ++ f1 ++ f2 ++ f3 : BitVec 28) = f0 ∧
    BitVec.extractLsb' 16 6 (f0 ++ f1 ++ f2 ++ f3 : BitVec 28) = f1 ∧
    BitVec.extractLsb' 13 3 (f0 ++ f1 ++ f2 ++ f3 : BitVec 28) = f2 ∧
    BitVec.extractLsb' 0 13 (f0 ++ f1 ++ f2 ++ f3 : BitVec 28) = f3 :=
  ⟨show BitVec.extractLsb' (n := 6 + 6 + 3 + 13) 22 6 (f0 ++ f1 ++ f2 ++ f3) = f0 from by rw [xhi _ _ (by decide), xhi _ _ (by decide), xhi _ _ (by decide)]; exact BitVec.extractLsb'_eq_self,
   show BitVec.extractLsb' (n := 6 + 6 + 3 + 13) 16 6 (f0 ++ f1 ++ f2 ++ f3) = f1 from by rw [xhi _ _ (by decide), xhi _ _ (by decide), xlo _ _ (by decide)]; exact BitVec.extractLsb'_eq_self,
   show BitVec.extractLsb' (n := 6 + 6 + 3 + 13) 13 3 (f0 ++ f1 ++ f2 ++ f3) = f2 from by rw [xhi _ _ (by decide), xlo _ _ (by decide)]; exact BitVec.extractLsb'_eq_self,
   show BitVec.extractLsb' (n := 6 + 6 + 3 + 13) 0 13 (f0 ++ f1 ++ f2 ++ f3) = f3 from by rw [xlo _ _ (by decide)]; exact BitVec.extractLsb'_eq_self⟩

theorem Encoding.fmt_C_6_6_6_3_7 (f0 : BitVec 6) (f1 : BitVec 6) (f2 : BitVec 6) (f3 : BitVec 3) (f4 : BitVec 7) :
    BitVec.extractLsb' 22 6 (f0 ++ f1 ++ f2 ++ f3 ++ f4 : BitVec 28) = f0 ∧
    BitVec.extractLsb' 16 6 (f0 ++ f1 ++ f2 ++ f3 ++ f4 : BitVec 28) = f1 ∧
    BitVec.extractLsb' 10 6 (f0 ++ f1 ++ f2 ++ f3 ++ f4 : BitVec 28) = f2 ∧
    BitVec.extractLsb' 7 3 (f0 ++ f1 ++ f2 ++ f3 ++ f4 : BitVec 28) = f3 ∧
    BitVec.extractLsb' 0 7 (f0 ++ f1 ++ f2 ++ f3 ++ f4 : BitVec 28) = f4 :=
  ⟨show BitVec.extractLsb' (n := 6 + 6 + 6 + 3 + 7) 22 6 (f0 ++ f1 ++ f2 ++ f3 ++ f4) = f0 from by rw [xhi _ _ (by decide), xhi _ _ (by decide), xhi _ _ (by decide), xhi _ _ (by decide)]; exact BitVec.extractLsb'_eq_self,
   show BitVec.extractLsb' (n := 6 + 6 + 6 + 3 + 7) 16 6 (f0 ++ f1 ++ f2 ++ f3 ++ f4) = f1 from by rw [xhi _ _ (by decide), xhi _ _ (by decide), xhi _ _ (by decide), xlo _ _ (by decide)]; exact BitVec.extractLsb'_eq_self,
   show BitVec.extractLsb' (n := 6 + 6 + 6 + 3 + 7) 10 6 (f0 ++ f1 ++ f2 ++ f3 ++ f4) = f2 from by rw [xhi _ _ (by decide), xhi _ _ (by decide), xlo _ _ (by decide)]; exact BitVec.extractLsb'_eq_self,
   show BitVec.extractLsb' (n := 6 + 6 + 6 + 3 + 7) 7 3 (f0 ++ f1 ++ f2 ++ f3 ++ f4) = f3 from by rw [xhi _ _ (by decide), xlo _ _ (by decide)]; exact BitVec.extractLsb'_eq_self,
   show BitVec.extractLsb' (n := 6 + 6 + 6 + 3 + 7) 0 7 (f0 ++ f1 ++ f2 ++ f3 ++ f4) = f4 from by rw [xlo _ _ (by decide)]; exact BitVec.extractLsb'_eq_self⟩

theorem Encoding.fmt_C_6_6_6_6_4 (f0 : BitVec 6) (f1 : BitVec 6) (f2 : BitVec 6) (f3 : BitVec 6) (f4 : BitVec 4) :
    BitVec.extractLsb' 22 6 (f0 ++ f1 ++ f2 ++ f3 ++ f4 : BitVec 28) = f0 ∧
    BitVec.extractLsb' 16 6 (f0 ++ f1 ++ f2 ++ f3 ++ f4 : BitVec 28) = f1 ∧
    BitVec.extractLsb' 10 6 (f0 ++ f1 ++ f2 ++ f3 ++ f4 : BitVec 28) = f2 ∧
    BitVec.extractLsb' 4 6 (f0 ++ f1 ++ f2 ++ f3 ++ f4 : BitVec 28) = f3 ∧
    BitVec.extractLsb' 0 4 (f0 ++ f1 ++ f2 ++ f3 ++ f4 : BitVec 28) = f4 :=
  ⟨show BitVec.extractLsb' (n := 6 + 6 + 6 + 6 + 4) 22 6 (f0 ++ f1 ++ f2 ++ f3 ++ f4) = f0 from by rw [xhi _ _ (by decide), xhi _ _ (by decide), xhi _ _ (by decide), xhi _ _ (by decide)]; exact BitVec.extractLsb'_eq_self,
   show BitVec.extractLsb' (n := 6 + 6 + 6 + 6 + 4) 16 6 (f0 ++ f1 ++ f2 ++ f3 ++ f4) = f1 from by rw [xhi _ _ (by decide), xhi _ _ (by decide), xhi _ _ (by decide), xlo _ _ (by decide)]; exact BitVec.extractLsb'_eq_self,
   show BitVec.extractLsb' (n := 6 + 6 + 6 + 6 + 4) 10 6 (f0 ++ f1 ++ f2 ++ f3 ++ f4) = f2 from by rw [xhi _ _ (by decide), xhi _ _ (by decide), xlo _ _ (by decide)]; exact BitVec.extractLsb'_eq_self,
   show BitVec.extractLsb' (n := 6 + 6 + 6 + 6 + 4) 4 6 (f0 ++ f1 ++ f2 ++ f3 ++ f4) = f3 from by rw [xhi _ _ (by decide), xlo _ _ (by decide)]; exact BitVec.extractLsb'_eq_self,
   show BitVec.extractLsb' (n := 6 + 6 + 6 + 6 + 4) 0 4 (f0 ++ f1 ++ f2 ++ f3 ++ f4) = f4 from by rw [xlo _ _ (by decide)]; exact BitVec.extractLsb'_eq_self⟩

theorem Encoding.fmt_C_6_6_6_6_2_2 (f0 : BitVec 6) (f1 : BitVec 6) (f2 : BitVec 6) (f3 : BitVec 6) (f4 : BitVec 2) (f5 : BitVec 2) :
    BitVec.extractLsb' 22 6 (f0 ++ f1 ++ f2 ++ f3 ++ f4 ++ f5 : BitVec 28) = f0 ∧
    BitVec.extractLsb' 16 6 (f0 ++ f1 ++ f2 ++ f3 ++ f4 ++ f5 : BitVec 28) = f1 ∧
    BitVec.extractLsb' 10 6 (f0 ++ f1 ++ f2 ++ f3 ++ f4 ++ f5 : BitVec 28) = f2 ∧
    BitVec.extractLsb' 4 6 (f0 ++ f1 ++ f2 ++ f3 ++ f4 ++ f5 : BitVec 28) = f3 ∧
    BitVec.extractLsb' 2 2 (f0 ++ f1 ++ f2 ++ f3 ++ f4 ++ f5 : BitVec 28) = f4 ∧
    BitVec.extractLsb' 0 2 (f0 ++ f1 ++ f2 ++ f3 ++ f4 ++ f5 : BitVec 28) = f5 :=
  ⟨show BitVec.extractLsb' (n := 6 + 6 + 6 + 6 + 2 + 2) 22 6 (f0 ++ f1 ++ f2 ++ f3 ++ f4 ++ f5) = f0 from by rw [xhi _ _ (by decide), xhi _ _ (by decide), xhi _ _ (by decide), xhi _ _ (by decide), xhi _ _ (by decide)]; exact BitVec.extractLsb'_eq_self,
   show BitVec.extractLsb' (n := 6 + 6 + 6 + 6 + 2 + 2) 16 6 (f0 ++ f1 ++ f2 ++ f3 ++ f4 ++ f5) = f1 from by rw [xhi _ _ (by decide), xhi _ _ (by decide), xhi _ _ (by decide), xhi _ _ (by decide), xlo _ _ (by decide)]; exact BitVec.extractLsb'_eq_self,
   show BitVec.extractLsb' (n := 6 + 6 + 6 + 6 + 2 + 2) 10 6 (f0 ++ f1 ++ f2 ++ f3 ++ f4 ++ f5) = f2 from by rw [xhi _ _ (by decide), xhi _ _ (by decide), xhi _ _ (by decide), xlo _ _ (by decide)]; exact BitVec.extractLsb'_eq_self,
   show BitVec.extractLsb' (n := 6 + 6 + 6 + 6 + 2 + 2) 4 6 (f0 ++ f1 ++ f2 ++ f3 ++ f4 ++ f5) = f3 from by rw [xhi _ _ (by decide), xhi _ _ (by decide), xlo _ _ (by decide)]; exact BitVec.extractLsb'_eq_self,
   show BitVec.extractLsb' (n := 6 + 6 + 6 + 6 + 2 + 2) 2 2 (f0 ++ f1 ++ f2 ++ f3 ++ f4 ++ f5) = f4 from by rw [xhi _ _ (by decide), xlo _ _ (by decide)]; exact BitVec.extractLsb'_eq_self,
   show BitVec.extractLsb' (n := 6 + 6 + 6 + 6 + 2 + 2) 0 2 (f0 ++ f1 ++ f2 ++ f3 ++ f4 ++ f5) = f5 from by rw [xlo _ _ (by decide)]; exact BitVec.extractLsb'_eq_self⟩

theorem Encoding.fmt_C_6_6_16 (f0 : BitVec 6) (f1 : BitVec 6) (f2 : BitVec 16) :
    BitVec.extractLsb' 22 6 (f0 ++ f1 ++ f2 : BitVec 28) = f0 ∧
    BitVec.extractLsb' 16 6 (f0 ++ f1 ++ f2 : BitVec 28) = f1 ∧
    BitVec.extractLsb' 0 16 (f0 ++ f1 ++ f2 : BitVec 28) = f2 :=
  ⟨show BitVec.extractLsb' (n := 6 + 6 + 16) 22 6 (f0 ++ f1 ++ f2) = f0 from by rw [xhi _ _ (by decide), xhi _ _ (by decide)]; exact BitVec.extractLsb'_eq_self,
   show BitVec.extractLsb' (n := 6 + 6 + 16) 16 6 (f0 ++ f1 ++ f2) = f1 from by rw [xhi _ _ (by decide), xlo _ _ (by decide)]; exact BitVec.extractLsb'_eq_self,
   show BitVec.extractLsb' (n := 6 + 6 + 16) 0 16 (f0 ++ f1 ++ f2) = f2 from by rw [xlo _ _ (by decide)]; exact BitVec.extractLsb'_eq_self⟩

theorem Encoding.fmt_C_6_6_6_2_1_2_1_4 (f0 : BitVec 6) (f1 : BitVec 6) (f2 : BitVec 6) (f3 : BitVec 2) (f4 : BitVec 1) (f5 : BitVec 2) (f6 : BitVec 1) (f7 : BitVec 4) :
    BitVec.extractLsb' 22 6 (f0 ++ f1 ++ f2 ++ f3 ++ f4 ++ f5 ++ f6 ++ f7 : BitVec 28) = f0 ∧
    BitVec.extractLsb' 16 6 (f0 ++ f1 ++ f2 ++ f3 ++ f4 ++ f5 ++ f6 ++ f7 : BitVec 28) = f1 ∧
    BitVec.extractLsb' 10 6 (f0 ++ f1 ++ f2 ++ f3 ++ f4 ++ f5 ++ f6 ++ f7 : BitVec 28) = f2 ∧
    BitVec.extractLsb' 8 2 (f0 ++ f1 ++ f2 ++ f3 ++ f4 ++ f5 ++ f6 ++ f7 : BitVec 28) = f3 ∧
    BitVec.extractLsb' 7 1 (f0 ++ f1 ++ f2 ++ f3 ++ f4 ++ f5 ++ f6 ++ f7 : BitVec 28) = f4 ∧
    BitVec.extractLsb' 5 2 (f0 ++ f1 ++ f2 ++ f3 ++ f4 ++ f5 ++ f6 ++ f7 : BitVec 28) = f5 ∧
    BitVec.extractLsb' 4 1 (f0 ++ f1 ++ f2 ++ f3 ++ f4 ++ f5 ++ f6 ++ f7 : BitVec 28) = f6 ∧
    BitVec.extractLsb' 0 4 (f0 ++ f1 ++ f2 ++ f3 ++ f4 ++ f5 ++ f6 ++ f7 : BitVec 28) = f7 :=
  ⟨show BitVec.extractLsb' (n := 6 + 6 + 6 + 2 + 1 + 2 + 1 + 4) 22 6 (f0 ++ f1 ++ f2 ++ f3 ++ f4 ++ f5 ++ f6 ++ f7) = f0 from by rw [xhi _ _ (by decide), xhi _ _ (by decide), xhi _ _ (by decide), xhi _ _ (by decide), xhi _ _ (by decide), xhi _ _ (by decide), xhi _ _ (by decide)]; exact BitVec.extractLsb'_eq_self,
   show BitVec.extractLsb' (n := 6 + 6 + 6 + 2 + 1 + 2 + 1 + 4) 16 6 (f0 ++ f1 ++ f2 ++ f3 ++ f4 ++ f5 ++ f6 ++ f7) = f1 from by rw [xhi _ _ (by decide), xhi _ _ (by decide), xhi _ _ (by decide), xhi _ _ (by decide), xhi _ _ (by decide), xhi _ _ (by decide), xlo _ _ (by decide)]; exact BitVec.extractLsb'_eq_self,
   show BitVec.extractLsb' (n := 6 + 6 + 6 + 2 + 1 + 2 + 1 + 4) 10 6 (f0 ++ f1 ++ f2 ++ f3 ++ f4 ++ f5 ++ f6 ++ f7) = f2 from by rw [xhi _ _ (by decide), xhi _ _ (by decide), xhi _ _ (by decide), xhi _ _ (by decide), xhi _ _ (by decide), xlo _ _ (by decide)]; exact BitVec.extractLsb'_eq_self,
   show BitVec.extractLsb' (n := 6 + 6 + 6 + 2 + 1 + 2 + 1 + 4) 8 2 (f0 ++ f1 ++ f2 ++ f3 ++ f4 ++ f5 ++ f6 ++ f7) = f3 from by rw [xhi _ _ (by decide), xhi _ _ (by decide), xhi _ _ (by decide), xhi _ _ (by decide), xlo _ _ (by decide)]; exact BitVec.extractLsb'_eq_self,
   show BitVec.extractLsb' (n := 6 + 6 + 6 + 2 + 1 + 2 + 1 + 4) 7 1 (f0 ++ f1 ++ f2 ++ f3 ++ f4 ++ f5 ++ f6 ++ f7) = f4 from by rw [xhi _ _ (by decide), xhi _ _ (by decide), xhi _ _ (by decide), xlo _ _ (by decide)]; exact BitVec.extractLsb'_eq_self,
   show BitVec.extractLsb' (n := 6 + 6 + 6 + 2 + 1 + 2 + 1 + 4) 5 2 (f0 ++ f1 ++ f2 ++ f3 ++ f4 ++ f5 ++ f6 ++ f7) = f5 from by rw [xhi _ _ (by decide), xhi _ _ (by decide), xlo _ _ (by decide)]; exact BitVec.extractLsb'_eq_self,
   show BitVec.extractLsb' (n := 6 + 6 + 6 + 2 + 1 + 2 + 1 + 4) 4 1 (f0 ++ f1 ++ f2 ++ f3 ++ f4 ++ f5 ++ f6 ++ f7) = f6 from by rw [xhi _ _ (by decide), xlo _ _ (by decide)]; exact BitVec.extractLsb'_eq_self,
   show BitVec.extractLsb' (n := 6 + 6 + 6 + 2 + 1 + 2 + 1 + 4) 0 4 (f0 ++ f1 ++ f2 ++ f3 ++ f4 ++ f5 ++ f6 ++ f7) = f7 from by rw [xlo _ _ (by decide)]; exact BitVec.extractLsb'_eq_self⟩

theorem Encoding.fmt_C_6_6_8_6_2 (f0 : BitVec 6) (f1 : BitVec 6) (f2 : BitVec 8) (f3 : BitVec 6) (f4 : BitVec 2) :
    BitVec.extractLsb' 22 6 (f0 ++ f1 ++ f2 ++ f3 ++ f4 : BitVec 28) = f0 ∧
    BitVec.extractLsb' 16 6 (f0 ++ f1 ++ f2 ++ f3 ++ f4 : BitVec 28) = f1 ∧
    BitVec.extractLsb' 8 8 (f0 ++ f1 ++ f2 ++ f3 ++ f4 : BitVec 28) = f2 ∧
    BitVec.extractLsb' 2 6 (f0 ++ f1 ++ f2 ++ f3 ++ f4 : BitVec 28) = f3 ∧
    BitVec.extractLsb' 0 2 (f0 ++ f1 ++ f2 ++ f3 ++ f4 : BitVec 28) = f4 :=
  ⟨show BitVec.extractLsb' (n := 6 + 6 + 8 + 6 + 2) 22 6 (f0 ++ f1 ++ f2 ++ f3 ++ f4) = f0 from by rw [xhi _ _ (by decide), xhi _ _ (by decide), xhi _ _ (by decide), xhi _ _ (by decide)]; exact BitVec.extractLsb'_eq_self,
   show BitVec.extractLsb' (n := 6 + 6 + 8 + 6 + 2) 16 6 (f0 ++ f1 ++ f2 ++ f3 ++ f4) = f1 from by rw [xhi _ _ (by decide), xhi _ _ (by decide), xhi _ _ (by decide), xlo _ _ (by decide)]; exact BitVec.extractLsb'_eq_self,
   show BitVec.extractLsb' (n := 6 + 6 + 8 + 6 + 2) 8 8 (f0 ++ f1 ++ f2 ++ f3 ++ f4) = f2 from by rw [xhi _ _ (by decide), xhi _ _ (by decide), xlo _ _ (by decide)]; exact BitVec.extractLsb'_eq_self,
   show BitVec.extractLsb' (n := 6 + 6 + 8 + 6 + 2) 2 6 (f0 ++ f1 ++ f2 ++ f3 ++ f4) = f3 from by rw [xhi _ _ (by decide), xlo _ _ (by decide)]; exact BitVec.extractLsb'_eq_self,
   show BitVec.extractLsb' (n := 6 + 6 + 8 + 6 + 2) 0 2 (f0 ++ f1 ++ f2 ++ f3 ++ f4) = f4 from by rw [xlo _ _ (by decide)]; exact BitVec.extractLsb'_eq_self⟩

theorem Encoding.fmt_C_6_6_6_3_3_2_1_1 (f0 : BitVec 6) (f1 : BitVec 6) (f2 : BitVec 6) (f3 : BitVec 3) (f4 : BitVec 3) (f5 : BitVec 2) (f6 : BitVec 1) (f7 : BitVec 1) :
    BitVec.extractLsb' 22 6 (f0 ++ f1 ++ f2 ++ f3 ++ f4 ++ f5 ++ f6 ++ f7 : BitVec 28) = f0 ∧
    BitVec.extractLsb' 16 6 (f0 ++ f1 ++ f2 ++ f3 ++ f4 ++ f5 ++ f6 ++ f7 : BitVec 28) = f1 ∧
    BitVec.extractLsb' 10 6 (f0 ++ f1 ++ f2 ++ f3 ++ f4 ++ f5 ++ f6 ++ f7 : BitVec 28) = f2 ∧
    BitVec.extractLsb' 7 3 (f0 ++ f1 ++ f2 ++ f3 ++ f4 ++ f5 ++ f6 ++ f7 : BitVec 28) = f3 ∧
    BitVec.extractLsb' 4 3 (f0 ++ f1 ++ f2 ++ f3 ++ f4 ++ f5 ++ f6 ++ f7 : BitVec 28) = f4 ∧
    BitVec.extractLsb' 2 2 (f0 ++ f1 ++ f2 ++ f3 ++ f4 ++ f5 ++ f6 ++ f7 : BitVec 28) = f5 ∧
    BitVec.extractLsb' 1 1 (f0 ++ f1 ++ f2 ++ f3 ++ f4 ++ f5 ++ f6 ++ f7 : BitVec 28) = f6 ∧
    BitVec.extractLsb' 0 1 (f0 ++ f1 ++ f2 ++ f3 ++ f4 ++ f5 ++ f6 ++ f7 : BitVec 28) = f7 :=
  ⟨show BitVec.extractLsb' (n := 6 + 6 + 6 + 3 + 3 + 2 + 1 + 1) 22 6 (f0 ++ f1 ++ f2 ++ f3 ++ f4 ++ f5 ++ f6 ++ f7) = f0 from by rw [xhi _ _ (by decide), xhi _ _ (by decide), xhi _ _ (by decide), xhi _ _ (by decide), xhi _ _ (by decide), xhi _ _ (by decide), xhi _ _ (by decide)]; exact BitVec.extractLsb'_eq_self,
   show BitVec.extractLsb' (n := 6 + 6 + 6 + 3 + 3 + 2 + 1 + 1) 16 6 (f0 ++ f1 ++ f2 ++ f3 ++ f4 ++ f5 ++ f6 ++ f7) = f1 from by rw [xhi _ _ (by decide), xhi _ _ (by decide), xhi _ _ (by decide), xhi _ _ (by decide), xhi _ _ (by decide), xhi _ _ (by decide), xlo _ _ (by decide)]; exact BitVec.extractLsb'_eq_self,
   show BitVec.extractLsb' (n := 6 + 6 + 6 + 3 + 3 + 2 + 1 + 1) 10 6 (f0 ++ f1 ++ f2 ++ f3 ++ f4 ++ f5 ++ f6 ++ f7) = f2 from by rw [xhi _ _ (by decide), xhi _ _ (by decide), xhi _ _ (by decide), xhi _ _ (by decide), xhi _ _ (by decide), xlo _ _ (by decide)]; exact BitVec.extractLsb'_eq_self,
   show BitVec.extractLsb' (n := 6 + 6 + 6 + 3 + 3 + 2 + 1 + 1) 7 3 (f0 ++ f1 ++ f2 ++ f3 ++ f4 ++ f5 ++ f6 ++ f7) = f3 from by rw [xhi _ _ (by decide), xhi _ _ (by decide), xhi _ _ (by decide), xhi _ _ (by decide), xlo _ _ (by decide)]; exact BitVec.extractLsb'_eq_self,
   show BitVec.extractLsb' (n := 6 + 6 + 6 + 3 + 3 + 2 + 1 + 1) 4 3 (f0 ++ f1 ++ f2 ++ f3 ++ f4 ++ f5 ++ f6 ++ f7) = f4 from by rw [xhi _ _ (by decide), xhi _ _ (by decide), xhi _ _ (by decide), xlo _ _ (by decide)]; exact BitVec.extractLsb'_eq_self,
   show BitVec.extractLsb' (n := 6 + 6 + 6 + 3 + 3 + 2 + 1 + 1) 2 2 (f0 ++ f1 ++ f2 ++ f3 ++ f4 ++ f5 ++ f6 ++ f7) = f5 from by rw [xhi _ _ (by decide), xhi _ _ (by decide), xlo _ _ (by decide)]; exact BitVec.extractLsb'_eq_self,
   show BitVec.extractLsb' (n := 6 + 6 + 6 + 3 + 3 + 2 + 1 + 1) 1 1 (f0 ++ f1 ++ f2 ++ f3 ++ f4 ++ f5 ++ f6 ++ f7) = f6 from by rw [xhi _ _ (by decide), xlo _ _ (by decide)]; exact BitVec.extractLsb'_eq_self,
   show BitVec.extractLsb' (n := 6 + 6 + 6 + 3 + 3 + 2 + 1 + 1) 0 1 (f0 ++ f1 ++ f2 ++ f3 ++ f4 ++ f5 ++ f6 ++ f7) = f7 from by rw [xlo _ _ (by decide)]; exact BitVec.extractLsb'_eq_self⟩

theorem Encoding.fmt_C_6_3_2_4_13 (f0 : BitVec 6) (f1 : BitVec 3) (f2 : BitVec 2) (f3 : BitVec 4) (f4 : BitVec 13) :
    BitVec.extractLsb' 22 6 (f0 ++ f1 ++ f2 ++ f3 ++ f4 : BitVec 28) = f0 ∧
    BitVec.extractLsb' 19 3 (f0 ++ f1 ++ f2 ++ f3 ++ f4 : BitVec 28) = f1 ∧
    BitVec.extractLsb' 17 2 (f0 ++ f1 ++ f2 ++ f3 ++ f4 : BitVec 28) = f2 ∧
    BitVec.extractLsb' 13 4 (f0 ++ f1 ++ f2 ++ f3 ++ f4 : BitVec 28) = f3 ∧
    BitVec.extractLsb' 0 13 (f0 ++ f1 ++ f2 ++ f3 ++ f4 : BitVec 28) = f4 :=
  ⟨show BitVec.extractLsb' (n := 6 + 3 + 2 + 4 + 13) 22 6 (f0 ++ f1 ++ f2 ++ f3 ++ f4) = f0 from by rw [xhi _ _ (by decide), xhi _ _ (by decide), xhi _ _ (by decide), xhi _ _ (by decide)]; exact BitVec.extractLsb'_eq_self,
   show BitVec.extractLsb' (n := 6 + 3 + 2 + 4 + 13) 19 3 (f0 ++ f1 ++ f2 ++ f3 ++ f4) = f1 from by rw [xhi _ _ (by decide), xhi _ _ (by decide), xhi _ _ (by decide), xlo _ _ (by decide)]; exact BitVec.extractLsb'_eq_self,
   show BitVec.extractLsb' (n := 6 + 3 + 2 + 4 + 13) 17 2 (f0 ++ f1 ++ f2 ++ f3 ++ f4) = f2 from by rw [xhi _ _ (by decide), xhi _ _ (by decide), xlo _ _ (by decide)]; exact BitVec.extractLsb'_eq_self,
   show BitVec.extractLsb' (n := 6 + 3 + 2 + 4 + 13) 13 4 (f0 ++ f1 ++ f2 ++ f3 ++ f4) = f3 from by rw [xhi _ _ (by decide), xlo _ _ (by decide)]; exact BitVec.extractLsb'_eq_self,
   show BitVec.extractLsb' (n := 6 + 3 + 2 + 4 + 13) 0 13 (f0 ++ f1 ++ f2 ++ f3 ++ f4) = f4 from by rw [xlo _ _ (by decide)]; exact BitVec.extractLsb'_eq_self⟩

theorem Encoding.fmt_C_6_6_12_4 (f0 : BitVec 6) (f1 : BitVec 6) (f2 : BitVec 12) (f3 : BitVec 4) :
    BitVec.extractLsb' 22 6 (f0 ++ f1 ++ f2 ++ f3 : BitVec 28) = f0 ∧
    BitVec.extractLsb' 16 6 (f0 ++ f1 ++ f2 ++ f3 : BitVec 28) = f1 ∧
    BitVec.extractLsb' 4 12 (f0 ++ f1 ++ f2 ++ f3 : BitVec 28) = f2 ∧
    BitVec.extractLsb' 0 4 (f0 ++ f1 ++ f2 ++ f3 : BitVec 28) = f3 :=
  ⟨show BitVec.extractLsb' (n := 6 + 6 + 12 + 4) 22 6 (f0 ++ f1 ++ f2 ++ f3) = f0 from by rw [xhi _ _ (by decide), xhi _ _ (by decide), xhi _ _ (by decide)]; exact BitVec.extractLsb'_eq_self,
   show BitVec.extractLsb' (n := 6 + 6 + 12 + 4) 16 6 (f0 ++ f1 ++ f2 ++ f3) = f1 from by rw [xhi _ _ (by decide), xhi _ _ (by decide), xlo _ _ (by decide)]; exact BitVec.extractLsb'_eq_self,
   show BitVec.extractLsb' (n := 6 + 6 + 12 + 4) 4 12 (f0 ++ f1 ++ f2 ++ f3) = f2 from by rw [xhi _ _ (by decide), xlo _ _ (by decide)]; exact BitVec.extractLsb'_eq_self,
   show BitVec.extractLsb' (n := 6 + 6 + 12 + 4) 0 4 (f0 ++ f1 ++ f2 ++ f3) = f3 from by rw [xlo _ _ (by decide)]; exact BitVec.extractLsb'_eq_self⟩

theorem Encoding.fmt_A_6_6_6_6_5 (f0 : BitVec 6) (f1 : BitVec 6) (f2 : BitVec 6) (f3 : BitVec 6) (f4 : BitVec 5) :
    BitVec.extractLsb' 23 6 (f0 ++ f1 ++ f2 ++ f3 ++ f4 : BitVec 29) = f0 ∧
    BitVec.extractLsb' 17 6 (f0 ++ f1 ++ f2 ++ f3 ++ f4 : BitVec 29) = f1 ∧
    BitVec.extractLsb' 11 6 (f0 ++ f1 ++ f2 ++ f3 ++ f4 : BitVec 29) = f2 ∧
    BitVec.extractLsb' 5 6 (f0 ++ f1 ++ f2 ++ f3 ++ f4 : BitVec 29) = f3 ∧
    BitVec.extractLsb' 0 5 (f0 ++ f1 ++ f2 ++ f3 ++ f4 : BitVec 29) = f4 :=
  ⟨show BitVec.extractLsb' (n := 6 + 6 + 6 + 6 + 5) 23 6 (f0 ++ f1 ++ f2 ++ f3 ++ f4) = f0 from by rw [xhi _ _ (by decide), xhi _ _ (by decide), xhi _ _ (by decide), xhi _ _ (by decide)]; exact BitVec.extractLsb'_eq_self,
   show BitVec.extractLsb' (n := 6 + 6 + 6 + 6 + 5) 17 6 (f0 ++ f1 ++ f2 ++ f3 ++ f4) = f1 from by rw [xhi _ _ (by decide), xhi _ _ (by decide), xhi _ _ (by decide), xlo _ _ (by decide)]; exact BitVec.extractLsb'_eq_self,
   show BitVec.extractLsb' (n := 6 + 6 + 6 + 6 + 5) 11 6 (f0 ++ f1 ++ f2 ++ f3 ++ f4) = f2 from by rw [xhi _ _ (by decide), xhi _ _ (by decide), xlo _ _ (by decide)]; exact BitVec.extractLsb'_eq_self,
   show BitVec.extractLsb' (n := 6 + 6 + 6 + 6 + 5) 5 6 (f0 ++ f1 ++ f2 ++ f3 ++ f4) = f3 from by rw [xhi _ _ (by decide), xlo _ _ (by decide)]; exact BitVec.extractLsb'_eq_self,
   show BitVec.extractLsb' (n := 6 + 6 + 6 + 6 + 5) 0 5 (f0 ++ f1 ++ f2 ++ f3 ++ f4) = f4 from by rw [xlo _ _ (by decide)]; exact BitVec.extractLsb'_eq_self⟩

theorem Encoding.fmt_A_6_6_6_2_9 (f0 : BitVec 6) (f1 : BitVec 6) (f2 : BitVec 6) (f3 : BitVec 2) (f4 : BitVec 9) :
    BitVec.extractLsb' 23 6 (f0 ++ f1 ++ f2 ++ f3 ++ f4 : BitVec 29) = f0 ∧
    BitVec.extractLsb' 17 6 (f0 ++ f1 ++ f2 ++ f3 ++ f4 : BitVec 29) = f1 ∧
    BitVec.extractLsb' 11 6 (f0 ++ f1 ++ f2 ++ f3 ++ f4 : BitVec 29) = f2 ∧
    BitVec.extractLsb' 9 2 (f0 ++ f1 ++ f2 ++ f3 ++ f4 : BitVec 29) = f3 ∧
    BitVec.extractLsb' 0 9 (f0 ++ f1 ++ f2 ++ f3 ++ f4 : BitVec 29) = f4 :=
  ⟨show BitVec.extractLsb' (n := 6 + 6 + 6 + 2 + 9) 23 6 (f0 ++ f1 ++ f2 ++ f3 ++ f4) = f0 from by rw [xhi _ _ (by decide), xhi _ _ (by decide), xhi _ _ (by decide), xhi _ _ (by decide)]; exact BitVec.extractLsb'_eq_self,
   show BitVec.extractLsb' (n := 6 + 6 + 6 + 2 + 9) 17 6 (f0 ++ f1 ++ f2 ++ f3 ++ f4) = f1 from by rw [xhi _ _ (by decide), xhi _ _ (by decide), xhi _ _ (by decide), xlo _ _ (by decide)]; exact BitVec.extractLsb'_eq_self,
   show BitVec.extractLsb' (n := 6 + 6 + 6 + 2 + 9) 11 6 (f0 ++ f1 ++ f2 ++ f3 ++ f4) = f2 from by rw [xhi _ _ (by decide), xhi _ _ (by decide), xlo _ _ (by decide)]; exact BitVec.extractLsb'_eq_self,
   show BitVec.extractLsb' (n := 6 + 6 + 6 + 2 + 9) 9 2 (f0 ++ f1 ++ f2 ++ f3 ++ f4) = f3 from by rw [xhi _ _ (by decide), xlo _ _ (by decide)]; exact BitVec.extractLsb'_eq_self,
   show BitVec.extractLsb' (n := 6 + 6 + 6 + 2 + 9) 0 9 (f0 ++ f1 ++ f2 ++ f3 ++ f4) = f4 from by rw [xlo _ _ (by decide)]; exact BitVec.extractLsb'_eq_self⟩

theorem Encoding.fmt_A_6_5_5_6_3_2_2 (f0 : BitVec 6) (f1 : BitVec 5) (f2 : BitVec 5) (f3 : BitVec 6) (f4 : BitVec 3) (f5 : BitVec 2) (f6 : BitVec 2) :
    BitVec.extractLsb' 23 6 (f0 ++ f1 ++ f2 ++ f3 ++ f4 ++ f5 ++ f6 : BitVec 29) = f0 ∧
    BitVec.extractLsb' 18 5 (f0 ++ f1 ++ f2 ++ f3 ++ f4 ++ f5 ++ f6 : BitVec 29) = f1 ∧
    BitVec.extractLsb' 13 5 (f0 ++ f1 ++ f2 ++ f3 ++ f4 ++ f5 ++ f6 : BitVec 29) = f2 ∧
    BitVec.extractLsb' 7 6 (f0 ++ f1 ++ f2 ++ f3 ++ f4 ++ f5 ++ f6 : BitVec 29) = f3 ∧
    BitVec.extractLsb' 4 3 (f0 ++ f1 ++ f2 ++ f3 ++ f4 ++ f5 ++ f6 : BitVec 29) = f4 ∧
    BitVec.extractLsb' 2 2 (f0 ++ f1 ++ f2 ++ f3 ++ f4 ++ f5 ++ f6 : BitVec 29) = f5 ∧
    BitVec.extractLsb' 0 2 (f0 ++ f1 ++ f2 ++ f3 ++ f4 ++ f5 ++ f6 : BitVec 29) = f6 :=
  ⟨show BitVec.extractLsb' (n := 6 + 5 + 5 + 6 + 3 + 2 + 2) 23 6 (f0 ++ f1 ++ f2 ++ f3 ++ f4 ++ f5 ++ f6) = f0 from by rw [xhi _ _ (by decide), xhi _ _ (by decide), xhi _ _ (by decide), xhi _ _ (by decide), xhi _ _ (by decide), xhi _ _ (by decide)]; exact BitVec.extractLsb'_eq_self,
   show BitVec.extractLsb' (n := 6 + 5 + 5 + 6 + 3 + 2 + 2) 18 5 (f0 ++ f1 ++ f2 ++ f3 ++ f4 ++ f5 ++ f6) = f1 from by rw [xhi _ _ (by decide), xhi _ _ (by decide), xhi _ _ (by decide), xhi _ _ (by decide), xhi _ _ (by decide), xlo _ _ (by decide)]; exact BitVec.extractLsb'_eq_self,
   show BitVec.extractLsb' (n := 6 + 5 + 5 + 6 + 3 + 2 + 2) 13 5 (f0 ++ f1 ++ f2 ++ f3 ++ f4 ++ f5 ++ f6) = f2 from by rw [xhi _ _ (by decide), xhi _ _ (by decide), xhi _ _ (by decide), xhi _ _ (by decide), xlo _ _ (by decide)]; exact BitVec.extractLsb'_eq_self,
   show BitVec.extractLsb' (n := 6 + 5 + 5 + 6 + 3 + 2 + 2) 7 6 (f0 ++ f1 ++ f2 ++ f3 ++ f4 ++ f5 ++ f6) = f3 from by rw [xhi _ _ (by decide), xhi _ _ (by decide), xhi _ _ (by decide), xlo _ _ (by decide)]; exact BitVec.extractLsb'_eq_self,
   show BitVec.extractLsb' (n := 6 + 5 + 5 + 6 + 3 + 2 + 2) 4 3 (f0 ++ f1 ++ f2 ++ f3 ++ f4 ++ f5 ++ f6) = f4 from by rw [xhi _ _ (by decide), xhi _ _ (by decide), xlo _ _ (by decide)]; exact BitVec.extractLsb'_eq_self,
   show BitVec.extractLsb' (n := 6 + 5 + 5 + 6 + 3 + 2 + 2) 2 2 (f0 ++ f1 ++ f2 ++ f3 ++ f4 ++ f5 ++ f6) = f5 from by rw [xhi _ _ (by decide), xlo _ _ (by decide)]; exact BitVec.extractLsb'_eq_self,
   show BitVec.extractLsb' (n := 6 + 5 + 5 + 6 + 3 + 2 + 2) 0 2 (f0 ++ f1 ++ f2 ++ f3 ++ f4 ++ f5 ++ f6) = f6 from by rw [xlo _ _ (by decide)]; exact BitVec.extractLsb'_eq_self⟩

theorem Encoding.fmt_A_6_5_5_5_3_3_2 (f0 : BitVec 6) (f1 : BitVec 5) (f2 : BitVec 5) (f3 : BitVec 5) (f4 : BitVec 3) (f5 : BitVec 3) (f6 : BitVec 2) :
    BitVec.extractLsb' 23 6 (f0 ++ f1 ++ f2 ++ f3 ++ f4 ++ f5 ++ f6 : BitVec 29) = f0 ∧
    BitVec.extractLsb' 18 5 (f0 ++ f1 ++ f2 ++ f3 ++ f4 ++ f5 ++ f6 : BitVec 29) = f1 ∧
    BitVec.extractLsb' 13 5 (f0 ++ f1 ++ f2 ++ f3 ++ f4 ++ f5 ++ f6 : BitVec 29) = f2 ∧
    BitVec.extractLsb' 8 5 (f0 ++ f1 ++ f2 ++ f3 ++ f4 ++ f5 ++ f6 : BitVec 29) = f3 ∧
    BitVec.extractLsb' 5 3 (f0 ++ f1 ++ f2 ++ f3 ++ f4 ++ f5 ++ f6 : BitVec 29) = f4 ∧
    BitVec.extractLsb' 2 3 (f0 ++ f1 ++ f2 ++ f3 ++ f4 ++ f5 ++ f6 : BitVec 29) = f5 ∧
    BitVec.extractLsb' 0 2 (f0 ++ f1 ++ f2 ++ f3 ++ f4 ++ f5 ++ f6 : BitVec 29) = f6 :=
  ⟨show BitVec.extractLsb' (n := 6 + 5 + 5 + 5 + 3 + 3 + 2) 23 6 (f0 ++ f1 ++ f2 ++ f3 ++ f4 ++ f5 ++ f6) = f0 from by rw [xhi _ _ (by decide), xhi _ _ (by decide), xhi _ _ (by decide), xhi _ _ (by decide), xhi _ _ (by decide), xhi _ _ (by decide)]; exact BitVec.extractLsb'_eq_self,
   show BitVec.extractLsb' (n := 6 + 5 + 5 + 5 + 3 + 3 + 2) 18 5 (f0 ++ f1 ++ f2 ++ f3 ++ f4 ++ f5 ++ f6) = f1 from by rw [xhi _ _ (by decide), xhi _ _ (by decide), xhi _ _ (by decide), xhi _ _ (by decide), xhi _ _ (by decide), xlo _ _ (by decide)]; exact BitVec.extractLsb'_eq_self,
   show BitVec.extractLsb' (n := 6 + 5 + 5 + 5 + 3 + 3 + 2) 13 5 (f0 ++ f1 ++ f2 ++ f3 ++ f4 ++ f5 ++ f6) = f2 from by rw [xhi _ _ (by decide), xhi _ _ (by decide), xhi _ _ (by decide), xhi _ _ (by decide), xlo _ _ (by decide)]; exact BitVec.extractLsb'_eq_self,
   show BitVec.extractLsb' (n := 6 + 5 + 5 + 5 + 3 + 3 + 2) 8 5 (f0 ++ f1 ++ f2 ++ f3 ++ f4 ++ f5 ++ f6) = f3 from by rw [xhi _ _ (by decide), xhi _ _ (by decide), xhi _ _ (by decide), xlo _ _ (by decide)]; exact BitVec.extractLsb'_eq_self,
   show BitVec.extractLsb' (n := 6 + 5 + 5 + 5 + 3 + 3 + 2) 5 3 (f0 ++ f1 ++ f2 ++ f3 ++ f4 ++ f5 ++ f6) = f4 from by rw [xhi _ _ (by decide), xhi _ _ (by decide), xlo _ _ (by decide)]; exact BitVec.extractLsb'_eq_self,
   show BitVec.extractLsb' (n := 6 + 5 + 5 + 5 + 3 + 3 + 2) 2 3 (f0 ++ f1 ++ f2 ++ f3 ++ f4 ++ f5 ++ f6) = f5 from by rw [xhi _ _ (by decide), xlo _ _ (by decide)]; exact BitVec.extractLsb'_eq_self,
   show BitVec.extractLsb' (n := 6 + 5 + 5 + 5 + 3 + 3 + 2) 0 2 (f0 ++ f1 ++ f2 ++ f3 ++ f4 ++ f5 ++ f6) = f6 from by rw [xlo _ _ (by decide)]; exact BitVec.extractLsb'_eq_self⟩

theorem Encoding.fmt_A_6_5_5_5_3_2_3 (f0 : BitVec 6) (f1 : BitVec 5) (f2 : BitVec 5) (f3 : BitVec 5) (f4 : BitVec 3) (f5 : BitVec 2) (f6 : BitVec 3) :
    BitVec.extractLsb' 23 6 (f0 ++ f1 ++ f2 ++ f3 ++ f4 ++ f5 ++ f6 : BitVec 29) = f0 ∧
    BitVec.extractLsb' 18 5 (f0 ++ f1 ++ f2 ++ f3 ++ f4 ++ f5 ++ f6 : BitVec 29) = f1 ∧
    BitVec.extractLsb' 13 5 (f0 ++ f1 ++ f2 ++ f3 ++ f4 ++ f5 ++ f6 : BitVec 29) = f2 ∧
    BitVec.extractLsb' 8 5 (f0 ++ f1 ++ f2 ++ f3 ++ f4 ++ f5 ++ f6 : BitVec 29) = f3 ∧
    BitVec.extractLsb' 5 3 (f0 ++ f1 ++ f2 ++ f3 ++ f4 ++ f5 ++ f6 : BitVec 29) = f4 ∧
    BitVec.extractLsb' 3 2 (f0 ++ f1 ++ f2 ++ f3 ++ f4 ++ f5 ++ f6 : BitVec 29) = f5 ∧
    BitVec.extractLsb' 0 3 (f0 ++ f1 ++ f2 ++ f3 ++ f4 ++ f5 ++ f6 : BitVec 29) = f6 :=
  ⟨show BitVec.extractLsb' (n := 6 + 5 + 5 + 5 + 3 + 2 + 3) 23 6 (f0 ++ f1 ++ f2 ++ f3 ++ f4 ++ f5 ++ f6) = f0 from by rw [xhi _ _ (by decide), xhi _ _ (by decide), xhi _ _ (by decide), xhi _ _ (by decide), xhi _ _ (by decide), xhi _ _ (by decide)]; exact BitVec.extractLsb'_eq_self,
   show BitVec.extractLsb' (n := 6 + 5 + 5 + 5 + 3 + 2 + 3) 18 5 (f0 ++ f1 ++ f2 ++ f3 ++ f4 ++ f5 ++ f6) = f1 from by rw [xhi _ _ (by decide), xhi _ _ (by decide), xhi _ _ (by decide), xhi _ _ (by decide), xhi _ _ (by decide), xlo _ _ (by decide)]; exact BitVec.extractLsb'_eq_self,
   show BitVec.extractLsb' (n := 6 + 5 + 5 + 5 + 3 + 2 + 3) 13 5 (f0 ++ f1 ++ f2 ++ f3 ++ f4 ++ f5 ++ f6) = f2 from by rw [xhi _ _ (by decide), xhi _ _ (by decide), xhi _ _ (by decide), xhi _ _ (by decide), xlo _ _ (by decide)]; exact BitVec.extractLsb'_eq_self,
   show BitVec.extractLsb' (n := 6 + 5 + 5 + 5 + 3 + 2 + 3) 8 5 (f0 ++ f1 ++ f2 ++ f3 ++ f4 ++ f5 ++ f6) = f3 from by rw [xhi _ _ (by decide), xhi _ _ (by decide), xhi _ _ (by decide), xlo _ _ (by decide)]; exact BitVec.extractLsb'_eq_self,
   show BitVec.extractLsb' (n := 6 + 5 + 5 + 5 + 3 + 2 + 3) 5 3 (f0 ++ f1 ++ f2 ++ f3 ++ f4 ++ f5 ++ f6) = f4 from by rw [xhi _ _ (by decide), xhi _ _ (by decide), xlo _ _ (by decide)]; exact BitVec.extractLsb'_eq_self,
   show BitVec.extractLsb' (n := 6 + 5 + 5 + 5 + 3 + 2 + 3) 3 2 (f0 ++ f1 ++ f2 ++ f3 ++ f4 ++ f5 ++ f6) = f5 from by rw [xhi _ _ (by decide), xlo _ _ (by decide)]; exact BitVec.extractLsb'_eq_self,
   show BitVec.extractLsb' (n := 6 + 5 + 5 + 5 + 3 + 2 + 3) 0 3 (f0 ++ f1 ++ f2 ++ f3 ++ f4 ++ f5 ++ f6) = f6 from by rw [xlo _ _ (by decide)]; exact BitVec.extractLsb'_eq_self⟩

theorem Encoding.fmt_A_6_5_5_5_3_5 (f0 : BitVec 6) (f1 : BitVec 5) (f2 : BitVec 5) (f3 : BitVec 5) (f4 : BitVec 3) (f5 : BitVec 5) :
    BitVec.extractLsb' 23 6 (f0 ++ f1 ++ f2 ++ f3 ++ f4 ++ f5 : BitVec 29) = f0 ∧
    BitVec.extractLsb' 18 5 (f0 ++ f1 ++ f2 ++ f3 ++ f4 ++ f5 : BitVec 29) = f1 ∧
    BitVec.extractLsb' 13 5 (f0 ++ f1 ++ f2 ++ f3 ++ f4 ++ f5 : BitVec 29) = f2 ∧
    BitVec.extractLsb' 8 5 (f0 ++ f1 ++ f2 ++ f3 ++ f4 ++ f5 : BitVec 29) = f3 ∧
    BitVec.extractLsb' 5 3 (f0 ++ f1 ++ f2 ++ f3 ++ f4 ++ f5 : BitVec 29) = f4 ∧
    BitVec.extractLsb' 0 5 (f0 ++ f1 ++ f2 ++ f3 ++ f4 ++ f5 : BitVec 29) = f5 :=
  ⟨show BitVec.extractLsb' (n := 6 + 5 + 5 + 5 + 3 + 5) 23 6 (f0 ++ f1 ++ f2 ++ f3 ++ f4 ++ f5) = f0 from by rw [xhi _ _ (by decide), xhi _ _ (by decide), xhi _ _ (by decide), xhi _ _ (by decide), xhi _ _ (by decide)]; exact BitVec.extractLsb'_eq_self,
   show BitVec.extractLsb' (n := 6 + 5 + 5 + 5 + 3 + 5) 18 5 (f0 ++ f1 ++ f2 ++ f3 ++ f4 ++ f5) = f1 from by rw [xhi _ _ (by decide), xhi _ _ (by decide), xhi _ _ (by decide), xhi _ _ (by decide), xlo _ _ (by decide)]; exact BitVec.extractLsb'_eq_self,
   show BitVec.extractLsb' (n := 6 + 5 + 5 + 5 + 3 + 5) 13 5 (f0 ++ f1 ++ f2 ++ f3 ++ f4 ++ f5) = f2 from by rw [xhi _ _ (by decide), xhi _ _ (by decide), xhi _ _ (by decide), xlo _ _ (by decide)]; exact BitVec.extractLsb'_eq_self,
   show BitVec.extractLsb' (n := 6 + 5 + 5 + 5 + 3 + 5) 8 5 (f0 ++ f1 ++ f2 ++ f3 ++ f4 ++ f5) = f3 from by rw [xhi _ _ (by decide), xhi _ _ (by decide), xlo _ _ (by decide)]; exact BitVec.extractLsb'_eq_self,
   show BitVec.extractLsb' (n := 6 + 5 + 5 + 5 + 3 + 5) 5 3 (f0 ++ f1 ++ f2 ++ f3 ++ f4 ++ f5) = f4 from by rw [xhi _ _ (by decide), xlo _ _ (by decide)]; exact BitVec.extractLsb'_eq_self,
   show BitVec.extractLsb' (n := 6 + 5 + 5 + 5 + 3 + 5) 0 5 (f0 ++ f1 ++ f2 ++ f3 ++ f4 ++ f5) = f5 from by rw [xlo _ _ (by decide)]; exact BitVec.extractLsb'_eq_self⟩

theorem Encoding.fmt_A_6_5_5_4_1_3_2_3 (f0 : BitVec 6) (f1 : BitVec 5) (f2 : BitVec 5) (f3 : BitVec 4) (f4 : BitVec 1) (f5 : BitVec 3) (f6 : BitVec 2) (f7 : BitVec 3) :
    BitVec.extractLsb' 23 6 (f0 ++ f1 ++ f2 ++ f3 ++ f4 ++ f5 ++ f6 ++ f7 : BitVec 29) = f0 ∧
    BitVec.extractLsb' 18 5 (f0 ++ f1 ++ f2 ++ f3 ++ f4 ++ f5 ++ f6 ++ f7 : BitVec 29) = f1 ∧
    BitVec.extractLsb' 13 5 (f0 ++ f1 ++ f2 ++ f3 ++ f4 ++ f5 ++ f6 ++ f7 : BitVec 29) = f2 ∧
    BitVec.extractLsb' 9 4 (f0 ++ f1 ++ f2 ++ f3 ++ f4 ++ f5 ++ f6 ++ f7 : BitVec 29) = f3 ∧
    BitVec.extractLsb' 8 1 (f0 ++ f1 ++ f2 ++ f3 ++ f4 ++ f5 ++ f6 ++ f7 : BitVec 29) = f4 ∧
    BitVec.extractLsb' 5 3 (f0 ++ f1 ++ f2 ++ f3 ++ f4 ++ f5 ++ f6 ++ f7 : BitVec 29) = f5 ∧
    BitVec.extractLsb' 3 2 (f0 ++ f1 ++ f2 ++ f3 ++ f4 ++ f5 ++ f6 ++ f7 : BitVec 29) = f6 ∧
    BitVec.extractLsb' 0 3 (f0 ++ f1 ++ f2 ++ f3 ++ f4 ++ f5 ++ f6 ++ f7 : BitVec 29) = f7 :=
  ⟨show BitVec.extractLsb' (n := 6 + 5 + 5 + 4 + 1 + 3 + 2 + 3) 23 6 (f0 ++ f1 ++ f2 ++ f3 ++ f4 ++ f5 ++ f6 ++ f7) = f0 from by rw [xhi _ _ (by decide), xhi _ _ (by decide), xhi _ _ (by decide), xhi _ _ (by decide), xhi _ _ (by decide), xhi _ _ (by decide), xhi _ _ (by decide)]; exact BitVec.extractLsb'_eq_self,
   show BitVec.extractLsb' (n := 6 + 5 + 5 + 4 + 1 + 3 + 2 + 3) 18 5 (f0 ++ f1 ++ f2 ++ f3 ++ f4 ++ f5 ++ f6 ++ f7) = f1 from by rw [xhi _ _ (by decide), xhi _ _ (by decide), xhi _ _ (by decide), xhi _ _ (by decide), xhi _ _ (by decide), xhi _ _ (by decide), xlo _ _ (by decide)]; exact BitVec.extractLsb'_eq_self,
   show BitVec.extractLsb' (n := 6 + 5 + 5 + 4 + 1 + 3 + 2 + 3) 13 5 (f0 ++ f1 ++ f2 ++ f3 ++ f4 ++ f5 ++ f6 ++ f7) = f2 from by rw [xhi _ _ (by decide), xhi _ _ (by decide), xhi _ _ (by decide), xhi _ _ (by decide), xhi _ _ (by decide), xlo _ _ (by decide)]; exact BitVec.extractLsb'_eq_self,
   show BitVec.extractLsb' (n := 6 + 5 + 5 + 4 + 1 + 3 + 2 + 3) 9 4 (f0 ++ f1 ++ f2 ++ f3 ++ f4 ++ f5 ++ f6 ++ f7) = f3 from by rw [xhi _ _ (by decide), xhi _ _ (by decide), xhi _ _ (by decide), xhi _ _ (by decide), xlo _ _ (by decide)]; exact BitVec.extractLsb'_eq_self,
   show BitVec.extractLsb' (n := 6 + 5 + 5 + 4 + 1 + 3 + 2 + 3) 8 1 (f0 ++ f1 ++ f2 ++ f3 ++ f4 ++ f5 ++ f6 ++ f7) = f4 from by rw [xhi _ _ (by decide), xhi _ _ (by decide), xhi _ _ (by decide), xlo _ _ (by decide)]; exact BitVec.extractLsb'_eq_self,
   show BitVec.extractLsb' (n := 6 + 5 + 5 + 4 + 1 + 3 + 2 + 3) 5 3 (f0 ++ f1 ++ f2 ++ f3 ++ f4 ++ f5 ++ f6 ++ f7) = f5 from by rw [xhi _ _ (by decide), xhi _ _ (by decide), xlo _ _ (by decide)]; exact BitVec.extractLsb'_eq_self,
   show BitVec.extractLsb' (n := 6 + 5 + 5 + 4 + 1 + 3 + 2 + 3) 3 2 (f0 ++ f1 ++ f2 ++ f3 ++ f4 ++ f5 ++ f6 ++ f7) = f6 from by rw [xhi _ _ (by decide), xlo _ _ (by decide)]; exact BitVec.extractLsb'_eq_self,
   show BitVec.extractLsb' (n := 6 + 5 + 5 + 4 + 1 + 3 + 2 + 3) 0 3 (f0 ++ f1 ++ f2 ++ f3 ++ f4 ++ f5 ++ f6 ++ f7) = f7 from by rw [xlo _ _ (by decide)]; exact BitVec.extractLsb'_eq_self⟩

theorem Encoding.fmt_A_6_5_5_3_2_3_2_3 (f0 : BitVec 6) (f1 : BitVec 5) (f2 : BitVec 5) (f3 : BitVec 3) (f4 : BitVec 2) (f5 : BitVec 3) (f6 : BitVec 2) (f7 : BitVec 3) :
    BitVec.extractLsb' 23 6 (f0 ++ f1 ++ f2 ++ f3 ++ f4 ++ f5 ++ f6 ++ f7 : BitVec 29) = f0 ∧
    BitVec.extractLsb' 18 5 (f0 ++ f1 ++ f2 ++ f3 ++ f4 ++ f5 ++ f6 ++ f7 : BitVec 29) = f1 ∧
    BitVec.extractLsb' 13 5 (f0 ++ f1 ++ f2 ++ f3 ++ f4 ++ f5 ++ f6 ++ f7 : BitVec 29) = f2 ∧
    BitVec.extractLsb' 10 3 (f0 ++ f1 ++ f2 ++ f3 ++ f4 ++ f5 ++ f6 ++ f7 : BitVec 29) = f3 ∧
    BitVec.extractLsb' 8 2 (f0 ++ f1 ++ f2 ++ f3 ++ f4 ++ f5 ++ f6 ++ f7 : BitVec 29) = f4 ∧
    BitVec.extractLsb' 5 3 (f0 ++ f1 ++ f2 ++ f3 ++ f4 ++ f5 ++ f6 ++ f7 : BitVec 29) = f5 ∧
    BitVec.extractLsb' 3 2 (f0 ++ f1 ++ f2 ++ f3 ++ f4 ++ f5 ++ f6 ++ f7 : BitVec 29) = f6 ∧
    BitVec.extractLsb' 0 3 (f0 ++ f1 ++ f2 ++ f3 ++ f4 ++ f5 ++ f6 ++ f7 : BitVec 29) = f7 :=
  ⟨show BitVec.extractLsb' (n := 6 + 5 + 5 + 3 + 2 + 3 + 2 + 3) 23 6 (f0 ++ f1 ++ f2 ++ f3 ++ f4 ++ f5 ++ f6 ++ f7) = f0 from by rw [xhi _ _ (by decide), xhi _ _ (by decide), xhi _ _ (by decide), xhi _ _ (by decide), xhi _ _ (by decide), xhi _ _ (by decide), xhi _ _ (by decide)]; exact BitVec.extractLsb'_eq_self,
   show BitVec.extractLsb' (n := 6 + 5 + 5 + 3 + 2 + 3 + 2 + 3) 18 5 (f0 ++ f1 ++ f2 ++ f3 ++ f4 ++ f5 ++ f6 ++ f7) = f1 from by rw [xhi _ _ (by decide), xhi _ _ (by decide), xhi _ _ (by decide), xhi _ _ (by decide), xhi _ _ (by decide), xhi _ _ (by decide), xlo _ _ (by decide)]; exact BitVec.extractLsb'_eq_self,
   show BitVec.extractLsb' (n := 6 + 5 + 5 + 3 + 2 + 3 + 2 + 3) 13 5 (f0 ++ f1 ++ f2 ++ f3 ++ f4 ++ f5 ++ f6 ++ f7) = f2 from by rw [xhi _ _ (by decide), xhi _ _ (by decide), xhi _ _ (by decide), xhi _ _ (by decide), xhi _ _ (by decide), xlo _ _ (by decide)]; exact BitVec.extractLsb'_eq_self,
   show BitVec.extractLsb' (n := 6 + 5 + 5 + 3 + 2 + 3 + 2 + 3) 10 3 (f0 ++ f1 ++ f2 ++ f3 ++ f4 ++ f5 ++ f6 ++ f7) = f3 from by rw [xhi _ _ (by decide), xhi _ _ (by decide), xhi _ _ (by decide), xhi _ _ (by decide), xlo _ _ (by decide)]; exact BitVec.extractLsb'_eq_self,
   show BitVec.extractLsb' (n := 6 + 5 + 5 + 3 + 2 + 3 + 2 + 3) 8 2 (f0 ++ f1 ++ f2 ++ f3 ++ f4 ++ f5 ++ f6 ++ f7) = f4 from by rw [xhi _ _ (by decide), xhi _ _ (by decide), xhi _ _ (by decide), xlo _ _ (by decide)]; exact BitVec.extractLsb'_eq_self,
   show BitVec.extractLsb' (n := 6 + 5 + 5 + 3 + 2 + 3 + 2 + 3) 5 3 (f0 ++ f1 ++ f2 ++ f3 ++ f4 ++ f5 ++ f6 ++ f7) = f5 from by rw [xhi _ _ (by decide), xhi _ _ (by decide), xlo _ _ (by decide)]; exact BitVec.extractLsb'_eq_self,
   show BitVec.extractLsb' (n := 6 + 5 + 5 + 3 + 2 + 3 + 2 + 3) 3 2 (f0 ++ f1 ++ f2 ++ f3 ++ f4 ++ f5 ++ f6 ++ f7) = f6 from by rw [xhi _ _ (by decide), xlo _ _ (by decide)]; exact BitVec.extractLsb'_eq_self,
   show BitVec.extractLsb' (n := 6 + 5 + 5 + 3 + 2 + 3 + 2 + 3) 0 3 (f0 ++ f1 ++ f2 ++ f3 ++ f4 ++ f5 ++ f6 ++ f7) = f7 from by rw [xlo _ _ (by decide)]; exact BitVec.extractLsb'_eq_self⟩

theorem Encoding.fmt_A_6_5_5_5_3_1_4 (f0 : BitVec 6) (f1 : BitVec 5) (f2 : BitVec 5) (f3 : BitVec 5) (f4 : BitVec 3) (f5 : BitVec 1) (f6 : BitVec 4) :
    BitVec.extractLsb' 23 6 (f0 ++ f1 ++ f2 ++ f3 ++ f4 ++ f5 ++ f6 : BitVec 29) = f0 ∧
    BitVec.extractLsb' 18 5 (f0 ++ f1 ++ f2 ++ f3 ++ f4 ++ f5 ++ f6 : BitVec 29) = f1 ∧
    BitVec.extractLsb' 13 5 (f0 ++ f1 ++ f2 ++ f3 ++ f4 ++ f5 ++ f6 : BitVec 29) = f2 ∧
    BitVec.extractLsb' 8 5 (f0 ++ f1 ++ f2 ++ f3 ++ f4 ++ f5 ++ f6 : BitVec 29) = f3 ∧
    BitVec.extractLsb' 5 3 (f0 ++ f1 ++ f2 ++ f3 ++ f4 ++ f5 ++ f6 : BitVec 29) = f4 ∧
    BitVec.extractLsb' 4 1 (f0 ++ f1 ++ f2 ++ f3 ++ f4 ++ f5 ++ f6 : BitVec 29) = f5 ∧
    BitVec.extractLsb' 0 4 (f0 ++ f1 ++ f2 ++ f3 ++ f4 ++ f5 ++ f6 : BitVec 29) = f6 :=
  ⟨show BitVec.extractLsb' (n := 6 + 5 + 5 + 5 + 3 + 1 + 4) 23 6 (f0 ++ f1 ++ f2 ++ f3 ++ f4 ++ f5 ++ f6) = f0 from by rw [xhi _ _ (by decide), xhi _ _ (by decide), xhi _ _ (by decide), xhi _ _ (by decide), xhi _ _ (by decide), xhi _ _ (by decide)]; exact BitVec.extractLsb'_eq_self,
   show BitVec.extractLsb' (n := 6 + 5 + 5 + 5 + 3 + 1 + 4) 18 5 (f0 ++ f1 ++ f2 ++ f3 ++ f4 ++ f5 ++ f6) = f1 from by rw [xhi _ _ (by decide), xhi _ _ (by decide), xhi _ _ (by decide), xhi _ _ (by decide), xhi _ _ (by decide), xlo _ _ (by decide)]; exact BitVec.extractLsb'_eq_self,
   show BitVec.extractLsb' (n := 6 + 5 + 5 + 5 + 3 + 1 + 4) 13 5 (f0 ++ f1 ++ f2 ++ f3 ++ f4 ++ f5 ++ f6) = f2 from by rw [xhi _ _ (by decide), xhi _ _ (by decide), xhi _ _ (by decide), xhi _ _ (by decide), xlo _ _ (by decide)]; exact BitVec.extractLsb'_eq_self,
   show BitVec.extractLsb' (n := 6 + 5 + 5 + 5 + 3 + 1 + 4) 8 5 (f0 ++ f1 ++ f2 ++ f3 ++ f4 ++ f5 ++ f6) = f3 from by rw [xhi _ _ (by decide), xhi _ _ (by decide), xhi _ _ (by decide), xlo _ _ (by decide)]; exact BitVec.extractLsb'_eq_self,
   show BitVec.extractLsb' (n := 6 + 5 + 5 + 5 + 3 + 1 + 4) 5 3 (f0 ++ f1 ++ f2 ++ f3 ++ f4 ++ f5 ++ f6) = f4 from by rw [xhi _ _ (by decide), xhi _ _ (by decide), xlo _ _ (by decide)]; exact BitVec.extractLsb'_eq_self,
   show BitVec.extractLsb' (n := 6 + 5 + 5 + 5 + 3 + 1 + 4) 4 1 (f0 ++ f1 ++ f2 ++ f3 ++ f4 ++ f5 ++ f6) = f5 from by rw [xhi _ _ (by decide), xlo _ _ (by decide)]; exact BitVec.extractLsb'_eq_self,
   show BitVec.extractLsb' (n := 6 + 5 + 5 + 5 + 3 + 1 + 4) 0 4 (f0 ++ f1 ++ f2 ++ f3 ++ f4 ++ f5 ++ f6) = f6 from by rw [xlo _ _ (by decide)]; exact BitVec.extractLsb'_eq_self⟩

theorem Encoding.fmt_A_6_5_5_6_3_4 (f0 : BitVec 6) (f1 : BitVec 5) (f2 : BitVec 5) (f3 : BitVec 6) (f4 : BitVec 3) (f5 : BitVec 4) :
    BitVec.extractLsb' 23 6 (f0 ++ f1 ++ f2 ++ f3 ++ f4 ++ f5 : BitVec 29) = f0 ∧
    BitVec.extractLsb' 18 5 (f0 ++ f1 ++ f2 ++ f3 ++ f4 ++ f5 : BitVec 29) = f1 ∧
    BitVec.extractLsb' 13 5 (f0 ++ f1 ++ f2 ++ f3 ++ f4 ++ f5 : BitVec 29) = f2 ∧
    BitVec.extractLsb' 7 6 (f0 ++ f1 ++ f2 ++ f3 ++ f4 ++ f5 : BitVec 29) = f3 ∧
    BitVec.extractLsb' 4 3 (f0 ++ f1 ++ f2 ++ f3 ++ f4 ++ f5 : BitVec 29) = f4 ∧
    BitVec.extractLsb' 0 4 (f0 ++ f1 ++ f2 ++ f3 ++ f4 ++ f5 : BitVec 29) = f5 :=
  ⟨show BitVec.extractLsb' (n := 6 + 5 + 5 + 6 + 3 + 4) 23 6 (f0 ++ f1 ++ f2 ++ f3 ++ f4 ++ f5) = f0 from by rw [xhi _ _ (by decide), xhi _ _ (by decide), xhi _ _ (by decide), xhi _ _ (by decide), xhi _ _ (by decide)]; exact BitVec.extractLsb'_eq_self,
   show BitVec.extractLsb' (n := 6 + 5 + 5 + 6 + 3 + 4) 18 5 (f0 ++ f1 ++ f2 ++ f3 ++ f4 ++ f5) = f1 from by rw [xhi _ _ (by decide), xhi _ _ (by decide), xhi _ _ (by decide), xhi _ _ (by decide), xlo _ _ (by decide)]; exact BitVec.extractLsb'_eq_self,
   show BitVec.extractLsb' (n := 6 + 5 + 5 + 6 + 3 + 4) 13 5 (f0 ++ f1 ++ f2 ++ f3 ++ f4 ++ f5) = f2 from by rw [xhi _ _ (by decide), xhi _ _ (by decide), xhi _ _ (by decide), xlo _ _ (by decide)]; exact BitVec.extractLsb'_eq_self,
   show BitVec.extractLsb' (n := 6 + 5 + 5 + 6 + 3 + 4) 7 6 (f0 ++ f1 ++ f2 ++ f3 ++ f4 ++ f5) = f3 from by rw [xhi _ _ (by decide), xhi _ _ (by decide), xlo _ _ (by decide)]; exact BitVec.extractLsb'_eq_self,
   show BitVec.extractLsb' (n := 6 + 5 + 5 + 6 + 3 + 4) 4 3 (f0 ++ f1 ++ f2 ++ f3 ++ f4 ++ f5) = f4 from by rw [xhi _ _ (by decide), xlo _ _ (by decide)]; exact BitVec.extractLsb'_eq_self,
   show BitVec.extractLsb' (n := 6 + 5 + 5 + 6 + 3 + 4) 0 4 (f0 ++ f1 ++ f2 ++ f3 ++ f4 ++ f5) = f5 from by rw [xlo _ _ (by decide)]; exact BitVec.extractLsb'_eq_self⟩

theorem Encoding.fmt_A_6_2_3_3_6_6_3 (f0 : BitVec 6) (f1 : BitVec 2) (f2 : BitVec 3) (f3 : BitVec 3) (f4 : BitVec 6) (f5 : BitVec 6) (f6 : BitVec 3) :
    BitVec.extractLsb' 23 6 (f0 ++ f1 ++ f2 ++ f3 ++ f4 ++ f5 ++ f6 : BitVec 29) = f0 ∧
    BitVec.extractLsb' 21 2 (f0 ++ f1 ++ f2 ++ f3 ++ f4 ++ f5 ++ f6 : BitVec 29) = f1 ∧
    BitVec.extractLsb' 18 3 (f0 ++ f1 ++ f2 ++ f3 ++ f4 ++ f5 ++ f6 : BitVec 29) = f2 ∧
    BitVec.extractLsb' 15 3 (f0 ++ f1 ++ f2 ++ f3 ++ f4 ++ f5 ++ f6 : BitVec 29) = f3 ∧
    BitVec.extractLsb' 9 6 (f0 ++ f1 ++ f2 ++ f3 ++ f4 ++ f5 ++ f6 : BitVec 29) = f4 ∧
    BitVec.extractLsb' 3 6 (f0 ++ f1 ++ f2 ++ f3 ++ f4 ++ f5 ++ f6 : BitVec 29) = f5 ∧
    BitVec.extractLsb' 0 3 (f0 ++ f1 ++ f2 ++ f3 ++ f4 ++ f5 ++ f6 : BitVec 29) = f6 :=
  ⟨show BitVec.extractLsb' (n := 6 + 2 + 3 + 3 + 6 + 6 + 3) 23 6 (f0 ++ f1 ++ f2 ++ f3 ++ f4 ++ f5 ++ f6) = f0 from by rw [xhi _ _ (by decide), xhi _ _ (by decide), xhi _ _ (by decide), xhi _ _ (by decide), xhi _ _ (by decide), xhi _ _ (by decide)]; exact BitVec.extractLsb'_eq_self,
   show BitVec.extractLsb' (n := 6 + 2 + 3 + 3 + 6 + 6 + 3) 21 2 (f0 ++ f1 ++ f2 ++ f3 ++ f4 ++ f5 ++ f6) = f1 from by rw [xhi _ _ (by decide), xhi _ _ (by decide), xhi _ _ (by decide), xhi _ _ (by decide), xhi _ _ (by decide), xlo _ _ (by decide)]; exact BitVec.extractLsb'_eq_self,
   show BitVec.extractLsb' (n := 6 + 2 + 3 + 3 + 6 + 6 + 3) 18 3 (f0 ++ f1 ++ f2 ++ f3 ++ f4 ++ f5 ++ f6) = f2 from by rw [xhi _ _ (by decide), xhi _ _ (by decide), xhi _ _ (by decide), xhi _ _ (by decide), xlo _ _ (by decide)]; exact BitVec.extractLsb'_eq_self,
   show BitVec.extractLsb' (n := 6 + 2 + 3 + 3 + 6 + 6 + 3) 15 3 (f0 ++ f1 ++ f2 ++ f3 ++ f4 ++ f5 ++ f6) = f3 from by rw [xhi _ _ (by decide), xhi _ _ (by decide), xhi _ _ (by decide), xlo _ _ (by decide)]; exact BitVec.extractLsb'_eq_self,
   show BitVec.extractLsb' (n := 6 + 2 + 3 + 3 + 6 + 6 + 3) 9 6 (f0 ++ f1 ++ f2 ++ f3 ++ f4 ++ f5 ++ f6) = f4 from by rw [xhi _ _ (by decide), xhi _ _ (by decide), xlo _ _ (by decide)]; exact BitVec.extractLsb'_eq_self,
   show BitVec.extractLsb' (n := 6 + 2 + 3 + 3 + 6 + 6 + 3) 3 6 (f0 ++ f1 ++ f2 ++ f3 ++ f4 ++ f5 ++ f6) = f5 from by rw [xhi _ _ (by decide), xlo _ _ (by decide)]; exact BitVec.extractLsb'_eq_self,
   show BitVec.extractLsb' (n := 6 + 2 + 3 + 3 + 6 + 6 + 3) 0 3 (f0 ++ f1 ++ f2 ++ f3 ++ f4 ++ f5 ++ f6) = f6 from by rw [xlo _ _ (by decide)]; exact BitVec.extractLsb'_eq_self⟩

/-! ### Dispatch on the major opcode (Tables 2.7, 2.8) -/

theorem Encoding.decC01_of (x : BitVec 28) (h : BitVec.extractLsb' 22 6 x = 0x1#6) : decodeCBody x = decC01 x := by
  unfold decodeCBody; rw [h]; rfl

theorem Encoding.decC02_of (x : BitVec 28) (h : BitVec.extractLsb' 22 6 x = 0x2#6) : decodeCBody x = decC02 x := by
  unfold decodeCBody; rw [h]; rfl

theorem Encoding.decC03_of (x : BitVec 28) (h : BitVec.extractLsb' 22 6 x = 0x3#6) : decodeCBody x = decC03 x := by
  unfold decodeCBody; rw [h]; rfl

theorem Encoding.decC04_of (x : BitVec 28) (h : BitVec.extractLsb' 22 6 x = 0x4#6) : decodeCBody x = decC04 x := by
  unfold decodeCBody; rw [h]; rfl

theorem Encoding.decC05_of (x : BitVec 28) (h : BitVec.extractLsb' 22 6 x = 0x5#6) : decodeCBody x = decC05 x := by
  unfold decodeCBody; rw [h]; rfl

theorem Encoding.decC06_of (x : BitVec 28) (h : BitVec.extractLsb' 22 6 x = 0x6#6) : decodeCBody x = decC06 x := by
  unfold decodeCBody; rw [h]; rfl

theorem Encoding.decC08_of (x : BitVec 28) (h : BitVec.extractLsb' 22 6 x = 0x8#6) : decodeCBody x = decC08 x := by
  unfold decodeCBody; rw [h]; rfl

theorem Encoding.decC09_of (x : BitVec 28) (h : BitVec.extractLsb' 22 6 x = 0x9#6) : decodeCBody x = decC09 x := by
  unfold decodeCBody; rw [h]; rfl

theorem Encoding.decC0A_of (x : BitVec 28) (h : BitVec.extractLsb' 22 6 x = 0xa#6) : decodeCBody x = decC0A x := by
  unfold decodeCBody; rw [h]; rfl

theorem Encoding.decC0B_of (x : BitVec 28) (h : BitVec.extractLsb' 22 6 x = 0xb#6) : decodeCBody x = decC0B x := by
  unfold decodeCBody; rw [h]; rfl

theorem Encoding.decC10_of (x : BitVec 28) (h : BitVec.extractLsb' 22 6 x = 0x10#6) : decodeCBody x = decC10 x := by
  unfold decodeCBody; rw [h]; rfl

theorem Encoding.decC11_of (x : BitVec 28) (h : BitVec.extractLsb' 22 6 x = 0x11#6) : decodeCBody x = decC11 x := by
  unfold decodeCBody; rw [h]; rfl

theorem Encoding.decC12_of (x : BitVec 28) (h : BitVec.extractLsb' 22 6 x = 0x12#6) : decodeCBody x = decC12 x := by
  unfold decodeCBody; rw [h]; rfl

theorem Encoding.decC13_of (x : BitVec 28) (h : BitVec.extractLsb' 22 6 x = 0x13#6) : decodeCBody x = decC13 x := by
  unfold decodeCBody; rw [h]; rfl

theorem Encoding.decC14_of (x : BitVec 28) (h : BitVec.extractLsb' 22 6 x = 0x14#6) : decodeCBody x = decC14 x := by
  unfold decodeCBody; rw [h]; rfl

theorem Encoding.decC15_of (x : BitVec 28) (h : BitVec.extractLsb' 22 6 x = 0x15#6) : decodeCBody x = decC15 x := by
  unfold decodeCBody; rw [h]; rfl

theorem Encoding.decC16_of (x : BitVec 28) (h : BitVec.extractLsb' 22 6 x = 0x16#6) : decodeCBody x = decC16 x := by
  unfold decodeCBody; rw [h]; rfl

theorem Encoding.decC17_of (x : BitVec 28) (h : BitVec.extractLsb' 22 6 x = 0x17#6) : decodeCBody x = decC17 x := by
  unfold decodeCBody; rw [h]; rfl

theorem Encoding.decC18_of (x : BitVec 28) (h : BitVec.extractLsb' 22 6 x = 0x18#6) : decodeCBody x = decC18 x := by
  unfold decodeCBody; rw [h]; rfl

theorem Encoding.decC19_of (x : BitVec 28) (h : BitVec.extractLsb' 22 6 x = 0x19#6) : decodeCBody x = decC19 x := by
  unfold decodeCBody; rw [h]; rfl

theorem Encoding.decC1A_of (x : BitVec 28) (h : BitVec.extractLsb' 22 6 x = 0x1a#6) : decodeCBody x = decC1A x := by
  unfold decodeCBody; rw [h]; rfl

theorem Encoding.decC1B_of (x : BitVec 28) (h : BitVec.extractLsb' 22 6 x = 0x1b#6) : decodeCBody x = decC1B x := by
  unfold decodeCBody; rw [h]; rfl

theorem Encoding.decC1C_of (x : BitVec 28) (h : BitVec.extractLsb' 22 6 x = 0x1c#6) : decodeCBody x = decC1C x := by
  unfold decodeCBody; rw [h]; rfl

theorem Encoding.decC1D_of (x : BitVec 28) (h : BitVec.extractLsb' 22 6 x = 0x1d#6) : decodeCBody x = decC1D x := by
  unfold decodeCBody; rw [h]; rfl

theorem Encoding.decC1E_of (x : BitVec 28) (h : BitVec.extractLsb' 22 6 x = 0x1e#6) : decodeCBody x = decC1E x := by
  unfold decodeCBody; rw [h]; rfl

theorem Encoding.decC1F_of (x : BitVec 28) (h : BitVec.extractLsb' 22 6 x = 0x1f#6) : decodeCBody x = decC1F x := by
  unfold decodeCBody; rw [h]; rfl

theorem Encoding.decC20_of (x : BitVec 28) (h : BitVec.extractLsb' 22 6 x = 0x20#6) : decodeCBody x = decC20 x := by
  unfold decodeCBody; rw [h]; rfl

theorem Encoding.decC21_of (x : BitVec 28) (h : BitVec.extractLsb' 22 6 x = 0x21#6) : decodeCBody x = decC21 x := by
  unfold decodeCBody; rw [h]; rfl

theorem Encoding.decC22_of (x : BitVec 28) (h : BitVec.extractLsb' 22 6 x = 0x22#6) : decodeCBody x = decC22 x := by
  unfold decodeCBody; rw [h]; rfl

theorem Encoding.decC23_of (x : BitVec 28) (h : BitVec.extractLsb' 22 6 x = 0x23#6) : decodeCBody x = decC23 x := by
  unfold decodeCBody; rw [h]; rfl

theorem Encoding.decC24_of (x : BitVec 28) (h : BitVec.extractLsb' 22 6 x = 0x24#6) : decodeCBody x = decC24 x := by
  unfold decodeCBody; rw [h]; rfl

theorem Encoding.decC25_of (x : BitVec 28) (h : BitVec.extractLsb' 22 6 x = 0x25#6) : decodeCBody x = decC25 x := by
  unfold decodeCBody; rw [h]; rfl

theorem Encoding.decC26_of (x : BitVec 28) (h : BitVec.extractLsb' 22 6 x = 0x26#6) : decodeCBody x = decC26 x := by
  unfold decodeCBody; rw [h]; rfl

theorem Encoding.decC27_of (x : BitVec 28) (h : BitVec.extractLsb' 22 6 x = 0x27#6) : decodeCBody x = decC27 x := by
  unfold decodeCBody; rw [h]; rfl

theorem Encoding.decC38_of (x : BitVec 28) (h : BitVec.extractLsb' 22 6 x = 0x38#6) : decodeCBody x = decC38 x := by
  unfold decodeCBody; rw [h]; rfl

theorem Encoding.decC39_of (x : BitVec 28) (h : BitVec.extractLsb' 22 6 x = 0x39#6) : decodeCBody x = decC39 x := by
  unfold decodeCBody; rw [h]; rfl

theorem Encoding.decC3A_of (x : BitVec 28) (h : BitVec.extractLsb' 22 6 x = 0x3a#6) : decodeCBody x = decC3A x := by
  unfold decodeCBody; rw [h]; rfl

theorem Encoding.decA01_of (x : BitVec 29) (h : BitVec.extractLsb' 23 6 x = 0x1#6) : decodeABody x = decA01 x := by
  unfold decodeABody; rw [h]; rfl

theorem Encoding.decA02_of (x : BitVec 29) (h : BitVec.extractLsb' 23 6 x = 0x2#6) : decodeABody x = decA02 x := by
  unfold decodeABody; rw [h]; rfl

theorem Encoding.decA03_of (x : BitVec 29) (h : BitVec.extractLsb' 23 6 x = 0x3#6) : decodeABody x = decA03 x := by
  unfold decodeABody; rw [h]; rfl

theorem Encoding.decA04_of (x : BitVec 29) (h : BitVec.extractLsb' 23 6 x = 0x4#6) : decodeABody x = decA04 x := by
  unfold decodeABody; rw [h]; rfl

theorem Encoding.decA05_of (x : BitVec 29) (h : BitVec.extractLsb' 23 6 x = 0x5#6) : decodeABody x = decA05 x := by
  unfold decodeABody; rw [h]; rfl

theorem Encoding.decA06_of (x : BitVec 29) (h : BitVec.extractLsb' 23 6 x = 0x6#6) : decodeABody x = decA06 x := by
  unfold decodeABody; rw [h]; rfl

theorem Encoding.decA07_of (x : BitVec 29) (h : BitVec.extractLsb' 23 6 x = 0x7#6) : decodeABody x = decA07 x := by
  unfold decodeABody; rw [h]; rfl

theorem Encoding.decA08_of (x : BitVec 29) (h : BitVec.extractLsb' 23 6 x = 0x8#6) : decodeABody x = decA08 x := by
  unfold decodeABody; rw [h]; rfl

theorem Encoding.decA09_of (x : BitVec 29) (h : BitVec.extractLsb' 23 6 x = 0x9#6) : decodeABody x = decA09 x := by
  unfold decodeABody; rw [h]; rfl

theorem Encoding.decA10_of (x : BitVec 29) (h : BitVec.extractLsb' 23 6 x = 0x10#6) : decodeABody x = decA10 x := by
  unfold decodeABody; rw [h]; rfl

theorem Encoding.decA11_of (x : BitVec 29) (h : BitVec.extractLsb' 23 6 x = 0x11#6) : decodeABody x = decA11 x := by
  unfold decodeABody; rw [h]; rfl

theorem Encoding.decA12_of (x : BitVec 29) (h : BitVec.extractLsb' 23 6 x = 0x12#6) : decodeABody x = decA12 x := by
  unfold decodeABody; rw [h]; rfl

theorem Encoding.decA13_of (x : BitVec 29) (h : BitVec.extractLsb' 23 6 x = 0x13#6) : decodeABody x = decA13 x := by
  unfold decodeABody; rw [h]; rfl

theorem Encoding.decA14_of (x : BitVec 29) (h : BitVec.extractLsb' 23 6 x = 0x14#6) : decodeABody x = decA14 x := by
  unfold decodeABody; rw [h]; rfl

theorem Encoding.decA1B_of (x : BitVec 29) (h : BitVec.extractLsb' 23 6 x = 0x1b#6) : decodeABody x = decA1B x := by
  unfold decodeABody; rw [h]; rfl

theorem Encoding.decA15_of (x : BitVec 29) (h : BitVec.extractLsb' 23 6 x = 0x15#6) : decodeABody x = decA15 x := by
  unfold decodeABody; rw [h]; rfl

theorem Encoding.decA16_of (x : BitVec 29) (h : BitVec.extractLsb' 23 6 x = 0x16#6) : decodeABody x = decA16 x := by
  unfold decodeABody; rw [h]; rfl

theorem Encoding.decA17_of (x : BitVec 29) (h : BitVec.extractLsb' 23 6 x = 0x17#6) : decodeABody x = decA17 x := by
  unfold decodeABody; rw [h]; rfl

theorem Encoding.decA18_of (x : BitVec 29) (h : BitVec.extractLsb' 23 6 x = 0x18#6) : decodeABody x = decA18 x := by
  unfold decodeABody; rw [h]; rfl

theorem Encoding.decA19_of (x : BitVec 29) (h : BitVec.extractLsb' 23 6 x = 0x19#6) : decodeABody x = decA19 x := by
  unfold decodeABody; rw [h]; rfl

theorem Encoding.decA1A_of (x : BitVec 29) (h : BitVec.extractLsb' 23 6 x = 0x1a#6) : decodeABody x = decA1A x := by
  unfold decodeABody; rw [h]; rfl

theorem Encoding.decA20_of (x : BitVec 29) (h : BitVec.extractLsb' 23 6 x = 0x20#6) : decodeABody x = decA20 x := by
  unfold decodeABody; rw [h]; rfl

theorem Encoding.decA21_of (x : BitVec 29) (h : BitVec.extractLsb' 23 6 x = 0x21#6) : decodeABody x = decA21 x := by
  unfold decodeABody; rw [h]; rfl

theorem Encoding.decA22_of (x : BitVec 29) (h : BitVec.extractLsb' 23 6 x = 0x22#6) : decodeABody x = decA22 x := by
  unfold decodeABody; rw [h]; rfl

theorem Encoding.decA23_of (x : BitVec 29) (h : BitVec.extractLsb' 23 6 x = 0x23#6) : decodeABody x = decA23 x := by
  unfold decodeABody; rw [h]; rfl

theorem Encoding.decA24_of (x : BitVec 29) (h : BitVec.extractLsb' 23 6 x = 0x24#6) : decodeABody x = decA24 x := by
  unfold decodeABody; rw [h]; rfl


/-! ### One lemma per instruction -/

theorem Encoding.nopC : Encoding.Statement (.nopC) := by
  intro hw
  refine ⟨fun _ h => ?_, fun _ h => (by cases h)⟩
  cases h
  obtain ⟨h0, h1⟩ := Encoding.fmt_C_6_22 0x0#6 0#22
  simp only [decodeCBody, h0, h1]
  rfl

theorem Encoding.bEqz (a : SReg) (off : BitVec 13) : Encoding.Statement (.bEqz a off) := by
  intro hw
  refine ⟨fun _ h => ?_, fun _ h => (by cases h)⟩
  cases h
  obtain ⟨h0, h1, h2, h3⟩ := Encoding.fmt_C_6_6_3_13 0x1#6 (a) 0#3 (off)
  rw [Encoding.decC01_of _ h0]; simp only [decC01, h1, h2, h3]
  rfl

theorem Encoding.bNez (a : SReg) (off : BitVec 13) : Encoding.Statement (.bNez a off) := by
  intro hw
  refine ⟨fun _ h => ?_, fun _ h => (by cases h)⟩
  cases h
  obtain ⟨h0, h1, h2, h3⟩ := Encoding.fmt_C_6_6_3_13 0x1#6 (a) 1#3 (off)
  rw [Encoding.decC01_of _ h0]; simp only [decC01, h1, h2, h3]
  rfl

theorem Encoding.bLtz (a : SReg) (off : BitVec 13) : Encoding.Statement (.bLtz a off) := by
  intro hw
  refine ⟨fun _ h => ?_, fun _ h => (by cases h)⟩
  cases h
  obtain ⟨h0, h1, h2, h3⟩ := Encoding.fmt_C_6_6_3_13 0x1#6 (a) 2#3 (off)
  rw [Encoding.decC01_of _ h0]; simp only [decC01, h1, h2, h3]
  rfl

theorem Encoding.bGez (a : SReg) (off : BitVec 13) : Encoding.Statement (.bGez a off) := by
  intro hw
  refine ⟨fun _ h => ?_, fun _ h => (by cases h)⟩
  cases h
  obtain ⟨h0, h1, h2, h3⟩ := Encoding.fmt_C_6_6_3_13 0x1#6 (a) 3#3 (off)
  rw [Encoding.decC01_of _ h0]; simp only [decC01, h1, h2, h3]
  rfl

theorem Encoding.bGtz (a : SReg) (off : BitVec 13) : Encoding.Statement (.bGtz a off) := by
  intro hw
  refine ⟨fun _ h => ?_, fun _ h => (by cases h)⟩
  cases h
  obtain ⟨h0, h1, h2, h3⟩ := Encoding.fmt_C_6_6_3_13 0x1#6 (a) 4#3 (off)
  rw [Encoding.decC01_of _ h0]; simp only [decC01, h1, h2, h3]
  rfl

theorem Encoding.bLez (a : SReg) (off : BitVec 13) : Encoding.Statement (.bLez a off) := by
  intro hw
  refine ⟨fun _ h => ?_, fun _ h => (by cases h)⟩
  cases h
  obtain ⟨h0, h1, h2, h3⟩ := Encoding.fmt_C_6_6_3_13 0x1#6 (a) 5#3 (off)
  rw [Encoding.decC01_of _ h0]; simp only [decC01, h1, h2, h3]
  rfl

theorem Encoding.bEq (a : SReg) (b : SReg) (off : BitVec 7) : Encoding.Statement (.bEq a b off) := by
  intro hw
  refine ⟨fun _ h => ?_, fun _ h => (by cases h)⟩
  cases h
  obtain ⟨h0, h1, h2, h3, h4⟩ := Encoding.fmt_C_6_6_6_3_7 0x2#6 (a) (b) 0#3 (off)
  rw [Encoding.decC02_of _ h0]; simp only [decC02, h1, h2, h3, h4]
  rfl

theorem Encoding.bNe (a : SReg) (b : SReg) (off : BitVec 7) : Encoding.Statement (.bNe a b off) := by
  intro hw
  refine ⟨fun _ h => ?_, fun _ h => (by cases h)⟩
  cases h
  obtain ⟨h0, h1, h2, h3, h4⟩ := Encoding.fmt_C_6_6_6_3_7 0x2#6 (a) (b) 1#3 (off)
  rw [Encoding.decC02_of _ h0]; simp only [decC02, h1, h2, h3, h4]
  rfl

theorem Encoding.bLt (a : SReg) (b : SReg) (off : BitVec 7) : Encoding.Statement (.bLt a b off) := by
  intro hw
  refine ⟨fun _ h => ?_, fun _ h => (by cases h)⟩
  cases h
  obtain ⟨h0, h1, h2, h3, h4⟩ := Encoding.fmt_C_6_6_6_3_7 0x2#6 (a) (b) 2#3 (off)
  rw [Encoding.decC02_of _ h0]; simp only [decC02, h1, h2, h3, h4]
  rfl

theorem Encoding.bGe (a : SReg) (b : SReg) (off : BitVec 7) : Encoding.Statement (.bGe a b off) := by
  intro hw
  refine ⟨fun _ h => ?_, fun _ h => (by cases h)⟩
  cases h
  obtain ⟨h0, h1, h2, h3, h4⟩ := Encoding.fmt_C_6_6_6_3_7 0x2#6 (a) (b) 3#3 (off)
  rw [Encoding.decC02_of _ h0]; simp only [decC02, h1, h2, h3, h4]
  rfl

theorem Encoding.bLtn (a : SReg) (b : SReg) (off : BitVec 7) : Encoding.Statement (.bLtn a b off) := by
  intro hw
  refine ⟨fun _ h => ?_, fun _ h => (by cases h)⟩
  cases h
  obtain ⟨h0, h1, h2, h3, h4⟩ := Encoding.fmt_C_6_6_6_3_7 0x2#6 (a) (b) 4#3 (off)
  rw [Encoding.decC02_of _ h0]; simp only [decC02, h1, h2, h3, h4]
  rfl

theorem Encoding.bGen (a : SReg) (b : SReg) (off : BitVec 7) : Encoding.Statement (.bGen a b off) := by
  intro hw
  refine ⟨fun _ h => ?_, fun _ h => (by cases h)⟩
  cases h
  obtain ⟨h0, h1, h2, h3, h4⟩ := Encoding.fmt_C_6_6_6_3_7 0x2#6 (a) (b) 5#3 (off)
  rw [Encoding.decC02_of _ h0]; simp only [decC02, h1, h2, h3, h4]
  rfl

theorem Encoding.j (off : BitVec 22) : Encoding.Statement (.j off) := by
  intro hw
  refine ⟨fun _ h => ?_, fun _ h => (by cases h)⟩
  cases h
  obtain ⟨h0, h1⟩ := Encoding.fmt_C_6_22 0x3#6 (off)
  rw [Encoding.decC03_of _ h0]; simp only [decC03, h1]

theorem Encoding.jl (off : BitVec 22) : Encoding.Statement (.jl off) := by
  intro hw
  refine ⟨fun _ h => ?_, fun _ h => (by cases h)⟩
  cases h
  obtain ⟨h0, h1⟩ := Encoding.fmt_C_6_22 0x4#6 (off)
  rw [Encoding.decC04_of _ h0]; simp only [decC04, h1]

theorem Encoding.jr (a : SReg) : Encoding.Statement (.jr a) := by
  intro hw
  refine ⟨fun _ h => ?_, fun _ h => (by cases h)⟩
  cases h
  obtain ⟨h0, h1, h2, h3, h4⟩ := Encoding.fmt_C_6_6_6_6_4 0x5#6 0#6 (a) 0#6 0#4
  rw [Encoding.decC05_of _ h0]; simp only [decC05, h1, h2, h3, h4]
  rfl

theorem Encoding.jlr (d : SReg) (a : SReg) : Encoding.Statement (.jlr d a) := by
  intro hw
  refine ⟨fun _ h => ?_, fun _ h => (by cases h)⟩
  cases h
  obtain ⟨h0, h1, h2, h3, h4⟩ := Encoding.fmt_C_6_6_6_6_4 0x5#6 (d) (a) 0#6 1#4
  rw [Encoding.decC05_of _ h0]; simp only [decC05, h1, h2, h3, h4]
  rfl

theorem Encoding.nestClaim (d : SReg) (a : SReg) : Encoding.Statement (.nestClaim d a) := by
  intro hw
  refine ⟨fun _ h => ?_, fun _ h => (by cases h)⟩
  cases h
  obtain ⟨h0, h1, h2, h3, h4⟩ := Encoding.fmt_C_6_6_6_6_4 0x6#6 (d) (a) 0#6 0#4
  rw [Encoding.decC06_of _ h0]; simp only [decC06, h1, h2, h3, h4]
  rfl

theorem Encoding.nestNext (a : SReg) : Encoding.Statement (.nestNext a) := by
  intro hw
  refine ⟨fun _ h => ?_, fun _ h => (by cases h)⟩
  cases h
  obtain ⟨h0, h1, h2, h3, h4⟩ := Encoding.fmt_C_6_6_6_6_4 0x6#6 0#6 (a) 0#6 1#4
  rw [Encoding.decC06_of _ h0]; simp only [decC06, h1, h2, h3, h4]
  rfl

theorem Encoding.leaS (d : SReg) (a : SReg) (b : SReg) (sh : BitVec 2) : Encoding.Statement (.leaS d a b sh) := by
  intro hw
  refine ⟨fun _ h => ?_, fun _ h => (by cases h)⟩
  cases h
  obtain ⟨h0, h1, h2, h3, h4, h5⟩ := Encoding.fmt_C_6_6_6_6_2_2 0x8#6 (d) (a) (b) 0#2 (sh)
  have hm : BitVec.extractLsb' 0 4 (0x8#6 ++ (d) ++ (a) ++ (b) ++ 0#2 ++ (sh) : BitVec 28) = 0#2 ++ (sh) :=
    show BitVec.extractLsb' (n := 6 + 6 + 6 + 6 + 2 + 2) 0 (2 + 2) (0x8#6 ++ (d) ++ (a) ++ (b) ++ 0#2 ++ (sh)) = 0#2 ++ (sh) from by
    exact xlo2 _ _ _
  rw [Encoding.decC08_of _ h0]; simp only [decC08, h1, h2, h3, h4, h5, hm]
  clear h0 h1 h2 h3 h4 h5 hm
  rcases twoBits sh with rfl | rfl | rfl | rfl <;> rfl

theorem Encoding.leaI (d : SReg) (a : SReg) (i : IReg) (sh : BitVec 2) : Encoding.Statement (.leaI d a i sh) := by
  intro hw
  refine ⟨fun _ h => ?_, fun _ h => (by cases h)⟩
  cases h
  obtain ⟨h0, h1, h2, h3, h4, h5⟩ := Encoding.fmt_C_6_6_6_6_2_2 0x8#6 (d) (a) (i.setWidth 6) 1#2 (sh)
  have hm : BitVec.extractLsb' 0 4 (0x8#6 ++ (d) ++ (a) ++ (i.setWidth 6) ++ 1#2 ++ (sh) : BitVec 28) = 1#2 ++ (sh) :=
    show BitVec.extractLsb' (n := 6 + 6 + 6 + 6 + 2 + 2) 0 (2 + 2) (0x8#6 ++ (d) ++ (a) ++ (i.setWidth 6) ++ 1#2 ++ (sh)) = 1#2 ++ (sh) from by
    exact xlo2 _ _ _
  rw [Encoding.decC08_of _ h0]; simp only [decC08, h1, h2, h3, h4, h5, hm]
  clear h0 h1 h2 h3 h4 h5 hm
  rcases twoBits sh with rfl | rfl | rfl | rfl <;> simp [iregOf_wide]

theorem Encoding.li (d : SReg) (imm : BitVec 16) : Encoding.Statement (.li d imm) := by
  intro hw
  refine ⟨fun _ h => ?_, fun _ h => (by cases h)⟩
  cases h
  obtain ⟨h0, h1, h2⟩ := Encoding.fmt_C_6_6_16 0x9#6 (d) (imm)
  rw [Encoding.decC09_of _ h0]; simp only [decC09, h1, h2]

theorem Encoding.lis (d : SReg) (imm : BitVec 16) : Encoding.Statement (.lis d imm) := by
  intro hw
  refine ⟨fun _ h => ?_, fun _ h => (by cases h)⟩
  cases h
  obtain ⟨h0, h1, h2⟩ := Encoding.fmt_C_6_6_16 0xa#6 (d) (imm)
  rw [Encoding.decC0A_of _ h0]; simp only [decC0A, h1, h2]

theorem Encoding.mfc (d : SReg) (c : BitVec 6) : Encoding.Statement (.mfc d c) := by
  intro hw
  refine ⟨fun _ h => ?_, fun _ h => (by cases h)⟩
  cases h
  obtain ⟨h0, h1, h2, h3, h4⟩ := Encoding.fmt_C_6_6_6_6_4 0xb#6 (d) (c) 0#6 0#4
  rw [Encoding.decC0B_of _ h0]; simp only [decC0B, h1, h2, h3, h4]
  exact if_pos hw

theorem Encoding.mtc (c : BitVec 6) (b : SReg) : Encoding.Statement (.mtc c b) := by
  intro hw
  refine ⟨fun _ h => ?_, fun _ h => (by cases h)⟩
  cases h
  obtain ⟨h0, h1, h2, h3, h4⟩ := Encoding.fmt_C_6_6_6_6_4 0xb#6 0#6 (c) (b) 1#4
  rw [Encoding.decC0B_of _ h0]; simp only [decC0B, h1, h2, h3, h4]
  exact if_pos hw

theorem Encoding.flagsWrite (core : Nat) : Encoding.Statement (.flagsWrite core) :=
  fun _ => ⟨fun _ h => (by cases h), fun _ h => (by cases h)⟩

theorem Encoding.ldL (t : SReg) (b : SReg) (z : BitVec 2) (x : BitVec 1) (h : BitVec 2) (o : BitVec 1) (off : BitVec 4) : Encoding.Statement (.ldL t b z x h o off) := by
  intro hw
  refine ⟨fun _ h => ?_, fun _ h => (by cases h)⟩
  cases h
  obtain ⟨h0, h1, h2, h3, h4, h5, h6, h7⟩ := Encoding.fmt_C_6_6_6_2_1_2_1_4 0x10#6 (t) (b) (z) (x) (h) (o) (off)
  rw [Encoding.decC10_of _ h0]; simp only [decC10, h1, h2, h3, h4, h5, h6, h7]

theorem Encoding.stL (t : SReg) (b : SReg) (z : BitVec 2) (x : BitVec 1) (h : BitVec 2) (o : BitVec 1) (off : BitVec 4) : Encoding.Statement (.stL t b z x h o off) := by
  intro hw
  refine ⟨fun _ h => ?_, fun _ h => (by cases h)⟩
  cases h
  obtain ⟨h0, h1, h2, h3, h4, h5, h6, h7⟩ := Encoding.fmt_C_6_6_6_2_1_2_1_4 0x11#6 (t) (b) (z) (x) (h) (o) (off)
  rw [Encoding.decC11_of _ h0]; simp only [decC11, h1, h2, h3, h4, h5, h6, h7]

theorem Encoding.ldS (t : SReg) (tile : BitVec 8) (b : SReg) (z : BitVec 2) : Encoding.Statement (.ldS t tile b z) := by
  intro hw
  refine ⟨fun _ h => ?_, fun _ h => (by cases h)⟩
  cases h
  obtain ⟨h0, h1, h2, h3, h4⟩ := Encoding.fmt_C_6_6_8_6_2 0x12#6 (t) (tile) (b) (z)
  rw [Encoding.decC12_of _ h0]; simp only [decC12, h1, h2, h3, h4]

theorem Encoding.stS (t : SReg) (tile : BitVec 8) (b : SReg) (z : BitVec 2) : Encoding.Statement (.stS t tile b z) := by
  intro hw
  refine ⟨fun _ h => ?_, fun _ h => (by cases h)⟩
  cases h
  obtain ⟨h0, h1, h2, h3, h4⟩ := Encoding.fmt_C_6_6_8_6_2 0x13#6 (t) (tile) (b) (z)
  rw [Encoding.decC13_of _ h0]; simp only [decC13, h1, h2, h3, h4]

theorem Encoding.ldG (t : SReg) (b : SReg) (z : BitVec 2) (x : BitVec 1) (h : BitVec 2) (o : BitVec 1) (off : BitVec 4) : Encoding.Statement (.ldG t b z x h o off) := by
  intro hw
  refine ⟨fun _ h => ?_, fun _ h => (by cases h)⟩
  cases h
  obtain ⟨h0, h1, h2, h3, h4, h5, h6, h7⟩ := Encoding.fmt_C_6_6_6_2_1_2_1_4 0x14#6 (t) (b) (z) (x) (h) (o) (off)
  rw [Encoding.decC14_of _ h0]; simp only [decC14, h1, h2, h3, h4, h5, h6, h7]

theorem Encoding.stG (t : SReg) (b : SReg) (z : BitVec 2) (x : BitVec 1) (h : BitVec 2) (o : BitVec 1) (off : BitVec 4) : Encoding.Statement (.stG t b z x h o off) := by
  intro hw
  refine ⟨fun _ h => ?_, fun _ h => (by cases h)⟩
  cases h
  obtain ⟨h0, h1, h2, h3, h4, h5, h6, h7⟩ := Encoding.fmt_C_6_6_6_2_1_2_1_4 0x15#6 (t) (b) (z) (x) (h) (o) (off)
  rw [Encoding.decC15_of _ h0]; simp only [decC15, h1, h2, h3, h4, h5, h6, h7]

theorem Encoding.ldLQ (t : VReg) (b : SReg) (h : BitVec 2) (o : BitVec 1) (off : BitVec 4) : Encoding.Statement (.ldLQ t b h o off) := by
  intro hw
  refine ⟨fun _ h => ?_, fun _ h => (by cases h)⟩
  cases h
  obtain ⟨h0, h1, h2, h3, h4, h5, h6, h7⟩ := Encoding.fmt_C_6_6_6_2_1_2_1_4 0x16#6 (t.setWidth 6) (b) 0#2 0#1 (h) (o) (off)
  rw [Encoding.decC16_of _ h0]; simp only [decC16, h1, h2, h3, h4, h5, h6, h7]
  simp [vregOf_wide]

theorem Encoding.ldGQ (t : VReg) (b : SReg) (h : BitVec 2) (o : BitVec 1) (off : BitVec 4) : Encoding.Statement (.ldGQ t b h o off) := by
  intro hw
  refine ⟨fun _ h => ?_, fun _ h => (by cases h)⟩
  cases h
  obtain ⟨h0, h1, h2, h3, h4, h5, h6, h7⟩ := Encoding.fmt_C_6_6_6_2_1_2_1_4 0x16#6 (t.setWidth 6) (b) 1#2 0#1 (h) (o) (off)
  rw [Encoding.decC16_of _ h0]; simp only [decC16, h1, h2, h3, h4, h5, h6, h7]
  simp [vregOf_wide]

theorem Encoding.ldGW4 (t : VReg) (b : SReg) (h : BitVec 2) (o : BitVec 1) (off : BitVec 4) : Encoding.Statement (.ldGW4 t b h o off) := by
  intro hw
  refine ⟨fun _ h => ?_, fun _ h => (by cases h)⟩
  cases h
  obtain ⟨h0, h1, h2, h3, h4, h5, h6, h7⟩ := Encoding.fmt_C_6_6_6_2_1_2_1_4 0x16#6 (t.setWidth 6) (b) 2#2 0#1 (h) (o) (off)
  rw [Encoding.decC16_of _ h0]; simp only [decC16, h1, h2, h3, h4, h5, h6, h7]
  simp only [vregOf_wide, Option.bind_some]; exact if_pos hw

theorem Encoding.ldGE4 (t : VReg) (b : SReg) (h : BitVec 2) (o : BitVec 1) (off : BitVec 4) : Encoding.Statement (.ldGE4 t b h o off) := by
  intro hw
  refine ⟨fun _ h => ?_, fun _ h => (by cases h)⟩
  cases h
  obtain ⟨h0, h1, h2, h3, h4, h5, h6, h7⟩ := Encoding.fmt_C_6_6_6_2_1_2_1_4 0x16#6 (t.setWidth 6) (b) 3#2 0#1 (h) (o) (off)
  rw [Encoding.decC16_of _ h0]; simp only [decC16, h1, h2, h3, h4, h5, h6, h7]
  simp [vregOf_wide]

theorem Encoding.stLQ (t : VReg) (b : SReg) (h : BitVec 2) (o : BitVec 1) (off : BitVec 4) : Encoding.Statement (.stLQ t b h o off) := by
  intro hw
  refine ⟨fun _ h => ?_, fun _ h => (by cases h)⟩
  cases h
  obtain ⟨h0, h1, h2, h3, h4, h5, h6, h7⟩ := Encoding.fmt_C_6_6_6_2_1_2_1_4 0x17#6 (t.setWidth 6) (b) 0#2 0#1 (h) (o) (off)
  rw [Encoding.decC17_of _ h0]; simp only [decC17, h1, h2, h3, h4, h5, h6, h7]
  simp [vregOf_wide]

theorem Encoding.stGQ (t : VReg) (b : SReg) (h : BitVec 2) (o : BitVec 1) (off : BitVec 4) : Encoding.Statement (.stGQ t b h o off) := by
  intro hw
  refine ⟨fun _ h => ?_, fun _ h => (by cases h)⟩
  cases h
  obtain ⟨h0, h1, h2, h3, h4, h5, h6, h7⟩ := Encoding.fmt_C_6_6_6_2_1_2_1_4 0x17#6 (t.setWidth 6) (b) 1#2 0#1 (h) (o) (off)
  rw [Encoding.decC17_of _ h0]; simp only [decC17, h1, h2, h3, h4, h5, h6, h7]
  simp [vregOf_wide]

theorem Encoding.ldc (t : SReg) (b : SReg) (z : BitVec 2) (x : BitVec 1) (h : BitVec 2) (off : BitVec 4) : Encoding.Statement (.ldc t b z x h off) := by
  intro hw
  refine ⟨fun _ h => ?_, fun _ h => (by cases h)⟩
  cases h
  obtain ⟨h0, h1, h2, h3, h4, h5, h6, h7⟩ := Encoding.fmt_C_6_6_6_2_1_2_1_4 0x18#6 (t) (b) (z) (x) (h) 0#1 (off)
  rw [Encoding.decC18_of _ h0]; simp only [decC18, h1, h2, h3, h4, h5, h6, h7]
  rfl

theorem Encoding.rocInv : Encoding.Statement (.rocInv) := by
  intro hw
  refine ⟨fun _ h => ?_, fun _ h => (by cases h)⟩
  cases h
  obtain ⟨h0, h1, h2, h3, h4, h5, h6, h7⟩ := Encoding.fmt_C_6_6_6_2_1_2_1_4 0x18#6 0#6 0#6 0#2 0#1 0#2 1#1 0#4
  rw [Encoding.decC18_of _ h0]; simp only [decC18, h1, h2, h3, h4, h5, h6, h7]
  rfl

theorem Encoding.tileClaim (d : SReg) (a : SReg) (b : SReg) : Encoding.Statement (.tileClaim d a b) := by
  intro hw
  refine ⟨fun _ h => ?_, fun _ h => (by cases h)⟩
  cases h
  obtain ⟨h0, h1, h2, h3, h4⟩ := Encoding.fmt_C_6_6_6_6_4 0x19#6 (d) (a) (b) 0#4
  rw [Encoding.decC19_of _ h0]; simp only [decC19, h1, h2, h3, h4]
  rfl

theorem Encoding.tileFree (a : SReg) : Encoding.Statement (.tileFree a) := by
  intro hw
  refine ⟨fun _ h => ?_, fun _ h => (by cases h)⟩
  cases h
  obtain ⟨h0, h1, h2, h3, h4⟩ := Encoding.fmt_C_6_6_6_6_4 0x19#6 0#6 (a) 0#6 1#4
  rw [Encoding.decC19_of _ h0]; simp only [decC19, h1, h2, h3, h4]
  rfl

theorem Encoding.tileFill (a : SReg) : Encoding.Statement (.tileFill a) := by
  intro hw
  refine ⟨fun _ h => ?_, fun _ h => (by cases h)⟩
  cases h
  obtain ⟨h0, h1, h2, h3, h4⟩ := Encoding.fmt_C_6_6_6_6_4 0x19#6 0#6 (a) 0#6 2#4
  rw [Encoding.decC19_of _ h0]; simp only [decC19, h1, h2, h3, h4]
  rfl

theorem Encoding.tileReady (a : SReg) : Encoding.Statement (.tileReady a) := by
  intro hw
  refine ⟨fun _ h => ?_, fun _ h => (by cases h)⟩
  cases h
  obtain ⟨h0, h1, h2, h3, h4⟩ := Encoding.fmt_C_6_6_6_6_4 0x19#6 0#6 (a) 0#6 3#4
  rw [Encoding.decC19_of _ h0]; simp only [decC19, h1, h2, h3, h4]
  rfl

theorem Encoding.tileDrop (a : SReg) : Encoding.Statement (.tileDrop a) := by
  intro hw
  refine ⟨fun _ h => ?_, fun _ h => (by cases h)⟩
  cases h
  obtain ⟨h0, h1, h2, h3, h4⟩ := Encoding.fmt_C_6_6_6_6_4 0x19#6 0#6 (a) 0#6 4#4
  rw [Encoding.decC19_of _ h0]; simp only [decC19, h1, h2, h3, h4]
  rfl

theorem Encoding.tileStat (d : SReg) (a : SReg) : Encoding.Statement (.tileStat d a) := by
  intro hw
  refine ⟨fun _ h => ?_, fun _ h => (by cases h)⟩
  cases h
  obtain ⟨h0, h1, h2, h3, h4⟩ := Encoding.fmt_C_6_6_6_6_4 0x19#6 (d) (a) 0#6 5#4
  rw [Encoding.decC19_of _ h0]; simp only [decC19, h1, h2, h3, h4]
  rfl

theorem Encoding.clean (a : SReg) (b : SReg) : Encoding.Statement (.clean a b) := by
  intro hw
  refine ⟨fun _ h => ?_, fun _ h => (by cases h)⟩
  cases h
  obtain ⟨h0, h1, h2, h3, h4⟩ := Encoding.fmt_C_6_6_6_6_4 0x1a#6 0#6 (a) (b) 0#4
  rw [Encoding.decC1A_of _ h0]; simp only [decC1A, h1, h2, h3, h4]
  rfl

theorem Encoding.upResume (a : SReg) : Encoding.Statement (.upResume a) := by
  intro hw
  refine ⟨fun _ h => ?_, fun _ h => (by cases h)⟩
  cases h
  obtain ⟨h0, h1, h2, h3, h4⟩ := Encoding.fmt_C_6_6_6_6_4 0x1a#6 0#6 (a) 0#6 1#4
  rw [Encoding.decC1A_of _ h0]; simp only [decC1A, h1, h2, h3, h4]
  rfl

theorem Encoding.cpCopy (d : SReg) (a : SReg) : Encoding.Statement (.cpCopy d a) := by
  intro hw
  refine ⟨fun _ h => ?_, fun _ h => (by cases h)⟩
  cases h
  obtain ⟨h0, h1, h2, h3, h4⟩ := Encoding.fmt_C_6_6_6_6_4 0x1b#6 (d) (a) 0#6 0#4
  rw [Encoding.decC1B_of _ h0]; simp only [decC1B, h1, h2, h3, h4]
  rfl

theorem Encoding.cpGather (d : SReg) (a : SReg) : Encoding.Statement (.cpGather d a) := by
  intro hw
  refine ⟨fun _ h => ?_, fun _ h => (by cases h)⟩
  cases h
  obtain ⟨h0, h1, h2, h3, h4⟩ := Encoding.fmt_C_6_6_6_6_4 0x1b#6 (d) (a) 0#6 1#4
  rw [Encoding.decC1B_of _ h0]; simp only [decC1B, h1, h2, h3, h4]
  rfl

theorem Encoding.cpScatter (d : SReg) (a : SReg) : Encoding.Statement (.cpScatter d a) := by
  intro hw
  refine ⟨fun _ h => ?_, fun _ h => (by cases h)⟩
  cases h
  obtain ⟨h0, h1, h2, h3, h4⟩ := Encoding.fmt_C_6_6_6_6_4 0x1b#6 (d) (a) 0#6 2#4
  rw [Encoding.decC1B_of _ h0]; simp only [decC1B, h1, h2, h3, h4]
  rfl

theorem Encoding.cpFill (d : SReg) (a : SReg) (b : SReg) : Encoding.Statement (.cpFill d a b) := by
  intro hw
  refine ⟨fun _ h => ?_, fun _ h => (by cases h)⟩
  cases h
  obtain ⟨h0, h1, h2, h3, h4⟩ := Encoding.fmt_C_6_6_6_6_4 0x1b#6 (d) (a) (b) 3#4
  rw [Encoding.decC1B_of _ h0]; simp only [decC1B, h1, h2, h3, h4]
  rfl

theorem Encoding.cpMcast (d : SReg) (a : SReg) : Encoding.Statement (.cpMcast d a) := by
  intro hw
  refine ⟨fun _ h => ?_, fun _ h => (by cases h)⟩
  cases h
  obtain ⟨h0, h1, h2, h3, h4⟩ := Encoding.fmt_C_6_6_6_6_4 0x1b#6 (d) (a) 0#6 4#4
  rw [Encoding.decC1B_of _ h0]; simp only [decC1B, h1, h2, h3, h4]
  rfl

theorem Encoding.cpWalk (d : SReg) (a : SReg) : Encoding.Statement (.cpWalk d a) := by
  intro hw
  refine ⟨fun _ h => ?_, fun _ h => (by cases h)⟩
  cases h
  obtain ⟨h0, h1, h2, h3, h4⟩ := Encoding.fmt_C_6_6_6_6_4 0x1b#6 (d) (a) 0#6 5#4
  rw [Encoding.decC1B_of _ h0]; simp only [decC1B, h1, h2, h3, h4]
  rfl

theorem Encoding.cpCow (d : SReg) (a : SReg) : Encoding.Statement (.cpCow d a) := by
  intro hw
  refine ⟨fun _ h => ?_, fun _ h => (by cases h)⟩
  cases h
  obtain ⟨h0, h1, h2, h3, h4⟩ := Encoding.fmt_C_6_6_6_6_4 0x1b#6 (d) (a) 0#6 6#4
  rw [Encoding.decC1B_of _ h0]; simp only [decC1B, h1, h2, h3, h4]
  rfl

theorem Encoding.cpWait (d : SReg) (a : SReg) : Encoding.Statement (.cpWait d a) := by
  intro hw
  refine ⟨fun _ h => ?_, fun _ h => (by cases h)⟩
  cases h
  obtain ⟨h0, h1, h2, h3, h4⟩ := Encoding.fmt_C_6_6_6_6_4 0x1b#6 (d) (a) 0#6 7#4
  rw [Encoding.decC1B_of _ h0]; simp only [decC1B, h1, h2, h3, h4]
  rfl

theorem Encoding.cpPoll (d : SReg) (a : SReg) : Encoding.Statement (.cpPoll d a) := by
  intro hw
  refine ⟨fun _ h => ?_, fun _ h => (by cases h)⟩
  cases h
  obtain ⟨h0, h1, h2, h3, h4⟩ := Encoding.fmt_C_6_6_6_6_4 0x1b#6 (d) (a) 0#6 8#4
  rw [Encoding.decC1B_of _ h0]; simp only [decC1B, h1, h2, h3, h4]
  rfl

theorem Encoding.cpCancel (d : SReg) (a : SReg) : Encoding.Statement (.cpCancel d a) := by
  intro hw
  refine ⟨fun _ h => ?_, fun _ h => (by cases h)⟩
  cases h
  obtain ⟨h0, h1, h2, h3, h4⟩ := Encoding.fmt_C_6_6_6_6_4 0x1b#6 (d) (a) 0#6 9#4
  rw [Encoding.decC1B_of _ h0]; simp only [decC1B, h1, h2, h3, h4]
  rfl

theorem Encoding.atomAdd (d : SReg) (a : SReg) (ty : BitVec 3) (o : BitVec 2) (p : BitVec 1) : Encoding.Statement (.atomAdd d a ty o p) := by
  intro hw
  refine ⟨fun _ h => ?_, fun _ h => (by cases h)⟩
  cases h
  obtain ⟨h0, h1, h2, h3, h4, h5, h6, h7⟩ := Encoding.fmt_C_6_6_6_3_3_2_1_1 0x1c#6 (d) (a) 0#3 (ty) (o) (p) 0#1
  rw [Encoding.decC1C_of _ h0]; simp only [decC1C, h1, h2, h3, h4, h5, h6, h7]
  exact if_pos hw

theorem Encoding.atomSwap (d : SReg) (a : SReg) (ty : BitVec 3) (o : BitVec 2) (p : BitVec 1) : Encoding.Statement (.atomSwap d a ty o p) := by
  intro hw
  refine ⟨fun _ h => ?_, fun _ h => (by cases h)⟩
  cases h
  obtain ⟨h0, h1, h2, h3, h4, h5, h6, h7⟩ := Encoding.fmt_C_6_6_6_3_3_2_1_1 0x1c#6 (d) (a) 1#3 (ty) (o) (p) 0#1
  rw [Encoding.decC1C_of _ h0]; simp only [decC1C, h1, h2, h3, h4, h5, h6, h7]
  exact if_pos hw

theorem Encoding.atomCas (d : SReg) (a : SReg) (ty : BitVec 3) (o : BitVec 2) (p : BitVec 1) : Encoding.Statement (.atomCas d a ty o p) := by
  intro hw
  refine ⟨fun _ h => ?_, fun _ h => (by cases h)⟩
  cases h
  obtain ⟨h0, h1, h2, h3, h4, h5, h6, h7⟩ := Encoding.fmt_C_6_6_6_3_3_2_1_1 0x1c#6 (d) (a) 2#3 (ty) (o) (p) 0#1
  rw [Encoding.decC1C_of _ h0]; simp only [decC1C, h1, h2, h3, h4, h5, h6, h7]
  exact if_pos hw

theorem Encoding.atomAnd (d : SReg) (a : SReg) (ty : BitVec 3) (o : BitVec 2) (p : BitVec 1) : Encoding.Statement (.atomAnd d a ty o p) := by
  intro hw
  refine ⟨fun _ h => ?_, fun _ h => (by cases h)⟩
  cases h
  obtain ⟨h0, h1, h2, h3, h4, h5, h6, h7⟩ := Encoding.fmt_C_6_6_6_3_3_2_1_1 0x1c#6 (d) (a) 3#3 (ty) (o) (p) 0#1
  rw [Encoding.decC1C_of _ h0]; simp only [decC1C, h1, h2, h3, h4, h5, h6, h7]
  exact if_pos hw

theorem Encoding.atomOr (d : SReg) (a : SReg) (ty : BitVec 3) (o : BitVec 2) (p : BitVec 1) : Encoding.Statement (.atomOr d a ty o p) := by
  intro hw
  refine ⟨fun _ h => ?_, fun _ h => (by cases h)⟩
  cases h
  obtain ⟨h0, h1, h2, h3, h4, h5, h6, h7⟩ := Encoding.fmt_C_6_6_6_3_3_2_1_1 0x1c#6 (d) (a) 4#3 (ty) (o) (p) 0#1
  rw [Encoding.decC1C_of _ h0]; simp only [decC1C, h1, h2, h3, h4, h5, h6, h7]
  exact if_pos hw

theorem Encoding.atomXor (d : SReg) (a : SReg) (ty : BitVec 3) (o : BitVec 2) (p : BitVec 1) : Encoding.Statement (.atomXor d a ty o p) := by
  intro hw
  refine ⟨fun _ h => ?_, fun _ h => (by cases h)⟩
  cases h
  obtain ⟨h0, h1, h2, h3, h4, h5, h6, h7⟩ := Encoding.fmt_C_6_6_6_3_3_2_1_1 0x1c#6 (d) (a) 5#3 (ty) (o) (p) 0#1
  rw [Encoding.decC1C_of _ h0]; simp only [decC1C, h1, h2, h3, h4, h5, h6, h7]
  exact if_pos hw

theorem Encoding.atomMin (d : SReg) (a : SReg) (ty : BitVec 3) (o : BitVec 2) (p : BitVec 1) : Encoding.Statement (.atomMin d a ty o p) := by
  intro hw
  refine ⟨fun _ h => ?_, fun _ h => (by cases h)⟩
  cases h
  obtain ⟨h0, h1, h2, h3, h4, h5, h6, h7⟩ := Encoding.fmt_C_6_6_6_3_3_2_1_1 0x1c#6 (d) (a) 6#3 (ty) (o) (p) 0#1
  rw [Encoding.decC1C_of _ h0]; simp only [decC1C, h1, h2, h3, h4, h5, h6, h7]
  exact if_pos hw

theorem Encoding.atomMax (d : SReg) (a : SReg) (ty : BitVec 3) (o : BitVec 2) (p : BitVec 1) : Encoding.Statement (.atomMax d a ty o p) := by
  intro hw
  refine ⟨fun _ h => ?_, fun _ h => (by cases h)⟩
  cases h
  obtain ⟨h0, h1, h2, h3, h4, h5, h6, h7⟩ := Encoding.fmt_C_6_6_6_3_3_2_1_1 0x1c#6 (d) (a) 7#3 (ty) (o) (p) 0#1
  rw [Encoding.decC1C_of _ h0]; simp only [decC1C, h1, h2, h3, h4, h5, h6, h7]
  exact if_pos hw

theorem Encoding.redAdd (d : SReg) (a : SReg) (ty : BitVec 3) (o : BitVec 2) (p : BitVec 1) : Encoding.Statement (.redAdd d a ty o p) := by
  intro hw
  refine ⟨fun _ h => ?_, fun _ h => (by cases h)⟩
  cases h
  obtain ⟨h0, h1, h2, h3, h4, h5, h6, h7⟩ := Encoding.fmt_C_6_6_6_3_3_2_1_1 0x1d#6 (d) (a) 0#3 (ty) (o) (p) 0#1
  rw [Encoding.decC1D_of _ h0]; simp only [decC1D, h1, h2, h3, h4, h5, h6, h7]
  exact if_pos hw

theorem Encoding.redAnd (d : SReg) (a : SReg) (ty : BitVec 3) (o : BitVec 2) (p : BitVec 1) : Encoding.Statement (.redAnd d a ty o p) := by
  intro hw
  refine ⟨fun _ h => ?_, fun _ h => (by cases h)⟩
  cases h
  obtain ⟨h0, h1, h2, h3, h4, h5, h6, h7⟩ := Encoding.fmt_C_6_6_6_3_3_2_1_1 0x1d#6 (d) (a) 3#3 (ty) (o) (p) 0#1
  rw [Encoding.decC1D_of _ h0]; simp only [decC1D, h1, h2, h3, h4, h5, h6, h7]
  exact if_pos hw

theorem Encoding.redOr (d : SReg) (a : SReg) (ty : BitVec 3) (o : BitVec 2) (p : BitVec 1) : Encoding.Statement (.redOr d a ty o p) := by
  intro hw
  refine ⟨fun _ h => ?_, fun _ h => (by cases h)⟩
  cases h
  obtain ⟨h0, h1, h2, h3, h4, h5, h6, h7⟩ := Encoding.fmt_C_6_6_6_3_3_2_1_1 0x1d#6 (d) (a) 4#3 (ty) (o) (p) 0#1
  rw [Encoding.decC1D_of _ h0]; simp only [decC1D, h1, h2, h3, h4, h5, h6, h7]
  exact if_pos hw

theorem Encoding.redXor (d : SReg) (a : SReg) (ty : BitVec 3) (o : BitVec 2) (p : BitVec 1) : Encoding.Statement (.redXor d a ty o p) := by
  intro hw
  refine ⟨fun _ h => ?_, fun _ h => (by cases h)⟩
  cases h
  obtain ⟨h0, h1, h2, h3, h4, h5, h6, h7⟩ := Encoding.fmt_C_6_6_6_3_3_2_1_1 0x1d#6 (d) (a) 5#3 (ty) (o) (p) 0#1
  rw [Encoding.decC1D_of _ h0]; simp only [decC1D, h1, h2, h3, h4, h5, h6, h7]
  exact if_pos hw

theorem Encoding.redMin (d : SReg) (a : SReg) (ty : BitVec 3) (o : BitVec 2) (p : BitVec 1) : Encoding.Statement (.redMin d a ty o p) := by
  intro hw
  refine ⟨fun _ h => ?_, fun _ h => (by cases h)⟩
  cases h
  obtain ⟨h0, h1, h2, h3, h4, h5, h6, h7⟩ := Encoding.fmt_C_6_6_6_3_3_2_1_1 0x1d#6 (d) (a) 6#3 (ty) (o) (p) 0#1
  rw [Encoding.decC1D_of _ h0]; simp only [decC1D, h1, h2, h3, h4, h5, h6, h7]
  exact if_pos hw

theorem Encoding.redMax (d : SReg) (a : SReg) (ty : BitVec 3) (o : BitVec 2) (p : BitVec 1) : Encoding.Statement (.redMax d a ty o p) := by
  intro hw
  refine ⟨fun _ h => ?_, fun _ h => (by cases h)⟩
  cases h
  obtain ⟨h0, h1, h2, h3, h4, h5, h6, h7⟩ := Encoding.fmt_C_6_6_6_3_3_2_1_1 0x1d#6 (d) (a) 7#3 (ty) (o) (p) 0#1
  rw [Encoding.decC1D_of _ h0]; simp only [decC1D, h1, h2, h3, h4, h5, h6, h7]
  exact if_pos hw

theorem Encoding.waitAny (d : SReg) (a : SReg) (b : SReg) : Encoding.Statement (.waitAny d a b) := by
  intro hw
  refine ⟨fun _ h => ?_, fun _ h => (by cases h)⟩
  cases h
  obtain ⟨h0, h1, h2, h3, h4⟩ := Encoding.fmt_C_6_6_6_6_4 0x1e#6 (d) (a) (b) 0#4
  rw [Encoding.decC1E_of _ h0]; simp only [decC1E, h1, h2, h3, h4]
  rfl

theorem Encoding.fence (sc : BitVec 3) (o : BitVec 2) : Encoding.Statement (.fence sc o) := by
  intro hw
  refine ⟨fun _ h => ?_, fun _ h => (by cases h)⟩
  cases h
  obtain ⟨h0, h1, h2, h3, h4⟩ := Encoding.fmt_C_6_3_2_4_13 0x1f#6 (sc) (o) 0#4 0#13
  rw [Encoding.decC1F_of _ h0]; simp only [decC1F, h1, h2, h3, h4]
  exact if_pos hw

theorem Encoding.fenceEng (sc : BitVec 3) (o : BitVec 2) : Encoding.Statement (.fenceEng sc o) := by
  intro hw
  refine ⟨fun _ h => ?_, fun _ h => (by cases h)⟩
  cases h
  obtain ⟨h0, h1, h2, h3, h4⟩ := Encoding.fmt_C_6_3_2_4_13 0x1f#6 (sc) (o) 1#4 0#13
  rw [Encoding.decC1F_of _ h0]; simp only [decC1F, h1, h2, h3, h4]
  exact if_pos hw

theorem Encoding.fenceMx (sc : BitVec 3) (o : BitVec 2) : Encoding.Statement (.fenceMx sc o) := by
  intro hw
  refine ⟨fun _ h => ?_, fun _ h => (by cases h)⟩
  cases h
  obtain ⟨h0, h1, h2, h3, h4⟩ := Encoding.fmt_C_6_3_2_4_13 0x1f#6 (sc) (o) 2#4 0#13
  rw [Encoding.decC1F_of _ h0]; simp only [decC1F, h1, h2, h3, h4]
  exact if_pos hw

theorem Encoding.fenceRoc (sc : BitVec 3) (o : BitVec 2) : Encoding.Statement (.fenceRoc sc o) := by
  intro hw
  refine ⟨fun _ h => ?_, fun _ h => (by cases h)⟩
  cases h
  obtain ⟨h0, h1, h2, h3, h4⟩ := Encoding.fmt_C_6_3_2_4_13 0x1f#6 (sc) (o) 3#4 0#13
  rw [Encoding.decC1F_of _ h0]; simp only [decC1F, h1, h2, h3, h4]
  exact if_pos hw

theorem Encoding.fenceFull (sc : BitVec 3) (o : BitVec 2) : Encoding.Statement (.fenceFull sc o) := by
  intro hw
  refine ⟨fun _ h => ?_, fun _ h => (by cases h)⟩
  cases h
  obtain ⟨h0, h1, h2, h3, h4⟩ := Encoding.fmt_C_6_3_2_4_13 0x1f#6 (sc) (o) 4#4 0#13
  rw [Encoding.decC1F_of _ h0]; simp only [decC1F, h1, h2, h3, h4]
  exact if_pos hw

theorem Encoding.sendR (a : SReg) (b : SReg) : Encoding.Statement (.sendR a b) := by
  intro hw
  refine ⟨fun _ h => ?_, fun _ h => (by cases h)⟩
  cases h
  obtain ⟨h0, h1, h2, h3, h4⟩ := Encoding.fmt_C_6_6_6_6_4 0x20#6 0#6 (a) (b) 0#4
  rw [Encoding.decC20_of _ h0]; simp only [decC20, h1, h2, h3, h4]
  rfl

theorem Encoding.sendA (a : SReg) (b : SReg) : Encoding.Statement (.sendA a b) := by
  intro hw
  refine ⟨fun _ h => ?_, fun _ h => (by cases h)⟩
  cases h
  obtain ⟨h0, h1, h2, h3, h4⟩ := Encoding.fmt_C_6_6_6_6_4 0x20#6 0#6 (a) (b) 1#4
  rw [Encoding.decC20_of _ h0]; simp only [decC20, h1, h2, h3, h4]
  rfl

theorem Encoding.sendAny (b : SReg) : Encoding.Statement (.sendAny b) := by
  intro hw
  refine ⟨fun _ h => ?_, fun _ h => (by cases h)⟩
  cases h
  obtain ⟨h0, h1, h2, h3, h4⟩ := Encoding.fmt_C_6_6_6_6_4 0x20#6 0#6 0#6 (b) 2#4
  rw [Encoding.decC20_of _ h0]; simp only [decC20, h1, h2, h3, h4]
  rfl

theorem Encoding.actEnd : Encoding.Statement (.actEnd) := by
  intro hw
  refine ⟨fun _ h => ?_, fun _ h => (by cases h)⟩
  cases h
  obtain ⟨h0, h1, h2, h3, h4⟩ := Encoding.fmt_C_6_6_6_6_4 0x21#6 0#6 0#6 0#6 0#4
  rw [Encoding.decC21_of _ h0]; simp only [decC21, h1, h2, h3, h4]
  rfl

theorem Encoding.actMigrate (a : SReg) : Encoding.Statement (.actMigrate a) := by
  intro hw
  refine ⟨fun _ h => ?_, fun _ h => (by cases h)⟩
  cases h
  obtain ⟨h0, h1, h2, h3, h4⟩ := Encoding.fmt_C_6_6_6_6_4 0x21#6 0#6 (a) 0#6 1#4
  rw [Encoding.decC21_of _ h0]; simp only [decC21, h1, h2, h3, h4]
  rfl

theorem Encoding.actFail (a : SReg) : Encoding.Statement (.actFail a) := by
  intro hw
  refine ⟨fun _ h => ?_, fun _ h => (by cases h)⟩
  cases h
  obtain ⟨h0, h1, h2, h3, h4⟩ := Encoding.fmt_C_6_6_6_6_4 0x21#6 0#6 (a) 0#6 2#4
  rw [Encoding.decC21_of _ h0]; simp only [decC21, h1, h2, h3, h4]
  rfl

theorem Encoding.actInfo (d : SReg) : Encoding.Statement (.actInfo d) := by
  intro hw
  refine ⟨fun _ h => ?_, fun _ h => (by cases h)⟩
  cases h
  obtain ⟨h0, h1, h2, h3, h4⟩ := Encoding.fmt_C_6_6_6_6_4 0x21#6 (d) 0#6 0#6 3#4
  rw [Encoding.decC21_of _ h0]; simp only [decC21, h1, h2, h3, h4]
  rfl

theorem Encoding.barInit (d : SReg) (a : SReg) (b : SReg) : Encoding.Statement (.barInit d a b) := by
  intro hw
  refine ⟨fun _ h => ?_, fun _ h => (by cases h)⟩
  cases h
  obtain ⟨h0, h1, h2, h3, h4⟩ := Encoding.fmt_C_6_6_6_6_4 0x22#6 (d) (a) (b) 0#4
  rw [Encoding.decC22_of _ h0]; simp only [decC22, h1, h2, h3, h4]
  rfl

theorem Encoding.barArrive (d : SReg) (a : SReg) (b : SReg) : Encoding.Statement (.barArrive d a b) := by
  intro hw
  refine ⟨fun _ h => ?_, fun _ h => (by cases h)⟩
  cases h
  obtain ⟨h0, h1, h2, h3, h4⟩ := Encoding.fmt_C_6_6_6_6_4 0x22#6 (d) (a) (b) 1#4
  rw [Encoding.decC22_of _ h0]; simp only [decC22, h1, h2, h3, h4]
  rfl

theorem Encoding.barArriveNb (d : SReg) (a : SReg) (b : SReg) : Encoding.Statement (.barArriveNb d a b) := by
  intro hw
  refine ⟨fun _ h => ?_, fun _ h => (by cases h)⟩
  cases h
  obtain ⟨h0, h1, h2, h3, h4⟩ := Encoding.fmt_C_6_6_6_6_4 0x22#6 (d) (a) (b) 2#4
  rw [Encoding.decC22_of _ h0]; simp only [decC22, h1, h2, h3, h4]
  rfl

theorem Encoding.barWait (d : SReg) (a : SReg) (b : SReg) : Encoding.Statement (.barWait d a b) := by
  intro hw
  refine ⟨fun _ h => ?_, fun _ h => (by cases h)⟩
  cases h
  obtain ⟨h0, h1, h2, h3, h4⟩ := Encoding.fmt_C_6_6_6_6_4 0x22#6 (d) (a) (b) 3#4
  rw [Encoding.decC22_of _ h0]; simp only [decC22, h1, h2, h3, h4]
  rfl

theorem Encoding.barFree (a : SReg) : Encoding.Statement (.barFree a) := by
  intro hw
  refine ⟨fun _ h => ?_, fun _ h => (by cases h)⟩
  cases h
  obtain ⟨h0, h1, h2, h3, h4⟩ := Encoding.fmt_C_6_6_6_6_4 0x22#6 0#6 (a) 0#6 4#4
  rw [Encoding.decC22_of _ h0]; simp only [decC22, h1, h2, h3, h4]
  rfl

theorem Encoding.regionLaunch (a : SReg) : Encoding.Statement (.regionLaunch a) := by
  intro hw
  refine ⟨fun _ h => ?_, fun _ h => (by cases h)⟩
  cases h
  obtain ⟨h0, h1, h2, h3, h4⟩ := Encoding.fmt_C_6_6_6_6_4 0x23#6 0#6 (a) 0#6 0#4
  rw [Encoding.decC23_of _ h0]; simp only [decC23, h1, h2, h3, h4]
  rfl

theorem Encoding.regionLaunchEarly (a : SReg) (b : SReg) : Encoding.Statement (.regionLaunchEarly a b) := by
  intro hw
  refine ⟨fun _ h => ?_, fun _ h => (by cases h)⟩
  cases h
  obtain ⟨h0, h1, h2, h3, h4⟩ := Encoding.fmt_C_6_6_6_6_4 0x23#6 0#6 (a) (b) 1#4
  rw [Encoding.decC23_of _ h0]; simp only [decC23, h1, h2, h3, h4]
  rfl

theorem Encoding.regionKill (a : SReg) : Encoding.Statement (.regionKill a) := by
  intro hw
  refine ⟨fun _ h => ?_, fun _ h => (by cases h)⟩
  cases h
  obtain ⟨h0, h1, h2, h3, h4⟩ := Encoding.fmt_C_6_6_6_6_4 0x23#6 0#6 (a) 0#6 2#4
  rw [Encoding.decC23_of _ h0]; simp only [decC23, h1, h2, h3, h4]
  rfl

theorem Encoding.regionStat (d : SReg) (a : SReg) : Encoding.Statement (.regionStat d a) := by
  intro hw
  refine ⟨fun _ h => ?_, fun _ h => (by cases h)⟩
  cases h
  obtain ⟨h0, h1, h2, h3, h4⟩ := Encoding.fmt_C_6_6_6_6_4 0x23#6 (d) (a) 0#6 3#4
  rw [Encoding.decC23_of _ h0]; simp only [decC23, h1, h2, h3, h4]
  rfl

theorem Encoding.launchTrig : Encoding.Statement (.launchTrig) := by
  intro hw
  refine ⟨fun _ h => ?_, fun _ h => (by cases h)⟩
  cases h
  obtain ⟨h0, h1, h2, h3, h4⟩ := Encoding.fmt_C_6_6_6_6_4 0x23#6 0#6 0#6 0#6 4#4
  rw [Encoding.decC23_of _ h0]; simp only [decC23, h1, h2, h3, h4]
  rfl

theorem Encoding.fabPf (a : SReg) (b : SReg) : Encoding.Statement (.fabPf a b) := by
  intro hw
  refine ⟨fun _ h => ?_, fun _ h => (by cases h)⟩
  cases h
  obtain ⟨h0, h1, h2, h3, h4⟩ := Encoding.fmt_C_6_6_6_6_4 0x24#6 0#6 (a) (b) 0#4
  rw [Encoding.decC24_of _ h0]; simp only [decC24, h1, h2, h3, h4]
  rfl

theorem Encoding.fabSlot (d : SReg) : Encoding.Statement (.fabSlot d) := by
  intro hw
  refine ⟨fun _ h => ?_, fun _ h => (by cases h)⟩
  cases h
  obtain ⟨h0, h1, h2, h3, h4⟩ := Encoding.fmt_C_6_6_6_6_4 0x24#6 (d) 0#6 0#6 1#4
  rw [Encoding.decC24_of _ h0]; simp only [decC24, h1, h2, h3, h4]
  rfl

theorem Encoding.fabPeer (d : SReg) (a : SReg) : Encoding.Statement (.fabPeer d a) := by
  intro hw
  refine ⟨fun _ h => ?_, fun _ h => (by cases h)⟩
  cases h
  obtain ⟨h0, h1, h2, h3, h4⟩ := Encoding.fmt_C_6_6_6_6_4 0x24#6 (d) (a) 0#6 2#4
  rw [Encoding.decC24_of _ h0]; simp only [decC24, h1, h2, h3, h4]
  rfl

theorem Encoding.fabCtr (d : SReg) (a : SReg) : Encoding.Statement (.fabCtr d a) := by
  intro hw
  refine ⟨fun _ h => ?_, fun _ h => (by cases h)⟩
  cases h
  obtain ⟨h0, h1, h2, h3, h4⟩ := Encoding.fmt_C_6_6_6_6_4 0x24#6 (d) (a) 0#6 3#4
  rw [Encoding.decC24_of _ h0]; simp only [decC24, h1, h2, h3, h4]
  rfl

theorem Encoding.fabWait (d : SReg) (a : SReg) (b : SReg) : Encoding.Statement (.fabWait d a b) := by
  intro hw
  refine ⟨fun _ h => ?_, fun _ h => (by cases h)⟩
  cases h
  obtain ⟨h0, h1, h2, h3, h4⟩ := Encoding.fmt_C_6_6_6_6_4 0x24#6 (d) (a) (b) 4#4
  rw [Encoding.decC24_of _ h0]; simp only [decC24, h1, h2, h3, h4]
  rfl

theorem Encoding.potPost (a : SReg) (b : SReg) : Encoding.Statement (.potPost a b) := by
  intro hw
  refine ⟨fun _ h => ?_, fun _ h => (by cases h)⟩
  cases h
  obtain ⟨h0, h1, h2, h3, h4⟩ := Encoding.fmt_C_6_6_6_6_4 0x25#6 0#6 (a) (b) 0#4
  rw [Encoding.decC25_of _ h0]; simp only [decC25, h1, h2, h3, h4]
  rfl

theorem Encoding.potRead (d : SReg) (a : SReg) (b : SReg) : Encoding.Statement (.potRead d a b) := by
  intro hw
  refine ⟨fun _ h => ?_, fun _ h => (by cases h)⟩
  cases h
  obtain ⟨h0, h1, h2, h3, h4⟩ := Encoding.fmt_C_6_6_6_6_4 0x25#6 (d) (a) (b) 1#4
  rw [Encoding.decC25_of _ h0]; simp only [decC25, h1, h2, h3, h4]
  rfl

theorem Encoding.potReadSeal (d : SReg) (a : SReg) (b : SReg) : Encoding.Statement (.potReadSeal d a b) := by
  intro hw
  refine ⟨fun _ h => ?_, fun _ h => (by cases h)⟩
  cases h
  obtain ⟨h0, h1, h2, h3, h4⟩ := Encoding.fmt_C_6_6_6_6_4 0x25#6 (d) (a) (b) 2#4
  rw [Encoding.decC25_of _ h0]; simp only [decC25, h1, h2, h3, h4]
  rfl

theorem Encoding.potOpen (d : SReg) (b : SReg) : Encoding.Statement (.potOpen d b) := by
  intro hw
  refine ⟨fun _ h => ?_, fun _ h => (by cases h)⟩
  cases h
  obtain ⟨h0, h1, h2, h3, h4⟩ := Encoding.fmt_C_6_6_6_6_4 0x25#6 (d) 0#6 (b) 3#4
  rw [Encoding.decC25_of _ h0]; simp only [decC25, h1, h2, h3, h4]
  rfl

theorem Encoding.potClose (a : SReg) : Encoding.Statement (.potClose a) := by
  intro hw
  refine ⟨fun _ h => ?_, fun _ h => (by cases h)⟩
  cases h
  obtain ⟨h0, h1, h2, h3, h4⟩ := Encoding.fmt_C_6_6_6_6_4 0x25#6 0#6 (a) 0#6 4#4
  rw [Encoding.decC25_of _ h0]; simp only [decC25, h1, h2, h3, h4]
  rfl

theorem Encoding.potStat (d : SReg) (a : SReg) (b : SReg) : Encoding.Statement (.potStat d a b) := by
  intro hw
  refine ⟨fun _ h => ?_, fun _ h => (by cases h)⟩
  cases h
  obtain ⟨h0, h1, h2, h3, h4⟩ := Encoding.fmt_C_6_6_6_6_4 0x25#6 (d) (a) (b) 5#4
  rw [Encoding.decC25_of _ h0]; simp only [decC25, h1, h2, h3, h4]
  rfl

theorem Encoding.potSeal (a : SReg) : Encoding.Statement (.potSeal a) := by
  intro hw
  refine ⟨fun _ h => ?_, fun _ h => (by cases h)⟩
  cases h
  obtain ⟨h0, h1, h2, h3, h4⟩ := Encoding.fmt_C_6_6_6_6_4 0x25#6 0#6 (a) 0#6 6#4
  rw [Encoding.decC25_of _ h0]; simp only [decC25, h1, h2, h3, h4]
  rfl

theorem Encoding.potExp (a : SReg) (b : SReg) : Encoding.Statement (.potExp a b) := by
  intro hw
  refine ⟨fun _ h => ?_, fun _ h => (by cases h)⟩
  cases h
  obtain ⟨h0, h1, h2, h3, h4⟩ := Encoding.fmt_C_6_6_6_6_4 0x25#6 0#6 (a) (b) 7#4
  rw [Encoding.decC25_of _ h0]; simp only [decC25, h1, h2, h3, h4]
  rfl

theorem Encoding.potReset (a : SReg) (b : SReg) : Encoding.Statement (.potReset a b) := by
  intro hw
  refine ⟨fun _ h => ?_, fun _ h => (by cases h)⟩
  cases h
  obtain ⟨h0, h1, h2, h3, h4⟩ := Encoding.fmt_C_6_6_6_6_4 0x25#6 0#6 (a) (b) 8#4
  rw [Encoding.decC25_of _ h0]; simp only [decC25, h1, h2, h3, h4]
  rfl

theorem Encoding.qdOpen (d : SReg) (a : SReg) : Encoding.Statement (.qdOpen d a) := by
  intro hw
  refine ⟨fun _ h => ?_, fun _ h => (by cases h)⟩
  cases h
  obtain ⟨h0, h1, h2, h3, h4⟩ := Encoding.fmt_C_6_6_6_6_4 0x26#6 (d) (a) 0#6 0#4
  rw [Encoding.decC26_of _ h0]; simp only [decC26, h1, h2, h3, h4]
  rfl

theorem Encoding.qdDetach : Encoding.Statement (.qdDetach) := by
  intro hw
  refine ⟨fun _ h => ?_, fun _ h => (by cases h)⟩
  cases h
  obtain ⟨h0, h1, h2, h3, h4⟩ := Encoding.fmt_C_6_6_6_6_4 0x26#6 0#6 0#6 0#6 1#4
  rw [Encoding.decC26_of _ h0]; simp only [decC26, h1, h2, h3, h4]
  rfl

theorem Encoding.qdExit (d : SReg) : Encoding.Statement (.qdExit d) := by
  intro hw
  refine ⟨fun _ h => ?_, fun _ h => (by cases h)⟩
  cases h
  obtain ⟨h0, h1, h2, h3, h4⟩ := Encoding.fmt_C_6_6_6_6_4 0x26#6 (d) 0#6 0#6 2#4
  rw [Encoding.decC26_of _ h0]; simp only [decC26, h1, h2, h3, h4]
  rfl

theorem Encoding.qdStat (d : SReg) (a : SReg) : Encoding.Statement (.qdStat d a) := by
  intro hw
  refine ⟨fun _ h => ?_, fun _ h => (by cases h)⟩
  cases h
  obtain ⟨h0, h1, h2, h3, h4⟩ := Encoding.fmt_C_6_6_6_6_4 0x26#6 (d) (a) 0#6 3#4
  rw [Encoding.decC26_of _ h0]; simp only [decC26, h1, h2, h3, h4]
  rfl

theorem Encoding.reelOpen (d : SReg) (a : SReg) : Encoding.Statement (.reelOpen d a) := by
  intro hw
  refine ⟨fun _ h => ?_, fun _ h => (by cases h)⟩
  cases h
  obtain ⟨h0, h1, h2, h3, h4⟩ := Encoding.fmt_C_6_6_6_6_4 0x27#6 (d) (a) 0#6 0#4
  rw [Encoding.decC27_of _ h0]; simp only [decC27, h1, h2, h3, h4]
  rfl

theorem Encoding.reelScore (a : SReg) : Encoding.Statement (.reelScore a) := by
  intro hw
  refine ⟨fun _ h => ?_, fun _ h => (by cases h)⟩
  cases h
  obtain ⟨h0, h1, h2, h3, h4⟩ := Encoding.fmt_C_6_6_6_6_4 0x27#6 0#6 (a) 0#6 1#4
  rw [Encoding.decC27_of _ h0]; simp only [decC27, h1, h2, h3, h4]
  rfl

theorem Encoding.reelDone (d : SReg) : Encoding.Statement (.reelDone d) := by
  intro hw
  refine ⟨fun _ h => ?_, fun _ h => (by cases h)⟩
  cases h
  obtain ⟨h0, h1, h2, h3, h4⟩ := Encoding.fmt_C_6_6_6_6_4 0x27#6 (d) 0#6 0#6 2#4
  rw [Encoding.decC27_of _ h0]; simp only [decC27, h1, h2, h3, h4]
  rfl

theorem Encoding.reelSync (d : SReg) : Encoding.Statement (.reelSync d) := by
  intro hw
  refine ⟨fun _ h => ?_, fun _ h => (by cases h)⟩
  cases h
  obtain ⟨h0, h1, h2, h3, h4⟩ := Encoding.fmt_C_6_6_6_6_4 0x27#6 (d) 0#6 0#6 3#4
  rw [Encoding.decC27_of _ h0]; simp only [decC27, h1, h2, h3, h4]
  rfl

theorem Encoding.reelStat (d : SReg) (a : SReg) : Encoding.Statement (.reelStat d a) := by
  intro hw
  refine ⟨fun _ h => ?_, fun _ h => (by cases h)⟩
  cases h
  obtain ⟨h0, h1, h2, h3, h4⟩ := Encoding.fmt_C_6_6_6_6_4 0x27#6 (d) (a) 0#6 4#4
  rw [Encoding.decC27_of _ h0]; simp only [decC27, h1, h2, h3, h4]
  rfl

theorem Encoding.trap (code : BitVec 12) : Encoding.Statement (.trap code) := by
  intro hw
  refine ⟨fun _ h => ?_, fun _ h => (by cases h)⟩
  cases h
  obtain ⟨h0, h1, h2, h3⟩ := Encoding.fmt_C_6_6_12_4 0x38#6 0#6 (code) 0#4
  rw [Encoding.decC38_of _ h0]; simp only [decC38, h1, h2, h3]
  rfl

theorem Encoding.eret : Encoding.Statement (.eret) := by
  intro hw
  refine ⟨fun _ h => ?_, fun _ h => (by cases h)⟩
  cases h
  obtain ⟨h0, h1, h2, h3, h4⟩ := Encoding.fmt_C_6_6_6_6_4 0x38#6 0#6 0#6 0#6 1#4
  rw [Encoding.decC38_of _ h0]; simp only [decC38, h1, h2, h3, h4]
  rfl

theorem Encoding.leave (a : SReg) (b : SReg) : Encoding.Statement (.leave a b) := by
  intro hw
  refine ⟨fun _ h => ?_, fun _ h => (by cases h)⟩
  cases h
  obtain ⟨h0, h1, h2, h3, h4⟩ := Encoding.fmt_C_6_6_6_6_4 0x39#6 0#6 (a) (b) 0#4
  rw [Encoding.decC39_of _ h0]; simp only [decC39, h1, h2, h3, h4]
  rfl

theorem Encoding.sysTlbinv (d : SReg) (a : SReg) (b : SReg) : Encoding.Statement (.sysTlbinv d a b) := by
  intro hw
  refine ⟨fun _ h => ?_, fun _ h => (by cases h)⟩
  cases h
  obtain ⟨h0, h1, h2, h3, h4⟩ := Encoding.fmt_C_6_6_6_6_4 0x3a#6 (d) (a) (b) 0#4
  rw [Encoding.decC3A_of _ h0]; simp only [decC3A, h1, h2, h3, h4]
  rfl

theorem Encoding.sysMrd (d : SReg) (a : SReg) : Encoding.Statement (.sysMrd d a) := by
  intro hw
  refine ⟨fun _ h => ?_, fun _ h => (by cases h)⟩
  cases h
  obtain ⟨h0, h1, h2, h3, h4⟩ := Encoding.fmt_C_6_6_6_6_4 0x3a#6 (d) (a) 0#6 1#4
  rw [Encoding.decC3A_of _ h0]; simp only [decC3A, h1, h2, h3, h4]
  rfl

theorem Encoding.sysMwr (a : SReg) (b : SReg) : Encoding.Statement (.sysMwr a b) := by
  intro hw
  refine ⟨fun _ h => ?_, fun _ h => (by cases h)⟩
  cases h
  obtain ⟨h0, h1, h2, h3, h4⟩ := Encoding.fmt_C_6_6_6_6_4 0x3a#6 0#6 (a) (b) 2#4
  rw [Encoding.decC3A_of _ h0]; simp only [decC3A, h1, h2, h3, h4]
  rfl

theorem Encoding.sysSwap (d : SReg) (a : SReg) (b : SReg) : Encoding.Statement (.sysSwap d a b) := by
  intro hw
  refine ⟨fun _ h => ?_, fun _ h => (by cases h)⟩
  cases h
  obtain ⟨h0, h1, h2, h3, h4⟩ := Encoding.fmt_C_6_6_6_6_4 0x3a#6 (d) (a) (b) 3#4
  rw [Encoding.decC3A_of _ h0]; simp only [decC3A, h1, h2, h3, h4]
  rfl

theorem Encoding.sysKill (d : SReg) (a : SReg) : Encoding.Statement (.sysKill d a) := by
  intro hw
  refine ⟨fun _ h => ?_, fun _ h => (by cases h)⟩
  cases h
  obtain ⟨h0, h1, h2, h3, h4⟩ := Encoding.fmt_C_6_6_6_6_4 0x3a#6 (d) (a) 0#6 4#4
  rw [Encoding.decC3A_of _ h0]; simp only [decC3A, h1, h2, h3, h4]
  rfl

theorem Encoding.sysEvt (a : SReg) (b : SReg) : Encoding.Statement (.sysEvt a b) := by
  intro hw
  refine ⟨fun _ h => ?_, fun _ h => (by cases h)⟩
  cases h
  obtain ⟨h0, h1, h2, h3, h4⟩ := Encoding.fmt_C_6_6_6_6_4 0x3a#6 0#6 (a) (b) 5#4
  rw [Encoding.decC3A_of _ h0]; simp only [decC3A, h1, h2, h3, h4]
  rfl

theorem Encoding.hintC (h : BitVec 1) (x : BitVec 22) : Encoding.Statement (.hintC h x) := by
  intro _
  refine ⟨fun _ e => ?_, fun _ e => (by cases e)⟩
  cases e
  rcases BitVec.eq_zero_or_eq_one h with rfl | rfl
  · obtain ⟨h0, h1⟩ := Encoding.fmt_C_6_22 62#6 x
    have h2 : (31#5 ++ 0#1 : BitVec 6) = 62#6 := by decide
    have h3 : BitVec.extractLsb' 22 1 (62#6 ++ x : BitVec 28) = 0#1 :=
      show BitVec.extractLsb' (n := 6 + 22) 22 1 (62#6 ++ x) = 0#1 from by
        rw [xhi _ _ (by decide)]; decide
    simp only [decodeCBody, h2, h0, h1, h3]
    rfl
  · obtain ⟨h0, h1⟩ := Encoding.fmt_C_6_22 63#6 x
    have h2 : (31#5 ++ 1#1 : BitVec 6) = 63#6 := by decide
    have h3 : BitVec.extractLsb' 22 1 (63#6 ++ x : BitVec 28) = 1#1 :=
      show BitVec.extractLsb' (n := 6 + 22) 22 1 (63#6 ++ x) = 1#1 from by
        rw [xhi _ _ (by decide)]; decide
    simp only [decodeCBody, h2, h0, h1, h3]
    rfl

theorem Encoding.nopA : Encoding.Statement (.nopA) := by
  intro hw
  refine ⟨fun _ h => (by cases h), fun _ h => ?_⟩
  cases h
  obtain ⟨h0, h1⟩ := Encoding.fmt_A_6_23 0x0#6 0#23
  simp only [decodeABody, h0, h1]
  rfl

theorem Encoding.add (d : SReg) (a : SReg) (b : SReg) : Encoding.Statement (.add d a b) := by
  intro hw
  refine ⟨fun _ h => (by cases h), fun _ h => ?_⟩
  cases h
  obtain ⟨h0, h1, h2, h3, h4⟩ := Encoding.fmt_A_6_6_6_6_5 0x1#6 (d) (a) (b) 0#5
  rw [Encoding.decA01_of _ h0]; simp only [decA01, h1, h2, h3, h4]
  rfl

theorem Encoding.sub (d : SReg) (a : SReg) (b : SReg) : Encoding.Statement (.sub d a b) := by
  intro hw
  refine ⟨fun _ h => (by cases h), fun _ h => ?_⟩
  cases h
  obtain ⟨h0, h1, h2, h3, h4⟩ := Encoding.fmt_A_6_6_6_6_5 0x1#6 (d) (a) (b) 1#5
  rw [Encoding.decA01_of _ h0]; simp only [decA01, h1, h2, h3, h4]
  rfl

theorem Encoding.addI32 (d : SReg) (a : SReg) (b : SReg) : Encoding.Statement (.addI32 d a b) := by
  intro hw
  refine ⟨fun _ h => (by cases h), fun _ h => ?_⟩
  cases h
  obtain ⟨h0, h1, h2, h3, h4⟩ := Encoding.fmt_A_6_6_6_6_5 0x1#6 (d) (a) (b) 2#5
  rw [Encoding.decA01_of _ h0]; simp only [decA01, h1, h2, h3, h4]
  rfl

theorem Encoding.subI32 (d : SReg) (a : SReg) (b : SReg) : Encoding.Statement (.subI32 d a b) := by
  intro hw
  refine ⟨fun _ h => (by cases h), fun _ h => ?_⟩
  cases h
  obtain ⟨h0, h1, h2, h3, h4⟩ := Encoding.fmt_A_6_6_6_6_5 0x1#6 (d) (a) (b) 3#5
  rw [Encoding.decA01_of _ h0]; simp only [decA01, h1, h2, h3, h4]
  rfl

theorem Encoding.addsI64 (d : SReg) (a : SReg) (b : SReg) : Encoding.Statement (.addsI64 d a b) := by
  intro hw
  refine ⟨fun _ h => (by cases h), fun _ h => ?_⟩
  cases h
  obtain ⟨h0, h1, h2, h3, h4⟩ := Encoding.fmt_A_6_6_6_6_5 0x1#6 (d) (a) (b) 4#5
  rw [Encoding.decA01_of _ h0]; simp only [decA01, h1, h2, h3, h4]
  rfl

theorem Encoding.addsN64 (d : SReg) (a : SReg) (b : SReg) : Encoding.Statement (.addsN64 d a b) := by
  intro hw
  refine ⟨fun _ h => (by cases h), fun _ h => ?_⟩
  cases h
  obtain ⟨h0, h1, h2, h3, h4⟩ := Encoding.fmt_A_6_6_6_6_5 0x1#6 (d) (a) (b) 5#5
  rw [Encoding.decA01_of _ h0]; simp only [decA01, h1, h2, h3, h4]
  rfl

theorem Encoding.subsI64 (d : SReg) (a : SReg) (b : SReg) : Encoding.Statement (.subsI64 d a b) := by
  intro hw
  refine ⟨fun _ h => (by cases h), fun _ h => ?_⟩
  cases h
  obtain ⟨h0, h1, h2, h3, h4⟩ := Encoding.fmt_A_6_6_6_6_5 0x1#6 (d) (a) (b) 6#5
  rw [Encoding.decA01_of _ h0]; simp only [decA01, h1, h2, h3, h4]
  rfl

theorem Encoding.subsN64 (d : SReg) (a : SReg) (b : SReg) : Encoding.Statement (.subsN64 d a b) := by
  intro hw
  refine ⟨fun _ h => (by cases h), fun _ h => ?_⟩
  cases h
  obtain ⟨h0, h1, h2, h3, h4⟩ := Encoding.fmt_A_6_6_6_6_5 0x1#6 (d) (a) (b) 7#5
  rw [Encoding.decA01_of _ h0]; simp only [decA01, h1, h2, h3, h4]
  rfl

theorem Encoding.and (d : SReg) (a : SReg) (b : SReg) : Encoding.Statement (.and d a b) := by
  intro hw
  refine ⟨fun _ h => (by cases h), fun _ h => ?_⟩
  cases h
  obtain ⟨h0, h1, h2, h3, h4⟩ := Encoding.fmt_A_6_6_6_6_5 0x1#6 (d) (a) (b) 8#5
  rw [Encoding.decA01_of _ h0]; simp only [decA01, h1, h2, h3, h4]
  rfl

theorem Encoding.or (d : SReg) (a : SReg) (b : SReg) : Encoding.Statement (.or d a b) := by
  intro hw
  refine ⟨fun _ h => (by cases h), fun _ h => ?_⟩
  cases h
  obtain ⟨h0, h1, h2, h3, h4⟩ := Encoding.fmt_A_6_6_6_6_5 0x1#6 (d) (a) (b) 9#5
  rw [Encoding.decA01_of _ h0]; simp only [decA01, h1, h2, h3, h4]
  rfl

theorem Encoding.xor (d : SReg) (a : SReg) (b : SReg) : Encoding.Statement (.xor d a b) := by
  intro hw
  refine ⟨fun _ h => (by cases h), fun _ h => ?_⟩
  cases h
  obtain ⟨h0, h1, h2, h3, h4⟩ := Encoding.fmt_A_6_6_6_6_5 0x1#6 (d) (a) (b) 10#5
  rw [Encoding.decA01_of _ h0]; simp only [decA01, h1, h2, h3, h4]
  rfl

theorem Encoding.andn (d : SReg) (a : SReg) (b : SReg) : Encoding.Statement (.andn d a b) := by
  intro hw
  refine ⟨fun _ h => (by cases h), fun _ h => ?_⟩
  cases h
  obtain ⟨h0, h1, h2, h3, h4⟩ := Encoding.fmt_A_6_6_6_6_5 0x1#6 (d) (a) (b) 11#5
  rw [Encoding.decA01_of _ h0]; simp only [decA01, h1, h2, h3, h4]
  rfl

theorem Encoding.orn (d : SReg) (a : SReg) (b : SReg) : Encoding.Statement (.orn d a b) := by
  intro hw
  refine ⟨fun _ h => (by cases h), fun _ h => ?_⟩
  cases h
  obtain ⟨h0, h1, h2, h3, h4⟩ := Encoding.fmt_A_6_6_6_6_5 0x1#6 (d) (a) (b) 12#5
  rw [Encoding.decA01_of _ h0]; simp only [decA01, h1, h2, h3, h4]
  rfl

theorem Encoding.xnor (d : SReg) (a : SReg) (b : SReg) : Encoding.Statement (.xnor d a b) := by
  intro hw
  refine ⟨fun _ h => (by cases h), fun _ h => ?_⟩
  cases h
  obtain ⟨h0, h1, h2, h3, h4⟩ := Encoding.fmt_A_6_6_6_6_5 0x1#6 (d) (a) (b) 13#5
  rw [Encoding.decA01_of _ h0]; simp only [decA01, h1, h2, h3, h4]
  rfl

theorem Encoding.addImm (d : SReg) (a : SReg) (imm : BitVec 9) : Encoding.Statement (.addImm d a imm) := by
  intro hw
  refine ⟨fun _ h => (by cases h), fun _ h => ?_⟩
  cases h
  obtain ⟨h0, h1, h2, h3, h4⟩ := Encoding.fmt_A_6_6_6_2_9 0x2#6 (d) (a) 0#2 (imm)
  rw [Encoding.decA02_of _ h0]; simp only [decA02, h1, h2, h3, h4]
  rfl

theorem Encoding.andImm (d : SReg) (a : SReg) (imm : BitVec 9) : Encoding.Statement (.andImm d a imm) := by
  intro hw
  refine ⟨fun _ h => (by cases h), fun _ h => ?_⟩
  cases h
  obtain ⟨h0, h1, h2, h3, h4⟩ := Encoding.fmt_A_6_6_6_2_9 0x2#6 (d) (a) 1#2 (imm)
  rw [Encoding.decA02_of _ h0]; simp only [decA02, h1, h2, h3, h4]
  rfl

theorem Encoding.orImm (d : SReg) (a : SReg) (imm : BitVec 9) : Encoding.Statement (.orImm d a imm) := by
  intro hw
  refine ⟨fun _ h => (by cases h), fun _ h => ?_⟩
  cases h
  obtain ⟨h0, h1, h2, h3, h4⟩ := Encoding.fmt_A_6_6_6_2_9 0x2#6 (d) (a) 2#2 (imm)
  rw [Encoding.decA02_of _ h0]; simp only [decA02, h1, h2, h3, h4]
  rfl

theorem Encoding.xorImm (d : SReg) (a : SReg) (imm : BitVec 9) : Encoding.Statement (.xorImm d a imm) := by
  intro hw
  refine ⟨fun _ h => (by cases h), fun _ h => ?_⟩
  cases h
  obtain ⟨h0, h1, h2, h3, h4⟩ := Encoding.fmt_A_6_6_6_2_9 0x2#6 (d) (a) 3#2 (imm)
  rw [Encoding.decA02_of _ h0]; simp only [decA02, h1, h2, h3, h4]
  rfl

theorem Encoding.shl (d : SReg) (a : SReg) (b : SReg) : Encoding.Statement (.shl d a b) := by
  intro hw
  refine ⟨fun _ h => (by cases h), fun _ h => ?_⟩
  cases h
  obtain ⟨h0, h1, h2, h3, h4⟩ := Encoding.fmt_A_6_6_6_6_5 0x3#6 (d) (a) (b) 0#5
  rw [Encoding.decA03_of _ h0]; simp only [decA03, h1, h2, h3, h4]
  rfl

theorem Encoding.shrN64 (d : SReg) (a : SReg) (b : SReg) : Encoding.Statement (.shrN64 d a b) := by
  intro hw
  refine ⟨fun _ h => (by cases h), fun _ h => ?_⟩
  cases h
  obtain ⟨h0, h1, h2, h3, h4⟩ := Encoding.fmt_A_6_6_6_6_5 0x3#6 (d) (a) (b) 1#5
  rw [Encoding.decA03_of _ h0]; simp only [decA03, h1, h2, h3, h4]
  rfl

theorem Encoding.shr (d : SReg) (a : SReg) (b : SReg) : Encoding.Statement (.shr d a b) := by
  intro hw
  refine ⟨fun _ h => (by cases h), fun _ h => ?_⟩
  cases h
  obtain ⟨h0, h1, h2, h3, h4⟩ := Encoding.fmt_A_6_6_6_6_5 0x3#6 (d) (a) (b) 2#5
  rw [Encoding.decA03_of _ h0]; simp only [decA03, h1, h2, h3, h4]
  rfl

theorem Encoding.rol (d : SReg) (a : SReg) (b : SReg) : Encoding.Statement (.rol d a b) := by
  intro hw
  refine ⟨fun _ h => (by cases h), fun _ h => ?_⟩
  cases h
  obtain ⟨h0, h1, h2, h3, h4⟩ := Encoding.fmt_A_6_6_6_6_5 0x3#6 (d) (a) (b) 3#5
  rw [Encoding.decA03_of _ h0]; simp only [decA03, h1, h2, h3, h4]
  rfl

theorem Encoding.ror (d : SReg) (a : SReg) (b : SReg) : Encoding.Statement (.ror d a b) := by
  intro hw
  refine ⟨fun _ h => (by cases h), fun _ h => ?_⟩
  cases h
  obtain ⟨h0, h1, h2, h3, h4⟩ := Encoding.fmt_A_6_6_6_6_5 0x3#6 (d) (a) (b) 4#5
  rw [Encoding.decA03_of _ h0]; simp only [decA03, h1, h2, h3, h4]
  rfl

theorem Encoding.shlI32 (d : SReg) (a : SReg) (b : SReg) : Encoding.Statement (.shlI32 d a b) := by
  intro hw
  refine ⟨fun _ h => (by cases h), fun _ h => ?_⟩
  cases h
  obtain ⟨h0, h1, h2, h3, h4⟩ := Encoding.fmt_A_6_6_6_6_5 0x3#6 (d) (a) (b) 5#5
  rw [Encoding.decA03_of _ h0]; simp only [decA03, h1, h2, h3, h4]
  rfl

theorem Encoding.shrN32 (d : SReg) (a : SReg) (b : SReg) : Encoding.Statement (.shrN32 d a b) := by
  intro hw
  refine ⟨fun _ h => (by cases h), fun _ h => ?_⟩
  cases h
  obtain ⟨h0, h1, h2, h3, h4⟩ := Encoding.fmt_A_6_6_6_6_5 0x3#6 (d) (a) (b) 6#5
  rw [Encoding.decA03_of _ h0]; simp only [decA03, h1, h2, h3, h4]
  rfl

theorem Encoding.shrI32 (d : SReg) (a : SReg) (b : SReg) : Encoding.Statement (.shrI32 d a b) := by
  intro hw
  refine ⟨fun _ h => (by cases h), fun _ h => ?_⟩
  cases h
  obtain ⟨h0, h1, h2, h3, h4⟩ := Encoding.fmt_A_6_6_6_6_5 0x3#6 (d) (a) (b) 7#5
  rw [Encoding.decA03_of _ h0]; simp only [decA03, h1, h2, h3, h4]
  rfl

theorem Encoding.shlImm (d : SReg) (a : SReg) (n : BitVec 6) : Encoding.Statement (.shlImm d a n) := by
  intro hw
  refine ⟨fun _ h => (by cases h), fun _ h => ?_⟩
  cases h
  obtain ⟨h0, h1, h2, h3, h4⟩ := Encoding.fmt_A_6_6_6_6_5 0x3#6 (d) (a) (n) 16#5
  rw [Encoding.decA03_of _ h0]; simp only [decA03, h1, h2, h3, h4]
  rfl

theorem Encoding.shrN64Imm (d : SReg) (a : SReg) (n : BitVec 6) : Encoding.Statement (.shrN64Imm d a n) := by
  intro hw
  refine ⟨fun _ h => (by cases h), fun _ h => ?_⟩
  cases h
  obtain ⟨h0, h1, h2, h3, h4⟩ := Encoding.fmt_A_6_6_6_6_5 0x3#6 (d) (a) (n) 17#5
  rw [Encoding.decA03_of _ h0]; simp only [decA03, h1, h2, h3, h4]
  rfl

theorem Encoding.shrImm (d : SReg) (a : SReg) (n : BitVec 6) : Encoding.Statement (.shrImm d a n) := by
  intro hw
  refine ⟨fun _ h => (by cases h), fun _ h => ?_⟩
  cases h
  obtain ⟨h0, h1, h2, h3, h4⟩ := Encoding.fmt_A_6_6_6_6_5 0x3#6 (d) (a) (n) 18#5
  rw [Encoding.decA03_of _ h0]; simp only [decA03, h1, h2, h3, h4]
  rfl

theorem Encoding.rolImm (d : SReg) (a : SReg) (n : BitVec 6) : Encoding.Statement (.rolImm d a n) := by
  intro hw
  refine ⟨fun _ h => (by cases h), fun _ h => ?_⟩
  cases h
  obtain ⟨h0, h1, h2, h3, h4⟩ := Encoding.fmt_A_6_6_6_6_5 0x3#6 (d) (a) (n) 19#5
  rw [Encoding.decA03_of _ h0]; simp only [decA03, h1, h2, h3, h4]
  rfl

theorem Encoding.rorImm (d : SReg) (a : SReg) (n : BitVec 6) : Encoding.Statement (.rorImm d a n) := by
  intro hw
  refine ⟨fun _ h => (by cases h), fun _ h => ?_⟩
  cases h
  obtain ⟨h0, h1, h2, h3, h4⟩ := Encoding.fmt_A_6_6_6_6_5 0x3#6 (d) (a) (n) 20#5
  rw [Encoding.decA03_of _ h0]; simp only [decA03, h1, h2, h3, h4]
  rfl

theorem Encoding.shlI32Imm (d : SReg) (a : SReg) (n : BitVec 6) : Encoding.Statement (.shlI32Imm d a n) := by
  intro hw
  refine ⟨fun _ h => (by cases h), fun _ h => ?_⟩
  cases h
  obtain ⟨h0, h1, h2, h3, h4⟩ := Encoding.fmt_A_6_6_6_6_5 0x3#6 (d) (a) (n) 21#5
  rw [Encoding.decA03_of _ h0]; simp only [decA03, h1, h2, h3, h4]
  exact if_pos hw

theorem Encoding.shrN32Imm (d : SReg) (a : SReg) (n : BitVec 6) : Encoding.Statement (.shrN32Imm d a n) := by
  intro hw
  refine ⟨fun _ h => (by cases h), fun _ h => ?_⟩
  cases h
  obtain ⟨h0, h1, h2, h3, h4⟩ := Encoding.fmt_A_6_6_6_6_5 0x3#6 (d) (a) (n) 22#5
  rw [Encoding.decA03_of _ h0]; simp only [decA03, h1, h2, h3, h4]
  exact if_pos hw

theorem Encoding.shrI32Imm (d : SReg) (a : SReg) (n : BitVec 6) : Encoding.Statement (.shrI32Imm d a n) := by
  intro hw
  refine ⟨fun _ h => (by cases h), fun _ h => ?_⟩
  cases h
  obtain ⟨h0, h1, h2, h3, h4⟩ := Encoding.fmt_A_6_6_6_6_5 0x3#6 (d) (a) (n) 23#5
  rw [Encoding.decA03_of _ h0]; simp only [decA03, h1, h2, h3, h4]
  exact if_pos hw

theorem Encoding.mul (d : SReg) (a : SReg) (b : SReg) : Encoding.Statement (.mul d a b) := by
  intro hw
  refine ⟨fun _ h => (by cases h), fun _ h => ?_⟩
  cases h
  obtain ⟨h0, h1, h2, h3, h4⟩ := Encoding.fmt_A_6_6_6_6_5 0x4#6 (d) (a) (b) 0#5
  rw [Encoding.decA04_of _ h0]; simp only [decA04, h1, h2, h3, h4]
  rfl

theorem Encoding.mulh (d : SReg) (a : SReg) (b : SReg) : Encoding.Statement (.mulh d a b) := by
  intro hw
  refine ⟨fun _ h => (by cases h), fun _ h => ?_⟩
  cases h
  obtain ⟨h0, h1, h2, h3, h4⟩ := Encoding.fmt_A_6_6_6_6_5 0x4#6 (d) (a) (b) 1#5
  rw [Encoding.decA04_of _ h0]; simp only [decA04, h1, h2, h3, h4]
  rfl

theorem Encoding.mulhN64 (d : SReg) (a : SReg) (b : SReg) : Encoding.Statement (.mulhN64 d a b) := by
  intro hw
  refine ⟨fun _ h => (by cases h), fun _ h => ?_⟩
  cases h
  obtain ⟨h0, h1, h2, h3, h4⟩ := Encoding.fmt_A_6_6_6_6_5 0x4#6 (d) (a) (b) 2#5
  rw [Encoding.decA04_of _ h0]; simp only [decA04, h1, h2, h3, h4]
  rfl

theorem Encoding.mulI32 (d : SReg) (a : SReg) (b : SReg) : Encoding.Statement (.mulI32 d a b) := by
  intro hw
  refine ⟨fun _ h => (by cases h), fun _ h => ?_⟩
  cases h
  obtain ⟨h0, h1, h2, h3, h4⟩ := Encoding.fmt_A_6_6_6_6_5 0x4#6 (d) (a) (b) 3#5
  rw [Encoding.decA04_of _ h0]; simp only [decA04, h1, h2, h3, h4]
  rfl

theorem Encoding.mla (d : SReg) (a : SReg) (b : SReg) : Encoding.Statement (.mla d a b) := by
  intro hw
  refine ⟨fun _ h => (by cases h), fun _ h => ?_⟩
  cases h
  obtain ⟨h0, h1, h2, h3, h4⟩ := Encoding.fmt_A_6_6_6_6_5 0x4#6 (d) (a) (b) 4#5
  rw [Encoding.decA04_of _ h0]; simp only [decA04, h1, h2, h3, h4]
  rfl

theorem Encoding.mulsI64 (d : SReg) (a : SReg) (b : SReg) : Encoding.Statement (.mulsI64 d a b) := by
  intro hw
  refine ⟨fun _ h => (by cases h), fun _ h => ?_⟩
  cases h
  obtain ⟨h0, h1, h2, h3, h4⟩ := Encoding.fmt_A_6_6_6_6_5 0x4#6 (d) (a) (b) 5#5
  rw [Encoding.decA04_of _ h0]; simp only [decA04, h1, h2, h3, h4]
  rfl

theorem Encoding.cmpEq (d : SReg) (a : SReg) (b : SReg) : Encoding.Statement (.cmpEq d a b) := by
  intro hw
  refine ⟨fun _ h => (by cases h), fun _ h => ?_⟩
  cases h
  obtain ⟨h0, h1, h2, h3, h4⟩ := Encoding.fmt_A_6_6_6_6_5 0x5#6 (d) (a) (b) 0#5
  rw [Encoding.decA05_of _ h0]; simp only [decA05, h1, h2, h3, h4]
  rfl

theorem Encoding.cmpNe (d : SReg) (a : SReg) (b : SReg) : Encoding.Statement (.cmpNe d a b) := by
  intro hw
  refine ⟨fun _ h => (by cases h), fun _ h => ?_⟩
  cases h
  obtain ⟨h0, h1, h2, h3, h4⟩ := Encoding.fmt_A_6_6_6_6_5 0x5#6 (d) (a) (b) 1#5
  rw [Encoding.decA05_of _ h0]; simp only [decA05, h1, h2, h3, h4]
  rfl

theorem Encoding.cmpLt (d : SReg) (a : SReg) (b : SReg) : Encoding.Statement (.cmpLt d a b) := by
  intro hw
  refine ⟨fun _ h => (by cases h), fun _ h => ?_⟩
  cases h
  obtain ⟨h0, h1, h2, h3, h4⟩ := Encoding.fmt_A_6_6_6_6_5 0x5#6 (d) (a) (b) 2#5
  rw [Encoding.decA05_of _ h0]; simp only [decA05, h1, h2, h3, h4]
  rfl

theorem Encoding.cmpLtN64 (d : SReg) (a : SReg) (b : SReg) : Encoding.Statement (.cmpLtN64 d a b) := by
  intro hw
  refine ⟨fun _ h => (by cases h), fun _ h => ?_⟩
  cases h
  obtain ⟨h0, h1, h2, h3, h4⟩ := Encoding.fmt_A_6_6_6_6_5 0x5#6 (d) (a) (b) 3#5
  rw [Encoding.decA05_of _ h0]; simp only [decA05, h1, h2, h3, h4]
  rfl

theorem Encoding.cmpLe (d : SReg) (a : SReg) (b : SReg) : Encoding.Statement (.cmpLe d a b) := by
  intro hw
  refine ⟨fun _ h => (by cases h), fun _ h => ?_⟩
  cases h
  obtain ⟨h0, h1, h2, h3, h4⟩ := Encoding.fmt_A_6_6_6_6_5 0x5#6 (d) (a) (b) 4#5
  rw [Encoding.decA05_of _ h0]; simp only [decA05, h1, h2, h3, h4]
  rfl

theorem Encoding.cmpLeN64 (d : SReg) (a : SReg) (b : SReg) : Encoding.Statement (.cmpLeN64 d a b) := by
  intro hw
  refine ⟨fun _ h => (by cases h), fun _ h => ?_⟩
  cases h
  obtain ⟨h0, h1, h2, h3, h4⟩ := Encoding.fmt_A_6_6_6_6_5 0x5#6 (d) (a) (b) 5#5
  rw [Encoding.decA05_of _ h0]; simp only [decA05, h1, h2, h3, h4]
  rfl

theorem Encoding.selNez (d : SReg) (a : SReg) (b : SReg) : Encoding.Statement (.selNez d a b) := by
  intro hw
  refine ⟨fun _ h => (by cases h), fun _ h => ?_⟩
  cases h
  obtain ⟨h0, h1, h2, h3, h4⟩ := Encoding.fmt_A_6_6_6_6_5 0x5#6 (d) (a) (b) 8#5
  rw [Encoding.decA05_of _ h0]; simp only [decA05, h1, h2, h3, h4]
  rfl

theorem Encoding.selEqz (d : SReg) (a : SReg) (b : SReg) : Encoding.Statement (.selEqz d a b) := by
  intro hw
  refine ⟨fun _ h => (by cases h), fun _ h => ?_⟩
  cases h
  obtain ⟨h0, h1, h2, h3, h4⟩ := Encoding.fmt_A_6_6_6_6_5 0x5#6 (d) (a) (b) 9#5
  rw [Encoding.decA05_of _ h0]; simp only [decA05, h1, h2, h3, h4]
  rfl

theorem Encoding.bfxN64 (d : SReg) (a : SReg) (b : SReg) : Encoding.Statement (.bfxN64 d a b) := by
  intro hw
  refine ⟨fun _ h => (by cases h), fun _ h => ?_⟩
  cases h
  obtain ⟨h0, h1, h2, h3, h4⟩ := Encoding.fmt_A_6_6_6_6_5 0x6#6 (d) (a) (b) 0#5
  rw [Encoding.decA06_of _ h0]; simp only [decA06, h1, h2, h3, h4]
  rfl

theorem Encoding.bfx (d : SReg) (a : SReg) (b : SReg) : Encoding.Statement (.bfx d a b) := by
  intro hw
  refine ⟨fun _ h => (by cases h), fun _ h => ?_⟩
  cases h
  obtain ⟨h0, h1, h2, h3, h4⟩ := Encoding.fmt_A_6_6_6_6_5 0x6#6 (d) (a) (b) 1#5
  rw [Encoding.decA06_of _ h0]; simp only [decA06, h1, h2, h3, h4]
  rfl

theorem Encoding.bfi (d : SReg) (a : SReg) (b : SReg) : Encoding.Statement (.bfi d a b) := by
  intro hw
  refine ⟨fun _ h => (by cases h), fun _ h => ?_⟩
  cases h
  obtain ⟨h0, h1, h2, h3, h4⟩ := Encoding.fmt_A_6_6_6_6_5 0x6#6 (d) (a) (b) 2#5
  rw [Encoding.decA06_of _ h0]; simp only [decA06, h1, h2, h3, h4]
  rfl

theorem Encoding.clz (d : SReg) (a : SReg) : Encoding.Statement (.clz d a) := by
  intro hw
  refine ⟨fun _ h => (by cases h), fun _ h => ?_⟩
  cases h
  obtain ⟨h0, h1, h2, h3, h4⟩ := Encoding.fmt_A_6_6_6_6_5 0x6#6 (d) (a) 0#6 3#5
  rw [Encoding.decA06_of _ h0]; simp only [decA06, h1, h2, h3, h4]
  rfl

theorem Encoding.ctz (d : SReg) (a : SReg) : Encoding.Statement (.ctz d a) := by
  intro hw
  refine ⟨fun _ h => (by cases h), fun _ h => ?_⟩
  cases h
  obtain ⟨h0, h1, h2, h3, h4⟩ := Encoding.fmt_A_6_6_6_6_5 0x6#6 (d) (a) 0#6 4#5
  rw [Encoding.decA06_of _ h0]; simp only [decA06, h1, h2, h3, h4]
  rfl

theorem Encoding.popc (d : SReg) (a : SReg) : Encoding.Statement (.popc d a) := by
  intro hw
  refine ⟨fun _ h => (by cases h), fun _ h => ?_⟩
  cases h
  obtain ⟨h0, h1, h2, h3, h4⟩ := Encoding.fmt_A_6_6_6_6_5 0x6#6 (d) (a) 0#6 5#5
  rw [Encoding.decA06_of _ h0]; simp only [decA06, h1, h2, h3, h4]
  rfl

theorem Encoding.bswap (d : SReg) (a : SReg) : Encoding.Statement (.bswap d a) := by
  intro hw
  refine ⟨fun _ h => (by cases h), fun _ h => ?_⟩
  cases h
  obtain ⟨h0, h1, h2, h3, h4⟩ := Encoding.fmt_A_6_6_6_6_5 0x6#6 (d) (a) 0#6 6#5
  rw [Encoding.decA06_of _ h0]; simp only [decA06, h1, h2, h3, h4]
  rfl

theorem Encoding.brev (d : SReg) (a : SReg) : Encoding.Statement (.brev d a) := by
  intro hw
  refine ⟨fun _ h => (by cases h), fun _ h => ?_⟩
  cases h
  obtain ⟨h0, h1, h2, h3, h4⟩ := Encoding.fmt_A_6_6_6_6_5 0x6#6 (d) (a) 0#6 7#5
  rw [Encoding.decA06_of _ h0]; simp only [decA06, h1, h2, h3, h4]
  rfl

theorem Encoding.min (d : SReg) (a : SReg) (b : SReg) : Encoding.Statement (.min d a b) := by
  intro hw
  refine ⟨fun _ h => (by cases h), fun _ h => ?_⟩
  cases h
  obtain ⟨h0, h1, h2, h3, h4⟩ := Encoding.fmt_A_6_6_6_6_5 0x7#6 (d) (a) (b) 0#5
  rw [Encoding.decA07_of _ h0]; simp only [decA07, h1, h2, h3, h4]
  rfl

theorem Encoding.minN64 (d : SReg) (a : SReg) (b : SReg) : Encoding.Statement (.minN64 d a b) := by
  intro hw
  refine ⟨fun _ h => (by cases h), fun _ h => ?_⟩
  cases h
  obtain ⟨h0, h1, h2, h3, h4⟩ := Encoding.fmt_A_6_6_6_6_5 0x7#6 (d) (a) (b) 1#5
  rw [Encoding.decA07_of _ h0]; simp only [decA07, h1, h2, h3, h4]
  rfl

theorem Encoding.max (d : SReg) (a : SReg) (b : SReg) : Encoding.Statement (.max d a b) := by
  intro hw
  refine ⟨fun _ h => (by cases h), fun _ h => ?_⟩
  cases h
  obtain ⟨h0, h1, h2, h3, h4⟩ := Encoding.fmt_A_6_6_6_6_5 0x7#6 (d) (a) (b) 2#5
  rw [Encoding.decA07_of _ h0]; simp only [decA07, h1, h2, h3, h4]
  rfl

theorem Encoding.maxN64 (d : SReg) (a : SReg) (b : SReg) : Encoding.Statement (.maxN64 d a b) := by
  intro hw
  refine ⟨fun _ h => (by cases h), fun _ h => ?_⟩
  cases h
  obtain ⟨h0, h1, h2, h3, h4⟩ := Encoding.fmt_A_6_6_6_6_5 0x7#6 (d) (a) (b) 3#5
  rw [Encoding.decA07_of _ h0]; simp only [decA07, h1, h2, h3, h4]
  rfl

theorem Encoding.abs (d : SReg) (a : SReg) : Encoding.Statement (.abs d a) := by
  intro hw
  refine ⟨fun _ h => (by cases h), fun _ h => ?_⟩
  cases h
  obtain ⟨h0, h1, h2, h3, h4⟩ := Encoding.fmt_A_6_6_6_6_5 0x7#6 (d) (a) 0#6 4#5
  rw [Encoding.decA07_of _ h0]; simp only [decA07, h1, h2, h3, h4]
  rfl

theorem Encoding.abss (d : SReg) (a : SReg) : Encoding.Statement (.abss d a) := by
  intro hw
  refine ⟨fun _ h => (by cases h), fun _ h => ?_⟩
  cases h
  obtain ⟨h0, h1, h2, h3, h4⟩ := Encoding.fmt_A_6_6_6_6_5 0x7#6 (d) (a) 0#6 5#5
  rw [Encoding.decA07_of _ h0]; simp only [decA07, h1, h2, h3, h4]
  rfl

theorem Encoding.kand (d : KReg) (a : KReg) (b : KReg) : Encoding.Statement (.kand d a b) := by
  intro hw
  refine ⟨fun _ h => (by cases h), fun _ h => ?_⟩
  cases h
  obtain ⟨h0, h1, h2, h3, h4⟩ := Encoding.fmt_A_6_6_6_6_5 0x8#6 (d.setWidth 6) (a.setWidth 6) (b.setWidth 6) 0#5
  rw [Encoding.decA08_of _ h0]; simp only [decA08, h1, h2, h3, h4]
  simp [kregOf_wide6]

theorem Encoding.kor (d : KReg) (a : KReg) (b : KReg) : Encoding.Statement (.kor d a b) := by
  intro hw
  refine ⟨fun _ h => (by cases h), fun _ h => ?_⟩
  cases h
  obtain ⟨h0, h1, h2, h3, h4⟩ := Encoding.fmt_A_6_6_6_6_5 0x8#6 (d.setWidth 6) (a.setWidth 6) (b.setWidth 6) 1#5
  rw [Encoding.decA08_of _ h0]; simp only [decA08, h1, h2, h3, h4]
  simp [kregOf_wide6]

theorem Encoding.kxor (d : KReg) (a : KReg) (b : KReg) : Encoding.Statement (.kxor d a b) := by
  intro hw
  refine ⟨fun _ h => (by cases h), fun _ h => ?_⟩
  cases h
  obtain ⟨h0, h1, h2, h3, h4⟩ := Encoding.fmt_A_6_6_6_6_5 0x8#6 (d.setWidth 6) (a.setWidth 6) (b.setWidth 6) 2#5
  rw [Encoding.decA08_of _ h0]; simp only [decA08, h1, h2, h3, h4]
  simp [kregOf_wide6]

theorem Encoding.kandn (d : KReg) (a : KReg) (b : KReg) : Encoding.Statement (.kandn d a b) := by
  intro hw
  refine ⟨fun _ h => (by cases h), fun _ h => ?_⟩
  cases h
  obtain ⟨h0, h1, h2, h3, h4⟩ := Encoding.fmt_A_6_6_6_6_5 0x8#6 (d.setWidth 6) (a.setWidth 6) (b.setWidth 6) 3#5
  rw [Encoding.decA08_of _ h0]; simp only [decA08, h1, h2, h3, h4]
  simp [kregOf_wide6]

theorem Encoding.knot (d : KReg) (a : KReg) : Encoding.Statement (.knot d a) := by
  intro hw
  refine ⟨fun _ h => (by cases h), fun _ h => ?_⟩
  cases h
  obtain ⟨h0, h1, h2, h3, h4⟩ := Encoding.fmt_A_6_6_6_6_5 0x8#6 (d.setWidth 6) (a.setWidth 6) 0#6 4#5
  rw [Encoding.decA08_of _ h0]; simp only [decA08, h1, h2, h3, h4]
  simp [kregOf_wide6]

theorem Encoding.kset (d : KReg) (a : SReg) : Encoding.Statement (.kset d a) := by
  intro hw
  refine ⟨fun _ h => (by cases h), fun _ h => ?_⟩
  cases h
  obtain ⟨h0, h1, h2, h3, h4⟩ := Encoding.fmt_A_6_6_6_6_5 0x8#6 (d.setWidth 6) (a) 0#6 5#5
  rw [Encoding.decA08_of _ h0]; simp only [decA08, h1, h2, h3, h4]
  simp [kregOf_wide6]

theorem Encoding.kget (d : SReg) (a : KReg) : Encoding.Statement (.kget d a) := by
  intro hw
  refine ⟨fun _ h => (by cases h), fun _ h => ?_⟩
  cases h
  obtain ⟨h0, h1, h2, h3, h4⟩ := Encoding.fmt_A_6_6_6_6_5 0x8#6 (d) (a.setWidth 6) 0#6 6#5
  rw [Encoding.decA08_of _ h0]; simp only [decA08, h1, h2, h3, h4]
  simp [kregOf_wide6]

theorem Encoding.kpopc (d : SReg) (a : KReg) : Encoding.Statement (.kpopc d a) := by
  intro hw
  refine ⟨fun _ h => (by cases h), fun _ h => ?_⟩
  cases h
  obtain ⟨h0, h1, h2, h3, h4⟩ := Encoding.fmt_A_6_6_6_6_5 0x8#6 (d) (a.setWidth 6) 0#6 7#5
  rw [Encoding.decA08_of _ h0]; simp only [decA08, h1, h2, h3, h4]
  simp [kregOf_wide6]

theorem Encoding.kffs (d : SReg) (a : KReg) : Encoding.Statement (.kffs d a) := by
  intro hw
  refine ⟨fun _ h => (by cases h), fun _ h => ?_⟩
  cases h
  obtain ⟨h0, h1, h2, h3, h4⟩ := Encoding.fmt_A_6_6_6_6_5 0x8#6 (d) (a.setWidth 6) 0#6 8#5
  rw [Encoding.decA08_of _ h0]; simp only [decA08, h1, h2, h3, h4]
  simp [kregOf_wide6]

theorem Encoding.vbcast (d : VReg) (s : SReg) (m : BitVec 3) (z : BitVec 2) : Encoding.Statement (.vbcast d s m z) := by
  intro hw
  refine ⟨fun _ h => (by cases h), fun _ h => ?_⟩
  cases h
  obtain ⟨h0, h1, h2, h3, h4, h5, h6⟩ := Encoding.fmt_A_6_5_5_6_3_2_2 0x9#6 (d) 0#5 (s) (m) 0#2 (z)
  have hm : BitVec.extractLsb' 0 4 (0x9#6 ++ (d) ++ 0#5 ++ (s) ++ (m) ++ 0#2 ++ (z) : BitVec 29) = 0#2 ++ (z) :=
    show BitVec.extractLsb' (n := 6 + 5 + 5 + 6 + 3 + 2 + 2) 0 (2 + 2) (0x9#6 ++ (d) ++ 0#5 ++ (s) ++ (m) ++ 0#2 ++ (z)) = 0#2 ++ (z) from by
    exact xlo2 _ _ _
  rw [Encoding.decA09_of _ h0]; simp only [decA09, h1, h2, h3, h4, h5, h6, hm]
  clear h0 h1 h2 h3 h4 h5 h6 hm
  rcases twoBits z with rfl | rfl | rfl | rfl <;> rfl

theorem Encoding.vins (d : VReg) (s : SReg) (e : BitVec 5) (m : BitVec 3) (z : BitVec 2) : Encoding.Statement (.vins d s e m z) := by
  intro hw
  refine ⟨fun _ h => (by cases h), fun _ h => ?_⟩
  cases h
  obtain ⟨h0, h1, h2, h3, h4, h5, h6⟩ := Encoding.fmt_A_6_5_5_6_3_2_2 0x9#6 (d) (e) (s) (m) 1#2 (z)
  have hm : BitVec.extractLsb' 0 4 (0x9#6 ++ (d) ++ (e) ++ (s) ++ (m) ++ 1#2 ++ (z) : BitVec 29) = 1#2 ++ (z) :=
    show BitVec.extractLsb' (n := 6 + 5 + 5 + 6 + 3 + 2 + 2) 0 (2 + 2) (0x9#6 ++ (d) ++ (e) ++ (s) ++ (m) ++ 1#2 ++ (z)) = 1#2 ++ (z) from by
    exact xlo2 _ _ _
  rw [Encoding.decA09_of _ h0]; simp only [decA09, h1, h2, h3, h4, h5, h6, hm]
  clear h0 h1 h2 h3 h4 h5 h6 hm
  rcases twoBits z with rfl | rfl | rfl | rfl <;> exact if_pos hw

theorem Encoding.vextI (d : SReg) (a : VReg) (e : BitVec 5) (m : BitVec 3) (z : BitVec 2) : Encoding.Statement (.vextI d a e m z) := by
  intro hw
  refine ⟨fun _ h => (by cases h), fun _ h => ?_⟩
  cases h
  obtain ⟨h0, h1, h2, h3, h4, h5, h6⟩ := Encoding.fmt_A_6_5_5_6_3_2_2 0x9#6 (e) (a) (d) (m) 2#2 (z)
  have hm : BitVec.extractLsb' 0 4 (0x9#6 ++ (e) ++ (a) ++ (d) ++ (m) ++ 2#2 ++ (z) : BitVec 29) = 2#2 ++ (z) :=
    show BitVec.extractLsb' (n := 6 + 5 + 5 + 6 + 3 + 2 + 2) 0 (2 + 2) (0x9#6 ++ (e) ++ (a) ++ (d) ++ (m) ++ 2#2 ++ (z)) = 2#2 ++ (z) from by
    exact xlo2 _ _ _
  rw [Encoding.decA09_of _ h0]; simp only [decA09, h1, h2, h3, h4, h5, h6, hm]
  clear h0 h1 h2 h3 h4 h5 h6 hm
  rcases twoBits z with rfl | rfl | rfl | rfl <;> exact if_pos hw

theorem Encoding.vextN (d : SReg) (a : VReg) (e : BitVec 5) (m : BitVec 3) (z : BitVec 2) : Encoding.Statement (.vextN d a e m z) := by
  intro hw
  refine ⟨fun _ h => (by cases h), fun _ h => ?_⟩
  cases h
  obtain ⟨h0, h1, h2, h3, h4, h5, h6⟩ := Encoding.fmt_A_6_5_5_6_3_2_2 0x9#6 (e) (a) (d) (m) 3#2 (z)
  have hm : BitVec.extractLsb' 0 4 (0x9#6 ++ (e) ++ (a) ++ (d) ++ (m) ++ 3#2 ++ (z) : BitVec 29) = 3#2 ++ (z) :=
    show BitVec.extractLsb' (n := 6 + 5 + 5 + 6 + 3 + 2 + 2) 0 (2 + 2) (0x9#6 ++ (e) ++ (a) ++ (d) ++ (m) ++ 3#2 ++ (z)) = 3#2 ++ (z) from by
    exact xlo2 _ _ _
  rw [Encoding.decA09_of _ h0]; simp only [decA09, h1, h2, h3, h4, h5, h6, hm]
  clear h0 h1 h2 h3 h4 h5 h6 hm
  rcases twoBits z with rfl | rfl | rfl | rfl <;> exact if_pos hw

theorem Encoding.vadd (d : VReg) (a : VReg) (b : VReg) (m : BitVec 3) (z : BitVec 2) : Encoding.Statement (.vadd d a b m z) := by
  intro hw
  refine ⟨fun _ h => (by cases h), fun _ h => ?_⟩
  cases h
  obtain ⟨h0, h1, h2, h3, h4, h5, h6⟩ := Encoding.fmt_A_6_5_5_5_3_3_2 0x10#6 (d) (a) (b) (m) 0#3 (z)
  have hm : BitVec.extractLsb' 0 5 (0x10#6 ++ (d) ++ (a) ++ (b) ++ (m) ++ 0#3 ++ (z) : BitVec 29) = 0#3 ++ (z) :=
    show BitVec.extractLsb' (n := 6 + 5 + 5 + 5 + 3 + 3 + 2) 0 (3 + 2) (0x10#6 ++ (d) ++ (a) ++ (b) ++ (m) ++ 0#3 ++ (z)) = 0#3 ++ (z) from by
    exact xlo2 _ _ _
  rw [Encoding.decA10_of _ h0]; simp only [decA10, h1, h2, h3, h4, h5, h6, hm]
  clear h0 h1 h2 h3 h4 h5 h6 hm
  rcases twoBits z with rfl | rfl | rfl | rfl <;> rfl

theorem Encoding.vsub (d : VReg) (a : VReg) (b : VReg) (m : BitVec 3) (z : BitVec 2) : Encoding.Statement (.vsub d a b m z) := by
  intro hw
  refine ⟨fun _ h => (by cases h), fun _ h => ?_⟩
  cases h
  obtain ⟨h0, h1, h2, h3, h4, h5, h6⟩ := Encoding.fmt_A_6_5_5_5_3_3_2 0x10#6 (d) (a) (b) (m) 1#3 (z)
  have hm : BitVec.extractLsb' 0 5 (0x10#6 ++ (d) ++ (a) ++ (b) ++ (m) ++ 1#3 ++ (z) : BitVec 29) = 1#3 ++ (z) :=
    show BitVec.extractLsb' (n := 6 + 5 + 5 + 5 + 3 + 3 + 2) 0 (3 + 2) (0x10#6 ++ (d) ++ (a) ++ (b) ++ (m) ++ 1#3 ++ (z)) = 1#3 ++ (z) from by
    exact xlo2 _ _ _
  rw [Encoding.decA10_of _ h0]; simp only [decA10, h1, h2, h3, h4, h5, h6, hm]
  clear h0 h1 h2 h3 h4 h5 h6 hm
  rcases twoBits z with rfl | rfl | rfl | rfl <;> rfl

theorem Encoding.vaddsI (d : VReg) (a : VReg) (b : VReg) (m : BitVec 3) (z : BitVec 2) : Encoding.Statement (.vaddsI d a b m z) := by
  intro hw
  refine ⟨fun _ h => (by cases h), fun _ h => ?_⟩
  cases h
  obtain ⟨h0, h1, h2, h3, h4, h5, h6⟩ := Encoding.fmt_A_6_5_5_5_3_3_2 0x10#6 (d) (a) (b) (m) 2#3 (z)
  have hm : BitVec.extractLsb' 0 5 (0x10#6 ++ (d) ++ (a) ++ (b) ++ (m) ++ 2#3 ++ (z) : BitVec 29) = 2#3 ++ (z) :=
    show BitVec.extractLsb' (n := 6 + 5 + 5 + 5 + 3 + 3 + 2) 0 (3 + 2) (0x10#6 ++ (d) ++ (a) ++ (b) ++ (m) ++ 2#3 ++ (z)) = 2#3 ++ (z) from by
    exact xlo2 _ _ _
  rw [Encoding.decA10_of _ h0]; simp only [decA10, h1, h2, h3, h4, h5, h6, hm]
  clear h0 h1 h2 h3 h4 h5 h6 hm
  rcases twoBits z with rfl | rfl | rfl | rfl <;> rfl

theorem Encoding.vaddsN (d : VReg) (a : VReg) (b : VReg) (m : BitVec 3) (z : BitVec 2) : Encoding.Statement (.vaddsN d a b m z) := by
  intro hw
  refine ⟨fun _ h => (by cases h), fun _ h => ?_⟩
  cases h
  obtain ⟨h0, h1, h2, h3, h4, h5, h6⟩ := Encoding.fmt_A_6_5_5_5_3_3_2 0x10#6 (d) (a) (b) (m) 3#3 (z)
  have hm : BitVec.extractLsb' 0 5 (0x10#6 ++ (d) ++ (a) ++ (b) ++ (m) ++ 3#3 ++ (z) : BitVec 29) = 3#3 ++ (z) :=
    show BitVec.extractLsb' (n := 6 + 5 + 5 + 5 + 3 + 3 + 2) 0 (3 + 2) (0x10#6 ++ (d) ++ (a) ++ (b) ++ (m) ++ 3#3 ++ (z)) = 3#3 ++ (z) from by
    exact xlo2 _ _ _
  rw [Encoding.decA10_of _ h0]; simp only [decA10, h1, h2, h3, h4, h5, h6, hm]
  clear h0 h1 h2 h3 h4 h5 h6 hm
  rcases twoBits z with rfl | rfl | rfl | rfl <;> rfl

theorem Encoding.vsubsI (d : VReg) (a : VReg) (b : VReg) (m : BitVec 3) (z : BitVec 2) : Encoding.Statement (.vsubsI d a b m z) := by
  intro hw
  refine ⟨fun _ h => (by cases h), fun _ h => ?_⟩
  cases h
  obtain ⟨h0, h1, h2, h3, h4, h5, h6⟩ := Encoding.fmt_A_6_5_5_5_3_3_2 0x10#6 (d) (a) (b) (m) 4#3 (z)
  have hm : BitVec.extractLsb' 0 5 (0x10#6 ++ (d) ++ (a) ++ (b) ++ (m) ++ 4#3 ++ (z) : BitVec 29) = 4#3 ++ (z) :=
    show BitVec.extractLsb' (n := 6 + 5 + 5 + 5 + 3 + 3 + 2) 0 (3 + 2) (0x10#6 ++ (d) ++ (a) ++ (b) ++ (m) ++ 4#3 ++ (z)) = 4#3 ++ (z) from by
    exact xlo2 _ _ _
  rw [Encoding.decA10_of _ h0]; simp only [decA10, h1, h2, h3, h4, h5, h6, hm]
  clear h0 h1 h2 h3 h4 h5 h6 hm
  rcases twoBits z with rfl | rfl | rfl | rfl <;> rfl

theorem Encoding.vsubsN (d : VReg) (a : VReg) (b : VReg) (m : BitVec 3) (z : BitVec 2) : Encoding.Statement (.vsubsN d a b m z) := by
  intro hw
  refine ⟨fun _ h => (by cases h), fun _ h => ?_⟩
  cases h
  obtain ⟨h0, h1, h2, h3, h4, h5, h6⟩ := Encoding.fmt_A_6_5_5_5_3_3_2 0x10#6 (d) (a) (b) (m) 5#3 (z)
  have hm : BitVec.extractLsb' 0 5 (0x10#6 ++ (d) ++ (a) ++ (b) ++ (m) ++ 5#3 ++ (z) : BitVec 29) = 5#3 ++ (z) :=
    show BitVec.extractLsb' (n := 6 + 5 + 5 + 5 + 3 + 3 + 2) 0 (3 + 2) (0x10#6 ++ (d) ++ (a) ++ (b) ++ (m) ++ 5#3 ++ (z)) = 5#3 ++ (z) from by
    exact xlo2 _ _ _
  rw [Encoding.decA10_of _ h0]; simp only [decA10, h1, h2, h3, h4, h5, h6, hm]
  clear h0 h1 h2 h3 h4 h5 h6 hm
  rcases twoBits z with rfl | rfl | rfl | rfl <;> rfl

theorem Encoding.vmul (d : VReg) (a : VReg) (b : VReg) (m : BitVec 3) (z : BitVec 2) : Encoding.Statement (.vmul d a b m z) := by
  intro hw
  refine ⟨fun _ h => (by cases h), fun _ h => ?_⟩
  cases h
  obtain ⟨h0, h1, h2, h3, h4, h5, h6⟩ := Encoding.fmt_A_6_5_5_5_3_3_2 0x10#6 (d) (a) (b) (m) 6#3 (z)
  have hm : BitVec.extractLsb' 0 5 (0x10#6 ++ (d) ++ (a) ++ (b) ++ (m) ++ 6#3 ++ (z) : BitVec 29) = 6#3 ++ (z) :=
    show BitVec.extractLsb' (n := 6 + 5 + 5 + 5 + 3 + 3 + 2) 0 (3 + 2) (0x10#6 ++ (d) ++ (a) ++ (b) ++ (m) ++ 6#3 ++ (z)) = 6#3 ++ (z) from by
    exact xlo2 _ _ _
  rw [Encoding.decA10_of _ h0]; simp only [decA10, h1, h2, h3, h4, h5, h6, hm]
  clear h0 h1 h2 h3 h4 h5 h6 hm
  rcases twoBits z with rfl | rfl | rfl | rfl <;> rfl

theorem Encoding.vabs (d : VReg) (a : VReg) (m : BitVec 3) (z : BitVec 2) : Encoding.Statement (.vabs d a m z) := by
  intro hw
  refine ⟨fun _ h => (by cases h), fun _ h => ?_⟩
  cases h
  obtain ⟨h0, h1, h2, h3, h4, h5, h6⟩ := Encoding.fmt_A_6_5_5_5_3_3_2 0x10#6 (d) (a) 0#5 (m) 7#3 (z)
  have hm : BitVec.extractLsb' 0 5 (0x10#6 ++ (d) ++ (a) ++ 0#5 ++ (m) ++ 7#3 ++ (z) : BitVec 29) = 7#3 ++ (z) :=
    show BitVec.extractLsb' (n := 6 + 5 + 5 + 5 + 3 + 3 + 2) 0 (3 + 2) (0x10#6 ++ (d) ++ (a) ++ 0#5 ++ (m) ++ 7#3 ++ (z)) = 7#3 ++ (z) from by
    exact xlo2 _ _ _
  rw [Encoding.decA10_of _ h0]; simp only [decA10, h1, h2, h3, h4, h5, h6, hm]
  clear h0 h1 h2 h3 h4 h5 h6 hm
  rcases twoBits z with rfl | rfl | rfl | rfl <;> rfl

theorem Encoding.vand (d : VReg) (a : VReg) (b : VReg) (m : BitVec 3) (z : BitVec 2) : Encoding.Statement (.vand d a b m z) := by
  intro hw
  refine ⟨fun _ h => (by cases h), fun _ h => ?_⟩
  cases h
  obtain ⟨h0, h1, h2, h3, h4, h5, h6⟩ := Encoding.fmt_A_6_5_5_5_3_2_3 0x11#6 (d) (a) (b) (m) (z) 0#3
  have hm : BitVec.extractLsb' 0 5 (0x11#6 ++ (d) ++ (a) ++ (b) ++ (m) ++ (z) ++ 0#3 : BitVec 29) = (z) ++ 0#3 :=
    show BitVec.extractLsb' (n := 6 + 5 + 5 + 5 + 3 + 2 + 3) 0 (2 + 3) (0x11#6 ++ (d) ++ (a) ++ (b) ++ (m) ++ (z) ++ 0#3) = (z) ++ 0#3 from by
    exact xlo2 _ _ _
  rw [Encoding.decA11_of _ h0]; simp only [decA11, h1, h2, h3, h4, h5, h6, hm]
  clear h0 h1 h2 h3 h4 h5 h6 hm
  rcases twoBits z with rfl | rfl | rfl | rfl <;> rfl

theorem Encoding.vor (d : VReg) (a : VReg) (b : VReg) (m : BitVec 3) (z : BitVec 2) : Encoding.Statement (.vor d a b m z) := by
  intro hw
  refine ⟨fun _ h => (by cases h), fun _ h => ?_⟩
  cases h
  obtain ⟨h0, h1, h2, h3, h4, h5, h6⟩ := Encoding.fmt_A_6_5_5_5_3_2_3 0x11#6 (d) (a) (b) (m) (z) 1#3
  have hm : BitVec.extractLsb' 0 5 (0x11#6 ++ (d) ++ (a) ++ (b) ++ (m) ++ (z) ++ 1#3 : BitVec 29) = (z) ++ 1#3 :=
    show BitVec.extractLsb' (n := 6 + 5 + 5 + 5 + 3 + 2 + 3) 0 (2 + 3) (0x11#6 ++ (d) ++ (a) ++ (b) ++ (m) ++ (z) ++ 1#3) = (z) ++ 1#3 from by
    exact xlo2 _ _ _
  rw [Encoding.decA11_of _ h0]; simp only [decA11, h1, h2, h3, h4, h5, h6, hm]
  clear h0 h1 h2 h3 h4 h5 h6 hm
  rcases twoBits z with rfl | rfl | rfl | rfl <;> rfl

theorem Encoding.vxor (d : VReg) (a : VReg) (b : VReg) (m : BitVec 3) (z : BitVec 2) : Encoding.Statement (.vxor d a b m z) := by
  intro hw
  refine ⟨fun _ h => (by cases h), fun _ h => ?_⟩
  cases h
  obtain ⟨h0, h1, h2, h3, h4, h5, h6⟩ := Encoding.fmt_A_6_5_5_5_3_2_3 0x11#6 (d) (a) (b) (m) (z) 2#3
  have hm : BitVec.extractLsb' 0 5 (0x11#6 ++ (d) ++ (a) ++ (b) ++ (m) ++ (z) ++ 2#3 : BitVec 29) = (z) ++ 2#3 :=
    show BitVec.extractLsb' (n := 6 + 5 + 5 + 5 + 3 + 2 + 3) 0 (2 + 3) (0x11#6 ++ (d) ++ (a) ++ (b) ++ (m) ++ (z) ++ 2#3) = (z) ++ 2#3 from by
    exact xlo2 _ _ _
  rw [Encoding.decA11_of _ h0]; simp only [decA11, h1, h2, h3, h4, h5, h6, hm]
  clear h0 h1 h2 h3 h4 h5 h6 hm
  rcases twoBits z with rfl | rfl | rfl | rfl <;> rfl

theorem Encoding.vandn (d : VReg) (a : VReg) (b : VReg) (m : BitVec 3) (z : BitVec 2) : Encoding.Statement (.vandn d a b m z) := by
  intro hw
  refine ⟨fun _ h => (by cases h), fun _ h => ?_⟩
  cases h
  obtain ⟨h0, h1, h2, h3, h4, h5, h6⟩ := Encoding.fmt_A_6_5_5_5_3_2_3 0x11#6 (d) (a) (b) (m) (z) 3#3
  have hm : BitVec.extractLsb' 0 5 (0x11#6 ++ (d) ++ (a) ++ (b) ++ (m) ++ (z) ++ 3#3 : BitVec 29) = (z) ++ 3#3 :=
    show BitVec.extractLsb' (n := 6 + 5 + 5 + 5 + 3 + 2 + 3) 0 (2 + 3) (0x11#6 ++ (d) ++ (a) ++ (b) ++ (m) ++ (z) ++ 3#3) = (z) ++ 3#3 from by
    exact xlo2 _ _ _
  rw [Encoding.decA11_of _ h0]; simp only [decA11, h1, h2, h3, h4, h5, h6, hm]
  clear h0 h1 h2 h3 h4 h5 h6 hm
  rcases twoBits z with rfl | rfl | rfl | rfl <;> rfl

theorem Encoding.vorn (d : VReg) (a : VReg) (b : VReg) (m : BitVec 3) (z : BitVec 2) : Encoding.Statement (.vorn d a b m z) := by
  intro hw
  refine ⟨fun _ h => (by cases h), fun _ h => ?_⟩
  cases h
  obtain ⟨h0, h1, h2, h3, h4, h5, h6⟩ := Encoding.fmt_A_6_5_5_5_3_2_3 0x11#6 (d) (a) (b) (m) (z) 4#3
  have hm : BitVec.extractLsb' 0 5 (0x11#6 ++ (d) ++ (a) ++ (b) ++ (m) ++ (z) ++ 4#3 : BitVec 29) = (z) ++ 4#3 :=
    show BitVec.extractLsb' (n := 6 + 5 + 5 + 5 + 3 + 2 + 3) 0 (2 + 3) (0x11#6 ++ (d) ++ (a) ++ (b) ++ (m) ++ (z) ++ 4#3) = (z) ++ 4#3 from by
    exact xlo2 _ _ _
  rw [Encoding.decA11_of _ h0]; simp only [decA11, h1, h2, h3, h4, h5, h6, hm]
  clear h0 h1 h2 h3 h4 h5 h6 hm
  rcases twoBits z with rfl | rfl | rfl | rfl <;> rfl

theorem Encoding.vxnor (d : VReg) (a : VReg) (b : VReg) (m : BitVec 3) (z : BitVec 2) : Encoding.Statement (.vxnor d a b m z) := by
  intro hw
  refine ⟨fun _ h => (by cases h), fun _ h => ?_⟩
  cases h
  obtain ⟨h0, h1, h2, h3, h4, h5, h6⟩ := Encoding.fmt_A_6_5_5_5_3_2_3 0x11#6 (d) (a) (b) (m) (z) 5#3
  have hm : BitVec.extractLsb' 0 5 (0x11#6 ++ (d) ++ (a) ++ (b) ++ (m) ++ (z) ++ 5#3 : BitVec 29) = (z) ++ 5#3 :=
    show BitVec.extractLsb' (n := 6 + 5 + 5 + 5 + 3 + 2 + 3) 0 (2 + 3) (0x11#6 ++ (d) ++ (a) ++ (b) ++ (m) ++ (z) ++ 5#3) = (z) ++ 5#3 from by
    exact xlo2 _ _ _
  rw [Encoding.decA11_of _ h0]; simp only [decA11, h1, h2, h3, h4, h5, h6, hm]
  clear h0 h1 h2 h3 h4 h5 h6 hm
  rcases twoBits z with rfl | rfl | rfl | rfl <;> rfl

theorem Encoding.vbsl (d : VReg) (a : VReg) (b : VReg) (m : BitVec 3) (z : BitVec 2) : Encoding.Statement (.vbsl d a b m z) := by
  intro hw
  refine ⟨fun _ h => (by cases h), fun _ h => ?_⟩
  cases h
  obtain ⟨h0, h1, h2, h3, h4, h5, h6⟩ := Encoding.fmt_A_6_5_5_5_3_2_3 0x11#6 (d) (a) (b) (m) (z) 6#3
  have hm : BitVec.extractLsb' 0 5 (0x11#6 ++ (d) ++ (a) ++ (b) ++ (m) ++ (z) ++ 6#3 : BitVec 29) = (z) ++ 6#3 :=
    show BitVec.extractLsb' (n := 6 + 5 + 5 + 5 + 3 + 2 + 3) 0 (2 + 3) (0x11#6 ++ (d) ++ (a) ++ (b) ++ (m) ++ (z) ++ 6#3) = (z) ++ 6#3 from by
    exact xlo2 _ _ _
  rw [Encoding.decA11_of _ h0]; simp only [decA11, h1, h2, h3, h4, h5, h6, hm]
  clear h0 h1 h2 h3 h4 h5 h6 hm
  rcases twoBits z with rfl | rfl | rfl | rfl <;> rfl

theorem Encoding.vmov (d : VReg) (a : VReg) (m : BitVec 3) (z : BitVec 2) : Encoding.Statement (.vmov d a m z) := by
  intro hw
  refine ⟨fun _ h => (by cases h), fun _ h => ?_⟩
  cases h
  obtain ⟨h0, h1, h2, h3, h4, h5, h6⟩ := Encoding.fmt_A_6_5_5_5_3_2_3 0x11#6 (d) (a) 0#5 (m) (z) 7#3
  have hm : BitVec.extractLsb' 0 5 (0x11#6 ++ (d) ++ (a) ++ 0#5 ++ (m) ++ (z) ++ 7#3 : BitVec 29) = (z) ++ 7#3 :=
    show BitVec.extractLsb' (n := 6 + 5 + 5 + 5 + 3 + 2 + 3) 0 (2 + 3) (0x11#6 ++ (d) ++ (a) ++ 0#5 ++ (m) ++ (z) ++ 7#3) = (z) ++ 7#3 from by
    exact xlo2 _ _ _
  rw [Encoding.decA11_of _ h0]; simp only [decA11, h1, h2, h3, h4, h5, h6, hm]
  clear h0 h1 h2 h3 h4 h5 h6 hm
  rcases twoBits z with rfl | rfl | rfl | rfl <;> rfl

theorem Encoding.vshl (d : VReg) (a : VReg) (b : VReg) (m : BitVec 3) (z : BitVec 2) : Encoding.Statement (.vshl d a b m z) := by
  intro hw
  refine ⟨fun _ h => (by cases h), fun _ h => ?_⟩
  cases h
  obtain ⟨h0, h1, h2, h3, h4, h5, h6⟩ := Encoding.fmt_A_6_5_5_5_3_3_2 0x12#6 (d) (a) (b) (m) 0#3 (z)
  have hm : BitVec.extractLsb' 0 5 (0x12#6 ++ (d) ++ (a) ++ (b) ++ (m) ++ 0#3 ++ (z) : BitVec 29) = 0#3 ++ (z) :=
    show BitVec.extractLsb' (n := 6 + 5 + 5 + 5 + 3 + 3 + 2) 0 (3 + 2) (0x12#6 ++ (d) ++ (a) ++ (b) ++ (m) ++ 0#3 ++ (z)) = 0#3 ++ (z) from by
    exact xlo2 _ _ _
  rw [Encoding.decA12_of _ h0]; simp only [decA12, h1, h2, h3, h4, h5, h6, hm]
  clear h0 h1 h2 h3 h4 h5 h6 hm
  rcases twoBits z with rfl | rfl | rfl | rfl <;> rfl

theorem Encoding.vshrN (d : VReg) (a : VReg) (b : VReg) (m : BitVec 3) (z : BitVec 2) : Encoding.Statement (.vshrN d a b m z) := by
  intro hw
  refine ⟨fun _ h => (by cases h), fun _ h => ?_⟩
  cases h
  obtain ⟨h0, h1, h2, h3, h4, h5, h6⟩ := Encoding.fmt_A_6_5_5_5_3_3_2 0x12#6 (d) (a) (b) (m) 1#3 (z)
  have hm : BitVec.extractLsb' 0 5 (0x12#6 ++ (d) ++ (a) ++ (b) ++ (m) ++ 1#3 ++ (z) : BitVec 29) = 1#3 ++ (z) :=
    show BitVec.extractLsb' (n := 6 + 5 + 5 + 5 + 3 + 3 + 2) 0 (3 + 2) (0x12#6 ++ (d) ++ (a) ++ (b) ++ (m) ++ 1#3 ++ (z)) = 1#3 ++ (z) from by
    exact xlo2 _ _ _
  rw [Encoding.decA12_of _ h0]; simp only [decA12, h1, h2, h3, h4, h5, h6, hm]
  clear h0 h1 h2 h3 h4 h5 h6 hm
  rcases twoBits z with rfl | rfl | rfl | rfl <;> rfl

theorem Encoding.vshrI (d : VReg) (a : VReg) (b : VReg) (m : BitVec 3) (z : BitVec 2) : Encoding.Statement (.vshrI d a b m z) := by
  intro hw
  refine ⟨fun _ h => (by cases h), fun _ h => ?_⟩
  cases h
  obtain ⟨h0, h1, h2, h3, h4, h5, h6⟩ := Encoding.fmt_A_6_5_5_5_3_3_2 0x12#6 (d) (a) (b) (m) 2#3 (z)
  have hm : BitVec.extractLsb' 0 5 (0x12#6 ++ (d) ++ (a) ++ (b) ++ (m) ++ 2#3 ++ (z) : BitVec 29) = 2#3 ++ (z) :=
    show BitVec.extractLsb' (n := 6 + 5 + 5 + 5 + 3 + 3 + 2) 0 (3 + 2) (0x12#6 ++ (d) ++ (a) ++ (b) ++ (m) ++ 2#3 ++ (z)) = 2#3 ++ (z) from by
    exact xlo2 _ _ _
  rw [Encoding.decA12_of _ h0]; simp only [decA12, h1, h2, h3, h4, h5, h6, hm]
  clear h0 h1 h2 h3 h4 h5 h6 hm
  rcases twoBits z with rfl | rfl | rfl | rfl <;> rfl

theorem Encoding.vrol (d : VReg) (a : VReg) (b : VReg) (m : BitVec 3) (z : BitVec 2) : Encoding.Statement (.vrol d a b m z) := by
  intro hw
  refine ⟨fun _ h => (by cases h), fun _ h => ?_⟩
  cases h
  obtain ⟨h0, h1, h2, h3, h4, h5, h6⟩ := Encoding.fmt_A_6_5_5_5_3_3_2 0x12#6 (d) (a) (b) (m) 3#3 (z)
  have hm : BitVec.extractLsb' 0 5 (0x12#6 ++ (d) ++ (a) ++ (b) ++ (m) ++ 3#3 ++ (z) : BitVec 29) = 3#3 ++ (z) :=
    show BitVec.extractLsb' (n := 6 + 5 + 5 + 5 + 3 + 3 + 2) 0 (3 + 2) (0x12#6 ++ (d) ++ (a) ++ (b) ++ (m) ++ 3#3 ++ (z)) = 3#3 ++ (z) from by
    exact xlo2 _ _ _
  rw [Encoding.decA12_of _ h0]; simp only [decA12, h1, h2, h3, h4, h5, h6, hm]
  clear h0 h1 h2 h3 h4 h5 h6 hm
  rcases twoBits z with rfl | rfl | rfl | rfl <;> rfl

theorem Encoding.vror (d : VReg) (a : VReg) (b : VReg) (m : BitVec 3) (z : BitVec 2) : Encoding.Statement (.vror d a b m z) := by
  intro hw
  refine ⟨fun _ h => (by cases h), fun _ h => ?_⟩
  cases h
  obtain ⟨h0, h1, h2, h3, h4, h5, h6⟩ := Encoding.fmt_A_6_5_5_5_3_3_2 0x12#6 (d) (a) (b) (m) 4#3 (z)
  have hm : BitVec.extractLsb' 0 5 (0x12#6 ++ (d) ++ (a) ++ (b) ++ (m) ++ 4#3 ++ (z) : BitVec 29) = 4#3 ++ (z) :=
    show BitVec.extractLsb' (n := 6 + 5 + 5 + 5 + 3 + 3 + 2) 0 (3 + 2) (0x12#6 ++ (d) ++ (a) ++ (b) ++ (m) ++ 4#3 ++ (z)) = 4#3 ++ (z) from by
    exact xlo2 _ _ _
  rw [Encoding.decA12_of _ h0]; simp only [decA12, h1, h2, h3, h4, h5, h6, hm]
  clear h0 h1 h2 h3 h4 h5 h6 hm
  rcases twoBits z with rfl | rfl | rfl | rfl <;> rfl

theorem Encoding.vcmpEq (d : KReg) (a : VReg) (b : VReg) (m : BitVec 3) (z : BitVec 2) : Encoding.Statement (.vcmpEq d a b m z) := by
  intro hw
  refine ⟨fun _ h => (by cases h), fun _ h => ?_⟩
  cases h
  obtain ⟨h0, h1, h2, h3, h4, h5, h6⟩ := Encoding.fmt_A_6_5_5_5_3_3_2 0x13#6 (d.setWidth 5) (a) (b) (m) 0#3 (z)
  have hm : BitVec.extractLsb' 0 5 (0x13#6 ++ (d.setWidth 5) ++ (a) ++ (b) ++ (m) ++ 0#3 ++ (z) : BitVec 29) = 0#3 ++ (z) :=
    show BitVec.extractLsb' (n := 6 + 5 + 5 + 5 + 3 + 3 + 2) 0 (3 + 2) (0x13#6 ++ (d.setWidth 5) ++ (a) ++ (b) ++ (m) ++ 0#3 ++ (z)) = 0#3 ++ (z) from by
    exact xlo2 _ _ _
  rw [Encoding.decA13_of _ h0]; simp only [decA13, h1, h2, h3, h4, h5, h6, hm]
  clear h0 h1 h2 h3 h4 h5 h6 hm
  rcases twoBits z with rfl | rfl | rfl | rfl <;> simp [kregOf_wide]

theorem Encoding.vcmpLtI (d : KReg) (a : VReg) (b : VReg) (m : BitVec 3) (z : BitVec 2) : Encoding.Statement (.vcmpLtI d a b m z) := by
  intro hw
  refine ⟨fun _ h => (by cases h), fun _ h => ?_⟩
  cases h
  obtain ⟨h0, h1, h2, h3, h4, h5, h6⟩ := Encoding.fmt_A_6_5_5_5_3_3_2 0x13#6 (d.setWidth 5) (a) (b) (m) 1#3 (z)
  have hm : BitVec.extractLsb' 0 5 (0x13#6 ++ (d.setWidth 5) ++ (a) ++ (b) ++ (m) ++ 1#3 ++ (z) : BitVec 29) = 1#3 ++ (z) :=
    show BitVec.extractLsb' (n := 6 + 5 + 5 + 5 + 3 + 3 + 2) 0 (3 + 2) (0x13#6 ++ (d.setWidth 5) ++ (a) ++ (b) ++ (m) ++ 1#3 ++ (z)) = 1#3 ++ (z) from by
    exact xlo2 _ _ _
  rw [Encoding.decA13_of _ h0]; simp only [decA13, h1, h2, h3, h4, h5, h6, hm]
  clear h0 h1 h2 h3 h4 h5 h6 hm
  rcases twoBits z with rfl | rfl | rfl | rfl <;> simp [kregOf_wide]

theorem Encoding.vcmpLtN (d : KReg) (a : VReg) (b : VReg) (m : BitVec 3) (z : BitVec 2) : Encoding.Statement (.vcmpLtN d a b m z) := by
  intro hw
  refine ⟨fun _ h => (by cases h), fun _ h => ?_⟩
  cases h
  obtain ⟨h0, h1, h2, h3, h4, h5, h6⟩ := Encoding.fmt_A_6_5_5_5_3_3_2 0x13#6 (d.setWidth 5) (a) (b) (m) 2#3 (z)
  have hm : BitVec.extractLsb' 0 5 (0x13#6 ++ (d.setWidth 5) ++ (a) ++ (b) ++ (m) ++ 2#3 ++ (z) : BitVec 29) = 2#3 ++ (z) :=
    show BitVec.extractLsb' (n := 6 + 5 + 5 + 5 + 3 + 3 + 2) 0 (3 + 2) (0x13#6 ++ (d.setWidth 5) ++ (a) ++ (b) ++ (m) ++ 2#3 ++ (z)) = 2#3 ++ (z) from by
    exact xlo2 _ _ _
  rw [Encoding.decA13_of _ h0]; simp only [decA13, h1, h2, h3, h4, h5, h6, hm]
  clear h0 h1 h2 h3 h4 h5 h6 hm
  rcases twoBits z with rfl | rfl | rfl | rfl <;> simp [kregOf_wide]

theorem Encoding.vminI (d : VReg) (a : VReg) (b : VReg) (m : BitVec 3) (z : BitVec 2) : Encoding.Statement (.vminI d a b m z) := by
  intro hw
  refine ⟨fun _ h => (by cases h), fun _ h => ?_⟩
  cases h
  obtain ⟨h0, h1, h2, h3, h4, h5, h6⟩ := Encoding.fmt_A_6_5_5_5_3_3_2 0x13#6 (d) (a) (b) (m) 3#3 (z)
  have hm : BitVec.extractLsb' 0 5 (0x13#6 ++ (d) ++ (a) ++ (b) ++ (m) ++ 3#3 ++ (z) : BitVec 29) = 3#3 ++ (z) :=
    show BitVec.extractLsb' (n := 6 + 5 + 5 + 5 + 3 + 3 + 2) 0 (3 + 2) (0x13#6 ++ (d) ++ (a) ++ (b) ++ (m) ++ 3#3 ++ (z)) = 3#3 ++ (z) from by
    exact xlo2 _ _ _
  rw [Encoding.decA13_of _ h0]; simp only [decA13, h1, h2, h3, h4, h5, h6, hm]
  clear h0 h1 h2 h3 h4 h5 h6 hm
  rcases twoBits z with rfl | rfl | rfl | rfl <;> rfl

theorem Encoding.vminN (d : VReg) (a : VReg) (b : VReg) (m : BitVec 3) (z : BitVec 2) : Encoding.Statement (.vminN d a b m z) := by
  intro hw
  refine ⟨fun _ h => (by cases h), fun _ h => ?_⟩
  cases h
  obtain ⟨h0, h1, h2, h3, h4, h5, h6⟩ := Encoding.fmt_A_6_5_5_5_3_3_2 0x13#6 (d) (a) (b) (m) 4#3 (z)
  have hm : BitVec.extractLsb' 0 5 (0x13#6 ++ (d) ++ (a) ++ (b) ++ (m) ++ 4#3 ++ (z) : BitVec 29) = 4#3 ++ (z) :=
    show BitVec.extractLsb' (n := 6 + 5 + 5 + 5 + 3 + 3 + 2) 0 (3 + 2) (0x13#6 ++ (d) ++ (a) ++ (b) ++ (m) ++ 4#3 ++ (z)) = 4#3 ++ (z) from by
    exact xlo2 _ _ _
  rw [Encoding.decA13_of _ h0]; simp only [decA13, h1, h2, h3, h4, h5, h6, hm]
  clear h0 h1 h2 h3 h4 h5 h6 hm
  rcases twoBits z with rfl | rfl | rfl | rfl <;> rfl

theorem Encoding.vmaxI (d : VReg) (a : VReg) (b : VReg) (m : BitVec 3) (z : BitVec 2) : Encoding.Statement (.vmaxI d a b m z) := by
  intro hw
  refine ⟨fun _ h => (by cases h), fun _ h => ?_⟩
  cases h
  obtain ⟨h0, h1, h2, h3, h4, h5, h6⟩ := Encoding.fmt_A_6_5_5_5_3_3_2 0x13#6 (d) (a) (b) (m) 5#3 (z)
  have hm : BitVec.extractLsb' 0 5 (0x13#6 ++ (d) ++ (a) ++ (b) ++ (m) ++ 5#3 ++ (z) : BitVec 29) = 5#3 ++ (z) :=
    show BitVec.extractLsb' (n := 6 + 5 + 5 + 5 + 3 + 3 + 2) 0 (3 + 2) (0x13#6 ++ (d) ++ (a) ++ (b) ++ (m) ++ 5#3 ++ (z)) = 5#3 ++ (z) from by
    exact xlo2 _ _ _
  rw [Encoding.decA13_of _ h0]; simp only [decA13, h1, h2, h3, h4, h5, h6, hm]
  clear h0 h1 h2 h3 h4 h5 h6 hm
  rcases twoBits z with rfl | rfl | rfl | rfl <;> rfl

theorem Encoding.vmaxN (d : VReg) (a : VReg) (b : VReg) (m : BitVec 3) (z : BitVec 2) : Encoding.Statement (.vmaxN d a b m z) := by
  intro hw
  refine ⟨fun _ h => (by cases h), fun _ h => ?_⟩
  cases h
  obtain ⟨h0, h1, h2, h3, h4, h5, h6⟩ := Encoding.fmt_A_6_5_5_5_3_3_2 0x13#6 (d) (a) (b) (m) 6#3 (z)
  have hm : BitVec.extractLsb' 0 5 (0x13#6 ++ (d) ++ (a) ++ (b) ++ (m) ++ 6#3 ++ (z) : BitVec 29) = 6#3 ++ (z) :=
    show BitVec.extractLsb' (n := 6 + 5 + 5 + 5 + 3 + 3 + 2) 0 (3 + 2) (0x13#6 ++ (d) ++ (a) ++ (b) ++ (m) ++ 6#3 ++ (z)) = 6#3 ++ (z) from by
    exact xlo2 _ _ _
  rw [Encoding.decA13_of _ h0]; simp only [decA13, h1, h2, h3, h4, h5, h6, hm]
  clear h0 h1 h2 h3 h4 h5 h6 hm
  rcases twoBits z with rfl | rfl | rfl | rfl <;> rfl

theorem Encoding.vcmpNe (d : KReg) (a : VReg) (b : VReg) (m : BitVec 3) (z : BitVec 2) : Encoding.Statement (.vcmpNe d a b m z) := by
  intro hw
  refine ⟨fun _ h => (by cases h), fun _ h => ?_⟩
  cases h
  obtain ⟨h0, h1, h2, h3, h4, h5, h6⟩ := Encoding.fmt_A_6_5_5_5_3_3_2 0x13#6 (d.setWidth 5) (a) (b) (m) 7#3 (z)
  have hm : BitVec.extractLsb' 0 5 (0x13#6 ++ (d.setWidth 5) ++ (a) ++ (b) ++ (m) ++ 7#3 ++ (z) : BitVec 29) = 7#3 ++ (z) :=
    show BitVec.extractLsb' (n := 6 + 5 + 5 + 5 + 3 + 3 + 2) 0 (3 + 2) (0x13#6 ++ (d.setWidth 5) ++ (a) ++ (b) ++ (m) ++ 7#3 ++ (z)) = 7#3 ++ (z) from by
    exact xlo2 _ _ _
  rw [Encoding.decA13_of _ h0]; simp only [decA13, h1, h2, h3, h4, h5, h6, hm]
  clear h0 h1 h2 h3 h4 h5 h6 hm
  rcases twoBits z with rfl | rfl | rfl | rfl <;> simp [kregOf_wide]

theorem Encoding.vaddF32 (d : VReg) (a : VReg) (b : VReg) (m : BitVec 3) (rm : BitVec 2) : Encoding.Statement (.vaddF32 d a b m rm) := by
  intro hw
  refine ⟨fun _ h => (by cases h), fun _ h => ?_⟩
  cases h
  obtain ⟨h0, h1, h2, h3, h4, h5, h6⟩ := Encoding.fmt_A_6_5_5_5_3_2_3 0x14#6 (d) (a) (b) (m) (rm) 0#3
  rw [Encoding.decA14_of _ h0]; simp only [decA14, h1, h2, h3, h4, h5, h6]
  rfl

theorem Encoding.vsubF32 (d : VReg) (a : VReg) (b : VReg) (m : BitVec 3) (rm : BitVec 2) : Encoding.Statement (.vsubF32 d a b m rm) := by
  intro hw
  refine ⟨fun _ h => (by cases h), fun _ h => ?_⟩
  cases h
  obtain ⟨h0, h1, h2, h3, h4, h5, h6⟩ := Encoding.fmt_A_6_5_5_5_3_2_3 0x14#6 (d) (a) (b) (m) (rm) 1#3
  rw [Encoding.decA14_of _ h0]; simp only [decA14, h1, h2, h3, h4, h5, h6]
  rfl

theorem Encoding.vmulF32 (d : VReg) (a : VReg) (b : VReg) (m : BitVec 3) (rm : BitVec 2) : Encoding.Statement (.vmulF32 d a b m rm) := by
  intro hw
  refine ⟨fun _ h => (by cases h), fun _ h => ?_⟩
  cases h
  obtain ⟨h0, h1, h2, h3, h4, h5, h6⟩ := Encoding.fmt_A_6_5_5_5_3_2_3 0x14#6 (d) (a) (b) (m) (rm) 2#3
  rw [Encoding.decA14_of _ h0]; simp only [decA14, h1, h2, h3, h4, h5, h6]
  rfl

theorem Encoding.vfmaF32 (d : VReg) (a : VReg) (b : VReg) (m : BitVec 3) (rm : BitVec 2) : Encoding.Statement (.vfmaF32 d a b m rm) := by
  intro hw
  refine ⟨fun _ h => (by cases h), fun _ h => ?_⟩
  cases h
  obtain ⟨h0, h1, h2, h3, h4, h5, h6⟩ := Encoding.fmt_A_6_5_5_5_3_2_3 0x14#6 (d) (a) (b) (m) (rm) 3#3
  rw [Encoding.decA14_of _ h0]; simp only [decA14, h1, h2, h3, h4, h5, h6]
  rfl

theorem Encoding.vfnmaF32 (d : VReg) (a : VReg) (b : VReg) (m : BitVec 3) (rm : BitVec 2) : Encoding.Statement (.vfnmaF32 d a b m rm) := by
  intro hw
  refine ⟨fun _ h => (by cases h), fun _ h => ?_⟩
  cases h
  obtain ⟨h0, h1, h2, h3, h4, h5, h6⟩ := Encoding.fmt_A_6_5_5_5_3_2_3 0x14#6 (d) (a) (b) (m) (rm) 4#3
  rw [Encoding.decA14_of _ h0]; simp only [decA14, h1, h2, h3, h4, h5, h6]
  rfl

theorem Encoding.vminF32 (d : VReg) (a : VReg) (b : VReg) (m : BitVec 3) (rm : BitVec 2) : Encoding.Statement (.vminF32 d a b m rm) := by
  intro hw
  refine ⟨fun _ h => (by cases h), fun _ h => ?_⟩
  cases h
  obtain ⟨h0, h1, h2, h3, h4, h5, h6⟩ := Encoding.fmt_A_6_5_5_5_3_2_3 0x14#6 (d) (a) (b) (m) (rm) 5#3
  rw [Encoding.decA14_of _ h0]; simp only [decA14, h1, h2, h3, h4, h5, h6]
  rfl

theorem Encoding.vmaxF32 (d : VReg) (a : VReg) (b : VReg) (m : BitVec 3) (rm : BitVec 2) : Encoding.Statement (.vmaxF32 d a b m rm) := by
  intro hw
  refine ⟨fun _ h => (by cases h), fun _ h => ?_⟩
  cases h
  obtain ⟨h0, h1, h2, h3, h4, h5, h6⟩ := Encoding.fmt_A_6_5_5_5_3_2_3 0x14#6 (d) (a) (b) (m) (rm) 6#3
  rw [Encoding.decA14_of _ h0]; simp only [decA14, h1, h2, h3, h4, h5, h6]
  rfl

theorem Encoding.vcmpF32 (d : KReg) (a : VReg) (b : VReg) (m : BitVec 3) (p : BitVec 2) : Encoding.Statement (.vcmpF32 d a b m p) := by
  intro hw
  refine ⟨fun _ h => (by cases h), fun _ h => ?_⟩
  cases h
  obtain ⟨h0, h1, h2, h3, h4, h5, h6⟩ := Encoding.fmt_A_6_5_5_5_3_2_3 0x14#6 (d.setWidth 5) (a) (b) (m) (p) 7#3
  rw [Encoding.decA14_of _ h0]; simp only [decA14, h1, h2, h3, h4, h5, h6]
  simp [kregOf_wide]

theorem Encoding.vtbl (d : VReg) (a : VReg) (b : VReg) (m : BitVec 3) : Encoding.Statement (.vtbl d a b m) := by
  intro hw
  refine ⟨fun _ h => (by cases h), fun _ h => ?_⟩
  cases h
  obtain ⟨h0, h1, h2, h3, h4, h5⟩ := Encoding.fmt_A_6_5_5_5_3_5 0x15#6 (d) (a) (b) (m) 0#5
  rw [Encoding.decA15_of _ h0]; simp only [decA15, h1, h2, h3, h4, h5]
  rfl

theorem Encoding.vzlo (d : VReg) (a : VReg) (b : VReg) (m : BitVec 3) (z : BitVec 2) : Encoding.Statement (.vzlo d a b m z) := by
  intro hw
  refine ⟨fun _ h => (by cases h), fun _ h => ?_⟩
  cases h
  obtain ⟨h0, h1, h2, h3, h4, h5, h6⟩ := Encoding.fmt_A_6_5_5_5_3_3_2 0x15#6 (d) (a) (b) (m) 1#3 (z)
  have hm : BitVec.extractLsb' 0 5 (0x15#6 ++ (d) ++ (a) ++ (b) ++ (m) ++ 1#3 ++ (z) : BitVec 29) = 1#3 ++ (z) :=
    show BitVec.extractLsb' (n := 6 + 5 + 5 + 5 + 3 + 3 + 2) 0 (3 + 2) (0x15#6 ++ (d) ++ (a) ++ (b) ++ (m) ++ 1#3 ++ (z)) = 1#3 ++ (z) from by
    exact xlo2 _ _ _
  rw [Encoding.decA15_of _ h0]; simp only [decA15, h1, h2, h3, h4, h5, h6, hm]
  clear h0 h1 h2 h3 h4 h5 h6 hm
  rcases twoBits z with rfl | rfl | rfl | rfl <;> rfl

theorem Encoding.vzhi (d : VReg) (a : VReg) (b : VReg) (m : BitVec 3) (z : BitVec 2) : Encoding.Statement (.vzhi d a b m z) := by
  intro hw
  refine ⟨fun _ h => (by cases h), fun _ h => ?_⟩
  cases h
  obtain ⟨h0, h1, h2, h3, h4, h5, h6⟩ := Encoding.fmt_A_6_5_5_5_3_3_2 0x15#6 (d) (a) (b) (m) 2#3 (z)
  have hm : BitVec.extractLsb' 0 5 (0x15#6 ++ (d) ++ (a) ++ (b) ++ (m) ++ 2#3 ++ (z) : BitVec 29) = 2#3 ++ (z) :=
    show BitVec.extractLsb' (n := 6 + 5 + 5 + 5 + 3 + 3 + 2) 0 (3 + 2) (0x15#6 ++ (d) ++ (a) ++ (b) ++ (m) ++ 2#3 ++ (z)) = 2#3 ++ (z) from by
    exact xlo2 _ _ _
  rw [Encoding.decA15_of _ h0]; simp only [decA15, h1, h2, h3, h4, h5, h6, hm]
  clear h0 h1 h2 h3 h4 h5 h6 hm
  rcases twoBits z with rfl | rfl | rfl | rfl <;> rfl

theorem Encoding.vuzev (d : VReg) (a : VReg) (b : VReg) (m : BitVec 3) (z : BitVec 2) : Encoding.Statement (.vuzev d a b m z) := by
  intro hw
  refine ⟨fun _ h => (by cases h), fun _ h => ?_⟩
  cases h
  obtain ⟨h0, h1, h2, h3, h4, h5, h6⟩ := Encoding.fmt_A_6_5_5_5_3_3_2 0x15#6 (d) (a) (b) (m) 3#3 (z)
  have hm : BitVec.extractLsb' 0 5 (0x15#6 ++ (d) ++ (a) ++ (b) ++ (m) ++ 3#3 ++ (z) : BitVec 29) = 3#3 ++ (z) :=
    show BitVec.extractLsb' (n := 6 + 5 + 5 + 5 + 3 + 3 + 2) 0 (3 + 2) (0x15#6 ++ (d) ++ (a) ++ (b) ++ (m) ++ 3#3 ++ (z)) = 3#3 ++ (z) from by
    exact xlo2 _ _ _
  rw [Encoding.decA15_of _ h0]; simp only [decA15, h1, h2, h3, h4, h5, h6, hm]
  clear h0 h1 h2 h3 h4 h5 h6 hm
  rcases twoBits z with rfl | rfl | rfl | rfl <;> rfl

theorem Encoding.vuzod (d : VReg) (a : VReg) (b : VReg) (m : BitVec 3) (z : BitVec 2) : Encoding.Statement (.vuzod d a b m z) := by
  intro hw
  refine ⟨fun _ h => (by cases h), fun _ h => ?_⟩
  cases h
  obtain ⟨h0, h1, h2, h3, h4, h5, h6⟩ := Encoding.fmt_A_6_5_5_5_3_3_2 0x15#6 (d) (a) (b) (m) 4#3 (z)
  have hm : BitVec.extractLsb' 0 5 (0x15#6 ++ (d) ++ (a) ++ (b) ++ (m) ++ 4#3 ++ (z) : BitVec 29) = 4#3 ++ (z) :=
    show BitVec.extractLsb' (n := 6 + 5 + 5 + 5 + 3 + 3 + 2) 0 (3 + 2) (0x15#6 ++ (d) ++ (a) ++ (b) ++ (m) ++ 4#3 ++ (z)) = 4#3 ++ (z) from by
    exact xlo2 _ _ _
  rw [Encoding.decA15_of _ h0]; simp only [decA15, h1, h2, h3, h4, h5, h6, hm]
  clear h0 h1 h2 h3 h4 h5 h6 hm
  rcases twoBits z with rfl | rfl | rfl | rfl <;> rfl

theorem Encoding.vrev (d : VReg) (a : VReg) (m : BitVec 3) (z : BitVec 2) : Encoding.Statement (.vrev d a m z) := by
  intro hw
  refine ⟨fun _ h => (by cases h), fun _ h => ?_⟩
  cases h
  obtain ⟨h0, h1, h2, h3, h4, h5, h6⟩ := Encoding.fmt_A_6_5_5_5_3_3_2 0x15#6 (d) (a) 0#5 (m) 5#3 (z)
  have hm : BitVec.extractLsb' 0 5 (0x15#6 ++ (d) ++ (a) ++ 0#5 ++ (m) ++ 5#3 ++ (z) : BitVec 29) = 5#3 ++ (z) :=
    show BitVec.extractLsb' (n := 6 + 5 + 5 + 5 + 3 + 3 + 2) 0 (3 + 2) (0x15#6 ++ (d) ++ (a) ++ 0#5 ++ (m) ++ 5#3 ++ (z)) = 5#3 ++ (z) from by
    exact xlo2 _ _ _
  rw [Encoding.decA15_of _ h0]; simp only [decA15, h1, h2, h3, h4, h5, h6, hm]
  clear h0 h1 h2 h3 h4 h5 h6 hm
  rcases twoBits z with rfl | rfl | rfl | rfl <;> rfl

theorem Encoding.vdup (d : VReg) (a : VReg) (b : VReg) (m : BitVec 3) (z : BitVec 2) : Encoding.Statement (.vdup d a b m z) := by
  intro hw
  refine ⟨fun _ h => (by cases h), fun _ h => ?_⟩
  cases h
  obtain ⟨h0, h1, h2, h3, h4, h5, h6⟩ := Encoding.fmt_A_6_5_5_5_3_3_2 0x15#6 (d) (a) (b) (m) 6#3 (z)
  have hm : BitVec.extractLsb' 0 5 (0x15#6 ++ (d) ++ (a) ++ (b) ++ (m) ++ 6#3 ++ (z) : BitVec 29) = 6#3 ++ (z) :=
    show BitVec.extractLsb' (n := 6 + 5 + 5 + 5 + 3 + 3 + 2) 0 (3 + 2) (0x15#6 ++ (d) ++ (a) ++ (b) ++ (m) ++ 6#3 ++ (z)) = 6#3 ++ (z) from by
    exact xlo2 _ _ _
  rw [Encoding.decA15_of _ h0]; simp only [decA15, h1, h2, h3, h4, h5, h6, hm]
  clear h0 h1 h2 h3 h4 h5 h6 hm
  rcases twoBits z with rfl | rfl | rfl | rfl <;> rfl

theorem Encoding.vrsumInt (d : VReg) (a : VReg) (m : BitVec 3) (z : BitVec 2) : Encoding.Statement (.vrsumInt d a m z) := by
  intro hw
  refine ⟨fun _ h => (by cases h), fun _ h => ?_⟩
  cases h
  obtain ⟨h0, h1, h2, h3, h4, h5, h6⟩ := Encoding.fmt_A_6_5_5_5_3_3_2 0x16#6 (d) (a) 0#5 (m) 0#3 (z)
  have hm : BitVec.extractLsb' 0 5 (0x16#6 ++ (d) ++ (a) ++ 0#5 ++ (m) ++ 0#3 ++ (z) : BitVec 29) = 0#3 ++ (z) :=
    show BitVec.extractLsb' (n := 6 + 5 + 5 + 5 + 3 + 3 + 2) 0 (3 + 2) (0x16#6 ++ (d) ++ (a) ++ 0#5 ++ (m) ++ 0#3 ++ (z)) = 0#3 ++ (z) from by
    exact xlo2 _ _ _
  rw [Encoding.decA16_of _ h0]; simp only [decA16, h1, h2, h3, h4, h5, h6, hm]
  clear h0 h1 h2 h3 h4 h5 h6 hm
  rcases twoBits z with rfl | rfl | rfl | rfl <;> rfl

theorem Encoding.vrminI (d : VReg) (a : VReg) (m : BitVec 3) (z : BitVec 2) : Encoding.Statement (.vrminI d a m z) := by
  intro hw
  refine ⟨fun _ h => (by cases h), fun _ h => ?_⟩
  cases h
  obtain ⟨h0, h1, h2, h3, h4, h5, h6⟩ := Encoding.fmt_A_6_5_5_5_3_3_2 0x16#6 (d) (a) 0#5 (m) 1#3 (z)
  have hm : BitVec.extractLsb' 0 5 (0x16#6 ++ (d) ++ (a) ++ 0#5 ++ (m) ++ 1#3 ++ (z) : BitVec 29) = 1#3 ++ (z) :=
    show BitVec.extractLsb' (n := 6 + 5 + 5 + 5 + 3 + 3 + 2) 0 (3 + 2) (0x16#6 ++ (d) ++ (a) ++ 0#5 ++ (m) ++ 1#3 ++ (z)) = 1#3 ++ (z) from by
    exact xlo2 _ _ _
  rw [Encoding.decA16_of _ h0]; simp only [decA16, h1, h2, h3, h4, h5, h6, hm]
  clear h0 h1 h2 h3 h4 h5 h6 hm
  rcases twoBits z with rfl | rfl | rfl | rfl <;> rfl

theorem Encoding.vrminN (d : VReg) (a : VReg) (m : BitVec 3) (z : BitVec 2) : Encoding.Statement (.vrminN d a m z) := by
  intro hw
  refine ⟨fun _ h => (by cases h), fun _ h => ?_⟩
  cases h
  obtain ⟨h0, h1, h2, h3, h4, h5, h6⟩ := Encoding.fmt_A_6_5_5_5_3_3_2 0x16#6 (d) (a) 0#5 (m) 2#3 (z)
  have hm : BitVec.extractLsb' 0 5 (0x16#6 ++ (d) ++ (a) ++ 0#5 ++ (m) ++ 2#3 ++ (z) : BitVec 29) = 2#3 ++ (z) :=
    show BitVec.extractLsb' (n := 6 + 5 + 5 + 5 + 3 + 3 + 2) 0 (3 + 2) (0x16#6 ++ (d) ++ (a) ++ 0#5 ++ (m) ++ 2#3 ++ (z)) = 2#3 ++ (z) from by
    exact xlo2 _ _ _
  rw [Encoding.decA16_of _ h0]; simp only [decA16, h1, h2, h3, h4, h5, h6, hm]
  clear h0 h1 h2 h3 h4 h5 h6 hm
  rcases twoBits z with rfl | rfl | rfl | rfl <;> rfl

theorem Encoding.vrmaxI (d : VReg) (a : VReg) (m : BitVec 3) (z : BitVec 2) : Encoding.Statement (.vrmaxI d a m z) := by
  intro hw
  refine ⟨fun _ h => (by cases h), fun _ h => ?_⟩
  cases h
  obtain ⟨h0, h1, h2, h3, h4, h5, h6⟩ := Encoding.fmt_A_6_5_5_5_3_3_2 0x16#6 (d) (a) 0#5 (m) 3#3 (z)
  have hm : BitVec.extractLsb' 0 5 (0x16#6 ++ (d) ++ (a) ++ 0#5 ++ (m) ++ 3#3 ++ (z) : BitVec 29) = 3#3 ++ (z) :=
    show BitVec.extractLsb' (n := 6 + 5 + 5 + 5 + 3 + 3 + 2) 0 (3 + 2) (0x16#6 ++ (d) ++ (a) ++ 0#5 ++ (m) ++ 3#3 ++ (z)) = 3#3 ++ (z) from by
    exact xlo2 _ _ _
  rw [Encoding.decA16_of _ h0]; simp only [decA16, h1, h2, h3, h4, h5, h6, hm]
  clear h0 h1 h2 h3 h4 h5 h6 hm
  rcases twoBits z with rfl | rfl | rfl | rfl <;> rfl

theorem Encoding.vrmaxN (d : VReg) (a : VReg) (m : BitVec 3) (z : BitVec 2) : Encoding.Statement (.vrmaxN d a m z) := by
  intro hw
  refine ⟨fun _ h => (by cases h), fun _ h => ?_⟩
  cases h
  obtain ⟨h0, h1, h2, h3, h4, h5, h6⟩ := Encoding.fmt_A_6_5_5_5_3_3_2 0x16#6 (d) (a) 0#5 (m) 4#3 (z)
  have hm : BitVec.extractLsb' 0 5 (0x16#6 ++ (d) ++ (a) ++ 0#5 ++ (m) ++ 4#3 ++ (z) : BitVec 29) = 4#3 ++ (z) :=
    show BitVec.extractLsb' (n := 6 + 5 + 5 + 5 + 3 + 3 + 2) 0 (3 + 2) (0x16#6 ++ (d) ++ (a) ++ 0#5 ++ (m) ++ 4#3 ++ (z)) = 4#3 ++ (z) from by
    exact xlo2 _ _ _
  rw [Encoding.decA16_of _ h0]; simp only [decA16, h1, h2, h3, h4, h5, h6, hm]
  clear h0 h1 h2 h3 h4 h5 h6 hm
  rcases twoBits z with rfl | rfl | rfl | rfl <;> rfl

theorem Encoding.vrsumBf16 (d : VReg) (a : VReg) (m : BitVec 3) : Encoding.Statement (.vrsumBf16 d a m) := by
  intro hw
  refine ⟨fun _ h => (by cases h), fun _ h => ?_⟩
  cases h
  obtain ⟨h0, h1, h2, h3, h4, h5⟩ := Encoding.fmt_A_6_5_5_5_3_5 0x16#6 (d) (a) 0#5 (m) 21#5
  rw [Encoding.decA16_of _ h0]; simp only [decA16, h1, h2, h3, h4, h5]
  rfl

theorem Encoding.vrsumF32 (d : VReg) (a : VReg) (m : BitVec 3) : Encoding.Statement (.vrsumF32 d a m) := by
  intro hw
  refine ⟨fun _ h => (by cases h), fun _ h => ?_⟩
  cases h
  obtain ⟨h0, h1, h2, h3, h4, h5⟩ := Encoding.fmt_A_6_5_5_5_3_5 0x16#6 (d) (a) 0#5 (m) 22#5
  rw [Encoding.decA16_of _ h0]; simp only [decA16, h1, h2, h3, h4, h5]
  rfl

theorem Encoding.vrmaxF32 (d : VReg) (a : VReg) (m : BitVec 3) : Encoding.Statement (.vrmaxF32 d a m) := by
  intro hw
  refine ⟨fun _ h => (by cases h), fun _ h => ?_⟩
  cases h
  obtain ⟨h0, h1, h2, h3, h4, h5⟩ := Encoding.fmt_A_6_5_5_5_3_5 0x16#6 (d) (a) 0#5 (m) 26#5
  rw [Encoding.decA16_of _ h0]; simp only [decA16, h1, h2, h3, h4, h5]
  rfl

theorem Encoding.vrminF32 (d : VReg) (a : VReg) (m : BitVec 3) : Encoding.Statement (.vrminF32 d a m) := by
  intro hw
  refine ⟨fun _ h => (by cases h), fun _ h => ?_⟩
  cases h
  obtain ⟨h0, h1, h2, h3, h4, h5⟩ := Encoding.fmt_A_6_5_5_5_3_5 0x16#6 (d) (a) 0#5 (m) 30#5
  rw [Encoding.decA16_of _ h0]; simp only [decA16, h1, h2, h3, h4, h5]
  rfl

theorem Encoding.vdotI8 (d : VReg) (a : VReg) (b : VReg) (m : BitVec 3) : Encoding.Statement (.vdotI8 d a b m) := by
  intro hw
  refine ⟨fun _ h => (by cases h), fun _ h => ?_⟩
  cases h
  obtain ⟨h0, h1, h2, h3, h4, h5⟩ := Encoding.fmt_A_6_5_5_5_3_5 0x17#6 (d) (a) (b) (m) 0#5
  rw [Encoding.decA17_of _ h0]; simp only [decA17, h1, h2, h3, h4, h5]
  rfl

theorem Encoding.vdotN8 (d : VReg) (a : VReg) (b : VReg) (m : BitVec 3) : Encoding.Statement (.vdotN8 d a b m) := by
  intro hw
  refine ⟨fun _ h => (by cases h), fun _ h => ?_⟩
  cases h
  obtain ⟨h0, h1, h2, h3, h4, h5⟩ := Encoding.fmt_A_6_5_5_5_3_5 0x17#6 (d) (a) (b) (m) 1#5
  rw [Encoding.decA17_of _ h0]; simp only [decA17, h1, h2, h3, h4, h5]
  rfl

theorem Encoding.vdotI16 (d : VReg) (a : VReg) (b : VReg) (m : BitVec 3) : Encoding.Statement (.vdotI16 d a b m) := by
  intro hw
  refine ⟨fun _ h => (by cases h), fun _ h => ?_⟩
  cases h
  obtain ⟨h0, h1, h2, h3, h4, h5⟩ := Encoding.fmt_A_6_5_5_5_3_5 0x17#6 (d) (a) (b) (m) 2#5
  rw [Encoding.decA17_of _ h0]; simp only [decA17, h1, h2, h3, h4, h5]
  rfl

theorem Encoding.vdotBf16 (d : VReg) (a : VReg) (b : VReg) (m : BitVec 3) : Encoding.Statement (.vdotBf16 d a b m) := by
  intro hw
  refine ⟨fun _ h => (by cases h), fun _ h => ?_⟩
  cases h
  obtain ⟨h0, h1, h2, h3, h4, h5⟩ := Encoding.fmt_A_6_5_5_5_3_5 0x17#6 (d) (a) (b) (m) 3#5
  rw [Encoding.decA17_of _ h0]; simp only [decA17, h1, h2, h3, h4, h5]
  rfl

theorem Encoding.vdotE4m3 (d : VReg) (a : VReg) (b : VReg) (m : BitVec 3) : Encoding.Statement (.vdotE4m3 d a b m) := by
  intro hw
  refine ⟨fun _ h => (by cases h), fun _ h => ?_⟩
  cases h
  obtain ⟨h0, h1, h2, h3, h4, h5⟩ := Encoding.fmt_A_6_5_5_5_3_5 0x17#6 (d) (a) (b) (m) 4#5
  rw [Encoding.decA17_of _ h0]; simp only [decA17, h1, h2, h3, h4, h5]
  rfl

theorem Encoding.vdotE5m2 (d : VReg) (a : VReg) (b : VReg) (m : BitVec 3) : Encoding.Statement (.vdotE5m2 d a b m) := by
  intro hw
  refine ⟨fun _ h => (by cases h), fun _ h => ?_⟩
  cases h
  obtain ⟨h0, h1, h2, h3, h4, h5⟩ := Encoding.fmt_A_6_5_5_5_3_5 0x17#6 (d) (a) (b) (m) 5#5
  rw [Encoding.decA17_of _ h0]; simp only [decA17, h1, h2, h3, h4, h5]
  rfl

theorem Encoding.vcvtBf16F32 (d : VReg) (a : VReg) (m : BitVec 3) (p : BitVec 1) (rm : BitVec 2) : Encoding.Statement (.vcvtBf16F32 d a m p rm) := by
  intro hw
  refine ⟨fun _ h => (by cases h), fun _ h => ?_⟩
  cases h
  obtain ⟨h0, h1, h2, h3, h4, h5, h6, h7⟩ := Encoding.fmt_A_6_5_5_4_1_3_2_3 0x18#6 (d) (a) 0#4 (p) (m) (rm) 0#3
  have hm : BitVec.extractLsb' 8 5 (0x18#6 ++ (d) ++ (a) ++ 0#4 ++ (p) ++ (m) ++ (rm) ++ 0#3 : BitVec 29) = 0#4 ++ (p) :=
    show BitVec.extractLsb' (n := 6 + 5 + 5 + 4 + 1 + 3 + 2 + 3) 8 (4 + 1) (0x18#6 ++ (d) ++ (a) ++ 0#4 ++ (p) ++ (m) ++ (rm) ++ 0#3) = 0#4 ++ (p) from by
    rw [xhi _ _ (by decide), xhi _ _ (by decide), xhi _ _ (by decide)]; exact xlo2 _ _ _
  rw [Encoding.decA18_of _ h0]; simp only [decA18, h1, h2, h3, h4, h5, h6, h7, hm]
  clear h0 h1 h2 h3 h4 h5 h6 h7 hm
  rcases oneBit p with rfl | rfl <;> rfl

theorem Encoding.vcvtF32Bf16 (d : VReg) (a : VReg) (m : BitVec 3) (p : BitVec 1) (rm : BitVec 2) : Encoding.Statement (.vcvtF32Bf16 d a m p rm) := by
  intro hw
  refine ⟨fun _ h => (by cases h), fun _ h => ?_⟩
  cases h
  obtain ⟨h0, h1, h2, h3, h4, h5, h6, h7⟩ := Encoding.fmt_A_6_5_5_4_1_3_2_3 0x18#6 (d) (a) 1#4 (p) (m) (rm) 0#3
  have hm : BitVec.extractLsb' 8 5 (0x18#6 ++ (d) ++ (a) ++ 1#4 ++ (p) ++ (m) ++ (rm) ++ 0#3 : BitVec 29) = 1#4 ++ (p) :=
    show BitVec.extractLsb' (n := 6 + 5 + 5 + 4 + 1 + 3 + 2 + 3) 8 (4 + 1) (0x18#6 ++ (d) ++ (a) ++ 1#4 ++ (p) ++ (m) ++ (rm) ++ 0#3) = 1#4 ++ (p) from by
    rw [xhi _ _ (by decide), xhi _ _ (by decide), xhi _ _ (by decide)]; exact xlo2 _ _ _
  rw [Encoding.decA18_of _ h0]; simp only [decA18, h1, h2, h3, h4, h5, h6, h7, hm]
  clear h0 h1 h2 h3 h4 h5 h6 h7 hm
  rcases oneBit p with rfl | rfl <;> rfl

theorem Encoding.vcvtE4m3F32 (d : VReg) (a : VReg) (m : BitVec 3) (p : BitVec 2) (rm : BitVec 2) : Encoding.Statement (.vcvtE4m3F32 d a m p rm) := by
  intro hw
  refine ⟨fun _ h => (by cases h), fun _ h => ?_⟩
  cases h
  obtain ⟨h0, h1, h2, h3, h4, h5, h6, h7⟩ := Encoding.fmt_A_6_5_5_3_2_3_2_3 0x18#6 (d) (a) 1#3 (p) (m) (rm) 0#3
  have hm : BitVec.extractLsb' 8 5 (0x18#6 ++ (d) ++ (a) ++ 1#3 ++ (p) ++ (m) ++ (rm) ++ 0#3 : BitVec 29) = 1#3 ++ (p) :=
    show BitVec.extractLsb' (n := 6 + 5 + 5 + 3 + 2 + 3 + 2 + 3) 8 (3 + 2) (0x18#6 ++ (d) ++ (a) ++ 1#3 ++ (p) ++ (m) ++ (rm) ++ 0#3) = 1#3 ++ (p) from by
    rw [xhi _ _ (by decide), xhi _ _ (by decide), xhi _ _ (by decide)]; exact xlo2 _ _ _
  rw [Encoding.decA18_of _ h0]; simp only [decA18, h1, h2, h3, h4, h5, h6, h7, hm]
  clear h0 h1 h2 h3 h4 h5 h6 h7 hm
  rcases twoBits p with rfl | rfl | rfl | rfl <;> rfl

theorem Encoding.vcvtE5m2F32 (d : VReg) (a : VReg) (m : BitVec 3) (p : BitVec 2) (rm : BitVec 2) : Encoding.Statement (.vcvtE5m2F32 d a m p rm) := by
  intro hw
  refine ⟨fun _ h => (by cases h), fun _ h => ?_⟩
  cases h
  obtain ⟨h0, h1, h2, h3, h4, h5, h6, h7⟩ := Encoding.fmt_A_6_5_5_3_2_3_2_3 0x18#6 (d) (a) 2#3 (p) (m) (rm) 0#3
  have hm : BitVec.extractLsb' 8 5 (0x18#6 ++ (d) ++ (a) ++ 2#3 ++ (p) ++ (m) ++ (rm) ++ 0#3 : BitVec 29) = 2#3 ++ (p) :=
    show BitVec.extractLsb' (n := 6 + 5 + 5 + 3 + 2 + 3 + 2 + 3) 8 (3 + 2) (0x18#6 ++ (d) ++ (a) ++ 2#3 ++ (p) ++ (m) ++ (rm) ++ 0#3) = 2#3 ++ (p) from by
    rw [xhi _ _ (by decide), xhi _ _ (by decide), xhi _ _ (by decide)]; exact xlo2 _ _ _
  rw [Encoding.decA18_of _ h0]; simp only [decA18, h1, h2, h3, h4, h5, h6, h7, hm]
  clear h0 h1 h2 h3 h4 h5 h6 h7 hm
  rcases twoBits p with rfl | rfl | rfl | rfl <;> rfl

theorem Encoding.vcvtF32E4m3 (d : VReg) (a : VReg) (m : BitVec 3) (p : BitVec 2) (rm : BitVec 2) : Encoding.Statement (.vcvtF32E4m3 d a m p rm) := by
  intro hw
  refine ⟨fun _ h => (by cases h), fun _ h => ?_⟩
  cases h
  obtain ⟨h0, h1, h2, h3, h4, h5, h6, h7⟩ := Encoding.fmt_A_6_5_5_3_2_3_2_3 0x18#6 (d) (a) 3#3 (p) (m) (rm) 0#3
  have hm : BitVec.extractLsb' 8 5 (0x18#6 ++ (d) ++ (a) ++ 3#3 ++ (p) ++ (m) ++ (rm) ++ 0#3 : BitVec 29) = 3#3 ++ (p) :=
    show BitVec.extractLsb' (n := 6 + 5 + 5 + 3 + 2 + 3 + 2 + 3) 8 (3 + 2) (0x18#6 ++ (d) ++ (a) ++ 3#3 ++ (p) ++ (m) ++ (rm) ++ 0#3) = 3#3 ++ (p) from by
    rw [xhi _ _ (by decide), xhi _ _ (by decide), xhi _ _ (by decide)]; exact xlo2 _ _ _
  rw [Encoding.decA18_of _ h0]; simp only [decA18, h1, h2, h3, h4, h5, h6, h7, hm]
  clear h0 h1 h2 h3 h4 h5 h6 h7 hm
  rcases twoBits p with rfl | rfl | rfl | rfl <;> rfl

theorem Encoding.vcvtF32E5m2 (d : VReg) (a : VReg) (m : BitVec 3) (p : BitVec 2) (rm : BitVec 2) : Encoding.Statement (.vcvtF32E5m2 d a m p rm) := by
  intro hw
  refine ⟨fun _ h => (by cases h), fun _ h => ?_⟩
  cases h
  obtain ⟨h0, h1, h2, h3, h4, h5, h6, h7⟩ := Encoding.fmt_A_6_5_5_3_2_3_2_3 0x18#6 (d) (a) 4#3 (p) (m) (rm) 0#3
  have hm : BitVec.extractLsb' 8 5 (0x18#6 ++ (d) ++ (a) ++ 4#3 ++ (p) ++ (m) ++ (rm) ++ 0#3 : BitVec 29) = 4#3 ++ (p) :=
    show BitVec.extractLsb' (n := 6 + 5 + 5 + 3 + 2 + 3 + 2 + 3) 8 (3 + 2) (0x18#6 ++ (d) ++ (a) ++ 4#3 ++ (p) ++ (m) ++ (rm) ++ 0#3) = 4#3 ++ (p) from by
    rw [xhi _ _ (by decide), xhi _ _ (by decide), xhi _ _ (by decide)]; exact xlo2 _ _ _
  rw [Encoding.decA18_of _ h0]; simp only [decA18, h1, h2, h3, h4, h5, h6, h7, hm]
  clear h0 h1 h2 h3 h4 h5 h6 h7 hm
  rcases twoBits p with rfl | rfl | rfl | rfl <;> rfl

theorem Encoding.vcvtI32F32 (d : VReg) (a : VReg) (m : BitVec 3) (rm : BitVec 2) : Encoding.Statement (.vcvtI32F32 d a m rm) := by
  intro hw
  refine ⟨fun _ h => (by cases h), fun _ h => ?_⟩
  cases h
  obtain ⟨h0, h1, h2, h3, h4, h5, h6⟩ := Encoding.fmt_A_6_5_5_5_3_2_3 0x18#6 (d) (a) 20#5 (m) (rm) 0#3
  rw [Encoding.decA18_of _ h0]; simp only [decA18, h1, h2, h3, h4, h5, h6]
  rfl

theorem Encoding.vcvtN32F32 (d : VReg) (a : VReg) (m : BitVec 3) (rm : BitVec 2) : Encoding.Statement (.vcvtN32F32 d a m rm) := by
  intro hw
  refine ⟨fun _ h => (by cases h), fun _ h => ?_⟩
  cases h
  obtain ⟨h0, h1, h2, h3, h4, h5, h6⟩ := Encoding.fmt_A_6_5_5_5_3_2_3 0x18#6 (d) (a) 21#5 (m) (rm) 0#3
  rw [Encoding.decA18_of _ h0]; simp only [decA18, h1, h2, h3, h4, h5, h6]
  rfl

theorem Encoding.vcvtF32I32 (d : VReg) (a : VReg) (m : BitVec 3) (rm : BitVec 2) : Encoding.Statement (.vcvtF32I32 d a m rm) := by
  intro hw
  refine ⟨fun _ h => (by cases h), fun _ h => ?_⟩
  cases h
  obtain ⟨h0, h1, h2, h3, h4, h5, h6⟩ := Encoding.fmt_A_6_5_5_5_3_2_3 0x18#6 (d) (a) 22#5 (m) (rm) 0#3
  rw [Encoding.decA18_of _ h0]; simp only [decA18, h1, h2, h3, h4, h5, h6]
  rfl

theorem Encoding.vcvtF32N32 (d : VReg) (a : VReg) (m : BitVec 3) (rm : BitVec 2) : Encoding.Statement (.vcvtF32N32 d a m rm) := by
  intro hw
  refine ⟨fun _ h => (by cases h), fun _ h => ?_⟩
  cases h
  obtain ⟨h0, h1, h2, h3, h4, h5, h6⟩ := Encoding.fmt_A_6_5_5_5_3_2_3 0x18#6 (d) (a) 23#5 (m) (rm) 0#3
  rw [Encoding.decA18_of _ h0]; simp only [decA18, h1, h2, h3, h4, h5, h6]
  rfl

theorem Encoding.vcvtI16I32 (d : VReg) (a : VReg) (m : BitVec 3) (p : BitVec 1) (rm : BitVec 2) : Encoding.Statement (.vcvtI16I32 d a m p rm) := by
  intro hw
  refine ⟨fun _ h => (by cases h), fun _ h => ?_⟩
  cases h
  obtain ⟨h0, h1, h2, h3, h4, h5, h6, h7⟩ := Encoding.fmt_A_6_5_5_4_1_3_2_3 0x18#6 (d) (a) 12#4 (p) (m) (rm) 0#3
  have hm : BitVec.extractLsb' 8 5 (0x18#6 ++ (d) ++ (a) ++ 12#4 ++ (p) ++ (m) ++ (rm) ++ 0#3 : BitVec 29) = 12#4 ++ (p) :=
    show BitVec.extractLsb' (n := 6 + 5 + 5 + 4 + 1 + 3 + 2 + 3) 8 (4 + 1) (0x18#6 ++ (d) ++ (a) ++ 12#4 ++ (p) ++ (m) ++ (rm) ++ 0#3) = 12#4 ++ (p) from by
    rw [xhi _ _ (by decide), xhi _ _ (by decide), xhi _ _ (by decide)]; exact xlo2 _ _ _
  rw [Encoding.decA18_of _ h0]; simp only [decA18, h1, h2, h3, h4, h5, h6, h7, hm]
  clear h0 h1 h2 h3 h4 h5 h6 h7 hm
  rcases oneBit p with rfl | rfl <;> rfl

theorem Encoding.vcvtI8I16 (d : VReg) (a : VReg) (m : BitVec 3) (p : BitVec 1) (rm : BitVec 2) : Encoding.Statement (.vcvtI8I16 d a m p rm) := by
  intro hw
  refine ⟨fun _ h => (by cases h), fun _ h => ?_⟩
  cases h
  obtain ⟨h0, h1, h2, h3, h4, h5, h6, h7⟩ := Encoding.fmt_A_6_5_5_4_1_3_2_3 0x18#6 (d) (a) 13#4 (p) (m) (rm) 0#3
  have hm : BitVec.extractLsb' 8 5 (0x18#6 ++ (d) ++ (a) ++ 13#4 ++ (p) ++ (m) ++ (rm) ++ 0#3 : BitVec 29) = 13#4 ++ (p) :=
    show BitVec.extractLsb' (n := 6 + 5 + 5 + 4 + 1 + 3 + 2 + 3) 8 (4 + 1) (0x18#6 ++ (d) ++ (a) ++ 13#4 ++ (p) ++ (m) ++ (rm) ++ 0#3) = 13#4 ++ (p) from by
    rw [xhi _ _ (by decide), xhi _ _ (by decide), xhi _ _ (by decide)]; exact xlo2 _ _ _
  rw [Encoding.decA18_of _ h0]; simp only [decA18, h1, h2, h3, h4, h5, h6, h7, hm]
  clear h0 h1 h2 h3 h4 h5 h6 h7 hm
  rcases oneBit p with rfl | rfl <;> rfl

theorem Encoding.vcvtI32I16 (d : VReg) (a : VReg) (m : BitVec 3) (p : BitVec 1) (rm : BitVec 2) : Encoding.Statement (.vcvtI32I16 d a m p rm) := by
  intro hw
  refine ⟨fun _ h => (by cases h), fun _ h => ?_⟩
  cases h
  obtain ⟨h0, h1, h2, h3, h4, h5, h6, h7⟩ := Encoding.fmt_A_6_5_5_4_1_3_2_3 0x18#6 (d) (a) 14#4 (p) (m) (rm) 0#3
  have hm : BitVec.extractLsb' 8 5 (0x18#6 ++ (d) ++ (a) ++ 14#4 ++ (p) ++ (m) ++ (rm) ++ 0#3 : BitVec 29) = 14#4 ++ (p) :=
    show BitVec.extractLsb' (n := 6 + 5 + 5 + 4 + 1 + 3 + 2 + 3) 8 (4 + 1) (0x18#6 ++ (d) ++ (a) ++ 14#4 ++ (p) ++ (m) ++ (rm) ++ 0#3) = 14#4 ++ (p) from by
    rw [xhi _ _ (by decide), xhi _ _ (by decide), xhi _ _ (by decide)]; exact xlo2 _ _ _
  rw [Encoding.decA18_of _ h0]; simp only [decA18, h1, h2, h3, h4, h5, h6, h7, hm]
  clear h0 h1 h2 h3 h4 h5 h6 h7 hm
  rcases oneBit p with rfl | rfl <;> rfl

theorem Encoding.vcvtI16I8 (d : VReg) (a : VReg) (m : BitVec 3) (p : BitVec 1) (rm : BitVec 2) : Encoding.Statement (.vcvtI16I8 d a m p rm) := by
  intro hw
  refine ⟨fun _ h => (by cases h), fun _ h => ?_⟩
  cases h
  obtain ⟨h0, h1, h2, h3, h4, h5, h6, h7⟩ := Encoding.fmt_A_6_5_5_4_1_3_2_3 0x18#6 (d) (a) 15#4 (p) (m) (rm) 0#3
  have hm : BitVec.extractLsb' 8 5 (0x18#6 ++ (d) ++ (a) ++ 15#4 ++ (p) ++ (m) ++ (rm) ++ 0#3 : BitVec 29) = 15#4 ++ (p) :=
    show BitVec.extractLsb' (n := 6 + 5 + 5 + 4 + 1 + 3 + 2 + 3) 8 (4 + 1) (0x18#6 ++ (d) ++ (a) ++ 15#4 ++ (p) ++ (m) ++ (rm) ++ 0#3) = 15#4 ++ (p) from by
    rw [xhi _ _ (by decide), xhi _ _ (by decide), xhi _ _ (by decide)]; exact xlo2 _ _ _
  rw [Encoding.decA18_of _ h0]; simp only [decA18, h1, h2, h3, h4, h5, h6, h7, hm]
  clear h0 h1 h2 h3 h4 h5 h6 h7 hm
  rcases oneBit p with rfl | rfl <;> rfl

theorem Encoding.vsfuExp2 (d : VReg) (a : VReg) (m : BitVec 3) (fast : BitVec 1) : Encoding.Statement (.vsfuExp2 d a m fast) := by
  intro hw
  refine ⟨fun _ h => (by cases h), fun _ h => ?_⟩
  cases h
  obtain ⟨h0, h1, h2, h3, h4, h5, h6⟩ := Encoding.fmt_A_6_5_5_5_3_1_4 0x19#6 (d) (a) 0#5 (m) (fast) 0#4
  have hm : BitVec.extractLsb' 0 5 (0x19#6 ++ (d) ++ (a) ++ 0#5 ++ (m) ++ (fast) ++ 0#4 : BitVec 29) = (fast) ++ 0#4 :=
    show BitVec.extractLsb' (n := 6 + 5 + 5 + 5 + 3 + 1 + 4) 0 (1 + 4) (0x19#6 ++ (d) ++ (a) ++ 0#5 ++ (m) ++ (fast) ++ 0#4) = (fast) ++ 0#4 from by
    exact xlo2 _ _ _
  rw [Encoding.decA19_of _ h0]; simp only [decA19, h1, h2, h3, h4, h5, h6, hm]
  clear h0 h1 h2 h3 h4 h5 h6 hm
  rcases oneBit fast with rfl | rfl <;> rfl

theorem Encoding.vsfuLog2 (d : VReg) (a : VReg) (m : BitVec 3) (fast : BitVec 1) : Encoding.Statement (.vsfuLog2 d a m fast) := by
  intro hw
  refine ⟨fun _ h => (by cases h), fun _ h => ?_⟩
  cases h
  obtain ⟨h0, h1, h2, h3, h4, h5, h6⟩ := Encoding.fmt_A_6_5_5_5_3_1_4 0x19#6 (d) (a) 0#5 (m) (fast) 1#4
  have hm : BitVec.extractLsb' 0 5 (0x19#6 ++ (d) ++ (a) ++ 0#5 ++ (m) ++ (fast) ++ 1#4 : BitVec 29) = (fast) ++ 1#4 :=
    show BitVec.extractLsb' (n := 6 + 5 + 5 + 5 + 3 + 1 + 4) 0 (1 + 4) (0x19#6 ++ (d) ++ (a) ++ 0#5 ++ (m) ++ (fast) ++ 1#4) = (fast) ++ 1#4 from by
    exact xlo2 _ _ _
  rw [Encoding.decA19_of _ h0]; simp only [decA19, h1, h2, h3, h4, h5, h6, hm]
  clear h0 h1 h2 h3 h4 h5 h6 hm
  rcases oneBit fast with rfl | rfl <;> rfl

theorem Encoding.vsfuRcp (d : VReg) (a : VReg) (m : BitVec 3) (fast : BitVec 1) : Encoding.Statement (.vsfuRcp d a m fast) := by
  intro hw
  refine ⟨fun _ h => (by cases h), fun _ h => ?_⟩
  cases h
  obtain ⟨h0, h1, h2, h3, h4, h5, h6⟩ := Encoding.fmt_A_6_5_5_5_3_1_4 0x19#6 (d) (a) 0#5 (m) (fast) 2#4
  have hm : BitVec.extractLsb' 0 5 (0x19#6 ++ (d) ++ (a) ++ 0#5 ++ (m) ++ (fast) ++ 2#4 : BitVec 29) = (fast) ++ 2#4 :=
    show BitVec.extractLsb' (n := 6 + 5 + 5 + 5 + 3 + 1 + 4) 0 (1 + 4) (0x19#6 ++ (d) ++ (a) ++ 0#5 ++ (m) ++ (fast) ++ 2#4) = (fast) ++ 2#4 from by
    exact xlo2 _ _ _
  rw [Encoding.decA19_of _ h0]; simp only [decA19, h1, h2, h3, h4, h5, h6, hm]
  clear h0 h1 h2 h3 h4 h5 h6 hm
  rcases oneBit fast with rfl | rfl <;> rfl

theorem Encoding.vsfuRsqrt (d : VReg) (a : VReg) (m : BitVec 3) (fast : BitVec 1) : Encoding.Statement (.vsfuRsqrt d a m fast) := by
  intro hw
  refine ⟨fun _ h => (by cases h), fun _ h => ?_⟩
  cases h
  obtain ⟨h0, h1, h2, h3, h4, h5, h6⟩ := Encoding.fmt_A_6_5_5_5_3_1_4 0x19#6 (d) (a) 0#5 (m) (fast) 3#4
  have hm : BitVec.extractLsb' 0 5 (0x19#6 ++ (d) ++ (a) ++ 0#5 ++ (m) ++ (fast) ++ 3#4 : BitVec 29) = (fast) ++ 3#4 :=
    show BitVec.extractLsb' (n := 6 + 5 + 5 + 5 + 3 + 1 + 4) 0 (1 + 4) (0x19#6 ++ (d) ++ (a) ++ 0#5 ++ (m) ++ (fast) ++ 3#4) = (fast) ++ 3#4 from by
    exact xlo2 _ _ _
  rw [Encoding.decA19_of _ h0]; simp only [decA19, h1, h2, h3, h4, h5, h6, hm]
  clear h0 h1 h2 h3 h4 h5 h6 hm
  rcases oneBit fast with rfl | rfl <;> rfl

theorem Encoding.vsfuSqrt (d : VReg) (a : VReg) (m : BitVec 3) (fast : BitVec 1) : Encoding.Statement (.vsfuSqrt d a m fast) := by
  intro hw
  refine ⟨fun _ h => (by cases h), fun _ h => ?_⟩
  cases h
  obtain ⟨h0, h1, h2, h3, h4, h5, h6⟩ := Encoding.fmt_A_6_5_5_5_3_1_4 0x19#6 (d) (a) 0#5 (m) (fast) 4#4
  have hm : BitVec.extractLsb' 0 5 (0x19#6 ++ (d) ++ (a) ++ 0#5 ++ (m) ++ (fast) ++ 4#4 : BitVec 29) = (fast) ++ 4#4 :=
    show BitVec.extractLsb' (n := 6 + 5 + 5 + 5 + 3 + 1 + 4) 0 (1 + 4) (0x19#6 ++ (d) ++ (a) ++ 0#5 ++ (m) ++ (fast) ++ 4#4) = (fast) ++ 4#4 from by
    exact xlo2 _ _ _
  rw [Encoding.decA19_of _ h0]; simp only [decA19, h1, h2, h3, h4, h5, h6, hm]
  clear h0 h1 h2 h3 h4 h5 h6 hm
  rcases oneBit fast with rfl | rfl <;> rfl

theorem Encoding.vsfuSinpi (d : VReg) (a : VReg) (m : BitVec 3) (fast : BitVec 1) : Encoding.Statement (.vsfuSinpi d a m fast) := by
  intro hw
  refine ⟨fun _ h => (by cases h), fun _ h => ?_⟩
  cases h
  obtain ⟨h0, h1, h2, h3, h4, h5, h6⟩ := Encoding.fmt_A_6_5_5_5_3_1_4 0x19#6 (d) (a) 0#5 (m) (fast) 5#4
  have hm : BitVec.extractLsb' 0 5 (0x19#6 ++ (d) ++ (a) ++ 0#5 ++ (m) ++ (fast) ++ 5#4 : BitVec 29) = (fast) ++ 5#4 :=
    show BitVec.extractLsb' (n := 6 + 5 + 5 + 5 + 3 + 1 + 4) 0 (1 + 4) (0x19#6 ++ (d) ++ (a) ++ 0#5 ++ (m) ++ (fast) ++ 5#4) = (fast) ++ 5#4 from by
    exact xlo2 _ _ _
  rw [Encoding.decA19_of _ h0]; simp only [decA19, h1, h2, h3, h4, h5, h6, hm]
  clear h0 h1 h2 h3 h4 h5 h6 hm
  rcases oneBit fast with rfl | rfl <;> rfl

theorem Encoding.vsfuCospi (d : VReg) (a : VReg) (m : BitVec 3) (fast : BitVec 1) : Encoding.Statement (.vsfuCospi d a m fast) := by
  intro hw
  refine ⟨fun _ h => (by cases h), fun _ h => ?_⟩
  cases h
  obtain ⟨h0, h1, h2, h3, h4, h5, h6⟩ := Encoding.fmt_A_6_5_5_5_3_1_4 0x19#6 (d) (a) 0#5 (m) (fast) 6#4
  have hm : BitVec.extractLsb' 0 5 (0x19#6 ++ (d) ++ (a) ++ 0#5 ++ (m) ++ (fast) ++ 6#4 : BitVec 29) = (fast) ++ 6#4 :=
    show BitVec.extractLsb' (n := 6 + 5 + 5 + 5 + 3 + 1 + 4) 0 (1 + 4) (0x19#6 ++ (d) ++ (a) ++ 0#5 ++ (m) ++ (fast) ++ 6#4) = (fast) ++ 6#4 from by
    exact xlo2 _ _ _
  rw [Encoding.decA19_of _ h0]; simp only [decA19, h1, h2, h3, h4, h5, h6, hm]
  clear h0 h1 h2 h3 h4 h5 h6 hm
  rcases oneBit fast with rfl | rfl <;> rfl

theorem Encoding.vsfuTanh (d : VReg) (a : VReg) (m : BitVec 3) (fast : BitVec 1) : Encoding.Statement (.vsfuTanh d a m fast) := by
  intro hw
  refine ⟨fun _ h => (by cases h), fun _ h => ?_⟩
  cases h
  obtain ⟨h0, h1, h2, h3, h4, h5, h6⟩ := Encoding.fmt_A_6_5_5_5_3_1_4 0x19#6 (d) (a) 0#5 (m) (fast) 7#4
  have hm : BitVec.extractLsb' 0 5 (0x19#6 ++ (d) ++ (a) ++ 0#5 ++ (m) ++ (fast) ++ 7#4 : BitVec 29) = (fast) ++ 7#4 :=
    show BitVec.extractLsb' (n := 6 + 5 + 5 + 5 + 3 + 1 + 4) 0 (1 + 4) (0x19#6 ++ (d) ++ (a) ++ 0#5 ++ (m) ++ (fast) ++ 7#4) = (fast) ++ 7#4 from by
    exact xlo2 _ _ _
  rw [Encoding.decA19_of _ h0]; simp only [decA19, h1, h2, h3, h4, h5, h6, hm]
  clear h0 h1 h2 h3 h4 h5 h6 hm
  rcases oneBit fast with rfl | rfl <;> rfl

theorem Encoding.vsfuSigm (d : VReg) (a : VReg) (m : BitVec 3) (fast : BitVec 1) : Encoding.Statement (.vsfuSigm d a m fast) := by
  intro hw
  refine ⟨fun _ h => (by cases h), fun _ h => ?_⟩
  cases h
  obtain ⟨h0, h1, h2, h3, h4, h5, h6⟩ := Encoding.fmt_A_6_5_5_5_3_1_4 0x19#6 (d) (a) 0#5 (m) (fast) 8#4
  have hm : BitVec.extractLsb' 0 5 (0x19#6 ++ (d) ++ (a) ++ 0#5 ++ (m) ++ (fast) ++ 8#4 : BitVec 29) = (fast) ++ 8#4 :=
    show BitVec.extractLsb' (n := 6 + 5 + 5 + 5 + 3 + 1 + 4) 0 (1 + 4) (0x19#6 ++ (d) ++ (a) ++ 0#5 ++ (m) ++ (fast) ++ 8#4) = (fast) ++ 8#4 from by
    exact xlo2 _ _ _
  rw [Encoding.decA19_of _ h0]; simp only [decA19, h1, h2, h3, h4, h5, h6, hm]
  clear h0 h1 h2 h3 h4 h5 h6 hm
  rcases oneBit fast with rfl | rfl <;> rfl

theorem Encoding.vaddF32S (d : VReg) (a : VReg) (s : SReg) (m : BitVec 3) : Encoding.Statement (.vaddF32S d a s m) := by
  intro hw
  refine ⟨fun _ h => (by cases h), fun _ h => ?_⟩
  cases h
  obtain ⟨h0, h1, h2, h3, h4, h5⟩ := Encoding.fmt_A_6_5_5_6_3_4 0x1a#6 (d) (a) (s) (m) 0#4
  rw [Encoding.decA1A_of _ h0]; simp only [decA1A, h1, h2, h3, h4, h5]
  rfl

theorem Encoding.vsubF32S (d : VReg) (a : VReg) (s : SReg) (m : BitVec 3) : Encoding.Statement (.vsubF32S d a s m) := by
  intro hw
  refine ⟨fun _ h => (by cases h), fun _ h => ?_⟩
  cases h
  obtain ⟨h0, h1, h2, h3, h4, h5⟩ := Encoding.fmt_A_6_5_5_6_3_4 0x1a#6 (d) (a) (s) (m) 1#4
  rw [Encoding.decA1A_of _ h0]; simp only [decA1A, h1, h2, h3, h4, h5]
  rfl

theorem Encoding.vmulF32S (d : VReg) (a : VReg) (s : SReg) (m : BitVec 3) : Encoding.Statement (.vmulF32S d a s m) := by
  intro hw
  refine ⟨fun _ h => (by cases h), fun _ h => ?_⟩
  cases h
  obtain ⟨h0, h1, h2, h3, h4, h5⟩ := Encoding.fmt_A_6_5_5_6_3_4 0x1a#6 (d) (a) (s) (m) 2#4
  rw [Encoding.decA1A_of _ h0]; simp only [decA1A, h1, h2, h3, h4, h5]
  rfl

theorem Encoding.vfmaF32S (d : VReg) (a : VReg) (s : SReg) (m : BitVec 3) : Encoding.Statement (.vfmaF32S d a s m) := by
  intro hw
  refine ⟨fun _ h => (by cases h), fun _ h => ?_⟩
  cases h
  obtain ⟨h0, h1, h2, h3, h4, h5⟩ := Encoding.fmt_A_6_5_5_6_3_4 0x1a#6 (d) (a) (s) (m) 3#4
  rw [Encoding.decA1A_of _ h0]; simp only [decA1A, h1, h2, h3, h4, h5]
  rfl

theorem Encoding.vaddI32S (d : VReg) (a : VReg) (s : SReg) (m : BitVec 3) : Encoding.Statement (.vaddI32S d a s m) := by
  intro hw
  refine ⟨fun _ h => (by cases h), fun _ h => ?_⟩
  cases h
  obtain ⟨h0, h1, h2, h3, h4, h5⟩ := Encoding.fmt_A_6_5_5_6_3_4 0x1a#6 (d) (a) (s) (m) 4#4
  rw [Encoding.decA1A_of _ h0]; simp only [decA1A, h1, h2, h3, h4, h5]
  rfl

theorem Encoding.vsubI32S (d : VReg) (a : VReg) (s : SReg) (m : BitVec 3) : Encoding.Statement (.vsubI32S d a s m) := by
  intro hw
  refine ⟨fun _ h => (by cases h), fun _ h => ?_⟩
  cases h
  obtain ⟨h0, h1, h2, h3, h4, h5⟩ := Encoding.fmt_A_6_5_5_6_3_4 0x1a#6 (d) (a) (s) (m) 5#4
  rw [Encoding.decA1A_of _ h0]; simp only [decA1A, h1, h2, h3, h4, h5]
  rfl

theorem Encoding.vmulI32S (d : VReg) (a : VReg) (s : SReg) (m : BitVec 3) : Encoding.Statement (.vmulI32S d a s m) := by
  intro hw
  refine ⟨fun _ h => (by cases h), fun _ h => ?_⟩
  cases h
  obtain ⟨h0, h1, h2, h3, h4, h5⟩ := Encoding.fmt_A_6_5_5_6_3_4 0x1a#6 (d) (a) (s) (m) 6#4
  rw [Encoding.decA1A_of _ h0]; simp only [decA1A, h1, h2, h3, h4, h5]
  rfl

theorem Encoding.vshlN32S (d : VReg) (a : VReg) (s : SReg) (m : BitVec 3) : Encoding.Statement (.vshlN32S d a s m) := by
  intro hw
  refine ⟨fun _ h => (by cases h), fun _ h => ?_⟩
  cases h
  obtain ⟨h0, h1, h2, h3, h4, h5⟩ := Encoding.fmt_A_6_5_5_6_3_4 0x1a#6 (d) (a) (s) (m) 7#4
  rw [Encoding.decA1A_of _ h0]; simp only [decA1A, h1, h2, h3, h4, h5]
  rfl

theorem Encoding.vshrN32S (d : VReg) (a : VReg) (s : SReg) (m : BitVec 3) : Encoding.Statement (.vshrN32S d a s m) := by
  intro hw
  refine ⟨fun _ h => (by cases h), fun _ h => ?_⟩
  cases h
  obtain ⟨h0, h1, h2, h3, h4, h5⟩ := Encoding.fmt_A_6_5_5_6_3_4 0x1a#6 (d) (a) (s) (m) 8#4
  rw [Encoding.decA1A_of _ h0]; simp only [decA1A, h1, h2, h3, h4, h5]
  rfl

theorem Encoding.vshrI32S (d : VReg) (a : VReg) (s : SReg) (m : BitVec 3) : Encoding.Statement (.vshrI32S d a s m) := by
  intro hw
  refine ⟨fun _ h => (by cases h), fun _ h => ?_⟩
  cases h
  obtain ⟨h0, h1, h2, h3, h4, h5⟩ := Encoding.fmt_A_6_5_5_6_3_4 0x1a#6 (d) (a) (s) (m) 9#4
  rw [Encoding.decA1A_of _ h0]; simp only [decA1A, h1, h2, h3, h4, h5]
  rfl

theorem Encoding.vminF32S (d : VReg) (a : VReg) (s : SReg) (m : BitVec 3) : Encoding.Statement (.vminF32S d a s m) := by
  intro hw
  refine ⟨fun _ h => (by cases h), fun _ h => ?_⟩
  cases h
  obtain ⟨h0, h1, h2, h3, h4, h5⟩ := Encoding.fmt_A_6_5_5_6_3_4 0x1a#6 (d) (a) (s) (m) 10#4
  rw [Encoding.decA1A_of _ h0]; simp only [decA1A, h1, h2, h3, h4, h5]
  rfl

theorem Encoding.vmaxF32S (d : VReg) (a : VReg) (s : SReg) (m : BitVec 3) : Encoding.Statement (.vmaxF32S d a s m) := by
  intro hw
  refine ⟨fun _ h => (by cases h), fun _ h => ?_⟩
  cases h
  obtain ⟨h0, h1, h2, h3, h4, h5⟩ := Encoding.fmt_A_6_5_5_6_3_4 0x1a#6 (d) (a) (s) (m) 11#4
  rw [Encoding.decA1A_of _ h0]; simp only [decA1A, h1, h2, h3, h4, h5]
  rfl

theorem Encoding.vaddBf16 (d : VReg) (a : VReg) (b : VReg) (m : BitVec 3) (rm : BitVec 2) : Encoding.Statement (.vaddBf16 d a b m rm) := by
  intro hw
  refine ⟨fun _ h => (by cases h), fun _ h => ?_⟩
  cases h
  obtain ⟨h0, h1, h2, h3, h4, h5, h6⟩ := Encoding.fmt_A_6_5_5_5_3_2_3 0x1b#6 (d) (a) (b) (m) (rm) 0#3
  rw [Encoding.decA1B_of _ h0]; simp only [decA1B, h1, h2, h3, h4, h5, h6]
  rfl

theorem Encoding.vsubBf16 (d : VReg) (a : VReg) (b : VReg) (m : BitVec 3) (rm : BitVec 2) : Encoding.Statement (.vsubBf16 d a b m rm) := by
  intro hw
  refine ⟨fun _ h => (by cases h), fun _ h => ?_⟩
  cases h
  obtain ⟨h0, h1, h2, h3, h4, h5, h6⟩ := Encoding.fmt_A_6_5_5_5_3_2_3 0x1b#6 (d) (a) (b) (m) (rm) 1#3
  rw [Encoding.decA1B_of _ h0]; simp only [decA1B, h1, h2, h3, h4, h5, h6]
  rfl

theorem Encoding.vmulBf16 (d : VReg) (a : VReg) (b : VReg) (m : BitVec 3) (rm : BitVec 2) : Encoding.Statement (.vmulBf16 d a b m rm) := by
  intro hw
  refine ⟨fun _ h => (by cases h), fun _ h => ?_⟩
  cases h
  obtain ⟨h0, h1, h2, h3, h4, h5, h6⟩ := Encoding.fmt_A_6_5_5_5_3_2_3 0x1b#6 (d) (a) (b) (m) (rm) 2#3
  rw [Encoding.decA1B_of _ h0]; simp only [decA1B, h1, h2, h3, h4, h5, h6]
  rfl

theorem Encoding.vfmaBf16 (d : VReg) (a : VReg) (b : VReg) (m : BitVec 3) (rm : BitVec 2) : Encoding.Statement (.vfmaBf16 d a b m rm) := by
  intro hw
  refine ⟨fun _ h => (by cases h), fun _ h => ?_⟩
  cases h
  obtain ⟨h0, h1, h2, h3, h4, h5, h6⟩ := Encoding.fmt_A_6_5_5_5_3_2_3 0x1b#6 (d) (a) (b) (m) (rm) 3#3
  rw [Encoding.decA1B_of _ h0]; simp only [decA1B, h1, h2, h3, h4, h5, h6]
  rfl

theorem Encoding.vfnmaBf16 (d : VReg) (a : VReg) (b : VReg) (m : BitVec 3) (rm : BitVec 2) : Encoding.Statement (.vfnmaBf16 d a b m rm) := by
  intro hw
  refine ⟨fun _ h => (by cases h), fun _ h => ?_⟩
  cases h
  obtain ⟨h0, h1, h2, h3, h4, h5, h6⟩ := Encoding.fmt_A_6_5_5_5_3_2_3 0x1b#6 (d) (a) (b) (m) (rm) 4#3
  rw [Encoding.decA1B_of _ h0]; simp only [decA1B, h1, h2, h3, h4, h5, h6]
  rfl

theorem Encoding.vminBf16 (d : VReg) (a : VReg) (b : VReg) (m : BitVec 3) (rm : BitVec 2) : Encoding.Statement (.vminBf16 d a b m rm) := by
  intro hw
  refine ⟨fun _ h => (by cases h), fun _ h => ?_⟩
  cases h
  obtain ⟨h0, h1, h2, h3, h4, h5, h6⟩ := Encoding.fmt_A_6_5_5_5_3_2_3 0x1b#6 (d) (a) (b) (m) (rm) 5#3
  rw [Encoding.decA1B_of _ h0]; simp only [decA1B, h1, h2, h3, h4, h5, h6]
  rfl

theorem Encoding.vmaxBf16 (d : VReg) (a : VReg) (b : VReg) (m : BitVec 3) (rm : BitVec 2) : Encoding.Statement (.vmaxBf16 d a b m rm) := by
  intro hw
  refine ⟨fun _ h => (by cases h), fun _ h => ?_⟩
  cases h
  obtain ⟨h0, h1, h2, h3, h4, h5, h6⟩ := Encoding.fmt_A_6_5_5_5_3_2_3 0x1b#6 (d) (a) (b) (m) (rm) 6#3
  rw [Encoding.decA1B_of _ h0]; simp only [decA1B, h1, h2, h3, h4, h5, h6]
  rfl

theorem Encoding.vcmpBf16 (d : KReg) (a : VReg) (b : VReg) (m : BitVec 3) (p : BitVec 2) : Encoding.Statement (.vcmpBf16 d a b m p) := by
  intro hw
  refine ⟨fun _ h => (by cases h), fun _ h => ?_⟩
  cases h
  obtain ⟨h0, h1, h2, h3, h4, h5, h6⟩ := Encoding.fmt_A_6_5_5_5_3_2_3 0x1b#6 (d.setWidth 5) (a) (b) (m) (p) 7#3
  rw [Encoding.decA1B_of _ h0]; simp only [decA1B, h1, h2, h3, h4, h5, h6]
  simp [kregOf_wide]

theorem Encoding.mxMmaE4m3 (c : AccReg) (xa : XReg) (xb : XReg) : Encoding.Statement (.mxMmaE4m3 c xa xb) := by
  intro hw
  refine ⟨fun _ h => (by cases h), fun _ h => ?_⟩
  cases h
  obtain ⟨h0, h1, h2, h3, h4, h5, h6⟩ := Encoding.fmt_A_6_2_3_3_6_6_3 0x20#6 (c) (xa) (xb) 0#6 0#6 0#3
  rw [Encoding.decA20_of _ h0]; simp only [decA20, h1, h2, h3, h4, h5, h6]
  rfl

theorem Encoding.mxMmaE5m2 (c : AccReg) (xa : XReg) (xb : XReg) : Encoding.Statement (.mxMmaE5m2 c xa xb) := by
  intro hw
  refine ⟨fun _ h => (by cases h), fun _ h => ?_⟩
  cases h
  obtain ⟨h0, h1, h2, h3, h4, h5, h6⟩ := Encoding.fmt_A_6_2_3_3_6_6_3 0x20#6 (c) (xa) (xb) 0#6 0#6 1#3
  rw [Encoding.decA20_of _ h0]; simp only [decA20, h1, h2, h3, h4, h5, h6]
  rfl

theorem Encoding.mxMmxE4m3 (c : AccReg) (xa : XReg) (xb : XReg) : Encoding.Statement (.mxMmxE4m3 c xa xb) := by
  intro hw
  refine ⟨fun _ h => (by cases h), fun _ h => ?_⟩
  cases h
  obtain ⟨h0, h1, h2, h3, h4, h5, h6⟩ := Encoding.fmt_A_6_2_3_3_6_6_3 0x20#6 (c) (xa) (xb) 0#6 0#6 2#3
  rw [Encoding.decA20_of _ h0]; simp only [decA20, h1, h2, h3, h4, h5, h6]
  rfl

theorem Encoding.mxMmxE5m2 (c : AccReg) (xa : XReg) (xb : XReg) : Encoding.Statement (.mxMmxE5m2 c xa xb) := by
  intro hw
  refine ⟨fun _ h => (by cases h), fun _ h => ?_⟩
  cases h
  obtain ⟨h0, h1, h2, h3, h4, h5, h6⟩ := Encoding.fmt_A_6_2_3_3_6_6_3 0x20#6 (c) (xa) (xb) 0#6 0#6 3#3
  rw [Encoding.decA20_of _ h0]; simp only [decA20, h1, h2, h3, h4, h5, h6]
  rfl

theorem Encoding.mxMmaI8 (c : AccReg) (xa : XReg) (xb : XReg) : Encoding.Statement (.mxMmaI8 c xa xb) := by
  intro hw
  refine ⟨fun _ h => (by cases h), fun _ h => ?_⟩
  cases h
  obtain ⟨h0, h1, h2, h3, h4, h5, h6⟩ := Encoding.fmt_A_6_2_3_3_6_6_3 0x20#6 (c) (xa) (xb) 0#6 0#6 4#3
  rw [Encoding.decA20_of _ h0]; simp only [decA20, h1, h2, h3, h4, h5, h6]
  rfl

theorem Encoding.mxMmaBf16 (c : AccReg) (xa : XReg) (xb : XReg) : Encoding.Statement (.mxMmaBf16 c xa xb) := by
  intro hw
  refine ⟨fun _ h => (by cases h), fun _ h => ?_⟩
  cases h
  obtain ⟨h0, h1, h2, h3, h4, h5, h6⟩ := Encoding.fmt_A_6_2_3_3_6_6_3 0x20#6 (c) (xa) (xb) 0#6 0#6 5#3
  rw [Encoding.decA20_of _ h0]; simp only [decA20, h1, h2, h3, h4, h5, h6]
  exact if_pos hw

theorem Encoding.mxCmmaBf16 (c : AccReg) (xa : XReg) (xb : XReg) : Encoding.Statement (.mxCmmaBf16 c xa xb) := by
  intro hw
  refine ⟨fun _ h => (by cases h), fun _ h => ?_⟩
  cases h
  obtain ⟨h0, h1, h2, h3, h4, h5, h6⟩ := Encoding.fmt_A_6_2_3_3_6_6_3 0x20#6 (c) (xa) (xb) 0#6 0#6 6#3
  rw [Encoding.decA20_of _ h0]; simp only [decA20, h1, h2, h3, h4, h5, h6]
  exact if_pos hw

theorem Encoding.mxProm (c : AccReg) (sa : SReg) (sb : SReg) : Encoding.Statement (.mxProm c sa sb) := by
  intro hw
  refine ⟨fun _ h => (by cases h), fun _ h => ?_⟩
  cases h
  obtain ⟨h0, h1, h2, h3, h4, h5, h6⟩ := Encoding.fmt_A_6_2_3_3_6_6_3 0x21#6 (c) 0#3 0#3 (sa) (sb) 0#3
  rw [Encoding.decA21_of _ h0]; simp only [decA21, h1, h2, h3, h4, h5, h6]
  rfl

theorem Encoding.mxPromU (c : AccReg) : Encoding.Statement (.mxPromU c) := by
  intro hw
  refine ⟨fun _ h => (by cases h), fun _ h => ?_⟩
  cases h
  obtain ⟨h0, h1, h2, h3, h4, h5, h6⟩ := Encoding.fmt_A_6_2_3_3_6_6_3 0x21#6 (c) 0#3 0#3 0#6 0#6 1#3
  rw [Encoding.decA21_of _ h0]; simp only [decA21, h1, h2, h3, h4, h5, h6]
  rfl

theorem Encoding.mxLd (xd : XReg) (sa : SReg) (sb : SReg) : Encoding.Statement (.mxLd xd sa sb) := by
  intro hw
  refine ⟨fun _ h => (by cases h), fun _ h => ?_⟩
  cases h
  obtain ⟨h0, h1, h2, h3, h4, h5, h6⟩ := Encoding.fmt_A_6_2_3_3_6_6_3 0x22#6 0#2 (xd) 0#3 (sa) (sb) 0#3
  rw [Encoding.decA22_of _ h0]; simp only [decA22, h1, h2, h3, h4, h5, h6]
  rfl

theorem Encoding.mxLd2 (xd : XReg) (sa : SReg) (sb : SReg) : Encoding.Statement (.mxLd2 xd sa sb) := by
  intro hw
  refine ⟨fun _ h => (by cases h), fun _ h => ?_⟩
  cases h
  obtain ⟨h0, h1, h2, h3, h4, h5, h6⟩ := Encoding.fmt_A_6_2_3_3_6_6_3 0x22#6 0#2 (xd) 0#3 (sa) (sb) 1#3
  rw [Encoding.decA22_of _ h0]; simp only [decA22, h1, h2, h3, h4, h5, h6]
  exact if_pos hw

theorem Encoding.mxLdwQ4 (xd : XReg) (sa : SReg) (sb : SReg) : Encoding.Statement (.mxLdwQ4 xd sa sb) := by
  intro hw
  refine ⟨fun _ h => (by cases h), fun _ h => ?_⟩
  cases h
  obtain ⟨h0, h1, h2, h3, h4, h5, h6⟩ := Encoding.fmt_A_6_2_3_3_6_6_3 0x22#6 0#2 (xd) 0#3 (sa) (sb) 2#3
  rw [Encoding.decA22_of _ h0]; simp only [decA22, h1, h2, h3, h4, h5, h6]
  rfl

theorem Encoding.mxLdwE4m3 (xd : XReg) (sa : SReg) (sb : SReg) : Encoding.Statement (.mxLdwE4m3 xd sa sb) := by
  intro hw
  refine ⟨fun _ h => (by cases h), fun _ h => ?_⟩
  cases h
  obtain ⟨h0, h1, h2, h3, h4, h5, h6⟩ := Encoding.fmt_A_6_2_3_3_6_6_3 0x22#6 0#2 (xd) 0#3 (sa) (sb) 3#3
  rw [Encoding.decA22_of _ h0]; simp only [decA22, h1, h2, h3, h4, h5, h6]
  rfl

theorem Encoding.mxLdt (xd : XReg) (sa : SReg) (sb : SReg) : Encoding.Statement (.mxLdt xd sa sb) := by
  intro hw
  refine ⟨fun _ h => (by cases h), fun _ h => ?_⟩
  cases h
  obtain ⟨h0, h1, h2, h3, h4, h5, h6⟩ := Encoding.fmt_A_6_2_3_3_6_6_3 0x22#6 0#2 (xd) 0#3 (sa) (sb) 4#3
  rw [Encoding.decA22_of _ h0]; simp only [decA22, h1, h2, h3, h4, h5, h6]
  rfl

theorem Encoding.mxAstF32 (c : AccReg) (sa : SReg) (sb : SReg) : Encoding.Statement (.mxAstF32 c sa sb) := by
  intro hw
  refine ⟨fun _ h => (by cases h), fun _ h => ?_⟩
  cases h
  obtain ⟨h0, h1, h2, h3, h4, h5, h6⟩ := Encoding.fmt_A_6_2_3_3_6_6_3 0x23#6 (c) 0#3 0#3 (sa) (sb) 0#3
  rw [Encoding.decA23_of _ h0]; simp only [decA23, h1, h2, h3, h4, h5, h6]
  rfl

theorem Encoding.mxAstBf16 (c : AccReg) (sa : SReg) (sb : SReg) : Encoding.Statement (.mxAstBf16 c sa sb) := by
  intro hw
  refine ⟨fun _ h => (by cases h), fun _ h => ?_⟩
  cases h
  obtain ⟨h0, h1, h2, h3, h4, h5, h6⟩ := Encoding.fmt_A_6_2_3_3_6_6_3 0x23#6 (c) 0#3 0#3 (sa) (sb) 1#3
  rw [Encoding.decA23_of _ h0]; simp only [decA23, h1, h2, h3, h4, h5, h6]
  rfl

theorem Encoding.mxAldF32 (c : AccReg) (sa : SReg) (sb : SReg) : Encoding.Statement (.mxAldF32 c sa sb) := by
  intro hw
  refine ⟨fun _ h => (by cases h), fun _ h => ?_⟩
  cases h
  obtain ⟨h0, h1, h2, h3, h4, h5, h6⟩ := Encoding.fmt_A_6_2_3_3_6_6_3 0x23#6 (c) 0#3 0#3 (sa) (sb) 2#3
  rw [Encoding.decA23_of _ h0]; simp only [decA23, h1, h2, h3, h4, h5, h6]
  rfl

theorem Encoding.mxAzero (c : AccReg) : Encoding.Statement (.mxAzero c) := by
  intro hw
  refine ⟨fun _ h => (by cases h), fun _ h => ?_⟩
  cases h
  obtain ⟨h0, h1, h2, h3, h4, h5, h6⟩ := Encoding.fmt_A_6_2_3_3_6_6_3 0x23#6 (c) 0#3 0#3 0#6 0#6 3#3
  rw [Encoding.decA23_of _ h0]; simp only [decA23, h1, h2, h3, h4, h5, h6]
  rfl

theorem Encoding.mxSync : Encoding.Statement (.mxSync) := by
  intro hw
  refine ⟨fun _ h => (by cases h), fun _ h => ?_⟩
  cases h
  obtain ⟨h0, h1, h2, h3, h4, h5, h6⟩ := Encoding.fmt_A_6_2_3_3_6_6_3 0x24#6 0#2 0#3 0#3 0#6 0#6 0#3
  rw [Encoding.decA24_of _ h0]; simp only [decA24, h1, h2, h3, h4, h5, h6]
  rfl

theorem Encoding.mxStat (d : SReg) (c : AccReg) : Encoding.Statement (.mxStat d c) := by
  intro hw
  refine ⟨fun _ h => (by cases h), fun _ h => ?_⟩
  cases h
  obtain ⟨h0, h1, h2, h3, h4, h5, h6⟩ := Encoding.fmt_A_6_2_3_3_6_6_3 0x24#6 (c) 0#3 0#3 (d) 0#6 1#3
  rw [Encoding.decA24_of _ h0]; simp only [decA24, h1, h2, h3, h4, h5, h6]
  rfl

theorem Encoding.mxDrop (c : AccReg) : Encoding.Statement (.mxDrop c) := by
  intro hw
  refine ⟨fun _ h => (by cases h), fun _ h => ?_⟩
  cases h
  obtain ⟨h0, h1, h2, h3, h4, h5, h6⟩ := Encoding.fmt_A_6_2_3_3_6_6_3 0x24#6 (c) 0#3 0#3 0#6 0#6 2#3
  rw [Encoding.decA24_of _ h0]; simp only [decA24, h1, h2, h3, h4, h5, h6]
  rfl

theorem Encoding.hintA (h : BitVec 1) (x : BitVec 23) : Encoding.Statement (.hintA h x) := by
  intro _
  refine ⟨fun _ e => (by cases e), fun _ e => ?_⟩
  cases e
  rcases BitVec.eq_zero_or_eq_one h with rfl | rfl
  · obtain ⟨h0, h1⟩ := Encoding.fmt_A_6_23 62#6 x
    have h2 : (31#5 ++ 0#1 : BitVec 6) = 62#6 := by decide
    have h3 : BitVec.extractLsb' 23 1 (62#6 ++ x : BitVec 29) = 0#1 :=
      show BitVec.extractLsb' (n := 6 + 23) 23 1 (62#6 ++ x) = 0#1 from by
        rw [xhi _ _ (by decide)]; decide
    simp only [decodeABody, h2, h0, h1, h3]
    rfl
  · obtain ⟨h0, h1⟩ := Encoding.fmt_A_6_23 63#6 x
    have h2 : (31#5 ++ 1#1 : BitVec 6) = 63#6 := by decide
    have h3 : BitVec.extractLsb' 23 1 (63#6 ++ x : BitVec 29) = 1#1 :=
      show BitVec.extractLsb' (n := 6 + 23) 23 1 (63#6 ++ x) = 1#1 from by
        rw [xhi _ _ (by decide)]; decide
    simp only [decodeABody, h2, h0, h1, h3]
    rfl

theorem Encoding.stepTrap (core : Nat) : Encoding.Statement (.stepTrap core) :=
  fun _ => ⟨fun _ h => (by cases h), fun _ h => (by cases h)⟩

theorem Encoding.accessConfirm (core : Nat) (id : Nat) : Encoding.Statement (.accessConfirm core id) :=
  fun _ => ⟨fun _ h => (by cases h), fun _ h => (by cases h)⟩

theorem Encoding.lateFault (core : Nat) : Encoding.Statement (.lateFault core) :=
  fun _ => ⟨fun _ h => (by cases h), fun _ h => (by cases h)⟩

theorem Encoding.pageUpcall (core : Nat) (ctx : Nat) : Encoding.Statement (.pageUpcall core ctx) :=
  fun _ => ⟨fun _ h => (by cases h), fun _ h => (by cases h)⟩

theorem Encoding.loadPerform (core : Nat) (id : Nat) (err : Bool) : Encoding.Statement (.loadPerform core id err) :=
  fun _ => ⟨fun _ h => (by cases h), fun _ h => (by cases h)⟩

theorem Encoding.pageWalk (slice : Nat) (part : Nat) (va : Nat) (err : Bool) : Encoding.Statement (.pageWalk slice part va err) :=
  fun _ => ⟨fun _ h => (by cases h), fun _ h => (by cases h)⟩

theorem Encoding.dramBurst (ed : Nat) (block : Nat) : Encoding.Statement (.dramBurst ed block) :=
  fun _ => ⟨fun _ h => (by cases h), fun _ h => (by cases h)⟩

theorem Encoding.storePerform (id : Nat) : Encoding.Statement (.storePerform id) :=
  fun _ => ⟨fun _ h => (by cases h), fun _ h => (by cases h)⟩

theorem Encoding.watchArm (core : Nat) (ctx : Nat) (n : Nat) : Encoding.Statement (.watchArm core ctx n) :=
  fun _ => ⟨fun _ h => (by cases h), fun _ h => (by cases h)⟩

theorem Encoding.waitAnyTimeout (core : Nat) (ctx : Nat) : Encoding.Statement (.waitAnyTimeout core ctx) :=
  fun _ => ⟨fun _ h => (by cases h), fun _ h => (by cases h)⟩

theorem Encoding.atomicPerform (id : Nat) (err : Bool) : Encoding.Statement (.atomicPerform id err) :=
  fun _ => ⟨fun _ h => (by cases h), fun _ h => (by cases h)⟩

theorem Encoding.atomicReply (core : Nat) (id : Nat) : Encoding.Statement (.atomicReply core id) :=
  fun _ => ⟨fun _ h => (by cases h), fun _ h => (by cases h)⟩

theorem Encoding.nearOwnershipGrant (core : Nat) (id : DramRead) : Encoding.Statement (.nearOwnershipGrant core id) :=
  fun _ => ⟨fun _ h => (by cases h), fun _ h => (by cases h)⟩

theorem Encoding.nearRecall (part : Nat) (va : Nat) : Encoding.Statement (.nearRecall part va) :=
  fun _ => ⟨fun _ h => (by cases h), fun _ h => (by cases h)⟩

theorem Encoding.cleanPerform (id : Nat) : Encoding.Statement (.cleanPerform id) :=
  fun _ => ⟨fun _ h => (by cases h), fun _ h => (by cases h)⟩

theorem Encoding.hotnessSample (slice : Nat) (part : Nat) : Encoding.Statement (.hotnessSample slice part) :=
  fun _ => ⟨fun _ h => (by cases h), fun _ h => (by cases h)⟩

theorem Encoding.detectedError (core : Nat) : Encoding.Statement (.detectedError core) :=
  fun _ => ⟨fun _ h => (by cases h), fun _ h => (by cases h)⟩

theorem Encoding.watchdogExpiry (core : Nat) : Encoding.Statement (.watchdogExpiry core) :=
  fun _ => ⟨fun _ h => (by cases h), fun _ h => (by cases h)⟩

theorem Encoding.retryRestart (core : Nat) (err : Bool) : Encoding.Statement (.retryRestart core err) :=
  fun _ => ⟨fun _ h => (by cases h), fun _ h => (by cases h)⟩

theorem Encoding.messageRelease (id : Nat) : Encoding.Statement (.messageRelease id) :=
  fun _ => ⟨fun _ h => (by cases h), fun _ h => (by cases h)⟩

theorem Encoding.messageLand (id : Nat) : Encoding.Statement (.messageLand id) :=
  fun _ => ⟨fun _ h => (by cases h), fun _ h => (by cases h)⟩

theorem Encoding.messageRetry (id : Nat) : Encoding.Statement (.messageRetry id) :=
  fun _ => ⟨fun _ h => (by cases h), fun _ h => (by cases h)⟩

theorem Encoding.dispatch (core : Nat) : Encoding.Statement (.dispatch core) :=
  fun _ => ⟨fun _ h => (by cases h), fun _ h => (by cases h)⟩

theorem Encoding.preemption (core : Nat) : Encoding.Statement (.preemption core) :=
  fun _ => ⟨fun _ h => (by cases h), fun _ h => (by cases h)⟩

theorem Encoding.priorityAgeing (core : Nat) (n : Nat) : Encoding.Statement (.priorityAgeing core n) :=
  fun _ => ⟨fun _ h => (by cases h), fun _ h => (by cases h)⟩

theorem Encoding.runQueueReport (core : Nat) : Encoding.Statement (.runQueueReport core) :=
  fun _ => ⟨fun _ h => (by cases h), fun _ h => (by cases h)⟩

theorem Encoding.issueWaitPark (core : Nat) : Encoding.Statement (.issueWaitPark core) :=
  fun _ => ⟨fun _ h => (by cases h), fun _ h => (by cases h)⟩

theorem Encoding.activationWake (core : Nat) (ctx : Nat) : Encoding.Statement (.activationWake core ctx) :=
  fun _ => ⟨fun _ h => (by cases h), fun _ h => (by cases h)⟩

theorem Encoding.launchPerform (id : Nat) : Encoding.Statement (.launchPerform id) :=
  fun _ => ⟨fun _ h => (by cases h), fun _ h => (by cases h)⟩

theorem Encoding.launchTrigger (id : Nat) : Encoding.Statement (.launchTrigger id) :=
  fun _ => ⟨fun _ h => (by cases h), fun _ h => (by cases h)⟩

theorem Encoding.regionKillPerform (id : Nat) : Encoding.Statement (.regionKillPerform id) :=
  fun _ => ⟨fun _ h => (by cases h), fun _ h => (by cases h)⟩

theorem Encoding.regionComplete (part : Nat) (rcb : Nat) : Encoding.Statement (.regionComplete part rcb) :=
  fun _ => ⟨fun _ h => (by cases h), fun _ h => (by cases h)⟩

theorem Encoding.barrierArrival (core : Nat) (id : Nat) : Encoding.Statement (.barrierArrival core id) :=
  fun _ => ⟨fun _ h => (by cases h), fun _ h => (by cases h)⟩

theorem Encoding.cpStart (core : DramRead) : Encoding.Statement (.cpStart core) :=
  fun _ => ⟨fun _ h => (by cases h), fun _ h => (by cases h)⟩

theorem Encoding.cpComplete (core : Nat) (id : Nat) (err : Bool) : Encoding.Statement (.cpComplete core id err) :=
  fun _ => ⟨fun _ h => (by cases h), fun _ h => (by cases h)⟩

theorem Encoding.cpCancelStop (core : Nat) (id : Nat) (n : Nat) : Encoding.Statement (.cpCancelStop core id n) :=
  fun _ => ⟨fun _ h => (by cases h), fun _ h => (by cases h)⟩

theorem Encoding.mxRequestStart (cluster : Nat) (stage : Nat) : Encoding.Statement (.mxRequestStart cluster stage) :=
  fun _ => ⟨fun _ h => (by cases h), fun _ h => (by cases h)⟩

theorem Encoding.mxRequestComplete (core : Nat) (id : Nat) : Encoding.Statement (.mxRequestComplete core id) :=
  fun _ => ⟨fun _ h => (by cases h), fun _ h => (by cases h)⟩

theorem Encoding.mxStateCopy (core : Nat) (ctx : Nat) : Encoding.Statement (.mxStateCopy core ctx) :=
  fun _ => ⟨fun _ h => (by cases h), fun _ h => (by cases h)⟩

theorem Encoding.governorWindow (die : Nat) : Encoding.Statement (.governorWindow die) :=
  fun _ => ⟨fun _ h => (by cases h), fun _ h => (by cases h)⟩

theorem Encoding.potPostPerform (id : Nat) : Encoding.Statement (.potPostPerform id) :=
  fun _ => ⟨fun _ h => (by cases h), fun _ h => (by cases h)⟩

theorem Encoding.potReadPerform (id : Nat) : Encoding.Statement (.potReadPerform id) :=
  fun _ => ⟨fun _ h => (by cases h), fun _ h => (by cases h)⟩

theorem Encoding.potReadLimit (id : Nat) : Encoding.Statement (.potReadLimit id) :=
  fun _ => ⟨fun _ h => (by cases h), fun _ h => (by cases h)⟩

theorem Encoding.potReadResend (id : Nat) : Encoding.Statement (.potReadResend id) :=
  fun _ => ⟨fun _ h => (by cases h), fun _ h => (by cases h)⟩

theorem Encoding.potReadReply (id : Nat) : Encoding.Statement (.potReadReply id) :=
  fun _ => ⟨fun _ h => (by cases h), fun _ h => (by cases h)⟩

theorem Encoding.fabricSlotStart : Encoding.Statement (.fabricSlotStart) :=
  fun _ => ⟨fun _ h => (by cases h), fun _ h => (by cases h)⟩

theorem Encoding.guardEnd : Encoding.Statement (.guardEnd) :=
  fun _ => ⟨fun _ h => (by cases h), fun _ h => (by cases h)⟩

theorem Encoding.flitBoundary (link : Nat) : Encoding.Statement (.flitBoundary link) :=
  fun _ => ⟨fun _ h => (by cases h), fun _ h => (by cases h)⟩

theorem Encoding.flitReceive (link : Nat) (fl : Flit) : Encoding.Statement (.flitReceive link fl) :=
  fun _ => ⟨fun _ h => (by cases h), fun _ h => (by cases h)⟩

theorem Encoding.nak (link : Nat) (bulk : Bool) (n : Nat) : Encoding.Statement (.nak link bulk n) :=
  fun _ => ⟨fun _ h => (by cases h), fun _ h => (by cases h)⟩

theorem Encoding.linkRetrain (link : Nat) : Encoding.Statement (.linkRetrain link) :=
  fun _ => ⟨fun _ h => (by cases h), fun _ h => (by cases h)⟩

theorem Encoding.linkRetrainEnd (link : Nat) : Encoding.Statement (.linkRetrainEnd link) :=
  fun _ => ⟨fun _ h => (by cases h), fun _ h => (by cases h)⟩

theorem Encoding.leakyBucketDecay (link : Nat) : Encoding.Statement (.leakyBucketDecay link) :=
  fun _ => ⟨fun _ h => (by cases h), fun _ h => (by cases h)⟩

theorem Encoding.laneErrorWindow (link : Nat) (lane : Nat) (errs : Nat) : Encoding.Statement (.laneErrorWindow link lane errs) :=
  fun _ => ⟨fun _ h => (by cases h), fun _ h => (by cases h)⟩

theorem Encoding.laneRetrainEnd (link : Nat) (lane : Nat) : Encoding.Statement (.laneRetrainEnd link lane) :=
  fun _ => ⟨fun _ h => (by cases h), fun _ h => (by cases h)⟩

theorem Encoding.linkUp (link : Nat) (ver : Nat) : Encoding.Statement (.linkUp link ver) :=
  fun _ => ⟨fun _ h => (by cases h), fun _ h => (by cases h)⟩

theorem Encoding.remoteRequestTimeout (id : Nat) : Encoding.Statement (.remoteRequestTimeout id) :=
  fun _ => ⟨fun _ h => (by cases h), fun _ h => (by cases h)⟩

theorem Encoding.proxyLineReply (id : Nat) : Encoding.Statement (.proxyLineReply id) :=
  fun _ => ⟨fun _ h => (by cases h), fun _ h => (by cases h)⟩

theorem Encoding.homeRemoteRequest (id : Nat) : Encoding.Statement (.homeRemoteRequest id) :=
  fun _ => ⟨fun _ h => (by cases h), fun _ h => (by cases h)⟩

theorem Encoding.homeInvalidate (id : Nat) : Encoding.Statement (.homeInvalidate id) :=
  fun _ => ⟨fun _ h => (by cases h), fun _ h => (by cases h)⟩

theorem Encoding.postTrainTimeout (id : Nat) : Encoding.Statement (.postTrainTimeout id) :=
  fun _ => ⟨fun _ h => (by cases h), fun _ h => (by cases h)⟩

theorem Encoding.fabWaitTimeout (core : Nat) (ctx : Nat) : Encoding.Statement (.fabWaitTimeout core ctx) :=
  fun _ => ⟨fun _ h => (by cases h), fun _ h => (by cases h)⟩

theorem Encoding.qdAdmission (id : Nat) : Encoding.Statement (.qdAdmission id) :=
  fun _ => ⟨fun _ h => (by cases h), fun _ h => (by cases h)⟩

theorem Encoding.windowAccess (id : Nat) : Encoding.Statement (.windowAccess id) :=
  fun _ => ⟨fun _ h => (by cases h), fun _ h => (by cases h)⟩

theorem Encoding.allowanceExhausted (core : Nat) : Encoding.Statement (.allowanceExhausted core) :=
  fun _ => ⟨fun _ h => (by cases h), fun _ h => (by cases h)⟩

theorem Encoding.roundTimeout (id : Nat) : Encoding.Statement (.roundTimeout id) :=
  fun _ => ⟨fun _ h => (by cases h), fun _ h => (by cases h)⟩

theorem Encoding.roundEnd (id : Nat) : Encoding.Statement (.roundEnd id) :=
  fun _ => ⟨fun _ h => (by cases h), fun _ h => (by cases h)⟩

theorem Encoding.tileRefill (cluster : Nat) (tile : Nat) : Encoding.Statement (.tileRefill cluster tile) :=
  fun _ => ⟨fun _ h => (by cases h), fun _ h => (by cases h)⟩

theorem Encoding.eventRingRoom (ed : Nat) : Encoding.Statement (.eventRingRoom ed) :=
  fun _ => ⟨fun _ h => (by cases h), fun _ h => (by cases h)⟩

theorem Encoding.powerOn (b : BootInput) : Encoding.Statement (.powerOn b) :=
  fun _ => ⟨fun _ h => (by cases h), fun _ h => (by cases h)⟩

theorem Encoding.dieAuthTimeout (die : Nat) : Encoding.Statement (.dieAuthTimeout die) :=
  fun _ => ⟨fun _ h => (by cases h), fun _ h => (by cases h)⟩

theorem Encoding.pstateCreate (p : Nat) : Encoding.Statement (.pstateCreate p) :=
  fun _ => ⟨fun _ h => (by cases h), fun _ h => (by cases h)⟩

theorem Encoding.linkRestore (link : Nat) : Encoding.Statement (.linkRestore link) :=
  fun _ => ⟨fun _ h => (by cases h), fun _ h => (by cases h)⟩

theorem Encoding.mgmtRegisterWrite (n : MgmtReg) (v : BitVec 64) : Encoding.Statement (.mgmtRegisterWrite n v) :=
  fun _ => ⟨fun _ h => (by cases h), fun _ h => (by cases h)⟩

theorem Encoding.hello (h : HostReq) : Encoding.Statement (.hello h) :=
  fun _ => ⟨fun _ h => (by cases h), fun _ h => (by cases h)⟩

theorem Encoding.bootrpt (h : HostReq) : Encoding.Statement (.bootrpt h) :=
  fun _ => ⟨fun _ h => (by cases h), fun _ h => (by cases h)⟩

theorem Encoding.pcreate (h : HostReq) : Encoding.Statement (.pcreate h) :=
  fun _ => ⟨fun _ h => (by cases h), fun _ h => (by cases h)⟩

theorem Encoding.pswap (h : HostReq) : Encoding.Statement (.pswap h) :=
  fun _ => ⟨fun _ h => (by cases h), fun _ h => (by cases h)⟩

theorem Encoding.pkill (h : HostReq) : Encoding.Statement (.pkill h) :=
  fun _ => ⟨fun _ h => (by cases h), fun _ h => (by cases h)⟩

theorem Encoding.pset (h : HostReq) : Encoding.Statement (.pset h) :=
  fun _ => ⟨fun _ h => (by cases h), fun _ h => (by cases h)⟩

theorem Encoding.tlbinv (h : HostReq) : Encoding.Statement (.tlbinv h) :=
  fun _ => ⟨fun _ h => (by cases h), fun _ h => (by cases h)⟩

theorem Encoding.launch (h : HostReq) : Encoding.Statement (.launch h) :=
  fun _ => ⟨fun _ h => (by cases h), fun _ h => (by cases h)⟩

theorem Encoding.rkill (h : HostReq) : Encoding.Statement (.rkill h) :=
  fun _ => ⟨fun _ h => (by cases h), fun _ h => (by cases h)⟩

theorem Encoding.plimit (h : HostReq) : Encoding.Statement (.plimit h) :=
  fun _ => ⟨fun _ h => (by cases h), fun _ h => (by cases h)⟩

theorem Encoding.evring (h : HostReq) : Encoding.Statement (.evring h) :=
  fun _ => ⟨fun _ h => (by cases h), fun _ h => (by cases h)⟩

theorem Encoding.fabset (h : HostReq) : Encoding.Statement (.fabset h) :=
  fun _ => ⟨fun _ h => (by cases h), fun _ h => (by cases h)⟩

theorem Encoding.linkrst (h : HostReq) : Encoding.Statement (.linkrst h) :=
  fun _ => ⟨fun _ h => (by cases h), fun _ h => (by cases h)⟩

theorem Encoding.attest (h : HostReq) : Encoding.Statement (.attest h) :=
  fun _ => ⟨fun _ h => (by cases h), fun _ h => (by cases h)⟩

theorem Encoding.copy (h : HostReq) : Encoding.Statement (.copy h) :=
  fun _ => ⟨fun _ h => (by cases h), fun _ h => (by cases h)⟩

theorem Encoding.netxfer (h : HostReq) : Encoding.Statement (.netxfer h) :=
  fun _ => ⟨fun _ h => (by cases h), fun _ h => (by cases h)⟩

theorem Encoding.hostBadcmd (num : Nat) (h : HostReq) : Encoding.Statement (.hostBadcmd num h) :=
  fun _ => ⟨fun _ h => (by cases h), fun _ h => (by cases h)⟩

theorem Encoding.unassignedWord (aw : Bool) (w : BitVec 32) : Encoding.Statement (.unassignedWord aw w) :=
  fun _ => ⟨fun _ h => (by cases h), fun _ h => (by cases h)⟩

theorem Encoding.uetTransferReceive (port : Nat) (x : UetInput) : Encoding.Statement (.uetTransferReceive port x) :=
  fun _ => ⟨fun _ h => (by cases h), fun _ h => (by cases h)⟩

theorem Encoding.swapRestoreDone (p : Nat) (q : Nat) : Encoding.Statement (.swapRestoreDone p q) :=
  fun _ => ⟨fun _ h => (by cases h), fun _ h => (by cases h)⟩

end Sys2Proof.Laws
end

