-- ==== Sys2Proof/Laws/Vector.lean ====
section
/-! SUPPORT. Lanes (05 R145, R146): a register built from lanes has those lanes, and what the lane-wise writes of registers answer. -/

namespace Sys2Proof.Machine

/-- The number that a list of lanes makes. -/
theorem lanes_lt (w : Nat) (l : List Nat) : l.foldr (fun x r => x % 2 ^ w + 2 ^ w * r) 0 < 2 ^ (w * l.length) := by
  induction l with
  | nil => simp
  | cons x l ih =>
    have h1 : x % 2 ^ w < 2 ^ w := Nat.mod_lt _ (Nat.two_pow_pos w)
    have h2 : 2 ^ (w * (l.length + 1)) = 2 ^ w * 2 ^ (w * l.length) := by rw [Nat.mul_succ, Nat.pow_add, Nat.mul_comm]
    simp only [List.foldr_cons, List.length_cons]
    rw [h2]
    calc x % 2 ^ w + 2 ^ w * _ < 2 ^ w + 2 ^ w * _ := Nat.add_lt_add_right h1 _
      _ = 2 ^ w * (l.foldr (fun x r => x % 2 ^ w + 2 ^ w * r) 0 + 1) := by rw [Nat.mul_add, Nat.mul_one, Nat.add_comm]
      _ ≤ 2 ^ w * 2 ^ (w * l.length) := Nat.mul_le_mul_left _ ih

theorem lanes_get (w : Nat) (l : List Nat) (j : Nat) : l.foldr (fun x r => x % 2 ^ w + 2 ^ w * r) 0 / 2 ^ (w * j) % 2 ^ w = l.getD j 0 % 2 ^ w := by
  induction l generalizing j with
  | nil => simp
  | cons x l ih =>
    have h1 : x % 2 ^ w < 2 ^ w := Nat.mod_lt _ (Nat.two_pow_pos w)
    cases j with
    | zero => simp [Nat.add_mul_mod_self_left]
    | succ j =>
      have e : 2 ^ (w * (j + 1)) = 2 ^ w * 2 ^ (w * j) := by rw [Nat.mul_succ, Nat.pow_add, Nat.mul_comm]
      rw [List.foldr_cons, e, ← Nat.div_div_eq_div_mul, Nat.add_mul_div_left _ _ (Nat.two_pow_pos w), Nat.div_eq_of_lt h1, Nat.zero_add, ih j]
      simp

/-- Lane j of a register that is built from lanes. -/
theorem lane_ofLanes {w : Nat} {l : List Nat} (j : Nat) (h : w * l.length ≤ 128) : lane (ofLanes w l) w j = BitVec.ofNat w (l.getD j 0) := by
  have hl : l.foldr (fun x r => x % 2 ^ w + 2 ^ w * r) 0 < 2 ^ 128 :=
    Nat.lt_of_lt_of_le (lanes_lt w l) (Nat.pow_le_pow_right (by decide) h)
  apply BitVec.eq_of_toNat_eq
  rw [lane, BitVec.extractLsb'_toNat, ofLanes, BitVec.toNat_ofNat, Nat.mod_eq_of_lt hl, Nat.shiftRight_eq_div_pow, lanes_get, BitVec.toNat_ofNat]

theorem lane_ofLanes_range {w j : Nat} (f : Nat → Nat) (h : j < 128 / w) :
    lane (ofLanes w ((List.range (128 / w)).map f)) w j = BitVec.ofNat w (f j) := by
  rw [lane_ofLanes j (by simpa using Nat.mul_div_le 128 w)]
  simp [List.getD, h]

/-! ### Flags of lanes -/

theorem flags_foldl {α : Type} (l : List (Flagged α)) (f : Word) (b : Nat) :
    (l.foldl (fun f a => f ||| a.flags) f).getLsbD b = (f.getLsbD b || l.any fun a => a.flags.getLsbD b) := by
  induction l generalizing f with
  | nil => simp
  | cons a l ih => simp [ih, Bool.or_assoc]

theorem Flagged.all_flags {α : Type} (l : List (Flagged α)) (b : Nat) : (Flagged.all l).flags.getLsbD b = l.any fun a => a.flags.getLsbD b := by
  simp [Flagged.all, flags_foldl]

@[simp] theorem Flagged.all_val {α : Type} (l : List (Flagged α)) : (Flagged.all l).val = l.map (·.val) := rfl

/-! ### What lane-wise forms answer -/

/-- A form that writes active lanes without a flag. -/
theorem writesLanes_lanes {i : Instr} {s u : State} {d : VReg} {m : BitVec 3} {w : Nat} {f : Nat → Nat} {g : Nat → BitVec w} (h : u.live = true)
    (hu : u.me = s.me) (ha : ∀ j, u.active m j = s.active m j) (hd : u.rv d = s.rv d) (he : exec i s = .next (u.lanes d m w f))
    (hg : ∀ j, j < 128 / w → BitVec.ofNat w (f j) = g j) : WritesLanes i s u d m w g := by
  refine ⟨_, answersOver_wv h hu he rfl, fun j hj => ?_⟩
  rw [lane_ofLanes_range _ hj, ha, hd]
  split
  · exact hg j hj
  · simp

/-- A form that writes active lanes and adds their flags to FLAGS. -/
theorem writesLanesF_lanesF {i : Instr} {s u : State} {d : VReg} {m : BitVec 3} {w : Nat} {f : Nat → Flagged Nat} (h : u.live = true)
    (hu : u.me = s.me) (ha : ∀ j, u.active m j = s.active m j) (hd : u.rv d = s.rv d) (he : exec i s = .next (u.lanesF d m w f)) :
    WritesLanesF i s u d m w f := by
  refine ⟨_, _, answersOver_wvF h hu he, fun j hj => ?_, fun b => ?_⟩
  · rw [Flagged.all_val, List.map_map, lane_ofLanes_range _ hj]
    simp only [Function.comp, ha, hd]
    split
    · rfl
    · simp [Flagged.pure]
  · rw [Flagged.all_flags, List.any_map]
    refine List.any_congr rfl fun j => ?_
    simp only [Function.comp, ha]
    cases s.active m j <;> simp [Flagged.pure]

end Sys2Proof.Machine
end

