-- ==== Sys2Proof/Tests/Slice0.lean ====
section
/-! SUPPORT. Tests. Expected values are those of the spec's worked examples and tables (cited), or are worked out by hand from them. A
`witness_` theorem shows a state that meets the hypotheses of the statement that it names, and what the statement says of it. -/

namespace Sys2Proof.Tests
open Sys2Proof Sys2Proof.Machine

-- one proof at a time: a thread for each takes too much memory
set_option Elab.async false

/-- Activation 1 of partition 0, in user mode at 0x100. -/
def act : Act := { Act.zero with id := 1, prog := 1, status := 0, pc := 0x100, npc := 0x108, seq := 5 }

/-- The activation in a mode (0 user, 1 runtime, 2 system). -/
def inMode (m : Nat) (a : Act) : Act := { a with status := setMode 0 m }

/-- The activation with values in s, v, k and i registers. -/
def sr (l : List (Nat × Word)) (a : Act) : Act :=
  let r := l.foldl (fun r x => r.setS (BitVec.ofNat 6 x.1) x.2) a.regs
  { a with regs := r, latch := r }
def vr (l : List (Nat × BitVec 128)) (a : Act) : Act :=
  let r := l.foldl (fun r x => r.setV (BitVec.ofNat 5 x.1) x.2) a.regs
  { a with regs := r, latch := r }
def kr (l : List (Nat × BitVec 16)) (a : Act) : Act :=
  let r := l.foldl (fun r x => r.setK (BitVec.ofNat 3 x.1) x.2) a.regs
  { a with regs := r, latch := r }
def ir (l : List (Nat × Word)) (a : Act) : Act :=
  let r := l.foldl (fun r x => r.setI (BitVec.ofNat 2 x.1) x.2) a.regs
  { a with regs := r, latch := r }

/-- A booted package with compute die 0 and edge die 0, whose core 0 runs an activation of partition 0. -/
def pk (a : Act) (f : Core → Core := id) : State :=
  { State.reset with
    booted := true, cds := 1, eds := 1
    cores := [(0, f { Core.reset with part := some 0, acts := [(0, a)], run := some 0 })]
    parts := [(0, { Part.reset with st := 2, gran := 1 })] }

/-- The core with a trap handler at 0x2000. -/
def handled (k : Core) : Core := { k with tvec := 0x2001 }

/-- The outcome is a next state of which `p` holds. -/
def ok (o : Out) (p : State → Bool) : Bool :=
  match o with
  | .next t => p t
  | _ => false

/-- The memories that list something. -/
def coreMems (s : State) : List (Nat × Memory × Memory) := (s.cores.map fun x => (x.1, x.2.ls, x.2.shadow)).filter fun x => !(x.2.1.isEmpty && x.2.2.isEmpty)
def pads (s : State) : List (Nat × Memory) := (s.clusters.map fun x => (x.1, x.2.spad)).filter fun x => !x.2.isEmpty

/-- No memory has changed. -/
def sameMem (s t : State) : Bool := decide (t.dram = s.dram ∧ t.host = s.host ∧ coreMems t = coreMems s ∧ pads t = pads s)

/-- The instruction goes on with the activation that is given and changes nothing else. -/
def answers (i : Instr) (s : State) (a : Act) : Bool := ok (exec i s) fun t => decide (t.me = a ∧ t.sansMe = s.sansMe)

/-- The value that an instruction leaves in a scalar register, with FLAGS. -/
def sOut (i : Instr) (s : State) (d : SReg) : Option (Word × Word) :=
  match exec i s with
  | .next t => some (t.me.regs.getS d, t.me.flags)
  | _ => none

/-- The value that an instruction leaves in a vector register, with FLAGS. -/
def vOut (i : Instr) (s : State) (d : VReg) : Option (BitVec 128 × Word) :=
  match exec i s with
  | .next t => some (t.me.regs.getV d, t.me.flags)
  | _ => none

/-- The value that an instruction leaves in a mask register, with FLAGS. -/
def kOut (i : Instr) (s : State) (d : KReg) : Option (BitVec 16 × Word) :=
  match exec i s with
  | .next t => some (t.me.regs.getK d, t.me.flags)
  | _ => none

/-- The trap that an instruction takes in user mode with a handler: CAUSE and TVAL. -/
def trapOut (i : Instr) (s : State) : Option (Word × Word) :=
  match exec i s with
  | .next t => if t.me.mode = 1 then some (t.me.cause, t.me.tval) else none
  | _ => none

/-- The instruction goes on, leaves the core that is given, and changes nothing else of `u` and no memory. -/
def answersCore (i : Instr) (s u : State) (k : Core) : Bool :=
  ok (exec i s) fun t => decide (t.cc = k ∧ t.sansCC = u.sansCC) && sameMem s t

/-- The first 64 KiB of virtual memory lie at physical address 0, with every permission, in every home's TLB; DRAM holds some bytes. -/
def paged (m : Memory) (s : State) : State :=
  { s with slices := (List.range 32).map fun h => (h, { Slice.reset with tlb := [{ part := 0, level := 0, page := 0, pte := 0x1F }] }), dram := m }

/-! ### Decoding and encoding: one word per instruction, put together from the fields of its row in spec/opcode_table.json -/

theorem test_words_C0 : ∀ x ∈ ([
      (0x00000000, .nopC),
      (0x00550E4F, .bEqz 21 3663),
      (0x00503295, .bNez 16 4757),
      (0x00504584, .bLtz 16 1412),
      (0x00686EE8, .bGez 40 3816),
      (0x0056810D, .bGtz 22 269),
      (0x0068B316, .bLez 40 4886),
      (0x0093941C, .bEq 19 37 28),
      (0x00B8CCC9, .bNe 56 51 73),
      (0x0092B561, .bLt 18 45 97),
      (0x00B5518F, .bGe 53 20 15),
      (0x008A966F, .bLtn 10 37 111),
      (0x00BC6AD5, .bGen 60 26 85),
      (0x00F6952F, .j 3577135),
      (0x01326E0D, .jl 3304973),
      (0x0140F400, .jr 61),
      (0x01408001, .jlr 0 32),
      (0x01A17C00, .nestClaim 33 31),
      (0x01808C01, .nestNext 35)] : List (BitVec 32 × Instr)),
    (decodeC x.1).map (·.instr) = some x.2 ∧ encodeC false 0 x.2 = some x.1 := by decide +kernel

theorem test_words_C1 : ∀ x ∈ ([
      (0x020D4AB1, .leaS 13 18 43 1),
      (0x0203F424, .leaI 3 61 2 0),
      (0x024EC03E, .li 14 49214),
      (0x02B39132, .lis 51 37170),
      (0x02C83000, .mfc 8 12),
      (0x02C04B11, .mtc 18 49)] : List (BitVec 32 × Instr)),
    (decodeC x.1).map (·.instr) = some x.2 ∧ encodeC false 0 x.2 = some x.1 := by decide +kernel

theorem test_words_C2 : ∀ x ∈ ([
      (0x0422B358, .ldL 34 44 3 0 2 1 8),
      (0x047C038A, .stL 60 0 3 1 0 0 10),
      (0x04B8E138, .ldS 56 225 14 0),
      (0x04DEBC87, .stS 30 188 33 3),
      (0x05295357, .ldG 41 20 3 0 2 1 7),
      (0x055F1597, .stG 31 5 1 1 0 1 7),
      (0x059CE41F, .ldLQ 28 57 0 1 15),
      (0x058EE91D, .ldGQ 14 58 0 1 13),
      (0x058FA675, .ldGW4 15 41 3 1 5),
      (0x0595931E, .ldGE4 21 36 0 1 14),
      (0x05D91449, .stLQ 25 5 2 0 9),
      (0x05C78D15, .stGQ 7 35 0 1 5)] : List (BitVec 32 × Instr)),
    (decodeC x.1).map (·.instr) = some x.2 ∧ encodeC false 0 x.2 = some x.1 := by decide +kernel

theorem test_words_C3_0 : ∀ x ∈ ([
      (0x0638CB4F, .ldc 56 50 3 0 2 15),
      (0x06000010, .rocInv),
      (0x066920B0, .tileClaim 41 8 11),
      (0x0640C401, .tileFree 49),
      (0x0640D402, .tileFill 53),
      (0x06407003, .tileReady 28),
      (0x06400004, .tileDrop 0),
      (0x06648C05, .tileStat 36 35),
      (0x068040D0, .clean 16 13),
      (0x0680CC01, .upResume 51),
      (0x06EEAC00, .cpCopy 46 43),
      (0x06D30C01, .cpGather 19 3),
      (0x06DF6002, .cpScatter 31 24),
      (0x06CE69B3, .cpFill 14 26 27),
      (0x06C66C04, .cpMcast 6 27),
      (0x06C17C05, .cpWalk 1 31),
      (0x06C05406, .cpCow 0 21),
      (0x06E29C07, .cpWait 34 39),
      (0x06D36408, .cpPoll 19 25),
      (0x06EAB809, .cpCancel 42 46),
      (0x0739244C, .atomAdd 57 9 4 3 0),
      (0x073738BA, .atomSwap 55 14 3 2 1),
      (0x0712CD22, .atomCas 18 51 2 0 1),
      (0x073DAD9C, .atomAnd 61 43 1 3 0)] : List (BitVec 32 × Instr)),
    (decodeC x.1).map (·.instr) = some x.2 ∧ encodeC false 0 x.2 = some x.1 := by decide +kernel

theorem test_words_C3_1 : ∀ x ∈ ([
      (0x072F9638, .atomOr 47 37 3 2 0),
      (0x070BEAB2, .atomXor 11 58 3 0 1),
      (0x0705373A, .atomMin 5 13 3 2 1),
      (0x073CC3C4, .atomMax 60 48 4 1 0),
      (0x07761032, .redAdd 54 4 3 0 1),
      (0x0755F1B8, .redAnd 21 60 3 2 0),
      (0x07465618, .redOr 6 21 1 2 0),
      (0x0761C6B8, .redXor 33 49 3 2 0),
      (0x0770F34C, .redMin 48 60 4 3 0),
      (0x0768BFBA, .redMax 40 47 3 2 1),
      (0x0786FE60, .waitAny 6 63 38),
      (0x07E20000, .fence 4 1),
      (0x07CE2000, .fenceEng 1 3),
      (0x07E04000, .fenceMx 4 0),
      (0x07DC6000, .fenceRoc 3 2),
      (0x07D68000, .fenceFull 2 3)] : List (BitVec 32 × Instr)),
    (decodeC x.1).map (·.instr) = some x.2 ∧ encodeC false 0 x.2 = some x.1 := by decide +kernel

theorem test_words_C4_0 : ∀ x ∈ ([
      (0x08003690, .sendR 13 41),
      (0x08002661, .sendA 9 38),
      (0x080003D2, .sendAny 61),
      (0x08400000, .actEnd),
      (0x0840BC01, .actMigrate 47),
      (0x08407402, .actFail 29),
      (0x08720003, .actInfo 50),
      (0x088966A0, .barInit 9 25 42),
      (0x08A86E21, .barArrive 40 27 34),
      (0x08BC91F2, .barArriveNb 60 36 31),
      (0x08877C23, .barWait 7 31 2),
      (0x08800C04, .barFree 3),
      (0x08C01000, .regionLaunch 4),
      (0x08C079D1, .regionLaunchEarly 30 29),
      (0x08C0C402, .regionKill 49),
      (0x08D51803, .regionStat 21 6),
      (0x08C00004, .launchTrig),
      (0x09004960, .fabPf 18 22),
      (0x09360001, .fabSlot 54),
      (0x0923F402, .fabPeer 35 61),
      (0x091D8803, .fabCtr 29 34),
      (0x0901EB44, .fabWait 1 58 52),
      (0x09405AB0, .potPost 22 43),
      (0x096414E1, .potRead 36 5 14)] : List (BitVec 32 × Instr)),
    (decodeC x.1).map (·.instr) = some x.2 ∧ encodeC false 0 x.2 = some x.1 := by decide +kernel

theorem test_words_C4_1 : ∀ x ∈ ([
      (0x096E63D2, .potReadSeal 46 24 61),
      (0x09450163, .potOpen 5 22),
      (0x0940C804, .potClose 50),
      (0x0948E2E5, .potStat 8 56 46),
      (0x09403806, .potSeal 14),
      (0x09404637, .potExp 17 35),
      (0x09400C78, .potReset 3 7),
      (0x09850800, .qdOpen 5 2),
      (0x09800001, .qdDetach),
      (0x09A20002, .qdExit 34),
      (0x09BA4003, .qdStat 58 16),
      (0x09D05000, .reelOpen 16 20),
      (0x09C00C01, .reelScore 3),
      (0x09DE0002, .reelDone 30),
      (0x09CB0003, .reelSync 11),
      (0x09E8F404, .reelStat 40 61)] : List (BitVec 32 × Instr)),
    (decodeC x.1).map (·.instr) = some x.2 ∧ encodeC false 0 x.2 = some x.1 := by decide +kernel

theorem test_words_C7 : ∀ x ∈ ([
      (0x0E0025A0, .trap 602),
      (0x0E000001, .eret),
      (0x0E40B680, .leave 45 40),
      (0x0E86C720, .sysTlbinv 6 49 50),
      (0x0EA1E001, .sysMrd 33 56),
      (0x0E803D82, .sysMwr 15 24),
      (0x0E9FC203, .sysSwap 31 48 32),
      (0x0E99B804, .sysKill 25 46),
      (0x0E8024F5, .sysEvt 9 15),
      (0x0FA2BF19, .hintC 0 2277145)] : List (BitVec 32 × Instr)),
    (decodeC x.1).map (·.instr) = some x.2 ∧ encodeC false 0 x.2 = some x.1 := by decide +kernel

theorem test_words_A0_0 : ∀ x ∈ ([
      (0x00000000, .nopA),
      (0x00C253E0, .add 33 10 31),
      (0x00DA9741, .sub 45 18 58),
      (0x00B7B722, .addI32 27 54 57),
      (0x009D27E3, .subI32 14 36 63),
      (0x00ACC1C4, .addsI64 22 24 14),
      (0x008E2905, .addsN64 7 5 8),
      (0x00A4DB06, .subsI64 18 27 24),
      (0x00BD4547, .subsN64 30 40 42),
      (0x00BBAFC8, .and 29 53 62),
      (0x00E2F569, .or 49 30 43),
      (0x00FD650A, .xor 62 44 40),
      (0x00B4AACB, .andn 26 21 22),
      (0x008EFDEC, .orn 7 31 47),
      (0x00D83AAD, .xnor 44 7 21),
      (0x016F5033, .addImm 55 42 51),
      (0x01304384, .andImm 24 8 388),
      (0x011C14BC, .orImm 14 2 188),
      (0x01435F3C, .xorImm 33 43 316),
      (0x01A2E400, .shl 17 28 32),
      (0x01A92441, .shrN64 20 36 34),
      (0x01D2A242, .shr 41 20 18),
      (0x01BE0903, .rol 31 1 8),
      (0x01E9FCA4, .ror 52 63 37)] : List (BitVec 32 × Instr)),
    (decodeA x.1).map (·.instr) = some x.2 ∧ encodeA 0 x.2 = some x.1 := by decide +kernel

theorem test_words_A0_1 : ∀ x ∈ ([
      (0x01FD4DA5, .shlI32 62 41 45),
      (0x01A20166, .shrN32 17 0 11),
      (0x01AC0B67, .shrI32 22 1 27),
      (0x01F13630, .shlImm 56 38 49),
      (0x01B863B1, .shrN64Imm 28 12 29),
      (0x01D7FF32, .shrImm 43 63 57),
      (0x019DBAB3, .rolImm 14 55 21),
      (0x01DFCB54, .rorImm 47 57 26),
      (0x01FD6875, .shlI32Imm 62 45 3),
      (0x01CC7AF6, .shrN32Imm 38 15 23),
      (0x018AB997, .shrI32Imm 5 23 12),
      (0x022995E0, .mul 20 50 47),
      (0x027FB321, .mulh 63 54 25),
      (0x023D15A2, .mulhN64 30 34 45),
      (0x022C8603, .mulI32 22 16 48),
      (0x02082E04, .mla 4 5 48),
      (0x024C4025, .mulsI64 38 8 1),
      (0x02D800A0, .cmpEq 44 0 5),
      (0x02CF7721, .cmpNe 39 46 57),
      (0x028E9C42, .cmpLt 7 19 34),
      (0x029CD423, .cmpLtN64 14 26 33),
      (0x02EDD924, .cmpLe 54 59 9),
      (0x02D8A785, .cmpLeN64 44 20 60),
      (0x02C28D28, .selNez 33 17 41)] : List (BitVec 32 × Instr)),
    (decodeA x.1).map (·.instr) = some x.2 ∧ encodeA 0 x.2 = some x.1 := by decide +kernel

theorem test_words_A0_2 : ∀ x ∈ ([
      (0x029B7589, .selEqz 13 46 44),
      (0x03414F80, .bfxN64 32 41 60),
      (0x033339A1, .bfx 25 39 13),
      (0x032D9D02, .bfi 22 51 40),
      (0x036A4803, .clz 53 9),
      (0x032E8004, .ctz 23 16),
      (0x03390805, .popc 28 33),
      (0x03425806, .bswap 33 11),
      (0x037F4807, .brev 63 41),
      (0x03DA2340, .min 45 4 26),
      (0x03DCB501, .minN64 46 22 40),
      (0x03D3EF22, .max 41 61 57),
      (0x03C73BE3, .maxN64 35 39 31),
      (0x03E50804, .abs 50 33),
      (0x03A51805, .abss 18 35)] : List (BitVec 32 × Instr)),
    (decodeA x.1).map (·.instr) = some x.2 ∧ encodeA 0 x.2 = some x.1 := by decide +kernel

theorem test_words_A1 : ∀ x ∈ ([
      (0x04062880, .kand 3 5 4),
      (0x040220E1, .kor 1 4 7),
      (0x040E1802, .kxor 7 3 0),
      (0x04020043, .kandn 1 0 2),
      (0x04022004, .knot 1 4),
      (0x04016805, .kset 0 45),
      (0x040C0006, .kget 6 0),
      (0x04222807, .kpopc 17 5),
      (0x04640808, .kffs 50 1),
      (0x04A008B2, .vbcast 8 17 3 2),
      (0x04C41775, .vins 17 46 0 7 1),
      (0x04B05198, .vextI 35 2 12 1 0),
      (0x0480E7ED, .vextN 15 7 0 6 1)] : List (BitVec 32 × Instr)),
    (decodeA x.1).map (·.instr) = some x.2 ∧ encodeA 0 x.2 = some x.1 := by decide +kernel

theorem test_words_A2_0 : ∀ x ∈ ([
      (0x084242A1, .vadd 16 18 2 5 1),
      (0x086EE384, .vsub 27 23 3 4 0),
      (0x0842F848, .vaddsI 16 23 24 2 0),
      (0x08044B8C, .vaddsN 1 2 11 4 0),
      (0x08587390, .vsubsI 22 3 19 4 0),
      (0x08472574, .vsubsN 17 25 5 3 0),
      (0x080499DB, .vmul 1 4 25 6 3),
      (0x085C00FE, .vabs 23 0 7 2),
      (0x08BFF0B8, .vand 15 31 16 5 3),
      (0x08C00999, .vor 16 0 9 4 3),
      (0x08D255FA, .vxor 20 18 21 7 3),
      (0x0889968B, .vandn 2 12 22 4 1),
      (0x08ECD834, .vorn 27 6 24 1 2),
      (0x0893F425, .vxnor 4 31 20 1 0),
      (0x08EBD866, .vbsl 26 30 24 3 0),
      (0x08F660A7, .vmov 29 19 5 0),
      (0x09195C02, .vshl 6 10 28 0 2),
      (0x09394207, .vshrN 14 10 2 0 3),
      (0x092A05EA, .vshrI 10 16 5 7 2),
      (0x0948B38F, .vrol 18 5 19 4 3),
      (0x094FF630, .vror 19 31 22 1 0),
      (0x099E3683, .vcmpEq 7 17 22 4 3),
      (0x098E2DE4, .vcmpLtI 3 17 13 7 0),
      (0x098A18A8, .vcmpLtN 2 16 24 5 0)] : List (BitVec 32 × Instr)),
    (decodeA x.1).map (·.instr) = some x.2 ∧ encodeA 0 x.2 = some x.1 := by decide +kernel

theorem test_words_A2_1 : ∀ x ∈ ([
      (0x09ED7ACC, .vminI 27 11 26 6 0),
      (0x09AD34B1, .vminN 11 9 20 5 1),
      (0x09FE3BB7, .vmaxI 31 17 27 5 3),
      (0x09AC37F8, .vmaxN 11 1 23 7 0),
      (0x099D553E, .vcmpNe 7 10 21 1 2),
      (0x0A5AB3E0, .vaddF32 22 21 19 7 0),
      (0x0A20A181, .vsubF32 8 5 1 4 0),
      (0x0A4E1B1A, .vmulF32 19 16 27 0 3),
      (0x0A774A0B, .vfmaF32 29 26 10 0 1),
      (0x0A359784, .vfnmaF32 13 12 23 4 0),
      (0x0A0E96D5, .vminF32 3 20 22 6 2),
      (0x0A49DBA6, .vmaxF32 18 14 27 5 0),
      (0x0A03FC3F, .vcmpF32 0 31 28 1 3),
      (0x0A991740, .vtbl 6 8 23 2),
      (0x0ABA74C7, .vzlo 14 19 20 6 3),
      (0x0ACC17CB, .vzhi 19 0 23 6 3),
      (0x0AE60E4D, .vuzev 25 16 14 2 1),
      (0x0A956033, .vuzod 5 11 0 1 3),
      (0x0AC7E0D6, .vrev 17 31 6 2),
      (0x0ADEDF1B, .vdup 23 22 31 0 3),
      (0x0B0720E2, .vrsumInt 1 25 7 2),
      (0x0B6D0084, .vrminI 27 8 4 0),
      (0x0B070048, .vrminN 1 24 2 0),
      (0x0B3E80EF, .vrmaxI 15 20 7 3)] : List (BitVec 32 × Instr)),
    (decodeA x.1).map (·.instr) = some x.2 ∧ encodeA 0 x.2 = some x.1 := by decide +kernel

theorem test_words_A2_2 : ∀ x ∈ ([
      (0x0B4C6032, .vrmaxN 19 3 1 2),
      (0x0B01A0D5, .vrsumBf16 0 13 6),
      (0x0B4560D6, .vrsumF32 17 11 6),
      (0x0B15E01A, .vrmaxF32 5 15 0),
      (0x0B19203E, .vrminF32 6 9 1),
      (0x0BA34FC0, .vdotI8 8 26 15 6),
      (0x0B9AC101, .vdotN8 6 22 1 0),
      (0x0BFECCA2, .vdotI16 31 22 12 5),
      (0x0BFEDCC3, .vdotBf16 31 22 28 6),
      (0x0BCA3D44, .vdotE4m3 18 17 29 2),
      (0x0BCC3BE5, .vdotE5m2 19 1 27 7)] : List (BitVec 32 × Instr)),
    (decodeA x.1).map (·.instr) = some x.2 ∧ encodeA 0 x.2 = some x.1 := by decide +kernel

theorem test_words_A3_0 : ∀ x ∈ ([
      (0x0DD6CAF8, .vaddBf16 21 22 10 7 3),
      (0x0DC5BF71, .vsubBf16 17 13 31 3 2),
      (0x0DA094DA, .vmulBf16 8 4 20 6 3),
      (0x0DCEE9AB, .vfmaBf16 19 23 9 5 1),
      (0x0DC0E034, .vfnmaBf16 16 7 0 1 2),
      (0x0DCE4975, .vminBf16 19 18 9 3 2),
      (0x0D9E550E, .vmaxBf16 7 18 21 0 1),
      (0x0D83A9DF, .vcmpBf16 0 29 9 6 3),
      (0x0C2060C8, .vcvtBf16F32 8 3 6 0 1),
      (0x0C37E258, .vcvtF32Bf16 13 31 2 0 3),
      (0x0C0A65E0, .vcvtE4m3F32 2 19 7 1 0),
      (0x0C1D69C0, .vcvtE5m2F32 7 11 6 1 0),
      (0x0C73AC30, .vcvtF32E4m3 28 29 1 0 2),
      (0x0C7F1390, .vcvtF32E5m2 31 24 4 3 2),
      (0x0C5CF4D8, .vcvtI32F32 23 7 6 3),
      (0x0C257530, .vcvtN32F32 9 11 1 2),
      (0x0C3C1648, .vcvtF32I32 15 0 2 1),
      (0x0C0A57E8, .vcvtF32N32 2 18 7 1),
      (0x0C4AF910, .vcvtI16I32 18 23 0 1 2),
      (0x0C3A9A90, .vcvtI8I16 14 20 4 0 2),
      (0x0C64DC30, .vcvtI32I16 25 6 1 0 2),
      (0x0C75DEB8, .vcvtI16I8 29 14 5 0 3),
      (0x0CD16080, .vsfuExp2 20 11 4 0),
      (0x0CD740B1, .vsfuLog2 21 26 5 1)] : List (BitVec 32 × Instr)),
    (decodeA x.1).map (·.instr) = some x.2 ∧ encodeA 0 x.2 = some x.1 := by decide +kernel

theorem test_words_A3_1 : ∀ x ∈ ([
      (0x0CEF20C2, .vsfuRcp 27 25 6 0),
      (0x0CDC40A3, .vsfuRsqrt 23 2 5 0),
      (0x0C8160B4, .vsfuSqrt 0 11 5 1),
      (0x0CC04085, .vsfuSinpi 16 2 4 0),
      (0x0C8E2086, .vsfuCospi 3 17 4 0),
      (0x0CDC8047, .vsfuTanh 23 4 2 0),
      (0x0C992028, .vsfuSigm 6 9 1 0),
      (0x0D3553A0, .vaddF32S 13 10 39 2),
      (0x0D228B11, .vsubF32S 8 20 22 1),
      (0x0D4A6DB2, .vmulF32S 18 19 27 3),
      (0x0D2268B3, .vfmaF32S 8 19 17 3),
      (0x0D29DC54, .vaddI32S 10 14 56 5),
      (0x0D1D0685, .vsubI32S 7 8 13 0),
      (0x0D701066, .vmulI32S 28 0 32 6),
      (0x0D140737, .vshlN32S 5 0 14 3),
      (0x0D769838, .vshrN32S 29 20 48 3),
      (0x0D3583A9, .vshrI32S 13 12 7 2),
      (0x0D74FA2A, .vminF32S 29 7 52 2),
      (0x0D6CA53B, .vmaxF32S 27 5 10 3)] : List (BitVec 32 × Instr)),
    (decodeA x.1).map (·.instr) = some x.2 ∧ encodeA 0 x.2 = some x.1 := by decide +kernel

theorem test_words_A4 : ∀ x ∈ ([
      (0x102E8000, .mxMmaE4m3 1 3 5),
      (0x10430001, .mxMmaE5m2 2 0 6),
      (0x10088002, .mxMmxE4m3 0 2 1),
      (0x10778003, .mxMmxE5m2 3 5 7),
      (0x102E8004, .mxMmaI8 1 3 5),
      (0x102B0005, .mxMmaBf16 1 2 6),
      (0x102A0006, .mxCmmaBf16 1 2 4),
      (0x10806008, .mxProm 0 48 1),
      (0x10800001, .mxPromU 0),
      (0x110869E8, .mxLd 2 52 61),
      (0x11003989, .mxLd2 0 28 49),
      (0x110C74AA, .mxLdwQ4 3 58 21),
      (0x110C1F73, .mxLdwE4m3 3 15 46),
      (0x11080CEC, .mxLdt 2 6 29),
      (0x11C02FA8, .mxAstF32 2 23 53),
      (0x118040C1, .mxAstBf16 0 32 24),
      (0x11A01BAA, .mxAldF32 1 13 53),
      (0x11A00003, .mxAzero 1),
      (0x12000000, .mxSync),
      (0x12003401, .mxStat 26 0),
      (0x12000002, .mxDrop 0)] : List (BitVec 32 × Instr)),
    (decodeA x.1).map (·.instr) = some x.2 ∧ encodeA 0 x.2 = some x.1 := by decide +kernel

theorem test_words_A7 : ∀ x ∈ ([
      (0x1FE06928, .hintA 1 6318376)] : List (BitVec 32 × Instr)),
    (decodeA x.1).map (·.instr) = some x.2 ∧ encodeA 0 x.2 = some x.1 := by decide +kernel

/-! ### Well-formedness: each check refuses a term -/

theorem test_illformed_control : [Instr.mfc 1 0x19, .mtc 0x19 1].all (fun i => !i.wf) = true := by decide
theorem test_illformed_w4 : (Instr.ldGW4 1 63 0 0 0).wf = false := by decide
theorem test_illformed_atomics : [Instr.atomAdd 1 2 5 0 0, .atomSwap 1 2 5 0 0, .atomCas 1 2 5 0 0, .atomCas 63 2 0 0 0, .atomAnd 1 2 4 0 0,
    .atomOr 1 2 4 0 0, .atomXor 1 2 4 0 0, .atomMin 1 2 5 0 0, .atomMax 1 2 5 0 0].all (fun i => !i.wf) = true := by decide
theorem test_illformed_reductions : [Instr.redAdd 1 2 5 0 0, .redAnd 1 2 4 0 0, .redOr 1 2 4 0 0, .redXor 1 2 4 0 0, .redMin 1 2 5 0 0,
    .redMax 1 2 5 0 0].all (fun i => !i.wf) = true := by decide
theorem test_illformed_fences : [Instr.fence 5 0, .fenceEng 5 0, .fenceMx 5 0, .fenceRoc 5 0, .fenceFull 5 0].all (fun i => !i.wf) = true := by
  decide
theorem test_illformed_shifts : [Instr.shlI32Imm 1 2 32, .shrN32Imm 1 2 32, .shrI32Imm 1 2 32].all (fun i => !i.wf) = true := by decide
theorem test_illformed_lanes : [Instr.vins 1 2 8 0 1, .vextI 1 2 4 0 2, .vextN 1 2 0 0 3, .vextN 1 2 8 0 1].all (fun i => !i.wf) = true := by
  decide
theorem test_illformed_matrix : [Instr.mxMmaBf16 0 1 2, .mxMmaBf16 0 2 1, .mxCmmaBf16 0 1 2, .mxCmmaBf16 0 2 1, .mxLd2 1 2 3].all
    (fun i => !i.wf) = true := by decide
theorem test_illformed_cores : [Instr.flagsWrite 4096, .stepTrap 4096, .accessConfirm 4096 0, .lateFault 4096, .loadPerform 4096 0 false,
    .atomicReply 4096 0, .nearOwnershipGrant 4096 ⟨0, false⟩, .detectedError 4096, .watchdogExpiry 4096, .retryRestart 4096 false, .dispatch 4096,
    .preemption 4096, .priorityAgeing 4096 0, .runQueueReport 4096, .issueWaitPark 4096, .barrierArrival 4096 0, .cpStart ⟨4096, false⟩,
    .cpComplete 4096 0 false, .cpCancelStop 4096 0 0, .mxRequestComplete 4096 0, .allowanceExhausted 4096].all (fun i => !i.wf) = true := by decide
theorem test_illformed_contexts : [Instr.pageUpcall 0 4, .watchArm 0 4 0, .waitAnyTimeout 0 4, .activationWake 0 4, .mxStateCopy 0 4,
    .fabWaitTimeout 0 4, .pageUpcall 4096 0].all (fun i => !i.wf) = true := by decide
theorem test_illformed_links : [Instr.flitBoundary 288, .flitReceive 288 ⟨false, 0, 0, 0, 0, 0, 0, 0⟩,
    .nak 288 false 0, .linkRetrain 288, .linkRetrainEnd 288, .leakyBucketDecay 288,
    .laneErrorWindow 288 0 0, .laneRetrainEnd 288 0, .linkUp 288 0, .linkRestore 288].all (fun i => !i.wf) = true := by decide
theorem test_illformed_units : [Instr.pageWalk 512 0 0 false, .hotnessSample 0 32, .dramBurst 8 0, .eventRingRoom 8, .nearRecall 32 0,
    .regionComplete 32 0, .mxRequestStart 1024 0, .mxRequestStart 0 3, .tileRefill 1024 0, .tileRefill 0 256, .governorWindow 16,
    .dieAuthTimeout 24, .pstateCreate 32].all (fun i => !i.wf) = true := by decide

/-! ### Words that no table assigns (02 R43, R48): a code, a register number and an operand outside its range -/

theorem test_unassigned_c : ([
      0b0_000_000001_000101_110_0000000000000#32,  -- C 0x01 has conditions 0 to 5
      0b0_000_000111_0000000000000000000000#32,  -- C 0x07 is in no row of Table 2.7
      0b0_000_010110_100000_000001_01_0_00_0_0000#32,  -- a vector load into v32
      0b0_000_011111_101_00_0000_0000000000000#32  -- a fence of scope 5
    ] : List (BitVec 32)).all (fun w => (decodeC w).isNone) = true := by decide +kernel
theorem test_unassigned_a : ([
      0b000_000001_000001_000010_000011_01110#32,  -- A 0x01 has codes 0 to 13
      0b000_001010_00000000000000000000000#32,  -- A 0x0A is in no row of Table 2.8
      0b000_100000_01_001_010_000000_000000_101#32  -- a BF16 product of odd x registers
    ] : List (BitVec 32)).all (fun w => (decodeA w).isNone) = true := by decide +kernel

/-! ### Scalar instructions (04 Tables 4.1-4.7) -/

def scalarState : State := pk (ir [(2, 9)] (sr [(1, 0x8000000000000001), (2, 0xFFFFFFFFFFFFFFF0), (3, 0x123456789ABCDEF0), (4, 0xA45), (5, 0x7), (6, 0x8000000000000000)] act))

theorem test_sums_and_logic : ∀ x ∈ ([
      (.add 3 1 2, 0x7FFFFFFFFFFFFFF1, 0x0),
      (.sub 3 1 2, 0x8000000000000011, 0x0),
      (.addI32 3 1 2, 0xFFFFFFFFFFFFFFF1, 0x0),
      (.subI32 3 2 4, 0xFFFFFFFFFFFFF5AB, 0x0),
      (.addsI64 3 1 2, 0x8000000000000000, 0x20),
      (.addsN64 3 1 2, 0xFFFFFFFFFFFFFFFF, 0x20),
      (.subsI64 3 1 4, 0x8000000000000000, 0x20),
      (.subsN64 3 4 1, 0x0, 0x20),
      (.and 3 1 4, 0x1, 0x0),
      (.or 3 1 4, 0x8000000000000A45, 0x0),
      (.xor 3 1 4, 0x8000000000000A44, 0x0),
      (.andn 3 2 4, 0xFFFFFFFFFFFFF5B0, 0x0),
      (.orn 3 4 2, 0xA4F, 0x0),
      (.xnor 3 1 4, 0x7FFFFFFFFFFFF5BB, 0x0),
      (.addImm 3 5 0x1FF, 0x6, 0x0),
      (.andImm 3 2 0x1F3, 0xFFFFFFFFFFFFFFF0, 0x0),
      (.orImm 3 5 0x0F8, 0xFF, 0x0),
      (.xorImm 3 5 0x1FF, 0xFFFFFFFFFFFFFFF8, 0x0)] : List (Instr × Word × Word)),
    sOut x.1 scalarState 3 = some x.2 := by decide +kernel

theorem test_shifts : ∀ x ∈ ([
      (.shl 3 1 4, 0x20, 0x0),
      (.shrN64 3 1 4, 0x400000000000000, 0x0),
      (.shr 3 1 4, 0xFC00000000000000, 0x0),
      (.rol 3 1 4, 0x30, 0x0),
      (.ror 3 1 4, 0xC00000000000000, 0x0),
      (.shlI32 3 2 4, 0xFFFFFFFFFFFFFE00, 0x0),
      (.shrN32 3 2 4, 0x7FFFFFF, 0x0),
      (.shrI32 3 2 4, 0xFFFFFFFFFFFFFFFF, 0x0),
      (.shlImm 3 1 63, 0x8000000000000000, 0x0),
      (.shrN64Imm 3 1 63, 0x1, 0x0),
      (.shrImm 3 1 63, 0xFFFFFFFFFFFFFFFF, 0x0),
      (.rolImm 3 1 1, 0x3, 0x0),
      (.rorImm 3 1 1, 0xC000000000000000, 0x0),
      (.shlI32Imm 3 5 31, 0xFFFFFFFF80000000, 0x0),
      (.shrN32Imm 3 2 31, 0x1, 0x0),
      (.shrI32Imm 3 2 31, 0xFFFFFFFFFFFFFFFF, 0x0)] : List (Instr × Word × Word)),
    sOut x.1 scalarState 3 = some x.2 := by decide +kernel

theorem test_products_and_extremes : ∀ x ∈ ([
      (.mul 3 2 4, 0xFFFFFFFFFFFF5BB0, 0x0),
      (.mulh 3 2 4, 0xFFFFFFFFFFFFFFFF, 0x0),
      (.mulhN64 3 2 4, 0xA44, 0x0),
      (.mulI32 3 2 4, 0xFFFFFFFFFFFF5BB0, 0x0),
      (.mla 3 2 4, 0x123456789ABC3AA0, 0x0),
      (.mulsI64 3 1 4, 0x8000000000000000, 0x20),
      (.min 3 1 5, 0x8000000000000001, 0x0),
      (.minN64 3 1 5, 0x7, 0x0),
      (.max 3 1 5, 0x7, 0x0),
      (.maxN64 3 1 5, 0x8000000000000001, 0x0),
      (.abs 3 2, 0x10, 0x0),
      (.abss 3 6, 0x7FFFFFFFFFFFFFFF, 0x20)] : List (Instr × Word × Word)),
    sOut x.1 scalarState 3 = some x.2 := by decide +kernel

theorem test_compares_fields_constants : ∀ x ∈ ([
      (.cmpEq 3 1 1, 0x1, 0x0),
      (.cmpNe 3 1 1, 0x0, 0x0),
      (.cmpLt 3 1 5, 0x1, 0x0),
      (.cmpLtN64 3 1 5, 0x0, 0x0),
      (.cmpLe 3 5 5, 0x1, 0x0),
      (.cmpLeN64 3 1 5, 0x0, 0x0),
      (.selNez 3 1 0, 0x123456789ABCDEF0, 0x0),
      (.selEqz 3 1 0, 0x8000000000000001, 0x0),
      (.bfxN64 3 3 4, 0x6F7, 0x0),
      (.bfx 3 3 4, 0xFFFFFFFFFFFFFEF7, 0x0),
      (.bfi 3 5 4, 0x123456789ABC00F0, 0x0),
      (.clz 3 5, 0x3D, 0x0),
      (.ctz 3 2, 0x4, 0x0),
      (.popc 3 2, 0x3C, 0x0),
      (.bswap 3 3, 0xF0DEBC9A78563412, 0x0),
      (.brev 3 5, 0xE000000000000000, 0x0),
      (.leaS 3 1 5 3, 0x8000000000000039, 0x0),
      (.leaI 3 1 2 2, 0x8000000000000025, 0x0),
      (.li 3 0x8000, 0xFFFFFFFFFFFF8000, 0x0),
      (.lis 3 0x1234, 0x56789ABCDEF01234, 0x0)] : List (Instr × Word × Word)),
    sOut x.1 scalarState 3 = some x.2 := by decide +kernel

theorem test_s0_discards : sOut (.add 0 1 2) scalarState 0 = some (0, 0) := by decide +kernel
theorem witness_Scalar : scalarState.live = true := by decide +kernel
theorem witness_ScalarLogicAndShifts_imm32 : scalarState.live = true ∧ (31#6).toNat < 32 := by decide +kernel
theorem test_nops : ([Instr.nopC, .nopA, .hintC 1 7, .hintA 0 9].all fun i => answers i scalarState scalarState.me) = true := by decide +kernel

/-! ### Control (04) -/

/-- Where the next bundle is, and whether control was transferred. -/
def npcOut (i : Instr) (s : State) : Option (Nat × Bool) :=
  match exec i s with
  | .next t => some (t.me.npc, t.me.taken)
  | _ => none

-- s1 = -8, s5 = 7, s6 = 0x4000; the bundle is at 0x100, `0x1FFD` is three bundles back
def controlState : State := pk (sr [(1, -8), (5, 7), (6, 0x4000)] act) handled

theorem test_branches : ∀ x ∈ ([
      (.bEqz 0 0x1FFD, 0xE8, true), (.bEqz 5 0x1FFD, 0x108, false), (.bNez 5 2, 0x110, true), (.bNez 0 2, 0x108, false),
      (.bLtz 1 1, 0x108, true), (.bLtz 0 2, 0x108, false), (.bGez 0 2, 0x110, true), (.bGez 1 2, 0x108, false),
      (.bGtz 5 2, 0x110, true), (.bGtz 0 2, 0x108, false), (.bLez 0 2, 0x110, true), (.bLez 5 2, 0x108, false),
      (.bEq 5 5 0x7F, 0xF8, true), (.bEq 5 1 0x7F, 0x108, false), (.bNe 5 1 2, 0x110, true), (.bNe 5 5 2, 0x108, false),
      (.bLt 1 5 2, 0x110, true), (.bLt 5 1 2, 0x108, false), (.bGe 5 1 2, 0x110, true), (.bGe 1 5 2, 0x108, false),
      (.bLtn 5 1 2, 0x110, true), (.bLtn 1 5 2, 0x108, false), (.bGen 1 5 2, 0x110, true), (.bGen 5 1 2, 0x108, false),
      (.j 0x3FFFFE, 0xF0, true), (.jl 4, 0x120, true), (.jr 6, 0x4000, true), (.jlr 6 6, 0x4000, true)] : List (Instr × Nat × Bool)),
    npcOut x.1 controlState = some x.2 := by decide +kernel
theorem test_links : sOut (.jl 4) controlState 62 = some (0x108, 0) ∧ sOut (.jlr 6 6) controlState 6 = some (0x108, 0) := by decide +kernel
/-- `witness_BranchesAndJumps`: a misaligned target, with ALIGN in CAUSE (R121). -/
theorem witness_BranchesAndJumps : controlState.live = true ∧ controlState.phase ≠ .dry ∧ (controlState.rs 6).toNat % 8 = 0 ∧
    (controlState.rs 5).toNat % 8 ≠ 0 ∧ controlState.phase = .whole ∧ unconfirmed controlState.cc controlState.me.id = false ∧
    trapOut (.jr 5) controlState = some (3, 7) ∧ trapOut (.jlr 2 5) controlState = some (3, 7) := by decide +kernel

/-- 04 R141's example: `trap 7` at 0x1_4000_0100 enters the handler with CAUSE 0x10D, EPC 0x1_4000_0108 and TVAL 7; `eret` resumes there. -/
def trapState (m : Nat) : State := pk (inMode m (sr [(1, 2)] { act with pc := 0x140000100, npc := 0x140000108, epc := 0x140000108 })) fun k =>
  { k with tvec := 0x2001, sepc := 0x140000200 }
theorem test_trap_user : ok (exec (.trap 7) (trapState 0)) (fun t => decide (t.me.cause = 0x10D ∧ t.me.epc = 0x140000108 ∧ t.me.tval = 7 ∧ t.me.mode = 1 ∧
    t.me.pc = 0x2000)) = true := by decide +kernel
theorem test_trap_runtime : ok (exec (.trap 2) (trapState 1)) (fun t => decide (t.cc.scause = 0x10D ∧ t.cc.sepc = 0x140000108 ∧ t.cc.stval = 2 ∧
    t.me.mode = 1)) = true := by decide +kernel
theorem test_trap_system : ok (exec (.trap 7) (trapState 2)) (fun t => decide (t.cc.warn = 0x108 ∧ t.me = (trapState 2).me)) = true := by
  decide +kernel
theorem test_eret_runtime : ok (exec .eret (trapState 1)) (fun t => decide (t.me.npc = 0x140000108 ∧ t.me.mode = 0 ∧ t.me.taken)) = true := by
  decide +kernel
theorem test_eret_system : ok (exec .eret (trapState 2)) (fun t => decide (t.me.npc = 0x140000200 ∧ t.me.mode = 0)) = true := by decide +kernel
theorem test_eret_user : trapOut .eret (trapState 0) = some (4, 0) := by decide +kernel
theorem witness_UserTrapEntry : (trapState 0).live = true ∧ (trapState 0).mode = 0 ∧ bitAt (trapState 0).cc.tvec 0 = true := by decide +kernel
theorem witness_TrapsAndReturns : ∀ m, m < 3 → (trapState m).live = true ∧ (trapState m).phase = .whole ∧ (trapState m).mode = m ∧
    unconfirmed (trapState m).cc (trapState m).me.id = false := by decide +kernel
theorem witness_TrapsAndReturns_request : (trapState 1).mode = 1 ∧ (2 : BitVec 12) ≠ 1 := by decide +kernel

def stepState : State := pk { act with stepDue := true, pc := 0x120 } handled
theorem witness_TrapsAndReturns_step : (stepState.core 0).run = some 0 ∧ (fget (stepState.core 0).acts 0).map (·.stepDue) = some true ∧
    unconfirmed (stepState.core 0) 1 = false ∧ (fget (stepState.core 0).acts 0).map (·.mode) = some 0 ∧ bitAt (stepState.core 0).tvec 0 = true ∧
    ok (exec (.stepTrap 0) stepState) (fun t => decide (t.me.cause = 0x10D ∧ t.me.tval = 0x1000 ∧ t.me.epc = 0x120 ∧ t.me.pc = 0x2000 ∧
      t.me.stepDue = false)) = true := by decide +kernel

/-! ### Control registers (04 Table 4.10) -/

/-- Every control register holds a value of its own; s1 is all ones. -/
def cregState (m : Nat) : State :=
  { pk (inMode m (sr [(1, -1), (2, 0x1234)] { act with flags := 0x55, latchFlags := 0x55, cause := 2, epc := 3, tval := 4, allow := 12, score := 13,
                                                         nest := { Nest.zero with desc := 15, cur := 16, fin := 17 } }))
      (fun k => { k with cctl := 3, tvec := 0x2001, rscr := 6, uvec := 7, fmt := 2, warn := 0x20F, warnpc := 0x18, instret := 14, evt := 1,
                         leaveW := 0xABCD0000, scause := 22, sepc := 23, stval := 24 }) with now := 77 }

theorem test_mfc : ([(0, 3), (2, 2), (3, 3), (4, 4), (5, 0x2001), (6, 6), (7, 7), (8, 2), (9, 0x55), (0x0A, 0x20F), (0x0B, 0x18), (0x0C, 77), (0x0D, 14),
      (0x0F, 15), (0x10, 16), (0x11, 17), (0x12, 12), (0x13, 13), (0x14, 0xABCD0000), (0x15, 1), (0x16, 22), (0x17, 23), (0x18, 24)] : List (BitVec 6 × Word)).all
    (fun x => decide ((sOut (.mfc 3 x.1) (cregState 2) 3).map (·.1) = some x.2)) = true := by decide +kernel
theorem test_mtc_core : ok (exec (.mtc 0x08 1) (cregState 2)) (fun t => decide (t.cc.fmt = 3)) = true ∧
    ok (exec (.mtc 0x0A 1) (cregState 2)) (fun t => decide (t.cc.warn = 0xFF00)) = true ∧
    ok (exec (.mtc 0x0A 2) (cregState 2)) (fun t => decide (t.cc.warn = 0x120B)) = true ∧
    ok (exec (.mtc 0x05 1) (cregState 1)) (fun t => decide (t.cc.tvec = 0x01FFFFFFFFFFFFF9)) = true ∧
    ok (exec (.mtc 0x00 0) (cregState 0)) (fun t => decide (t.cc.cctl = 2)) = true := by decide +kernel
theorem test_mtc_act : ok (exec (.mtc 0x09 2) (cregState 0)) (fun t => decide (t.me.flags = 0x41)) = true ∧
    ok (exec (.mtc 0x02 1) (cregState 1)) (fun t => decide (t.me.cause = 0x3FF)) = true ∧
    ok (exec (.mtc 0x03 1) (cregState 1)) (fun t => decide (t.me.epc = 0x01FFFFFFFFFFFFF8)) = true := by decide +kernel
theorem test_mfc_refused : trapOut (.mfc 3 0x05) (cregState 0) = some (4, 5) ∧ trapOut (.mtc 0x0C 1) (cregState 0) = some (4, 0x0C) := by
  decide +kernel
theorem witness_ControlRegisters : ∀ m, m < 3 → (cregState m).live = true ∧ (cregState m).phase = .whole ∧
    flagsOut (cregState m) (cregState m).me = false ∧ claimOut (cregState m).cc (cregState m).me.id = false ∧
    unconfirmed (cregState m).cc (cregState m).me.id = false ∧ (cregState m).mode = m := by decide +kernel
theorem witness_ControlRegisters_format : (cregState 0).mode = 0 ∧ ((cregState 0).rs 2).getLsbD 0 = (cregState 0).cc.fmt.getLsbD 0 := by
  decide +kernel
theorem witness_ControlRegisterPrivilege : (cregState 0).phase = .whole ∧ unconfirmed (cregState 0).cc (cregState 0).me.id = false ∧ (cregState 0).mode = 0 ∧
    trapOut (.mfc 1 2) (cregState 0) = some (4, 2) ∧ trapOut (.mfc 1 7) (cregState 0) = some (4, 7) ∧ trapOut (.mfc 1 0x16) (cregState 0) = some (4, 0x16) ∧
    trapOut (.mtc 1 1) (cregState 0) = some (4, 1) ∧ trapOut (.mtc 0x13 1) (cregState 0) = some (4, 0x13) ∧
    trapOut (.mtc 0x0E 1) (cregState 0) = some (4, 0x0E) := by decide +kernel
theorem witness_UserFormatWrite : (cregState 0).live = true ∧ (cregState 0).mode = 0 ∧ (cregState 0).phase = .whole ∧
    unconfirmed (cregState 0).cc (cregState 0).me.id = false ∧ bitAt (cregState 0).cc.tvec 0 = true ∧
    ((cregState 0).rs 1).getLsbD 0 ≠ (cregState 0).cc.fmt.getLsbD 0 ∧ ((cregState 0).rs 2).getLsbD 0 = (cregState 0).cc.fmt.getLsbD 0 ∧
    trapOut (.mtc 8 1) (cregState 0) = some (4, 8) ∧ ok (exec (.mtc 8 2) (cregState 0)) (fun t => decide (t.cc.fmt = 0)) = true := by decide +kernel

/-- The reply of an `ld.g.w4` is out, so that flags may still come. -/
def flagState : State := pk (sr [(1, -1)] { act with flags := 0x7F }) fun k =>
  { k with accs := [{ id := 3, act := 1, seq := 4, pc := 0xF8, kind := .load .global (.w4 2 0) false, va := 64, size := 4, acq := false, rel := false,
                      hint := 0, e4 := false, dual := false, st := .performed 0, before := none }] }
def flagState2 : State := pk { act with flags := 0x7F, flagsWr := some (0x11, 0) }
theorem witness_ControlRegisters_deferred : flagState.live = true ∧ flagState.phase ≠ .dry ∧ flagsOut flagState flagState.me = true ∧
    unconfirmed flagState.cc flagState.me.id = false ∧ answers (.mtc 9 1) flagState { flagState.me with flagsWr := some (-1, 0) } = true ∧
    flagState2.me.flagsWr = some (0x11, 0) ∧ flagsOut flagState2 flagState2.me = false ∧
    answers (.flagsWrite 0) flagState2 { flagState2.me with flagsWr := none, flags := 0x6E } = true := by decide +kernel

/-! ### The nest (04 R125, R127, and the example of a 2 × 3 nest with steps 3 and 1) -/

def nestState (cur fin : Word) : State := pk (sr [(1, 0x2000), (2, 0x2004)]
  { act with nest := { desc := 0x40, cur := cur, fin := fin, p := 1, k := 1, n := 2, counts := [2, 3], steps := [3, 1] } }) handled
theorem test_nest_next : ok (exec (.nestNext 1) (nestState 4 6)) (fun t => decide (t.me.regs.getI 0 = 3 ∧ t.me.regs.getI 1 = 1 ∧ t.me.regs.getI 2 = 0 ∧
    t.me.nest.cur = 5 ∧ t.me.npc = 0x2000 ∧ t.me.taken)) = true := by decide +kernel
theorem test_nest_end : answers (.nestNext 2) (nestState 6 6) (nestState 6 6).me = true ∧ trapOut (.nestNext 2) (nestState 5 6) = some (3, 0x2004) := by
  decide +kernel
theorem witness_NestClaimsAndPoints_next : (nestState 4 6).live = true ∧ (nestState 4 6).phase ≠ .dry ∧
    claimOut (nestState 4 6).cc (nestState 4 6).me.id = false ∧ (nestState 4 6).me.nest.cur.toNat < (nestState 4 6).me.nest.fin.toNat ∧
    ((nestState 4 6).rs 1).toNat % 8 = 0 ∧ (nestState 4 6).me.nest.n ≤ 4 ∧ (nestState 6 6).me.nest.fin.toNat ≤ (nestState 6 6).me.nest.cur.toNat := by
  decide +kernel

/-! ### Lanes (05), of width 16 unless the form has its own; k1 makes lanes 1, 2, 4, 5 and 7 active -/

def laneState : State :=
  pk (kr [(1, 0x00B6)] (vr [(1, 0x555500FF00101234FFFF000180007FFF), (2, 0xAAAA80010014111100020003FFFF0001), (3, 0x88887777666655554444333322221111)] (sr [(1, 0x80000005)] act)))

theorem test_lanes_arith : ∀ x ∈ ([
      (.vadd 3 1 2 1 1, 0xFFFF777700242345444400047FFF1111, 0x00),
      (.vsub 3 1 2 1 1, 0xAAAB7777FFFC01234444FFFE80011111, 0x00),
      (.vmul 3 1 2 1 1, 0x1C7277770140A9744444000380001111, 0x00),
      (.vaddsI 3 1 2 1 1, 0xFFFF7777002423454444000480001111, 0x20),
      (.vaddsN 3 1 2 1 1, 0xFFFF77770024234544440004FFFF1111, 0x20),
      (.vsubsI 3 1 2 1 1, 0x7FFF7777FFFC01234444FFFE80011111, 0x20),
      (.vsubsN 3 1 2 1 1, 0x00007777000001234444000000001111, 0x20),
      (.vabs 3 1 1 1, 0x55557777001012344444000180001111, 0x00),
      (.vand 3 1 2 1 1, 0x00007777001010104444000180001111, 0x00),
      (.vor 3 1 2 1 1, 0xFFFF77770014133544440003FFFF1111, 0x00),
      (.vxor 3 1 2 1 1, 0xFFFF777700040325444400027FFF1111, 0x00),
      (.vandn 3 1 2 1 1, 0x55557777000002244444000000001111, 0x00),
      (.vorn 3 1 2 1 1, 0x55557777FFFBFEFE4444FFFD80001111, 0x00),
      (.vxnor 3 1 2 1 1, 0x00007777FFFBFCDA4444FFFD80001111, 0x00),
      (.vbsl 3 1 2 1 1, 0x222277770010101444440001DDDD1111, 0x00),
      (.vmov 3 1 1 1, 0x55557777001012344444000180001111, 0x00)] : List (Instr × BitVec 128 × Word)), vOut x.1 laneState 3 = some x.2 := by
  decide +kernel

theorem test_lanes_shift : ∀ x ∈ ([
      (.vshl 3 1 2 1 1, 0x54007777010024684444000800001111, 0x00),
      (.vshrN 3 1 2 1 1, 0x001577770001091A4444000000011111, 0x00),
      (.vshrI 3 1 2 1 1, 0x001577770001091A44440000FFFF1111, 0x00),
      (.vrol 3 1 2 1 1, 0x55557777010024684444000840001111, 0x00),
      (.vror 3 1 2 1 1, 0x555577770001091A4444200000011111, 0x00),
      (.vminI 3 1 2 1 1, 0xAAAA7777001011114444000180001111, 0x00),
      (.vminN 3 1 2 1 1, 0x55557777001011114444000180001111, 0x00),
      (.vmaxI 3 1 2 1 1, 0x555577770014123444440003FFFF1111, 0x00),
      (.vmaxN 3 1 2 1 1, 0xAAAA77770014123444440003FFFF1111, 0x00)] : List (Instr × BitVec 128 × Word)), vOut x.1 laneState 3 = some x.2 := by
  decide +kernel

theorem test_lanes_scalar : ∀ x ∈ ([
      (.vaddI32S 3 1 1 1, 0x88887777801012397FFF000622221111, 0x00),
      (.vsubI32S 3 1 1 1, 0x888877778010122F7FFEFFFC22221111, 0x00),
      (.vmulI32S 3 1 1 1, 0x8888777700505B047FFB000522221111, 0x00),
      (.vshlN32S 3 1 1 1, 0x8888777702024680FFE0002022221111, 0x00),
      (.vshrN32S 3 1 1 1, 0x888877770000809107FFF80022221111, 0x00),
      (.vshrI32S 3 1 1 1, 0x8888777700008091FFFFF80022221111, 0x00)] : List (Instr × BitVec 128 × Word)), vOut x.1 laneState 3 = some x.2 := by
  decide +kernel

theorem test_lanes_permute : ∀ x ∈ ([
      (.vzlo 3 1 2 1 1, 0x00027777000300014444800000011111, 0x00),
      (.vzhi 3 1 2 1 1, 0xAAAA7777800100FF4444001011111111, 0x00),
      (.vuzev 3 1 2 1 1, 0x80017777000300014444123400011111, 0x00),
      (.vuzod 3 1 2 1 1, 0xAAAA77770002FFFF44440010FFFF1111, 0x00),
      (.vrev 3 1 1 1, 0x7FFF77770001FFFF4444001000FF1111, 0x00),
      (.vdup 3 1 2 1 1, 0x80007777800080004444800080001111, 0x00),
      (.vbcast 3 1 1 1, 0x00057777000500054444000500051111, 0x00),
      (.vtbl 3 1 2 1, 0x8888777766665555FF44FF802200FF11, 0x00),
      (.vins 3 1 6 0 1, 0x88880005666655554444333322221111, 0x00)] : List (Instr × BitVec 128 × Word)), vOut x.1 laneState 3 = some x.2 := by
  decide +kernel

theorem test_lanes_reduce : ∀ x ∈ ([
      (.vrsumInt 3 1 1 1, 0x0000000000000000000000000000E79A, 0x00),
      (.vrminI 3 1 1 1, 0x00000000000000000000000000008000, 0x00),
      (.vrminN 3 1 1 1, 0x00000000000000000000000000000001, 0x00),
      (.vrmaxI 3 1 1 1, 0x00000000000000000000000000005555, 0x00),
      (.vrmaxN 3 1 1 1, 0x00000000000000000000000000008000, 0x00),
      (.vdotI8 3 1 2 1, 0x8888777766665B3B4444333422221111, 0x00),
      (.vdotN8 3 1 2 1, 0x8888777766665B3B4444353422221111, 0x00),
      (.vdotI16 3 1 2 1, 0x88887777679D00094444333422221111, 0x00),
      (.vcvtI16I32 3 1 0 1 0, 0x7FFF7FFF800080004444333322221111, 0x20),
      (.vcvtI8I16 3 1 0 0 0, 0x00000000000000007F7F107FFF01807F, 0x20),
      (.vcvtI32I16 3 1 0 1 0, 0x00005555000000FF0000001000001234, 0x00),
      (.vcvtI16I8 3 1 0 0 0, 0xFFFFFFFF00000001FF800000007FFFFF, 0x00)] : List (Instr × BitVec 128 × Word)), vOut x.1 laneState 3 = some x.2 := by
  decide +kernel

theorem test_lanes_compare : ∀ x ∈ ([
      (.vcmpEq 2 1 1 1 1, 0x00B6, 0),
      (.vcmpNe 2 1 2 1 1, 0x00B6, 0),
      (.vcmpLtI 2 1 2 1 1, 0x0026, 0),
      (.vcmpLtN 2 1 2 1 1, 0x00A6, 0)] : List (Instr × BitVec 16 × Word)), kOut x.1 laneState 2 = some x.2 := by decide +kernel

theorem test_lanes_extract : sOut (.vextI 2 1 3 0 1) laneState 2 = some (-1, 0) ∧ sOut (.vextN 2 1 3 0 1) laneState 2 = some (0xFFFF, 0) := by
  decide +kernel
def maskState : State := pk (kr [(1, 0x0F3C), (2, 0x5555), (3, 0)] (sr [(1, 0x123456789)] act))
theorem test_masks : kOut (.kand 4 1 2) maskState 4 = some (0x514, 0) ∧ kOut (.kor 4 1 2) maskState 4 = some (0x5F7D, 0) ∧
    kOut (.kxor 4 1 2) maskState 4 = some (0x5A69, 0) ∧ kOut (.kandn 4 1 2) maskState 4 = some (0xA28, 0) ∧
    kOut (.knot 4 1) maskState 4 = some (0xF0C3, 0) ∧ kOut (.kset 4 1) maskState 4 = some (0x6789, 0) ∧ sOut (.kget 4 1) maskState 4 = some (0x0F3C, 0) ∧
    sOut (.kpopc 4 1) maskState 4 = some (8, 0) ∧ sOut (.kffs 4 1) maskState 4 = some (2, 0) ∧ sOut (.kffs 4 3) maskState 4 = some (16, 0) := by
  decide +kernel
/-- A form that takes no mask acts on every lane, and warns (R147). -/
theorem test_mask_warns : ok (exec (.vins 3 1 6 1 1) laneState) (fun t => decide (t.cc.warn = 0x108 ∧ lane (t.me.regs.getV 3) 16 6 = 5)) = true := by
  decide +kernel
theorem witness_Vector : laneState.live = true ∧ maskState.live = true ∧ (6#5).toNat < 128 / 16 := by decide +kernel

-- FP32: s1 = 2.0, k1 makes lanes 1 and 2 active, k2 lanes 0 and 1
def floatState : State :=
  pk (kr [(1, 6), (2, 3)] (vr [(1, 0x000000017F7FFFFFC02000003FC00000), (2, 0x3F0000007F7FFFFF404000003E800000), (3, 0x3F8000003F800000BF80000041200000)] (sr [(1, 0x40000000)] act)))

theorem test_floats : ∀ x ∈ ([
      (.vaddF32 3 1 2 0 0, 0x3F0000007F8000003F0000003FE00000, 0x14),
      (.vsubF32 3 1 2 0 1, 0xBEFFFFFF00000000C0B000003FA00000, 0x10),
      (.vmulF32 3 1 2 0 0, 0x000000007F800000C0F000003EC00000, 0x1C),
      (.vmulF32 3 1 2 0 3, 0x000000017F800000C0F000003EC00000, 0x1C),
      (.vfmaF32 3 1 2 1 0, 0x3F8000007F800000C108000041200000, 0x14),
      (.vfnmaF32 3 1 2 1 0, 0x3F800000FF80000040D0000041200000, 0x14),
      (.vminF32 3 1 2 0 0, 0x000000017F7FFFFFC02000003E800000, 0x00),
      (.vmaxF32 3 1 2 0 0, 0x3F0000007F7FFFFF404000003FC00000, 0x00),
      (.vaddF32S 3 1 1 0, 0x400000007F7FFFFFBF00000040600000, 0x10),
      (.vsubF32S 3 1 1 0, 0xC00000007F7FFFFFC0900000BF000000, 0x10),
      (.vmulF32S 3 1 1 0, 0x000000027F800000C0A0000040400000, 0x14),
      (.vfmaF32S 3 1 1 0, 0x3F8000007F800000C0C0000041500000, 0x14),
      (.vminF32S 3 1 1 0, 0x0000000140000000C02000003FC00000, 0x00),
      (.vmaxF32S 3 1 1 0, 0x400000007F7FFFFF4000000040000000, 0x00),
      (.vcvtI32F32 3 1 0 0, 0x000000007FFFFFFFFFFFFFFE00000002, 0x30),
      (.vcvtN32F32 3 2 0 0, 0x00000000FFFFFFFF0000000300000000, 0x30),
      (.vrsumF32 3 2 2, 0x00000000000000000000000040500000, 0x00),
      (.vrmaxF32 3 1 2, 0x0000000000000000000000003FC00000, 0x00),
      (.vrminF32 3 1 2, 0x000000000000000000000000C0200000, 0x00)] : List (Instr × BitVec 128 × Word)), vOut x.1 floatState 3 = some x.2 := by
  decide +kernel

theorem test_float_compare : kOut (.vcmpF32 2 1 2 0 0) floatState 2 = some (4, 0) ∧ kOut (.vcmpF32 2 1 2 0 1) floatState 2 = some (0xA, 0) := by decide +kernel

def bfState : State :=
  pk (vr [(1, 0x3F803F803F803F8040403F00C0003F80), (2, 0x408040003F803B80BF803E8040804000), (3, 0x3F803F803F803F803F803F803F803F80)] act)

theorem test_bfloats : ∀ x ∈ ([
      (.vaddBf16 3 1 2 0 0, 0x40A0404040003F8040003F4040004040, 0x10),
      (.vaddBf16 3 1 2 0 3, 0x40A0404040003F8140003F4040004040, 0x10),
      (.vsubBf16 3 1 2 0 0, 0xC040BF8000003F7F40803E80C0C0BF80, 0x00),
      (.vmulBf16 3 1 2 0 0, 0x408040003F803B80C0403E00C1004000, 0x00),
      (.vfmaBf16 3 1 2 0 1, 0x40A0404040003F80C0003F90C0E04040, 0x10),
      (.vfnmaBf16 3 1 2 0 0, 0xC040BF8000003F7F40803F604110BF80, 0x00),
      (.vminBf16 3 1 2 0 0, 0x3F803F803F803B80BF803E80C0003F80, 0x00),
      (.vmaxBf16 3 1 2 0 0, 0x408040003F803F8040403F0040804000, 0x00),
      (.vcvtF32Bf16 3 2 0 0 0, 0xBF8000003E8000004080000040000000, 0x00),
      (.vrsumBf16 3 1 0, 0x00000000000000000000000040D00000, 0x00)] : List (Instr × BitVec 128 × Word)), vOut x.1 bfState 3 = some x.2 := by
  decide +kernel

theorem test_bfloat_compare : kOut (.vcmpBf16 2 1 2 0 2) bfState 2 = some (0xE3, 0) ∧ kOut (.vcmpBf16 2 1 2 0 3) bfState 2 = some (0, 0) := by decide +kernel

-- v1 and v2 as BF16; v4 1.0 and v6 1.0 as E5M2 and E4M3, v5 2.0 in both; v3 1.0 as FP32
def dotState : State :=
  pk (vr [(1, 0x3F803F803F803F8040403F00C0003F80), (2, 0x408040003F803B80BF803E8040804000), (3, 0x3F8000003F8000003F8000003F800000),
    (4, 0x3C3C3C3C3C3C3C3C3C3C3C3C3C3C3C3C), (5, 0x40404040404040404040404040404040), (6, 0x38383838383838383838383838383838)] act)

theorem test_float_dots : ∀ x ∈ ([
      (.vdotBf16 3 1 2 0, 0x40E0000040004000BFF00000C0A00000, 0x00),
      (.vdotE5m2 3 4 5 0, 0x41100000411000004110000041100000, 0x00),
      (.vdotE4m3 3 6 5 0, 0x41100000411000004110000041100000, 0x00)] : List (Instr × BitVec 128 × Word)), vOut x.1 dotState 3 = some x.2 := by
  decide +kernel

/-- Table 3.4 and the ties of 03 R82's example (0x3F80_8000 and 0x3F81_8000); e4m3 as FMT.E4 = 0 reads it. -/
def convState : State :=
  pk (vr [(1, 0xC02000003F8000003F8180003F808000), (2, 0x43FA000043800000C02000003F800000),
    (3, 0x00010001000100010001000100010001), (4, 0x0000000000000000000000007F78C238), (5, 0x0000000000000000000000007C5CC13C),
    (6, 0x7FFFFFFF01000001FFFFFFFF00000001)] act)

theorem test_float_conversions : ∀ x ∈ ([
      (.vcvtBf16F32 3 1 0 0 0, 0x0000000000000000C0203F803F823F80, 0x10),
      (.vcvtBf16F32 3 1 0 1 1, 0xC0203F803F813F800001000100010001, 0x10),
      (.vcvtE4m3F32 3 2 0 0 0, 0x0000000000000000000000007E78C238, 0x34),
      (.vcvtE5m2F32 3 2 0 0 0, 0x000000000000000000000000605CC13C, 0x10),
      (.vcvtF32E4m3 3 4 0 0 0, 0x7FC0000043800000C02000003F800000, 0x00),
      (.vcvtF32E5m2 3 5 0 0 0, 0x7F80000043800000C02000003F800000, 0x00),
      (.vcvtF32I32 3 6 0 0, 0x4F0000004B800000BF8000003F800000, 0x10),
      (.vcvtF32N32 3 6 0 0, 0x4F0000004B8000004F8000003F800000, 0x10)] : List (Instr × BitVec 128 × Word)), vOut x.1 convState 3 = some x.2 := by
  decide +kernel

/-- Exact points of Table 5.13, in lane 0. -/
theorem test_sfu : ∀ x ∈ ([
      (.vsfuExp2 3 1 1 0, 0x40400000, 0x41000000),
      (.vsfuLog2 3 1 1 0, 0x41000000, 0x40400000),
      (.vsfuRcp 3 1 1 0, 0x40000000, 0x3F000000),
      (.vsfuRsqrt 3 1 1 0, 0x40800000, 0x3F000000),
      (.vsfuSqrt 3 1 1 0, 0x40800000, 0x40000000),
      (.vsfuSinpi 3 1 1 0, 0x3F000000, 0x3F800000),
      (.vsfuCospi 3 1 1 0, 0x3F800000, 0xBF800000),
      (.vsfuTanh 3 1 1 0, 0xFF800000, 0xBF800000),
      (.vsfuSigm 3 1 1 0, 0x00000000, 0x3F000000)] : List (Instr × BitVec 128 × BitVec 128)),
    vOut x.1 (pk (kr [(1, 1)] (vr [(1, x.2.1)] act))) 3 = some (x.2.2, 0) := by decide +kernel

/-! ### Loads, stores and tiles (07) -/

-- extent of 256 bytes at 0x1000 of the local store; s1 = 0x40, s2 = 0x1_0000, s3 a value, s5 = 0x44; region at 0x5000
def memAct : Act := { sr [(1, 0x40), (2, 0x10000), (3, 0x1122334455667788), (4, 5), (5, 0x44), (6, 0x1000), (7, 0x4), (8, 0x0200000000000000), (9, 0x10000), (10, 0x20000)]
  (vr [(1, 0x100F0E0D0C0B0A090807060504030201)] act) with extBase := 0x1000, extLen := 256, rp := 0x5000 }
def tileOf (st : Nat) : Tile := { owner := some ⟨0, 0x5000⟩, ent := none, st := st, base := 2, gran := 3, refill := false }
def memState (tile : Nat := 2) (a : Act := memAct) : State :=
  { pk a handled with clusters := [(0, { Cluster.reset with tiles := [(5, tileOf tile)] })] }

/-- The load leaves a request of a kind, with address, size, acquire and hint; these registers wait, and WARN is this. -/
def loads (i : Instr) (kind : AccKind) (va size : Nat) (acq : Bool) (hint : Nat) (pend : List Reg) (warn : Word) : Bool :=
  ok (exec i memState) fun t => match t.cc.accs with
    | [x] => decide (x.kind = kind ∧ x.va = va ∧ x.size = size ∧ x.acq = acq ∧ x.hint = hint ∧ t.me.pend = pend ∧ t.cc.warn = warn)
    | _ => false

theorem test_loads : [
      loads (.ldL 9 1 2 1 2 0 0xE) (.load .ls (.s 9 true) false) 0x1038 4 false 2 [.s 9] 0,
      loads (.ldL 9 1 3 1 1 1 1) (.load .ls (.s 9 false) false) 0x1048 8 true 2 [.s 9] 0x108,
      loads (.ldLQ 4 1 2 0 1) (.load .ls (.v 4) false) 0x1050 16 false 2 [.v 4] 0,
      loads (.ldG 9 2 1 1 3 1 0x8) (.load .global (.s 9 true) false) 0xFFF0 2 true 3 [.s 9] 0,
      loads (.ldG 0 2 3 0 0 0 0) (.load .global (.s 0 false) false) 0x10000 8 false 0 [] 0,
      loads (.ldGQ 4 2 1 1 2) (.load .global (.v 4) false) 0x10020 16 true 1 [.v 4] 0,
      loads (.ldGW4 4 9 1 0 1) (.load .global (.w4 4 0x20000) false) 0x10004 4 false 1 [.v 4] 0,
      loads (.ldGE4 4 2 1 0 1) (.load .global (.e4 4) false) 0x10008 8 false 1 [.v 4] 0,
      loads (.ldc 9 2 0 0 1 0) (.load .global (.s 9 false) true) 0x10000 1 false 1 [.s 9] 0,
      loads (.ldS 9 5 1 3) (.load .spad (.s 9 false) false) 0x1040 8 false 2 [.s 9] 0].all id = true := by
  decide +kernel

/-- `witness_LoadsIssue`: the form of each clause meets its hypotheses and leaves the core that the statement gives. -/
theorem witness_LoadsIssue :
    let s := memState
    s.live = true ∧ s.phase ≠ .dry ∧ lsPlace s.me 0x44 4 = some 0x1044 ∧ redCovers s (winVa 0 0x1044) 4 = false ∧ lsPlace s.me 0x50 16 = some 0x1050 ∧
    vaRefused 0x10000 = false ∧ redCovers s 0x10000 8 = false ∧ isQuad 0x10000 = false ∧ vaRefused (s.rs 3) = true ∧
    tileOwned s 5 = true ∧ (s.rs 1).toNat < 2048 * (tileView s 5).gran ∧ (tileView s 5).st = 2 ∧ (tileView s 5).refill = false ∧
    answersCore (.ldL 9 1 2 0 1 1 1) s ((s.qualIf true).asked false 0x1044)
      (((s.qualIf true).cc.withRequest ((s.qualIf true).request (.load .ls (.s 9 false) false) 0x1044 4 true false 2 none)).awaiting (.s 9)) = true ∧
    answersCore (.ldG 9 2 3 1 1 1 0) s ((s.qualIf true).asked true 0x10000)
      (((s.qualIf true).cc.withRequest ((s.qualIf true).request (.load .global (.s 9 false) false) 0x10000 8 true false 1 none)).awaiting (.s 9)) = true ∧
    answersCore (.ldS 9 5 1 3) s (s.asked false 0x1040)
      ((s.cc.withRequest (s.request (.load .spad (.s 9 false) false) 0x1040 8 false false 2 none)).awaiting (.s 9)) = true := by decide +kernel

theorem test_stores : ∀ x ∈ ([
      (.stL 3 1 1 0 2 0 0xF, .store .ls 0x103E [0x88, 0x77] false 2), (.stLQ 1 1 2 0 0, .store .ls 0x1040 (leBytes 16 0x100F0E0D0C0B0A090807060504030201) false 2),
      (.stG 3 2 3 0 1 1 1, .store .global 0x10008 [0x88, 0x77, 0x66, 0x55, 0x44, 0x33, 0x22, 0x11] true 1),
      (.stGQ 1 2 0 0 0xF, .store .global 0xFFF0 (leBytes 16 0x100F0E0D0C0B0A090807060504030201) false 0),
      (.stS 3 5 1 0, .store .spad 0x1040 [0x88] false 2)] : List (Instr × RbOp)),
    ok (exec x.1 memState) (fun t => decide (t.cc.rb = [{ seq := 5, size := (if x.1 = .stLQ 1 1 2 0 0 ∨ x.1 = .stGQ 1 2 0 0 0xF then 16 else 8), op := x.2, pc := 0x100 }]) &&
      sameMem memState t) = true := by decide +kernel

theorem witness_StoresBuffer :
    let s := memState
    (BitVec.ofInt 64 (0x40 - 1 * 2) : Word).toNat % 2 = 0 ∧ lsPlace s.me 0x3E 2 = some 0x103E ∧ lsPlace s.me 0x40 16 = some 0x1040 ∧
    ((s.cc.rb.map (·.size)).sum + 16 ≤ 16384) ∧ tileOwned s 5 = true ∧ (tileView s 5).st = 2 ∧ (tileView (memState 1) 5).st = 1 ∧ vaRefused 0x10008 = false ∧
    answersCore (.stG 3 2 3 1 1 1 1) s ((s.qualIf true).asked true 0x10008)
      (((s.qualIf true).cc.buffering act 8 (.store .global 0x10008 (leBytes 8 0x1122334455667788) true 1)).withRequest
        ((s.qualIf true).request (.probe false none) 0x10008 8 false false 1 none)) = true ∧
    answersCore (.stS 3 5 1 0) (memState 1) (memState 1) ((memState 1).cc.buffering act 1 (.store .spad 0x1040 [0x88] false 2)) = true := by decide +kernel

/-- `witness_MemoryTrapsAtIssue`: each cause, with its TVAL. -/
theorem witness_MemoryTrapsAtIssue : memState.phase = .whole ∧ unconfirmed memState.cc memState.me.id = false ∧
    (∀ x ∈ ([(.ldL 9 5 3 0 2 0 0, 3, 0x44), (.stG 3 5 3 0 2 0 0, 3, 0x44), (.ldc 9 5 3 0 0 0, 3, 0x44), (.ldGQ 4 5 0 0 0, 3, 0x44), (.stLQ 4 5 2 0 0, 3, 0x44),
      (.ldL 9 6 2 0 2 0 0, 4, 0x1000), (.stL 3 6 2 0 2 0 0, 4, 0x1000), (.ldG 9 3 0 0 0 0 0, 4, 0x1122334455667788), (.stG 9 3 0 0 0 0 0, 4, 0x1122334455667788),
      (.ldS 9 6 1 0, 10, 6), (.stS 9 6 1 0, 10, 6), (.atomAdd 9 5 2 0 0, 3, 0x44), (.redMax 9 5 3 0 0, 3, 0x44)] : List (Instr × Word × Word)),
      trapOut x.1 memState = some x.2) := by decide +kernel
theorem witness_MemoryTrapsAtIssue_places : lsPlace memState.me 0x1000 4 = none ∧ (0x1000 : Word).toNat % 4 = 0 ∧ vaRefused 0x1122334455667788 = true ∧
    tileOwned memState 6 = false := by decide +kernel

/-- A local load waits, with a buffered store of one of its bytes. -/
def loadState (spad : Bool) : State :=
  { pk { memAct with pend := [.s 9] } (fun k => { k with
      ls := [(0x1040, 0x11), (0x1041, 0x92)]
      rb := [{ seq := 4, size := 8, op := .store (if spad then .spad else .ls) 0x1040 [0xAA] false 2 }]
      accs := [{ id := 7, act := 1, seq := 5, pc := 0x100, kind := .load (if spad then .spad else .ls) (.s 9 true) false, va := 0x1040, size := 2,
                 acq := false, rel := false, hint := 2, e4 := false, dual := false, st := .pending, before := none }] }) with
    clusters := [(0, { Cluster.reset with spad := [(0x1041, 0x72)] })] }
theorem witness_LocalLoadsPerformed : ∀ spad : Bool, (loadState spad).live = true ∧ (loadState spad).flights = [] ∧ (loadState spad).me.prog = 1 ∧ (loadState spad).me.pend = [.s 9] ∧
    (loadState spad).cc.acts.map (·.2.id) = [(loadState spad).me.id] ∧ (∀ e ∈ (loadState spad).cc.rb, e.seq < 5) ∧
    ok (exec (.loadPerform 0 7 false) (loadState spad)) (fun t => decide (t.me = { (loadState spad).withS 9 (if spad then 0x72AA else 0xFFFFFFFFFFFF92AA) with
      pend := [] } ∧ t.cc.accs = []) && sameMem (loadState spad) t) = true := by decide +kernel

/-- One half of a 16-byte load is read; a buffered store covers a byte of the other. -/
def vectorState (upper : Bool) : State :=
  pk { memAct with pend := [.v 4] } fun k => { k with
    ls := [(0x1040, 0x11), (0x1047, 0x22), (0x1048, 0x33), (0x104F, 0x44)]
    rb := [{ seq := 4, size := 8, op := .store .ls 0x1041 [0xAA] false 2 }, { seq := 4, size := 8, op := .store .ls 0x1049 [0xBB] false 2 }]
    accs := [{ id := 7, act := 1, seq := 5, pc := 0x100, kind := .load .ls (.v 4) false, va := 0x1040, size := 16, acq := false, rel := false,
               hint := 2, e4 := false, dual := false, st := .pending, before := none, got := [(if upper then 0 else 1, [1, 2, 3, 4, 5, 6, 7, 8])] }] }
/-- 07 R206, 11 R291: both halves are in the register (by hand). -/
theorem witness_LocalLoadsPerformed_halves : ∀ upper : Bool, (vectorState upper).live = true ∧ (vectorState upper).flights = [] ∧
    (vectorState upper).me.pend = [.v 4] ∧ (vectorState upper).cc.acts.map (·.2.id) = [(vectorState upper).me.id] ∧
    (∀ e ∈ (vectorState upper).cc.rb, e.seq < 5) ∧
    ok (exec (.loadPerform 0 7 false) (vectorState upper)) (fun t => decide (t.cc.accs = [] ∧ t.me = { (vectorState upper).withV 4
      (if upper then 0x4400000000_00BB33_0807060504030201 else 0x0807060504030201_220000000000AA11) with pend := [] }) &&
      sameMem (vectorState upper) t) = true := by decide +kernel

/-- Two buffered stores of the local store; the second covers a byte of the first. -/
def drainState : State := pk memAct fun k => { k with
  ls := [(0x1041, 0x33)]
  rb := [{ seq := 3, size := 8, op := .store .ls 0x1040 [1, 2] false 2 }, { seq := 4, size := 8, op := .store .ls 0x1041 [0, 5] false 2 }] }
theorem witness_LocalStoresDrainAndLand : drainState.live = true ∧ drainState.flights = [] ∧ drainState.cc.watches = [] ∧ drainState.cc.ls.wf = true ∧
    drainState.cc.rb = ([(3, 0x1040, [1, 2]), (4, 0x1041, [0, 5])] : List (Nat × Nat × List Byte)).map (fun e =>
      { seq := e.1, size := 8, op := .store .ls e.2.1 e.2.2 false 2 }) ∧
    (drain drainState 0).cc.rb = [] ∧ (drain drainState 0).cc.ls = [(0x1040, 1), (0x1042, 5)] ∧ (drain drainState 0).me = drainState.me := by decide +kernel
def landState : State := { pk memAct with flights := [{ id := 2, core := 0, part := 0, act := 1, rp := 0x5000, ent := none, op := .store .ls 0x1040 [9, 0] true 2,
                                                         leaveOk := false, sent := none }] }
theorem witness_LocalStoresDrainAndLand_lands : landState.flights.length = 1 ∧ (landState.core 0).watches = [] ∧ (landState.core 0).ls.wf = true ∧
    ok (exec (.storePerform 2) landState) (fun t => decide (t.flights = [] ∧ t.cc.ls = [(0x1040, 9)])) = true := by decide +kernel

/-! ### Tiles, cleans, fibres (07) -/

def claimCluster : Cluster :=
  { Cluster.reset with tiles := [(5, { owner := some ⟨0, 0x5000⟩, ent := none, st := 2, base := 2, gran := 3, refill := false })] }
-- the tile budget of the region at 0x5000 is `budget`; entry 5 holds granules 2 to 4
def claimState (n k : Word) (budget : Byte := 4) : State :=
  paged [(0x5016, budget)] { pk (sr [(1, n), (2, k)] { act with rp := 0x5000 }) handled with
    clusters := [(0, { claimCluster with spad := [(0x2800, 7), (0x9000, 8)] })] }
theorem test_tile_claim_status : sOut (.tileClaim 3 1 2) (claimState 7 0) 3 = some (4, 0) ∧ sOut (.tileClaim 3 1 2) (claimState 7 1025) 3 = some (4, 0) ∧
    sOut (.tileClaim 3 1 2) (claimState 5 3) 3 = some (1, 0) ∧ sOut (.tileClaim 3 1 2) (claimState 7 3 1) 3 = some (2, 0) ∧
    sOut (.tileClaim 3 1 2) (claimState 7 1020) 3 = some (3, 0) ∧ sOut (.tileClaim 3 1 2) (claimState 7 1019) 3 = some (0, 0) := by decide +kernel
theorem witness_TileForms_claim : (claimState 7 3).live = true ∧ (tileView (claimState 7 3) 7).refill = false ∧ (claimState 7 3).phase ≠ .dry ∧ ((claimState 7 3).cluster 0).spad.wf = true ∧
    unconfirmed (claimState 7 3).cc (claimState 7 3).me.id = false ∧ fieldOf (hwPeek (claimState 7 3) 0 0x5010) 48 9 = 4 ∧
    ok (exec (.tileClaim 3 1 2) (claimState 7 3)) (fun t => decide ((t.cluster 0).tile 7 = { owner := some ⟨0, 0x5000⟩, ent := none, st := 0, base := 5, gran := 3, refill := false, claim := (claimState 7 3).fresh } ∧
      t.me.claims = [(0, 7, (claimState 7 3).fresh)] ∧ (t.cluster 0).spad = [(0x9000, 8)])) = true := by decide +kernel

theorem test_tile_changes : ([(.tileFree 4, .tile .free 5), (.tileFill 4, .tile .fill 5), (.tileReady 4, .tile .ready 5), (.tileDrop 4, .tile .drop 5),
      (.clean 2 1, .clean 0x10000 0x40)] : List (Instr × RbOp)).all (fun x =>
    answersCore x.1 memState memState (memState.cc.buffering act 8 x.2)) = true := by decide +kernel
/-- Table 7.13: GRAN 3, BASE 2, OWN, ready. -/
theorem test_tile_stat : sOut (.tileStat 3 4) memState 3 = some (0x300206, 0) := by decide +kernel
theorem witness_TileForms : memState.live = true ∧ memState.phase = .whole ∧ tileOwned memState 5 = true ∧ tileOwned memState 4 = false ∧
    unconfirmed memState.cc memState.me.id = false ∧ (memState.rs 0 = 0) ∧ 0 < (memState.rs 1).toNat ∧ (memState.rs 1).toNat ≤ 2 ^ 30 ∧
    ((memState.cc.rb.map (·.size)).sum + 8 ≤ 16384) ∧ trapOut (.tileFree 7) memState = some (10, 4) ∧ trapOut (.tileStat 3 7) memState = some (10, 4) ∧
    answers (.clean 2 0) memState memState.me = true := by decide +kernel

-- entry 5's bytes are not back after a swap
def refillState : State := memState.onCluster 0 fun c => c.onTile 5 fun t => { t with refill := true }
theorem witness_TileForms_refill : tileOwned refillState 5 = true ∧ (tileView memState 5).refill = false ∧ (tileView refillState 5).refill = true ∧
    ok (exec (.tileReady 4) refillState) (fun t => decide (t.cc.rb = refillState.cc.rb ∧ t.me.waitFor = some (.tile 5 [0, 1, 2, 3]) ∧ t.me.npc = refillState.me.pc)) ∧
    sOut (.tileStat 3 4) refillState 3 = some (0x300206, 0) := by decide +kernel

-- fibre slot 2 holds a waiting activation of priority 5
def fibreState : State := pk (sr [(1, 2), (2, 3)] act) fun k => { k with fibres := [(2, act)], ls := mwrite (mwrite [] (fibreBase 2 + 0x470) [1]) (fibreBase 2 + 0x469) [5] }
theorem witness_TileForms_resume : lsWord fibreState.cc (fibreBase 2 + 0x470) % 2 = 1 ∧ (fget fibreState.cc.fibres 2).isSome = true ∧ fibreState.cc.ls.wf = true ∧
    ok (exec (.upResume 1) fibreState) (fun t => decide (lsWord t.cc (fibreBase 2 + 0x470) = 0 ∧ t.cc.queue = [{ kind := .fibre 2, prio := 5, since := 0, aged := 0, resv := false }] ∧
      t.me = fibreState.me)) = true ∧ answers (.upResume 2) fibreState fibreState.me = true := by decide +kernel

-- the L1s of cores 3 and 4 hold a marked and a plain line each
def rocState : State :=
  let l1 : FMap (FMap L1Line) := [(0, [(0, { part := 0, tag := 0, data := 0, rrpv := 0, marked := true, own := false }),
                                       (1, { part := 0, tag := 128, data := 0, rrpv := 0, marked := false, own := false })])]
  let s := pk act
  { s with cores := s.cores ++ [(3, { Core.reset with l1 := l1 }), (4, { Core.reset with l1 := l1 })] }
theorem test_roc_inv : ok (exec .rocInv rocState) (fun t => decide (((t.core 3).l1.map fun x => x.2.map (·.1)) = [[1]] ∧ ((t.core 4).l1.map fun x => x.2.map (·.1)) = [[0, 1]]))
    = true := by decide +kernel

/-! ### Atomics, waits and fences (10, 11) -/

theorem test_reductions : ([(.redAdd 3 2 2 2 0, .red 0x10000 .add .i64 0x1122334455667788 true false), (.redAnd 3 2 1 0 1, .red 0x10000 .and .n32 0x1122334455667788 false true),
      (.redOr 3 2 0 0 0, .red 0x10000 .or .i32 0x1122334455667788 false false), (.redXor 3 2 3 0 0, .red 0x10000 .xor .n64 0x1122334455667788 false false),
      (.redMin 3 2 3 0 0, .red 0x10000 .min .n64 0x1122334455667788 false false), (.redMax 3 2 4 0 0, .red 0x10000 .max .f32 0x1122334455667788 false false)]
      : List (Instr × RbOp)).all (fun x =>
    ok (exec x.1 memState) fun t => decide (t.cc.rb = [{ seq := 5, size := 16, op := x.2, pc := 0x100 }] ∧ t.cc.accs.length = 1) && sameMem memState t) = true := by
  decide +kernel

def atomicOut (i : Instr) : Option (AccKind × Bool × Bool × Nat) :=
  match exec i memState with
  | .next t => t.cc.accs.head?.map fun x => (x.kind, x.acq, x.rel, t.me.snap.pc)
  | _ => none
theorem test_atomics : ([(.atomAdd 9 2 2 1 0, .add, .i64, false, true, false), (.atomSwap 9 2 3 2 0, .swap, .n64, false, false, true),
      (.atomCas 9 2 3 3 1, .cas, .n64, true, true, true), (.atomAnd 9 2 0 0 0, .and, .i32, false, false, false), (.atomOr 9 2 1 0 0, .or, .n32, false, false, false),
      (.atomXor 9 2 0 0 0, .xor, .i32, false, false, false), (.atomMin 9 2 0 0 0, .min, .i32, false, false, false), (.atomMax 9 2 4 0 0, .max, .f32, false, false, false)]
      : List (Instr × AtomOp × AtomTy × Bool × Bool × Bool)).all (fun x =>
    decide (atomicOut x.1 = some (.atom x.2.1 x.2.2.1 x.2.2.2.1 0x10000 0x20000 9, x.2.2.2.2.1, x.2.2.2.2.2, 0x108))) = true := by decide +kernel
theorem witness_AtomicsAndReductionsIssue : memState.live = true ∧ memState.phase ≠ .dry ∧ memState.cc.rb = [] ∧ memState.cc.accs = [] ∧ memState.cc.mxq = [] ∧
    memState.flights = [] ∧ memState.cc.cps = [] ∧ (memState.rs 2).toNat % 8 = 0 ∧ vaRefused (memState.rs 2) = false ∧ isWindow (memState.rs 2).toNat = false ∧
    ((memState.cc.rb.map (·.size)).sum + 16 ≤ 16384) := by decide +kernel
theorem test_fences : ([(.fence 1 2, 0x0), (.fence 3 2, 0x0), (.fenceEng 0 1, 0x108), (.fenceMx 1 0, 0x108), (.fenceRoc 2 3, 0), (.fenceFull 4 2, 0)] : List (Instr × Word)).all
    (fun x => ok (exec x.1 memState) fun t => decide (t.cc.warn = x.2 ∧ t.me.regs = memState.me.regs ∧ t.cc.rb = [])) = true := by decide +kernel

/-- An atomic of core 0 at offset 0x20 of its own window. -/
def windowState (st : AccSt) : State := pk { act with pend := [.s 9], snap := { act.snap with pend := [.s 9] } } fun k => { k with
  ls := [(0x20, 0xF0), (0x27, 1)]
  accs := [{ id := 7, act := 1, seq := 5, pc := 0x100, kind := .atom .add .i32 false 0x20 0 9, va := 0x0100000000000020, size := 4, acq := false, rel := false,
             hint := 0, e4 := false, dual := false, st := st, before := none }] }
theorem witness_AtomicsPerformed : (windowState .pending).access 7 = (windowState .pending).cc.accs.head?.map (0, ·) ∧ (windowState .pending).flights = [] ∧
    vaKind 0x0100000000000020 = .window 0 0x20 ∧ corePresent (windowState .pending) 0 = true ∧ ((windowState .pending).core 0).watches = [] ∧
    ((windowState .pending).core 0).ls.wf = true ∧
    ok (exec (.atomicPerform 7 false) (windowState .pending)) (fun t => decide (t.cc.ls = [(0x20, 0x10), (0x21, 1), (0x27, 1)] ∧
      t.cc.accs.map (·.st) = [.performed 0xF0])) = true := by decide +kernel
theorem witness_AtomicsPerformed_reply : (windowState (.performed 0xFFFFFFF0)).live = true ∧ (windowState (.performed 0xFFFFFFF0)).me.pend = [.s 9] ∧
    (windowState (.performed 0xFFFFFFF0)).me.snap.pend = [.s 9] ∧
    ok (exec (.atomicReply 0 7) (windowState (.performed 0xFFFFFFF0))) (fun t => decide (t.me.regs.getS 9 = 0xFFFFFFFFFFFFFFF0 ∧ t.me.snap.regs.getS 9 = 0xFFFFFFFFFFFFFFF0 ∧
      t.me.pend = [] ∧ t.cc.accs = [])) = true := by decide +kernel
/-- Table 10.4 for 32 bits: signed and unsigned order, wrap, and a compare of bits. -/
theorem test_atomic_operations : (atomApply .min .i32 0x80000000 1 0, atomApply .min .n32 0x80000000 1 0, atomApply .add .n32 0xFFFFFFFF 2 0,
    atomApply .cas .i64 5 5 9, atomApply .cas .i64 5 4 9, atomApply .max .i32 0x80000000 1 0) = (0x80000000, 1, 1, 9, 5, 1) := by decide +kernel

theorem witness_NestClaimsAndPoints_claim : ok (exec (.nestClaim 9 1) (nestState 6 6)) (fun t => decide (t.cc.accs.map (fun x => (x.kind, x.va)) = [(.claim 0x2000 9, 0x2000)] ∧
    t.me.pend = [.s 9] ∧ t.me.snap.pc = 0x108)) = true ∧ (nestState 6 6).cc.rb = [] ∧ (nestState 6 6).cc.mxq = [] := by decide +kernel
/-- Chunks of 10 iterations with MIN 1, K 1 and one claimer; with K 2 and two claimers, the first takes a quarter or more. -/
theorem witness_NestClaimsAndPoints_chunks : claimChunk 10 1 1 1 0 = 10 ∧ claimChunk 10 1 2 2 0 = 3 ∧ claimChunk 10 4 2 2 8 = 2 ∧ claimChunk 10 1 2 2 10 = 0 := by
  decide +kernel

-- the slots at 0x1000 of the local store: slot 1 watches offset 0x40 of the core's window, for the value 5
def waitState (slots : List Byte) : State := pk (sr [(1, 0), (2, 100)] { act with extBase := 0x1000, extLen := 256 }) fun k =>
  { k with ls := mwrite [] 0x1010 slots }
def waitBytes : List Byte := leBytes 8 0x0100000000000040 ++ leBytes 8 5
theorem witness_WaitAnyCourse : (waitState waitBytes).live = true ∧ (waitState waitBytes).cc.rb = [] ∧ (waitState waitBytes).cc.accs = [] ∧ (waitState waitBytes).cc.mxq = [] ∧
    (lsPlace (waitState waitBytes).me 0 64).isSome = true ∧ (waitSlots (waitState waitBytes) 0).map (·.addr) = [0, 0x0100000000000040, 0, 0] ∧
    vaRefused 0x0100000000000040 = false ∧ isQuad 0x0100000000000040 = false ∧ (waitSlots (waitState []) 0).map (·.addr) = [0, 0, 0, 0] ∧
    sOut (.waitAny 9 1 2) (waitState []) 9 = some (5, 0) ∧
    ok (exec (.waitAny 9 1 2) (waitState waitBytes)) (fun t => decide (t.cc.run = none ∧ t.cc.accs.map (fun x => (x.kind, x.va)) = [(.arm 1, 0x0100000000000040)] ∧
      (fget t.cc.acts 0).map (·.pc) = some 0x108)) = true := by decide +kernel

def armSlots : List WSlot := [⟨0, 0, true, false⟩, ⟨0x0100000000000040, 5, false, false⟩]
def armState (v : Byte) : State := { pk { act with park := .waitAny armSlots none false 9, pend := [.s 9] } (fun k => { k with
  run := none, ls := if v = 0 then [] else [(0x40, v)]
  accs := [{ id := 7, act := 1, seq := 5, pc := 0x100, kind := .arm 1, va := 0x0100000000000040, size := 8, acq := false, rel := false,
             hint := 0, e4 := false, dual := false, st := .pending, before := none }] }) with now := 50 }
theorem witness_WaitAnyCourse_arms : corePresent (armState 5) 0 = true ∧ ((armState 5).core 0).part = some 0 ∧
    ok (exec (.watchArm 0 0 1) (armState 5)) (fun t => decide ((t.core 0).watches = [{ core := 0, ctx := 0, slot := 1, part := 0, va := 0x0100000000000040 }] ∧
      (t.core 0).accs = [])) = true ∧ ok (exec (.watchArm 0 0 1) (armState 6)) (fun t => decide ((t.core 0).watches = [])) = true := by decide +kernel
def timeState (now : Nat) : State := { pk { act with park := .waitAny [⟨0, 0, true, false⟩] (some 60) false 9, pend := [.s 9] } (fun k => { k with run := none }) with now := now }
theorem witness_WaitAnyCourse_timeout : ok (exec (.waitAnyTimeout 0 0) (timeState 60)) (fun t => decide ((fget (t.core 0).acts 0).map (fun a => (a.park, a.regs.getS 9)) =
    some (.queued, 5))) = true ∧ ok (exec (.waitAnyTimeout 0 0) (timeState 59)) (fun t => decide (t = timeState 59)) = true := by decide +kernel

/-! ### Regions and activations (13) -/

-- the block at 0x5000: running, RETRY 3, priority 2, extent of one page, code at 0x300, LIVE as given
def block (live : Byte := 2) (st : Byte := 0x41) : Memory := [(0x5008, 0x88), (0x5009, st), (0x5014, 1), (0x5021, 3)] ++ (if live = 0 then [] else [(0x5040, live)])
-- the send block at offset 0x40 of the extent: PRIO 3, LEN 2, EOFF 0x20, the sender's own region, payload 7 and 8
def sendBytes : List Byte := leBytes 8 0x0000002020000018 ++ leBytes 8 0 ++ leBytes 8 7 ++ leBytes 8 8
def sendAct : Act := { sr [(1, 0x40), (2, 0), (3, 0x5000), (4, 0x5001), (5, 0x1_00000000), (6, 3)] act with extBase := 0x1000, extLen := 256, rp := 0x5000 }
def sendState (m : Memory := block) (a : Act := sendAct) : State :=
  paged m { pk a (fun k => { handled k with ls := mwrite [] 0x1040 sendBytes }) with dies := [(0, Die.reset)] }
def sendHdr : Hdr := { ver := 1, kind := 0, rcb := 0x5000, prio := 3, eoff := 0x20, len := 2, e4 := false, spkg := 0, src := 0 }
def sendsOut (i : Instr) (t : MsgTarget) : Bool :=
  let s := sendState
  answersCore i s (s.asked true 0x5000) ((s.cc.buffering act 32 (.msg sendHdr [7, 8] t)).withRequest (s.request (.probe false none) 0x5000 8 false false 2 none))
theorem witness_SendsBuffer : sendState.live = true ∧ sendState.phase ≠ .dry ∧ (lsPlace sendState.me 0x40 32).isSome = true ∧
    ((sendState.cc.rb.map (·.size)).sum + 32 ≤ 16384) ∧ corePresent sendState 0 = true ∧ (sendState.core 0).part = some sendState.mypart ∧
    sendsOut (.sendR 2 1) (.core 0 0) = true ∧ sendsOut (.sendR 5 1) (.core 1 0) = true ∧ sendsOut (.sendA 3 1) (.owner 16) = true ∧ sendsOut (.sendAny 1) .any = true := by
  decide +kernel
theorem test_send_traps : trapOut (.sendAny 6) sendState = some (3, 3) ∧ trapOut (.regionKill 4) sendState = some (3, 0x5001) := by decide +kernel
theorem witness_RegionFormsBuffer : sendState.live = true ∧ (sendState.rs 3).toNat % 512 = 0 ∧ ((sendState.rs 2).toNat % 512 = 0) ∧
    ((sendState.cc.rb.map (·.size)).sum + 16 ≤ 16384) ∧ vaRefused (sendState.rs 3 + 8) = false ∧ redCovers sendState 0x5008 64 = false ∧
    cdPresent sendState (bitsNat (sendState.rs 2) 9 0 / 64) = true ∧
    (let s := sendState
     let probe := fun (s : State) (r : Nat) => s.request (.probe false none) r 8 false false 2 none
     let u := s.asked true 0x5000
     answersCore (.regionLaunch 3) s u ((s.cc.buffering act 16 (.launch 0x5000 false 0)).withRequest (probe s 0x5000)) ∧
     answersCore (.regionLaunchEarly 3 2) s (u.asked true 0x5000) (((s.cc.buffering act 16 (.launch 0x5000 true 0x5000)).withRequest (probe s 0x5000)).withRequest (probe u 0x5000)) ∧
     answersCore (.regionKill 3) s u ((s.cc.buffering act 8 (.kill 0x5000)).withRequest (probe s 0x5000)) ∧
     answersCore (.regionStat 9 3) s u ((s.cc.withRequest (s.request (.load .global (.stat 9) false) 0x5000 8 true false 2 none)).awaiting (.s 9)) ∧
     answersCore .launchTrig s s (s.cc.buffering act 8 .trig) ∧ answersCore (.barFree 2) s s (s.cc.buffering act 8 (.barFree 0))) := by decide +kernel

-- core 1 is the partition's too
def twoCores (s : State) (f : Core → Core := id) : State := { s with cores := s.cores ++ [(1, f { Core.reset with part := some 0 })] }
def moveState : State := twoCores (sendState (a := { sr [(1, 0), (2, 1), (3, 0xABCDE)] act with
  extBase := 0x1000, extLen := 256, rp := 0x5000, status := 0x3200, ring := 1, cause := 0x205, epc := 0x80, tval := 9, hdr := { sendHdr with src := 7 } }))
theorem witness_ActivationForms : moveState.live = true ∧ moveState.cc.run = some 0 ∧ frising moveState.cc.acts = true ∧ moveState.cc.rb = [] ∧ moveState.cc.accs = [] ∧
    moveState.cc.mxq = [] ∧ moveState.flights = [] ∧ moveState.mode ≠ 2 ∧ unconfirmed moveState.cc moveState.me.id = false ∧ corePresent moveState 1 = true ∧
    (moveState.core 1).part = some moveState.mypart ∧ bitsNat (moveState.rs 2) 11 0 = 1 ∧ bitsNat (moveState.rs 1) 37 32 = moveState.pkg := by decide +kernel
theorem witness_ActivationForms_effects :
    ok (exec .actEnd moveState) (fun t => decide (t.cc.run = none ∧ t.cc.acts = [] ∧ t.flights.map (fun f => (f.op, f.part, f.act)) = [(.liveDec 0x5000, 0, 1)]) && sameMem moveState t) ∧
    ok (exec (.actMigrate 1) moveState) (fun t => decide (t.cc.run = some 0 ∧ t.me.snap.pc = 0x108)) ∧
    ok (exec (.actMigrate 2) moveState) (fun t => decide (t.cc.run = none ∧ t.msgs.map (fun g => (g.core, g.hdr.kind, g.hdr.rcb)) = [(1, 4, 0x5000)] ∧
      t.msgs.map (fun g => g.act.map fun b => (b.id, b.pc, b.extLen)) = [some (1, 0x108, 256)])) ∧
    sOut (.actInfo 9) moveState 9 = some (BitVec.ofNat 64 (7 + 3 * 2 ^ 12 + 2 * 2 ^ 16 + 1 * 2 ^ 20 + 2 * 2 ^ 22 + 1 * 2 ^ 40), 0) ∧
    ok (exec (.actFail 3) moveState) (fun t => decide (t.cc.run = none ∧ t.cc.acts = [])) := by decide +kernel

-- an attempt that has been outstanding for a while
def attemptState (now : Nat := 0x1000000) : State := { moveState with now := now }
theorem witness_AttemptsEnd : (attemptState.core 0).run = some 0 ∧ (fget (attemptState.core 0).acts 0).isSome = true ∧ (attemptState.core 0).rb = [] ∧
    attemptState.me.attempts < fieldOf (hwPeek attemptState 0 0x5008) 7 3 ∧
    ([.detectedError 0, .watchdogExpiry 0] : List Instr).all (fun i => ok (exec i attemptState) fun t => decide ((t.core 0).run = none ∧ (t.core 0).acts = [] ∧
      t.restarts = [(0, { attemptState.me with attempts := 1 }, 0)]) && sameMem attemptState t) ∧
    ok (exec (.watchdogExpiry 0) (attemptState 0xFFFFFF)) (fun t => decide (t = attemptState 0xFFFFFF)) := by decide +kernel
def restartState : State :=
  let a : Act := { moveState.me with attempts := 1, snap := { moveState.me.snap with pc := 0x140, flags := 5 } }
  { moveState with restarts := [(0, a, 0)], cores := [(0, { moveState.cc with run := none, acts := [] }), (1, { Core.reset with part := some 0 })] }
def bookedState : State := bookRestarts restartState
theorem witness_AttemptRestarts_booked : (match restartState.restarts with | [e] => decide (restartCore restartState e = some 1) && !booked restartState e.2.1.id && decide (ctxFor restartState 1 e.2.1.ring = some 0 ∧ freeExtent restartState 1 e.2.1.extLen = some 0) | _ => false) = true ∧
    (bookedState.core 1).resv = [(1, 0, 0, 256)] := by decide +kernel
theorem witness_AttemptRestarts : (match bookedState.restarts with | [e] => restartReady bookedState e && decide (e.2.1.id = 1) | _ => false) = true ∧
    (bookedState.core 1).ls.wf = true ∧
    ok (exec (.retryRestart 1 false) restartState) (fun t => decide (t = restartState)) ∧
    ok (exec (.retryRestart 1 false) bookedState) (fun t => decide (t.restarts = [] ∧ (t.core 1).acts.map (fun x => (x.2.pc, x.2.flags, x.2.attempts, x.2.extLen)) = [(0x140, 5, 1, 256)] ∧
      (t.core 1).queue.map (·.kind) = (t.core 1).acts.map (fun x => .ctx x.1) ∧
      (t.core 1).acts.all (fun x => (List.range 256).all fun i => t.byte (.ls 1 (x.2.extBase + i)) = restartState.byte (.ls 0 (0x1000 + i))))) := by decide +kernel

/-- A drained effect of core 0's activation. -/
def drained (op : RbOp) : Flight := { id := 3, core := 0, part := 0, act := 1, rp := 0x5000, ent := none, op := op, leaveOk := false, sent := none }
-- a message that has drained; the block is running, or not
def releaseState (st : Byte := 0x41) : State := { moveState with dram := block 2 st, flights := [drained (.msg sendHdr [7, 8] (.core 0 1))] }
theorem witness_MessageReleased : (match xlateHw releaseState 0 0x5000 .w with
      | .ok pte _ pa => decide (homeWait releaseState 0 0x5000 pte pa true = none)
      | _ => false) = true ∧
    ok (exec (.messageRelease 3) releaseState) (fun t => decide (t.flights = [] ∧ hwPeek t 0 0x5040 = 3 ∧
      t.msgs.map (fun m => (m.core, m.pay, m.hdr.prio, m.hdr.rcb)) = [(1, [7, 8], 2, 0x5000)])) ∧
    ok (exec (.messageRelease 3) (releaseState 0x61)) (fun t => decide (t.flights = [] ∧ t.msgs = [] ∧ hwPeek t 0 0x5040 = 2)) := by decide +kernel

-- a message that arrives at core 1, whose ring 0 has 16 bytes in it; or one that waits until 40
def arriveState (st : MsgSt) (now : Nat := 40) : State := { moveState with
  now := now
  msgs := [{ id := 4, hdr := { sendHdr with prio := 2 }, pay := [7, 8], part := 0, core := 1, far := false, port := 0, sender := 0, act := none, st := st }]
  cores := [(0, moveState.cc), (1, { Core.reset with part := some 0, ls := [(0x1E408, 16)] })] }
def landed (t : State) : Bool :=
  let base := 0x1E400
  decide (t.msgs = [] ∧ (t.core 1).queue.map (fun e => (e.prio, e.since)) = [(2, 40)] ∧ lsWord (t.core 1) (base + 8) = 48 ∧
    lsWord (t.core 1) (base + 80) = sendHdr.word0 - 8 ∧
    lsWord (t.core 1) (base + 96) = 7 ∧ lsWord (t.core 1) (base + 104) = 8)
-- ring 0 with TAIL = HEAD = 1712: the record of 32 bytes would cross the end, so 16 bytes of pad go before it (13 R325)
def padState : State := (arriveState .travelling).onCore 1 fun k => lsPoke (lsPoke k 0x1E400 1712) 0x1E408 1712
theorem witness_MessageLands_pad : lsWord (padState.core 1) 0x1E400 = 1712 ∧ lsWord (padState.core 1) 0x1E408 = 1712 ∧ (padState.core 1).ls.wf = true ∧
    ok (exec (.messageLand 4) padState) (fun t => decide ((t.core 1).queue.map (·.kind) = [.msg 0 0] ∧ lsWord (t.core 1) 0x1E408 = 1760 ∧
      fieldOf (lsWord (t.core 1) (0x1E440 + 1712)) 57 3 = 3 ∧ lsWord (t.core 1) 0x1E450 = 7 ∧ lsWord (t.core 1) 0x1E458 = 8)) := by decide +kernel
theorem witness_MessageLands : (arriveState .travelling).msgs.length = 1 ∧ corePresent (arriveState .travelling) 1 = true ∧ regionState (arriveState .travelling) 0 0x5000 = 2 ∧
    ((arriveState .travelling).core 1).ls.wf = true ∧ ok (exec (.messageLand 4) (arriveState .travelling)) landed ∧
    ok (exec (.messageRetry 4) (arriveState (.refused 16 40))) landed ∧
    ok (exec (.messageRetry 4) (arriveState (.refused 16 40) 39)) (fun t => decide (t = arriveState (.refused 16 40) 39)) := by decide +kernel

-- core 1 idles with a landed record at position 16 of ring 0, or a context that waits
def dispatchState (e : QEnt) (acts : FMap Act := []) : State := { moveState with
  fresh := 9
  cores := [(0, moveState.cc), (1, { Core.reset with part := some 0, queue := [e], acts := acts, ls := mwrite [] 0x1E450 (leBytes 8 0x1000000000005010 ++ leBytes 8 0x0000002020000000 ++ leBytes 8 7 ++ leBytes 8 8) })] }
def recordEnt : QEnt := { kind := .msg 0 16, prio := 2, since := 0, aged := 0, resv := false }
def ctxEnt (since : Nat := 0) : QEnt := { kind := .ctx 2, prio := 5, since := since, aged := 0, resv := false }
theorem witness_DispatchStarts_record : let s := dispatchState recordEnt
    (s.core 1).run = none ∧ corePresent s 1 = true ∧ bestEntry s 1 = some recordEnt ∧ ctxFor s 1 0 = some 0 ∧ freeExtent s 1 (extentLen s 0 0x5000) = some 0 ∧
    extentLen s 0 0x5000 = 4096 ∧
    ok (exec (.dispatch 1) s) (fun t => decide ((t.core 1).run = some 0 ∧ (t.core 1).acts.map (fun x => (x.2.regs.getS 1, x.2.regs.getS 2, x.2.regs.getS 3, x.2.regs.getS 61)) =
      [(7, 8, 0, 4096)] ∧ (t.core 1).acts.map (fun x => (x.2.regs.getS 63, x.2.pc, x.2.extLen, x.2.status)) = [(0x5000, 0x320, 4096, 0x2000)])) := by decide +kernel
theorem witness_DispatchStarts_context : let s := dispatchState (ctxEnt) [(2, { act with park := .queued })]
    bestEntry s 1 = some (ctxEnt) ∧
    ok (exec (.dispatch 1) s) (fun t => decide ((t.core 1).run = some 2 ∧ fget (t.core 1).acts 2 = some act ∧ (t.core 1).queue = []) && sameMem s t) := by decide +kernel

def schedState (p : Park := .running) (prio : Word := 3) (now : Nat := 70000) (waited : Nat := 256) (pend : List Reg := []) : State := { (pk { act with
    park := p, status := prio <<< 12, npc := 0x120, pend := pend } fun k => { k with queue := [ctxEnt], waitFrom := some (now - waited), run := if p = .running then some 0 else none }) with now := now }
/-- The parked activation waits at a barrier unit, which has not released it, or has. -/
def unitWait (r : Option Word) : State := (schedState .issue).onCore 0 fun k =>
  { k with acts := fmapVals (fun _ a => { a with waitFor := some .barrier, barWait := some (7, r) }) k.acts }
theorem witness_SchedulerEvents : bestEntry schedState 0 = some (ctxEnt) ∧
    ok (exec (.runQueueReport 0) schedState) (fun t => decide ((t.core 0).report = 1)) ∧
    ok (exec (.priorityAgeing 0 0) schedState) (fun t => decide ((t.core 0).queue.map (·.aged) = [1])) ∧
    ok (exec (.priorityAgeing 0 0) (schedState .running 3 65535)) (fun t => decide ((t.core 0).queue.map (·.aged) = [0])) ∧
    ok (exec (.preemption 0) schedState) (fun t => decide ((t.core 0).run = none ∧ (t.core 0).queue.map (fun e => (e.kind, e.prio, e.since)) = [(.ctx 2, 5, 0), (.ctx 0, 3, 70000)] ∧
      (t.core 0).acts.map (fun x => (x.2.park, x.2.pc)) = [(.queued, 0x120)])) ∧
    ok (exec (.preemption 0) (schedState .running 6)) (fun t => decide (t = schedState .running 6)) ∧
    ok (exec (.issueWaitPark 0) schedState) (fun t => decide ((t.core 0).run = none ∧ (t.core 0).acts.map (fun x => (x.2.park, x.2.pc)) = [(.issue, 0x120)])) ∧
    ok (exec (.issueWaitPark 0) (schedState .running 3 255 255)) (fun t => decide (t = schedState .running 3 255 255)) ∧
    ok (exec (.activationWake 0 0) (schedState .issue)) (fun t => decide ((t.core 0).acts.map (·.2.park) = [.queued] ∧ (t.core 0).queue.length = 2)) ∧
    ok (exec (.activationWake 0 0) (unitWait none)) (fun t => decide (t = unitWait none)) ∧
    ok (exec (.activationWake 0 0) (unitWait (some 1))) (fun t => decide ((t.core 0).queue.length = 2)) := by decide +kernel
def firedSlots : List WSlot := [⟨0, 0, true, false⟩, ⟨0x40, 5, true, true⟩, ⟨0, 0, true, false⟩, ⟨0, 0, true, false⟩]
theorem witness_SchedulerEvents_fired : firedSlots.findIdx? (·.fired) = some 1 ∧ allArmed firedSlots = true ∧
    ok (exec (.activationWake 0 0) (schedState (.waitAny firedSlots none false 9) 3 0 0 [.s 9])) (fun t =>
      decide ((t.core 0).acts.map (fun x => (x.2.park, x.2.regs.getS 9, x.2.pend)) = [(.queued, 1, [])] ∧ (t.core 0).queue.length = 2)) := by decide +kernel

-- a launch of the block at 0x6000 by the region at 0x5000; DONE counts
def launchState (op : RbOp) (m : Memory := block) (trig : List Own := []) : State :=
  { moveState with dram := m, flights := [{ drained op with rp := 0x5000 }], triggered := trig }
def childOf (st : Byte) : Memory := block ++ [(0x6001, 0x50), (0x6009, st), (0x6040, 1)]
theorem witness_RegionEvents_trigger :
    ok (exec (.launchTrigger 3) (launchState .trig)) (fun t => decide (t.flights = [] ∧ t.triggered = [⟨0, 0x5000⟩])) ∧
    ok (exec (.launchTrigger 3) (launchState .trig block [⟨0, 0x5000⟩])) (fun t => decide (t.flights = [] ∧ t.triggered = [⟨0, 0x5000⟩])) ∧
    (launchState .trig).pendingRegions = [] := by decide +kernel
theorem witness_RegionEvents_complete : hwPeek (launchState (.liveDec 0x5000) (block 1)) 0 0x5040 = 1 ∧
    ok (exec (.regionComplete 0 0x5000) (launchState (.liveDec 0x5000) (block 1))) (fun t => decide (t.flights = [] ∧ hwPeek t 0 0x5040 = 0 ∧ fieldOf (hwPeek t 0 0x5048) 0 8 = 1)) ∧
    ok (exec (.regionComplete 0 0x5000) (launchState (.liveDec 0x5000))) (fun t => decide (t = launchState (.liveDec 0x5000))) := by decide +kernel
theorem witness_RegionEvents_refused : regionState (launchState (.launch 0x6000 false 0)) 0 0x6000 = 0 ∧
    ok (exec (.launchPerform 3) (launchState (.launch 0x6000 false 0))) (fun t => decide (t.flights = [] ∧ hwPeek t 0 0x6048 = 0x100000204)) := by decide +kernel
-- a block that passes the checks: one core of granule 0
def goodBlock : Memory := [(0x5008, 0x88), (0x5009, 0x41), (0x5012, 1), (0x5014, 1), (0x5021, 3), (0x5030, 1), (0x5040, 2), (0x6010, 1), (0x6012, 1), (0x6014, 1), (0x6030, 1)]
theorem witness_RegionEvents_launch : ok (exec (.launchPerform 3) (launchState (.launch 0x6000 false 0) goodBlock)) (fun t => decide (t.flights = [] ∧
    regionState t 0 0x6000 = 2 ∧ hwPeek t 0 0x6000 = 0x5000 ∧ hwPeek t 0 0x6040 = 1 ∧ hwPeek t 0 0x6048 = 2 ^ 32 ∧ t.msgs.map (fun m => (m.hdr.rcb, m.hdr.kind)) = [(0x6000, 1)])) := by
  decide +kernel
theorem witness_RegionEvents_kill : chainOf (launchState (.kill 0x6000) (childOf 0x40)) 0 8 0x6000 = [0x6000, 0x5000] ∧ regionState (launchState (.kill 0x6000) (childOf 0x40)) 0 0x6000 = 2 ∧
    ok (exec (.regionKillPerform 3) (launchState (.kill 0x6000) (childOf 0x40))) (fun t => decide (t.flights = [] ∧ fieldOf (hwPeek t 0 0x6048) 0 8 = 3)) ∧
    ok (exec (.regionKillPerform 3) (launchState (.kill 0x5000) (childOf 0x40))) (fun t => decide (t.flights = [] ∧ t.dram = childOf 0x40)) := by decide +kernel

/-! ### Barriers (13 R354-R358) -/

def barState (bar : Bar) (a : Act := act) (accs : List Access := []) : State :=
  { pk { sr [(1, 7), (2, 3), (3, 0), (4, 4097), (5, 0x1234)] a with rp := 0x5000 } (fun k => { k with accs := accs }) with dies := [(0, { Die.reset with bars := [(7, bar)] })] }
def barOwn (e c : Nat) : Bar := { owner := some ⟨0, 0x5000⟩, exp := e, cnt := c, phase := 0xFFFF }
def barFreeUnit : Bar := { Bar.reset with phase := 0x1234 }
theorem witness_BarrierForms : (barState barFreeUnit).live = true ∧ (barState barFreeUnit).phase = .whole ∧ (barState barFreeUnit).cc.rb = [] ∧
    (barState barFreeUnit).cc.accs = [] ∧ (barState barFreeUnit).cc.mxq = [] ∧ cdPresent (barState barFreeUnit) 0 = true := by decide +kernel
theorem test_barInit_status : sOut (.barInit 9 1 3) (barState barFreeUnit) 9 = some (2, 0) ∧ sOut (.barInit 9 1 4) (barState barFreeUnit) 9 = some (2, 0) ∧
    sOut (.barInit 9 1 2) (barState (barOwn 3 0)) 9 = some (1, 0) ∧ sOut (.barWait 9 1 5) (barState (barOwn 3 0)) 9 = some (0xFFFF, 0) := by decide +kernel
theorem test_barInit_takes : ok (exec (.barInit 9 1 2) (barState barFreeUnit)) (fun t => decide (t.bar 7 = { owner := some ⟨0, 0x5000⟩, exp := 3, cnt := 0, phase := 0x1234, claim := (barState barFreeUnit).fresh } ∧
    t.me.regs.getS 9 = 0 ∧ t.me.barClaims = [(7, (barState barFreeUnit).fresh)])) = true := by decide +kernel
theorem test_barWait_waits : ok (exec (.barWait 9 1 5) (barState { barOwn 3 0 with phase := 0x1234 })) (fun t => decide (t.me.barWait = some (7, none) ∧
    t.me.npc = 0x100)) = true := by decide +kernel
theorem witness_BarrierForms_arrive :
    ok (exec (.barArriveNb 9 1 2) (barState (barOwn 3 0))) (fun t => decide (t.cc.accs.map (fun x => (x.kind, x.va, x.rel)) = [(.arrive 7 3 9 false, 7, true)] ∧ t.me.pend = [.s 9] ∧
      t.me.snap.pc = 0x108 ∧ t.bar 7 = barOwn 3 0)) ∧
    ok (exec (.barArrive 9 1 2) (barState (barOwn 3 0))) (fun t => decide (t.cc.accs.map (fun x => (x.kind, x.va)) = [(.arrive 7 3 9 true, 7)] ∧ t.cc.run = none ∧
      t.cc.acts.map (fun x => (x.2.park, x.2.pc)) = [(.barrier 7 0 9 false, 0x108)])) := by decide +kernel
def arriveAcc : Access := { id := 4, act := 1, seq := 5, pc := 0x100, kind := .arrive 7 3 9 false, va := 7, size := 8, acq := false, rel := true, hint := 0, e4 := false, dual := false,
                            st := .pending, before := none }
def barArriving (e c : Nat) (rcb : Nat := 0x5000) : State := barState { barOwn e c with owner := some ⟨0, rcb⟩ } { act with pend := [.s 9] } [arriveAcc]
theorem witness_BarrierArrives : (barArriving 5 0).flights = [] ∧ (barArriving 5 0).findAct 1 = some (barArriving 5 0).me ∧
    ok (exec (.barrierArrival 0 4) (barArriving 5 1)) (fun t => decide (t.bar 7 = barOwn 5 4 ∧ t.cc.accs = [] ∧ t.me.regs.getS 9 = 0xFFFF ∧ t.me.pend = [])) ∧
    ok (exec (.barrierArrival 0 4) (barArriving 5 2)) (fun t => decide (t.bar 7 = { barOwn 5 0 with phase := 0 } ∧ t.cc.accs = [] ∧ t.me.regs.getS 9 = 0xFFFF)) ∧
    ok (exec (.barrierArrival 0 4) (barArriving 5 3)) (fun t => decide (t.cc.accs = [{ arriveAcc with st := .failed 8 0x300030007 0 }] ∧ t.bar 7 = barOwn 5 3)) ∧
    ok (exec (.barrierArrival 0 4) (barArriving 5 1 0x5200)) (fun t => decide (t.cc.accs = [{ arriveAcc with st := .failed 4 7 0 }])) := by decide +kernel

/-! ### Events of accesses (07) -/

def oneAcc (kind : AccKind) (va : Nat) (st : AccSt := .pending) (size : Nat := 8) : Access :=
  { id := 7, act := 1, seq := 5, pc := 0x104, kind := kind, va := va, size := size, acq := false, rel := false, hint := 0, e4 := false, dual := false, st := st, before := none }
-- core 0 of partition 0 has one access; pages up to 64 KiB are mapped, and the walk for 0x20000 has failed
def accState (x : Access) (a : Act := act) (f : Core → Core := id) : State :=
  let s := paged [(0x8000, 0x55)] (pk a fun k => f { handled k with accs := [x] })
  { s with slices := s.slices.map fun g => (g.1, { g.2 with walked := [{ part := 0, va := 0x20000, cause := 5, level := 2 }] }) }
def accsOf (o : Out) : Option (List AccSt) :=
  match o with
  | .next t => some (t.cc.accs.map (·.st))
  | _ => none
theorem witness_ProbesAndLateFaults_probe : vaKind 0x0100000000000020 = .window 0 0x20 ∧ vaKind 0x010000000001C000 = .window 0 0x1C000 ∧ vaKind 0x0100000000020020 = .window 1 0x20 ∧
    (match locate (accState (oneAcc (.probe false none) 0x8000)) 0 0x8000 8 .w .w with
     | .home _ pa => decide (pa = 0x8000)
     | _ => false) = true ∧
    (match locate (accState (oneAcc (.probe false none) 0x20000)) 0 0x20000 8 .w .w with
     | .fault c l => decide (c = 5 ∧ l = 2)
     | _ => false) = true ∧
    accsOf (exec (.accessConfirm 0 7) (accState (oneAcc (.probe false none) 0x0100000000000020))) = some [] ∧ accsOf (exec (.accessConfirm 0 7) (accState (oneAcc (.probe false none) 0x8000))) = some [] ∧ accsOf (exec (.accessConfirm 0 7) (accState (oneAcc (.probe false (some (.min, .i32))) 0x8000))) = some [] ∧
    accsOf (exec (.accessConfirm 0 7) (accState (oneAcc (.probe false none) 0x010000000001BFFC))) = some [.failed 4 0x010000000001BFFC 0] ∧ accsOf (exec (.accessConfirm 0 7) (accState (oneAcc (.probe false none) 0x0100000000020020))) = some [.failed 4 0x0100000000020020 0] ∧
    accsOf (exec (.accessConfirm 0 7) (accState (oneAcc (.probe false none) 0x20000))) = some [.failed 5 0x20000 2] := by decide +kernel
/-- The page at 0x8000 lies in host memory, which has no 32-bit minimum. -/
def hostPage (s : State) : State := { s with slices := (List.range 32).map fun h => (h, { Slice.reset with tlb := [{ part := 0, level := 0, page := 0, pte := 0x80000000001F }] }) }
theorem witness_ProbesAndLateFaults_host : ok (exec (.accessConfirm 0 7) (hostPage (accState (oneAcc (.probe false (some (.min, .i32))) 0x8000)))) (fun t =>
      decide (t.cc.accs.map (·.st) = [.failed 6 0x8000 0])) ∧
    ok (exec (.accessConfirm 0 7) (hostPage (accState (oneAcc (.probe false (some (.add, .i64))) 0x8000)))) (fun t => decide (t.cc.accs = [])) := by decide +kernel

/-- Bundle 5's store has failed; bundles 4, 5 and 6 have buffered stores; bundle 6 wrote s3 and FLAGS. -/
def lateState : State := accState (oneAcc (.probe false none) 0x9008 (.failed 4 0x9008 0)) { sr [(3, 77)] act with flags := 3, seq := 7, npc := 0x118 } fun k =>
  { k with undo := [{ seq := 4, item := .reg (.s 3) 1 }, { seq := 6, item := .flags 1 }, { seq := 6, item := .reg (.s 3) 55 }]
           rb := [4, 5, 6].map fun q => { seq := q, size := 8, op := .store .global 0x9000 [1] false 2 } }
theorem witness_ProbesAndLateFaults_late : lateState.cc.run = some 0 ∧ lateState.cc.acts.map (·.2.id) = [lateState.me.id] ∧ bitAt lateState.cc.tvec 0 = true ∧ lateState.me.mode = 0 ∧
    ok (exec (.lateFault 0) lateState) (fun t => decide (t.cc.accs = [] ∧ t.cc.rb.map (·.seq) = [4] ∧ t.me.regs.getS 3 = 55 ∧ t.me.flags = 1 ∧ t.me.cause = 0x104 ∧
      t.me.epc = 0x100 + 0 ∧ t.me.tval = 0x9008 ∧ t.me.mode = 1 ∧ t.me.pc = 0x2000) && sameMem lateState t) := by decide +kernel

/-- An activation waits for the page of a store at level 1; fibre slot 0 is in use. -/
def pageState : State := paged [] (pk { sr [(1, 0x11), (63, 0x5000)] act with park := .page 0x123456789A 1 1 false, rp := 0x5000, status := 0x4000 } fun k =>
  { k with run := none, uvec := 0x3001, ls := mwrite [] (fibreBase 0 + 0x470) [1] })
theorem witness_PageUpcallStarts : pageState.cc.ls.wf = true ∧ lsWord pageState.cc (fibreBase 0 + 0x470) % 2 = 1 ∧ lsWord pageState.cc (fibreBase 1 + 0x470) % 2 = 0 ∧
    fget pageState.cc.fibres 1 = none ∧
    ok (exec (.pageUpcall 0 0) pageState) (fun t => decide (t.cc.run = some 0 ∧ t.me.mode = 1 ∧ t.me.pc = 0x3000 ∧ t.me.rp = 0x5000 ∧ t.me.regs.getS 1 = 1 ∧
      t.me.regs.getS 2 = 0x123456789A ∧ t.me.regs.getS 3 = 1 + 4 + 32 + 4 * 256 ∧ t.me.regs.getS 4 = 0x100 ∧ lsWord t.cc (fibreBase 1) = 0x11 ∧ lsWord t.cc (fibreBase 1 + 8 * 62) = 0x5000 ∧
      lsWord t.cc (fibreBase 1 + 0x460) = 0x123456789A ∧ lsWord t.cc (fibreBase 1 + 0x470) = 1 ∧ t.cc.fibres.map (·.1) = [1] ∧ hwPeek t 0 0x5040 = 1)) := by decide +kernel

-- tables at 0x20000 (level 4) to 0x24000 (level 0), whose entry 3 names the page at 0x30000 with R and X
def tables : Memory := [(0x20000, 0x01), (0x20001, 0x10), (0x20002, 0x02), (0x21000, 0x01), (0x21001, 0x20), (0x21002, 0x02), (0x22000, 0x01), (0x22001, 0x30), (0x22002, 0x02),
  (0x23000, 0x01), (0x23001, 0x40), (0x23002, 0x02), (0x24018, 0x17), (0x24019, 0x00), (0x2401A, 0x03)].filter (·.2 ≠ 0)
def walkState (va : Nat) : State := let s := pk act fun k => { k with accs := [oneAcc (.load .global (.s 9 false) false) va] }
  { s with dram := tables, parts := [(0, { Part.reset with st := 2, gran := 1, ptroot := 0x20000 })] }
def xlateOf (o : Out) (va : Nat) (p : Perm) : Option Xl :=
  match o with
  | .next t => some (xlate t 0 va p)
  | _ => none
theorem witness_WalksLinesAndSamples_walk : vaKind 0x35678 = .translated ∧ (0, 0x35678) ∈ wanted (walkState 0x35678) ∧
    (match xlate (walkState 0x35678) 0 0x35678 .r with
     | .miss => true
     | _ => false) = true ∧
    (match xlateOf (exec (.pageWalk (homeOf (walkState 0x35678) 0x35678) 0 0x35678 false) (walkState 0x35678)) 0x35678 .r,
        xlateOf (exec (.pageWalk (homeOf (walkState 0x35678) 0x35678) 0 0x35678 false) (walkState 0x35678)) 0x35678 .w,
        xlateOf (exec (.pageWalk (homeOf (walkState 0x45678) 0x45678) 0 0x45678 false) (walkState 0x45678)) 0x45678 .r with
     | some (.ok _ l pa), some (.fault c m), some (.fault d n) => decide (l = 0 ∧ pa = 0x35678 ∧ c = 4 ∧ m = 0 ∧ d = 5 ∧ n = 0)
     | _, _, _ => false) = true := by decide +kernel

-- the home of 0x8000 holds its line
def lineState (f : Line → Line) (g : State → State := id) : State :=
  let s := g (accState (oneAcc (.atom .add .i32 true 1 0 9) 0x8000))
  { s with slices := s.slices.map fun x => (x.1, if x.1 = homeOf s 0x8000 then
      { x.2 with lines := [(0x400, [(2, f { part := 0, tag := 0x400, pa := 0x8000, rm := none, data := 0xBEEF, dirty := false, rrpv := 0, sharers := [], owner := none })])] } else x.2) }
def lineOut (o : Out) : Option (Option (BitVec 256 × Bool × Option Nat)) :=
  match o with
  | .next t => some ((lineFind (t.slice (homeOf t 0x8000)) 0 0x8000).map fun x => (x.2.data, x.2.dirty, x.2.owner))
  | _ => none
theorem witness_WalksLinesAndSamples_lines : (lineFind ((lineState id).slice (homeOf (lineState id) 0x8000)) 0 0x8000).isSome = true ∧
    ((lineState id).access 7).map (·.1) = some 0 ∧ lineWatched ((lineState id).slice (homeOf (lineState id) 0x8000)) 0 0x8000 = false ∧
    lineOut (exec (.nearOwnershipGrant 0 ⟨7, false⟩) (lineState id)) = some (some (0xBEEF, false, some 0)) ∧
    lineOut (exec (.nearRecall 0 0x8000) (lineState (fun l => { l with owner := some 0, sharers := [0] }) fun s => s.onCore 0 fun k =>
      { k with l1 := [(0, [(1, { part := 0, tag := 0x400, data := 0xF00D, rrpv := 0, marked := false, own := true })])] })) = some (some (0xF00D, true, none)) := by decide +kernel
/-- A clean of a dirty line; the home holds only that line, and the state only that slice. -/
def cleanState : State :=
  let s := lineState fun l => { l with dirty := true }
  let s := { s with slices := s.slices.filter (·.1 = homeOf s 0x8000) }
  { s.onCore 0 (fun k => { k with accs := [] }) with flights := [drained (.clean 0x8000 32)] }
theorem witness_WalksLinesAndSamples_clean : cleanState.slices.length = 1 ∧ cleanState.dram.wf = true ∧
    ok (exec (.cleanPerform 3) cleanState) (fun t => decide (t.flights = [] ∧ t.dram = [(0x8000, 0xEF), (0x8001, 0xBE)] ∧ lineOut (.next t) = some (some (0xBEEF, false, none)))) = true := by
  decide +kernel

-- the hotness log of partition 0: descriptor at 0x7000, log at 0x9000 with 2^1 records, HEAD 3
def sampleState (d : Word) : State :=
  let s := paged [(0x7001, 0x90), (0x7008, 1), (0x7010, 3)] (pk act)
  { s with slices := s.slices.map (fun g => (g.1, if g.1 = 4 then { g.2 with samples := [(0, 0x8040, 6, 1)] } else g.2)), parts := [(0, { Part.reset with st := 2, gran := 1, hot := d })]
           edges := [(0, { Edge.reset with merge := [(5, 1), (6, 1)] })], now := 0x77 }
theorem witness_WalksLinesAndSamples_samples : ((sampleState 0x7000).slice 4).samples = [(0, 0x8040, 6, 1)] ∧
    ok (exec (.dramBurst 0 5) (sampleState 0)) (fun t => decide ((t.edge 0).merge.map (·.1) = [6]) && sameMem (sampleState 0) t) ∧
    ok (exec (.hotnessSample 4 0) (sampleState 0)) (fun t => decide ((t.slice 4).samples = []) && sameMem (sampleState 0) t) ∧
    ok (exec (.hotnessSample 4 0) (sampleState 0x7000)) (fun t => decide ((t.slice 4).samples = [] ∧ hwPeek t 0 0x9020 = 0x8040 ∧ hwPeek t 0 0x9028 = 6 + 1 * 2 ^ 16 + 4 * 2 ^ 20 ∧
      hwPeek t 0 0x9030 = 0x77 ∧ hwPeek t 0 0x9038 = 4 ∧ ofLe (physRead t 0x7010 8) = 4)) := by decide +kernel

/-! ### The matrix unit (06) -/

def emptyMx : MxCtx := { part := 0, pp := 0, cls := 0, rowz := 0, blkz := false }
-- s1, s2: 64 rows of 32 bytes in tile 5; s3: rows of 256 bytes; s4: 0x3F800000 or an offset; s5, s6: weights at 0x8000 with scales 0x100 further on
def mxAct (ctx0 : MxCtx := emptyMx) : Act :=
  let a := { sr [(1, 5), (2, 0x6000020), (3, 0x6000100), (4, 0x40), (5, 0x8000), (6, 0x10000080)] memAct with extBase := 0x1000, extLen := 4096 }
  { a with mx := a.mx.setCtx 0 ctx0 }
def mxState (a : Act := mxAct) (q : List MxReq := []) : State :=
  { pk a (fun k => { handled k with mxq := q }) with fresh := 11, clusters := [(0, { Cluster.reset with tiles := [(5, { tileOf 2 with gran := 8 })] })] }
def mxReq (op : MxOp) (id : Nat := 7) : MxReq :=
  { id := id, act := 1, seq := 5, op := op, e4 := false, zs := false, started := false, res := .none, flags := 0, committed := false, waitAt := none }
/-- The request that an instruction queues, the registers that wait for it, and WARN. -/
def mxOutcome (o : Out) : Option (List (Nat × MxOp)) :=
  match o with
  | .next t => some (t.cc.mxq.map fun r => (r.id, r.op))
  | _ => none
def mxWaits (o : Out) : Option (List Reg × Word × Nat) :=
  match o with
  | .next t => some (t.me.pend, t.cc.warn, t.cc.accs.length)
  | _ => none
theorem witness_MatrixIssue : mxState.live = true ∧ mxState.phase = .whole ∧ unconfirmed mxState.cc mxState.me.id = false ∧
    (mxState.cc.mxq.filter (fun r => !r.started)).length < 2 ∧ (lsPlace mxState.me 0x40 256).isSome = true ∧
    (opndTrap mxState 5 0x6000020 64 1).isNone = true ∧ (opndWait mxState 5 0x6000020 64).isNone = true ∧ (opndTrap mxState 5 0x6000100 64 8).isNone = true ∧
    (opndTrap mxState 5 0x6000040 64 2).isNone = true ∧ (opndTrap mxState 5 0x6000040 32 2).isNone = true ∧
    (ldwTrap mxState true 0x8000 0x10000080).isNone = true ∧ (ldwTrap mxState false 0x8000 0x10000080).isNone = true ∧ mxOut mxState mxState.cur mxState.me.id = false := by decide +kernel
theorem test_mx_queues : ([(.mxMmaE4m3 1 2 3, .mma 0 1 2 3 false), (.mxMmaE5m2 1 2 3, .mma 1 1 2 3 false), (.mxMmxE4m3 1 2 3, .mma 2 1 2 3 false), (.mxMmxE5m2 1 2 3, .mma 3 1 2 3 false),
      (.mxMmaI8 1 2 3, .mma 4 1 2 3 false), (.mxMmaBf16 1 2 4, .mma 5 1 2 4 false), (.mxCmmaBf16 1 2 4, .mma 6 1 2 4 false), (.mxPromU 1, .prom 1 none),
      (.mxAzero 1, .azero 1), (.mxStat 9 1, .stat 9 1), (.mxDrop 1, .drop 1), (.mxLd 2 1 2, .ld false false 2 5 0x6000020), (.mxLd2 2 1 2, .ld true false 2 5 0x6000020),
      (.mxLdt 2 1 2, .ld false true 2 5 0x6000020), (.mxAstF32 1 1 3, .ast false 1 5 0x6000100), (.mxAstBf16 1 1 3, .ast true 1 5 0x6000100), (.mxAldF32 1 1 3, .ald 1 5 0x6000100),
      (.mxLdwQ4 2 5 6, .ldw true 2 0x8000 0x10000080), (.mxLdwE4m3 2 5 6, .ldw false 2 0x8000 0x10000080),
      (.mxProm 1 4 4, .prom 1 (some (List.replicate 64 0, 0x40)))] : List (Instr × MxOp)).all (fun x => decide (mxOutcome (exec x.1 mxState) = some [(11, x.2)])) = true := by
  decide +kernel
/-- A fifth K-step, or one of another class, promotes first and warns (R183). -/
theorem test_mx_promotes : mxOutcome (exec (.mxMmaI8 0 2 3) (mxState (mxAct { emptyMx with pp := 4, cls := 2 }))) = some [(11, .mma 4 0 2 3 true)] ∧
    mxOutcome (exec (.mxMmaI8 0 2 3) (mxState (mxAct { emptyMx with pp := 1, cls := 1 }))) = some [(11, .mma 4 0 2 3 true)] ∧
    mxOutcome (exec (.mxMmaI8 0 2 3) (mxState (mxAct { emptyMx with pp := 3, cls := 2 }))) = some [(11, .mma 4 0 2 3 false)] ∧
    mxWaits (exec (.mxMmaI8 0 2 3) (mxState (mxAct { emptyMx with pp := 4, cls := 2 }))) = some ([], 0x108, 0) := by decide +kernel
theorem test_mx_waits : mxWaits (exec (.mxLd2 2 1 2) mxState) = some ([.x 3, .x 2], 0, 0) ∧ mxWaits (exec (.mxAzero 1) mxState) = some ([.a 1], 0, 0) ∧
    mxWaits (exec (.mxStat 0 1) mxState) = some ([], 0, 0) ∧ mxWaits (exec (.mxLdwQ4 2 5 6) mxState) = some ([.x 2], 0, 1) := by decide +kernel
theorem test_mx_traps : trapOut (.mxLd 2 2 1) mxState = some (0x203, 5) ∧ trapOut (.mxLdwE4m3 2 1 6) mxState = some (0x203, 5) ∧ trapOut (.mxLd 2 6 2) mxState = some (0x20A, 0x80) := by
  decide +kernel

/-- The cluster holds leave tokens; its core has one request. -/
def startState (op : MxOp) (held asked : Nat) : State :=
  { mxState mxAct [mxReq op] with clusters := [(0, { Cluster.reset with held := held, asked := asked })] }
theorem witness_MatrixRequestsRun_start : (startState (.azero 1) 0 0).cc.mxq.length = 1 ∧ ((startState (.azero 1) 0 0).findAct 1).isSome = true ∧
    (mxCandidate (startState (.azero 1) 0 0) 0 2).isSome = true ∧
    ok (exec (.mxRequestStart 0 2) (startState (.azero 1) 0 0)) (fun t => decide ((t.cluster 0).stages[2]? = some { busy := some (0, 7), last := 0 } ∧ t.cc.mxq.map (·.started) = [true])) ∧
    ok (exec (.mxRequestStart 0 1) (startState (.mma 4 0 2 3 false) 1 0)) (fun t => decide ((t.cluster 0).held = 0 ∧ t.cc.mxq.map (·.started) = [true])) ∧
    ok (exec (.mxRequestStart 0 1) (startState (.mma 4 0 2 3 false) 0 0)) (fun t => decide ((t.cluster 0).asked = 64 ∧ t.cc.mxq.map (·.started) = [false] ∧
      (t.die 0).reqs = [{ pool := .mx 0 0, n := 64, refused := false, since := 0 }])) ∧
    ok (exec (.mxRequestStart 0 1) (startState (.mma 4 0 2 3 false) 0 64)) (fun t => decide ((t.cluster 0).asked = 64 ∧ (t.die 0).reqs = [])) := by decide +kernel

def doneState (op : MxOp) (res : MxRes := .none) (ctx0 : MxCtx := emptyMx) : State :=
  let r := { mxReq op with started := decide (op.stage ≠ none), res := res }
  { mxState { mxAct ctx0 with pend := op.dsts } [r] with clusters := [(0, { Cluster.reset with stages := List.replicate 3 { busy := some (0, 7), last := 0 } })] }
theorem witness_MatrixRequestsRun_complete : (doneState (.azero 0)).cc.mxq.length = 1 ∧ (doneState (.azero 0)).findAct 1 = some (doneState (.azero 0)).me ∧
    ok (exec (.mxRequestComplete 0 7) (doneState (.azero 0) .none { emptyMx with pp := 2, cls := 1 })) (fun t => decide (t.cc.mxq = [] ∧ (t.me.mx.ctx.get 0).pp = 0 ∧ t.me.pend = [] ∧
      (t.cluster 0).stages.map (·.busy) = [none, none, none])) ∧
    ok (exec (.mxRequestComplete 0 7) (doneState (.drop 0) .none { emptyMx with pp := 2, cls := 1 })) (fun t => decide ((t.me.mx.ctx.get 0).pp = 0 ∧ t.cc.mxq = [])) ∧
    ok (exec (.mxRequestComplete 0 7) (doneState (.stat 9 0) .none { emptyMx with pp := 2, cls := 3, blkz := true })) (fun t => decide (t.me.regs.getS 9 = 0xB2 ∧ t.me.pend = [])) ∧
    ok (exec (.mxRequestComplete 0 7) (doneState (.mma 4 0 2 3 false) (.part 5 1 false))) (fun t => decide ((t.me.mx.ctx.get 0).pp = 1 ∧ (t.me.mx.ctx.get 0).part = 5)) ∧
    ok (exec (.mxStateCopy 0 0) (mxState mxAct [mxReq (.drop 0)])) (fun t => decide (t.me = { mxAct with mxPlaced := true })) := by decide +kernel
/-- An element of a K-step: 2 * (-1) + 3 * 4; and a promotion that wraps. -/
theorem test_mx_integer : (kElem 4 false [2, 3] [255, 4] false).val = 10 ∧ (kElem 4 false [1] [255] false).val = 0xFFFFFFFF ∧ (promElem 2 0 0 0xFFFFFFFF 2).val = 1 := by decide +kernel

/-! ### The copy engine (08) -/

-- a descriptor at offset 0x40: 32 bytes of one row from 0x9000 to 0x8000; entry 0 of the completion table is in use
def cpDescWords : List Word := [0x8000, 0, 0x9000, 0, 0x100000020, 0, 0, 0]
def cpEntry (st : CpSt) (f : CpForm := .copy) (d : List Word := cpDescWords) : CpEnt :=
  { CpEnt.reset with gen := 6, st := st, owner := some 1, rcb := 0x5000, form := f, desc := d, pattern := 0x0807060504030201, status := (if st = .done then 1 else 0), act := 1, seq := 3 }
-- s1 names the descriptor, s2 is the pattern, s3 the handle of entry 0, s4 a stale one
def cpAct : Act := { sr [(1, 0x40), (2, 0xABCD), (3, 6 * 2 ^ 9), (4, 5 * 2 ^ 9), (5, 0x48), (6, 0x1000)] act with extBase := 0x1000, extLen := 256, rp := 0x5000 }
def cpState (e : CpEnt) (f : Core → Core := id) : State :=
  { paged [] (pk cpAct fun k => f { handled k with cps := [(0, e)], ls := mwrite [] 0x1040 (cpDescWords.flatMap fun w => leBytes 8 w.toNat) }) with
    clusters := [(0, { Cluster.reset with tiles := [(5, tileOf 1)] })] }
theorem witness_CopyForms_issue : (cpState (cpEntry .running)).live = true ∧ (cpState (cpEntry .running)).phase ≠ .dry ∧
    unconfirmed (cpState (cpEntry .running)).cc (cpState (cpEntry .running)).me.id = false ∧ ((cpState (cpEntry .running)).cc.rb.map (·.size)).sum + 64 ≤ 16384 ∧
    ((cpState (cpEntry .running)).cc.cp 1).st = .free ∧ (lsPlace (cpState (cpEntry .running)).me 0x40 64).isSome = true ∧
    cpDesc (cpState (cpEntry .running)) 0x40 = cpDescWords ∧
    ([.copy, .gather, .scatter, .fill, .mcast, .walk, .cow] : List CpForm).all (fun f => (cpCheck (cpState (cpEntry .running)) f cpDescWords).isNone) = true := by decide +kernel
theorem test_cp_issue : ([(.cpCopy 9 1, .copy, 0), (.cpGather 9 1, .gather, 0), (.cpScatter 9 1, .scatter, 0), (.cpFill 9 1 2, .fill, 0xABCD), (.cpMcast 9 1, .mcast, 0),
      (.cpWalk 9 1, .walk, 0), (.cpCow 9 1, .cow, 0)] : List (Instr × CpForm × Word)).all (fun x => ok (exec x.1 (cpState (cpEntry .running))) fun t =>
    decide (t.me.regs.getS 9 = 0x201 ∧ t.cc.rb = [{ seq := 5, size := 64, op := .cp 1, pc := 0x100 }] ∧ (t.cc.cp 1).form = x.2.1 ∧ (t.cc.cp 1).desc = cpDescWords ∧ (t.cc.cp 1).pattern = x.2.2 ∧
      (t.cc.cp 1).gen = 1) && sameMem (cpState (cpEntry .running)) t) = true := by decide +kernel
theorem test_cp_traps : trapOut (.cpCopy 9 5) (cpState (cpEntry .running)) = some (3, 0x48) ∧ trapOut (.cpCopy 9 6) (cpState (cpEntry .running)) = some (4, 0x1000) := by decide +kernel
theorem witness_CopyForms_handles : bitsNat (0xC00 : Word) 24 9 = 6 ∧ (cpState (cpEntry .done)).cc.cpq = [] ∧
    ([Instr.cpWait 9 4, .cpPoll 9 4, .cpCancel 9 4].all fun i => answers i (cpState (cpEntry .done)) ((cpState (cpEntry .done)).withS 9 4)) = true ∧
    ([Instr.cpWait 9 3, .cpPoll 9 3, .cpCancel 9 3].all fun i => ok (exec i (cpState (cpEntry .done))) fun t => decide (t.me.regs.getS 9 = 1 ∧
      t.cc.cp 0 = { CpEnt.reset with gen := 6 })) = true ∧
    answers (.cpPoll 9 3) (cpState (cpEntry .running)) ((cpState (cpEntry .running)).withS 9 0) = true ∧
    answers (.cpPoll 9 3) (cpState (cpEntry .queued)) ((cpState (cpEntry .queued)).withS 9 0) = true ∧
    ok (exec (.cpCancel 9 3) (cpState (cpEntry .queued) fun k => { k with cpq := [0] })) (fun t => decide (t.me.regs.getS 9 = 2 ∧ t.cc.cpq = [] ∧ (t.cc.cp 0).st = .free)) = true ∧
    ok (exec (.cpCancel 9 3) (cpState (cpEntry .running))) (fun t => decide (t.cc.cp 0 = { cpEntry .running with cancel := true } ∧ t.me = { cpAct with npc := 0x100, waitFor := some (.cpDone 0) })) = true := by
  decide +kernel
/-- A fill of one block of tile 5, whose base is granule 2. -/
def fillDesc : List Word := [0x8000000000000005, 0x6000020, 0, 0, 0x100000020, 0, 0, 0]
theorem witness_CopyEngineRuns_start : (cpEntry .queued .fill fillDesc).refills (cpState (cpEntry .queued)) 0 = false ∧ cpEarlier (cpState (cpEntry .queued)) (cpEntry .queued) = false ∧
    (cpEntry .queued .fill fillDesc).tilesOk (cpState (cpEntry .queued)) 0 = true ∧ (cpEntry .queued .fill (fillDesc.set 0 0x8000000000000006)).tilesOk (cpState (cpEntry .queued)) 0 = false ∧
    ok (exec (.cpStart ⟨0, false⟩) (cpState (cpEntry .queued .fill fillDesc) fun k => { k with cpq := [0, 4] })) (fun t => decide (t.cc.cpq = [4] ∧ (t.cc.cp 0).st = .running)) ∧
    ok (exec (.cpStart ⟨0, false⟩) (cpState (cpEntry .queued .fill (fillDesc.set 0 0x8000000000000006)) fun k => { k with cpq := [0, 4] })) (fun t =>
      decide (t.cc.cpq = [4] ∧ (t.cc.cp 0).st = .done ∧ (t.cc.cp 0).status = 6)) := by decide +kernel
def filling : CpEnt := { cpEntry .running .fill fillDesc with srcAt := [(List.range 32).map fun b => BitVec.ofNat 8 (0x0807060504030201 / 256 ^ (b % 8))] }
/-- One byte is still to be moved: whether this move reads it ahead or moves it is open. -/
def lastByte : State := cpState { filling with left := [(9, 10)] } fun k => { k with cpHeld := 1 }
theorem witness_CopyEngineRuns_complete : lastByte.asks = [] ∧ filling.refills lastByte 0 = false ∧ filling.rows = 1 ∧ filling.rb = 32 ∧ isSpad (filling.d 0) = true ∧ filling.rdy = false ∧ (filling.d 7).toNat = 0 ∧
    ok (match cpMove (cpState filling) 0 filling false 3 7 with
      | .moved t => .next t
      | _ => .next (cpState filling)) (fun t => decide ((t.cluster 0).spad = (List.range 7).map fun (i : Nat) => ((4099 + i, BitVec.ofNat 8 ((3 + i) % 8 + 1)) : Host.Cell))) ∧
    ok (.next (cpRun 0 0 false 1 1 lastByte.used)) (fun t => decide ((t.cpEnt 0 0).left = [] ∧ cpAsks t 0 0 = false) && ok (.next (cpEndRun t 0 0 false)) (fun u =>
      decide ((u.cc.cp 0).st = .done ∧ (u.cc.cp 0).status = 1 ∧ (u.cluster 0).spad = [(4105, 2)]))) ∧
    ok (.next (cpLook 0 0 false 1 lastByte.used)) (fun t => decide ((t.cc.cp 0).st = .running ∧ (t.cc.cp 0).left = [(9, 10)]) && sameMem lastByte t) ∧
    ok (exec (.cpStart ⟨0, false⟩) (cpState { cpEntry .queued with cancel := true } fun k => { k with cpq := [0] })) (fun t =>
      decide (t.cc.cpq = [] ∧ (t.cc.cp 0).st = .done ∧ (t.cc.cp 0).status = 2) && sameMem (cpState (cpEntry .queued)) t) ∧
    ok (exec (.cpCancelStop 0 0 0) (cpState { cpEntry .running with cancel := true })) (fun t => decide ((t.cc.cp 0).st = .done ∧ (t.cc.cp 0).status = 2) &&
      sameMem (cpState (cpEntry .running)) t) := by decide +kernel
def unfilled : State :=
  (cpState { filling with left := [(9, 10)] } fun k => { k with cpHeld := 1 }).onCluster 0 fun c => c.onTile 5 fun t => { t with refill := true }
theorem witness_CopyEngineRuns_refill : filling.refills (cpState filling) 0 = false ∧ filling.refills unfilled 0 = true ∧
    ok (exec (.cpComplete 0 0 false) unfilled) (fun t => decide (t = unfilled)) := by decide +kernel

/-! ### The fabric (14) -/

-- package 0 of a domain of `n`; link 2 is up to package 1; s1 = 0, s2 = 1, s3 = 100, s4 names counter 4 of link 2, s5 = 0x8010
def link2 (f : Link → Link := id) : FMap Link := [(2, f { Link.reset with vers := [(1, 1)], ctr := Link.reset.ctr.set 4 9 })]
def fabAct (m : Nat := 0) : Act := inMode m (sr [(1, 0), (2, 1), (3, 100), (4, 0x4002), (5, 0x8010), (6, 0xC002)] { act with rp := 0x5000 })
def fabState (n : Nat := 2) (a : Act := fabAct) (f : Link → Link := id) (guard : Bool := false) : State :=
  { pk a handled with domain := n, links := link2 f, guard := guard, now := 500, slotAt := 100, rot := 0x1000003, slot := 0, edges := [(0, Edge.reset)] }
theorem witness_FabricForms : (fabState).live = true ∧ (fabState).phase = .whole ∧ unconfirmed (fabState).cc (fabState).me.id = false ∧ peerNow (fabState) = 1 ∧
    sOut (.fabSlot 9) (fabState) 9 = some (0x0002000003000190, 0) ∧ sOut (.fabPeer 9 2) (fabState) 9 = some (0x10010100, 0) ∧ sOut (.fabPeer 9 1) (fabState) 9 = some (0x1003F, 0) ∧
    sOut (.fabCtr 9 4) (fabState 2 (fabAct 1)) 9 = some (9, 0) ∧ trapOut (.fabCtr 9 4) (fabState) = some (4, 0x4002) ∧
    ok (exec (.fabCtr 9 6) (fabState 2 (fabAct 1))) (fun t => decide (t = trapMe (fabState 2 (fabAct 1)) ⟨4, false, false, 0x100, 0xC002⟩)) ∧
    sOut (.fabWait 9 1 3) (fabState) 9 = some (0x41, 0) ∧ sOut (.fabWait 9 3 3) (fabState) 9 = some (0x41, 0) ∧ sOut (.fabWait 9 2 3) (fabState) 9 = some (0, 0) := by decide +kernel
theorem witness_FabricForms_parks : ok (exec (.fabWait 9 2 3) (fabState 2 fabAct id true)) (fun t => decide (t.cc.run = none ∧
    t.cc.acts.map (fun x => (x.2.park, x.2.pc, x.2.pend)) = [(.fabWait 1 (some 600) false 9, 0x108, [.s 9])])) ∧
    ok (exec (.fabWait 9 2 1) (fabState 2 fabAct id true)) (fun t => decide (t.cc.acts.map (·.2.park) = [.fabWait 1 none false 9])) := by decide +kernel
-- the page at 0x8000 belongs to package 1
def farPage (s : State) : State := { s with slices := (List.range 32).map fun h => (h, { Slice.reset with tlb := [{ part := 0, level := 0, page := 0, pte := 0x60000000000019 ||| 0x6 }] }) }
theorem witness_FabricForms_prefetch : (match xlateHw (farPage (fabState)) 0 0x8000 .r with
      | .ok pte _ _ => decide (pteRemote (farPage (fabState)) pte = some 1)
      | _ => false) = true ∧ vaKind 0x8000 = .translated ∧ proxyState ((farPage (fabState)).slice (homeOf (fabState) 0x8000)) 0 0x8000 = .i ∧
    ok (exec (.fabPf 5 2) (farPage (fabState))) (fun t => decide (t.rreqs.map (fun r => (r.va, r.pkg, r.excl, r.since)) = [(0x8000, 1, false, 500)] ∧ t.me = fabAct)) ∧
    answers (.fabPf 5 1) (farPage (fabState)) fabAct = true := by decide +kernel

-- slots of 10 us (21000 cycles) in a domain of 4
def rotorState (now slot : Nat) (guard : Bool := true) (park : Option Park := none) (pend : List Reg := []) : State :=
  { fabState 4 { fabAct with park := park.getD .running, pend := pend } id guard with now := now, slot := slot, slotNext := 20 }
theorem witness_RotorAndLinks_slots : ok (exec .fabricSlotStart (rotorState 21099 1)) (fun t => decide (t = rotorState 21099 1)) ∧
    ok (exec .fabricSlotStart (rotorState 21100 1 false)) (fun t => decide (t.slot = 2 ∧ t.slotAt = 21100 ∧ t.guard = true ∧ t.slotLen = 10)) ∧
    ok (exec .fabricSlotStart (rotorState 21100 2)) (fun t => decide (t.slot = 0 ∧ t.rot = 0x1000004)) ∧
    ok (exec .fabricSlotStart { rotorState 21100 2 with slotNext := 10 }) (fun t => decide (t.slot = 0 ∧ t.rot = 0x1000004 ∧ t.slotLen = 10)) ∧
    ok (exec .guardEnd (rotorState 519 1)) (fun t => decide (t = rotorState 519 1)) ∧ ok (exec .guardEnd (rotorState 520 1)) (fun t => decide (t = rotorState 520 1 false)) := by
  decide +kernel
theorem witness_RotorAndLinks_wait : peerNow (rotorState 520 1) = 2 ∧ (rotorState 520 1).cores.length = 1 ∧
    ok (exec .guardEnd (rotorState 520 1 true (some (.fabWait 2 none false 9)) [.s 9])) (fun t => decide (t.cc.acts.map (fun x => (x.2.park, x.2.regs.getS 9, x.2.pend)) = [(.queued, 1, [])])) ∧
    ok (exec (.fabWaitTimeout 0 0) (rotorState 520 1 true (some (.fabWait 2 (some 520) false 9)) [.s 9])) (fun t =>
      decide (t.cc.acts.map (fun x => (x.2.park, x.2.regs.getS 9)) = [(.queued, 0x40)])) ∧
    ok (exec (.fabWaitTimeout 0 0) (rotorState 519 1 true (some (.fabWait 2 (some 520) false 9)) [.s 9])) (fun t => decide (t.cc.acts.map (·.2.park) = [.fabWait 2 (some 520) false 9])) := by
  decide +kernel

/-- What an instruction leaves of link 2. -/
def linkOut (o : Out) (p : Link → Bool) : Bool := ok o fun t => p (t.link 2)
def aFlit (n : Nat) : Flit := { bulk := true, typ := 0, seq := BitVec.ofNat 12 n, ack := 0, dst := 0, tag := 0, payload := 0, crc := 0 }
theorem witness_RotorAndLinks_link : linkUp_ (fabState) 2 = true ∧ ((fabState).link 2).training = false ∧ edPresent (fabState) (2 / 36) = true ∧
    linkOut (exec (.linkRetrain 2) (fabState)) (fun k => decide (k.training = true ∧ k.ctr[5] = 1 ∧ k.ctr[4] = 10)) ∧
    linkOut (exec (.linkRetrain 2) (fabState 2 fabAct fun k => { k with ctr := k.ctr.set 5 8 })) (·.retired) ∧
    linkOut (exec (.linkRetrainEnd 2) (fabState 2 fabAct fun k => { k with training := true })) (fun k => decide (k.training = false)) ∧
    ok (exec (.linkRetrain 2) (fabState 2 fabAct fun k => { k.onConn 1 (fun c => { c with replay := [(0, { aFlit 3 with dst := 1 })] }) with ctr := k.ctr.set 5 8 })) (fun t => decide (fget (t.edge 0).bulkQ 1 = some [(0, { aFlit 3 with dst := 1 })])) ∧
    linkOut (exec (.linkRestore 2) (fabState 2 fabAct fun k => { k with retired := true })) (fun k => decide (k.retired = false)) ∧
    linkOut (exec (.leakyBucketDecay 2) { (fabState 2 fabAct fun k => { k with ctr := k.ctr.set 5 3 }) with now := 21000000000 }) (fun k => decide (k.ctr[5] = 2 ∧ k.decayAt = 21000000000)) ∧
    linkOut (exec (.leakyBucketDecay 2) { (fabState 2 fabAct fun k => { k with ctr := k.ctr.set 5 3 }) with now := 20999999999 }) (fun k => decide (k.ctr[5] = 3)) ∧
    linkOut (exec (.linkUp 40 2) { fabState with eds := 3 }) (fun k => decide (k = (fabState).link 2)) ∧
    ok (exec (.linkUp 40 2) { fabState with eds := 3 }) (fun t => decide (fget (t.link 40).vers 1 = some 1)) := by decide +kernel
/-- A trained connection sends the control flits that had not arrived, then the bulk flits that are not acknowledged. -/
theorem test_trained : let c : Conn := { Conn.reset with replay := [(0, aFlit 3)], ctlSent := [(0, aFlit 7), (0, aFlit 8)], txCtl := 9 }
    ((c.trained 0).resend.map fun x => x.2.seq) = [3] ∧ (c.trained 0).txCtl = 0 ∧ ((c.trained 1).resend.map fun x => x.2.seq) = [8, 3] ∧ (c.trained 1).txCtl = 1 := by
  decide +kernel
def withLane (x : Lane) (k : Link) : Link := { k with lanes := k.lanes.set 3 x }
-- 100 * 2^27 / 10^8 = 134.2: 135 errors exceed the threshold of a window; 100 * 2^23 / 10^8 = 8.39: 8 errors pass the check
theorem witness_RotorAndLinks_lane : lanesUp ((fabState).link 2) = 8 ∧
    linkOut (exec (.laneErrorWindow 2 3 135) (fabState)) (fun k => decide (k.lanes[3] = .train ∧ k.ctr[6] = 1)) ∧
    linkOut (exec (.laneErrorWindow 2 3 134) (fabState)) (fun k => decide (k.lanes[3] = .up)) ∧
    linkOut (exec (.laneErrorWindow 2 3 8) (fabState 2 fabAct (withLane .check))) (fun k => decide (k.lanes[3] = .up ∧ k.ctr[7] = 1)) ∧
    linkOut (exec (.laneErrorWindow 2 3 9) (fabState 2 fabAct (withLane .check))) (fun k => decide (k.lanes[3] = .train)) ∧
    linkOut (exec (.laneRetrainEnd 2 3) (fabState 2 fabAct (withLane .train))) (fun k => decide (k.lanes[3] = .check)) := by decide +kernel
theorem witness_RotorAndLinks_nak :
    linkOut (exec (.nak 2 false 5) (fabState 2 fabAct fun k => k.onConn 1 fun c => { c with txCtl := 7, ctlSent := [(0, aFlit 4), (0, aFlit 5), (0, aFlit 6)] })) (fun k => decide ((k.conn 1).resend = [(0, aFlit 5), (0, aFlit 6)] ∧ k.ctr[3] = 1)) ∧
    linkOut (exec (.nak 2 true 1) (fabState 2 fabAct fun k => k.onConn 1 fun c => { c with txSeq := 2, replay := [(0, aFlit 4095), (0, aFlit 0), (0, aFlit 1)] })) (fun k => decide ((k.conn 1).resend = [(0, aFlit 1)])) ∧
    (2 + 4096 - 3 + 2) % 4096 = 1 := by decide +kernel

/-- The check value of this CRC over the bytes "123456789" (polynomial 0x1021, all ones first). -/
theorem test_flit_crc : crcBytes 0xFFFF [0x31, 0x32, 0x33, 0x34, 0x35, 0x36, 0x37, 0x38, 0x39] = 0x29B1 := by decide +kernel
def sendingState : State := { fabState with qmax := 40, edges := [(0, { Edge.reset with ctlQ := [(1, [(0, { aFlit 0 with bulk := false, typ := 4, dst := 1 })])] })] }
theorem witness_FlitsAndRemoteBlocks_send : sendingState.guard = false ∧ slotRoom sendingState (sendingState.link 2) = true ∧ (fget (sendingState.link 2).vers (peerNow sendingState)).isSome = true ∧
    (sendingState.link 2).slotCtl = 0 ∧ sendingState.qmax = 40 ∧ (fget (sendingState.edge 0).ctlQ 1).isSome = true := by decide +kernel
theorem witness_FlitsAndRemoteBlocks_stream : streamLink sendingState 0 0 1 false = some 2 := by
  have h : ((List.range (bitsNat (sendingState.partn 0).fab 13 8)).map (36 * 0 + ·)).filter (linkUp_ sendingState) = [2] := by decide +kernel
  unfold streamLink
  simp only [h, List.length_singleton, Nat.max_self, Nat.mod_one]
  rfl
def intact (f : Flit) : Flit := { f with crc := flitCrc 0xFFFF { f with crc := 0 } }
def receiveState : State := fabState 2 fabAct fun k => k.onConn 1 fun c => { c with rxSeq := 6 }
theorem witness_FlitsAndRemoteBlocks_receive : (intact (aFlit 6)).crc = flitCrc 0xFFFF { intact (aFlit 6) with crc := 0 } ∧ (aFlit 6).crc ≠ flitCrc 0xFFFF { aFlit 6 with crc := 0 } ∧
    ok (exec (.flitReceive 2 (intact { aFlit 6 with tag := 0x2005, payload := 7 })) receiveState) (fun t => decide (t.inbox.map (fun x => (x.pkg, x.what)) = [(1, .reply [7, 0, 0, 0] true 5)] ∧
      ((t.link 2).conn 1).rxSeq = 7 ∧ (t.link 2).ctr[1] = 1)) ∧
    ok (exec (.flitReceive 2 (intact (aFlit 5))) receiveState) (fun t => decide (t.inbox = [] ∧ ((t.link 2).conn 1).rxSeq = 6 ∧ ((t.link 2).conn 1).naks = [])) ∧
    ok (exec (.flitReceive 2 (intact (aFlit 8))) receiveState) (fun t => decide (t.inbox = [] ∧ ((t.link 2).conn 1).rxSeq = 6 ∧
      ((t.link 2).conn 1).naks.map (fun y => (y.typ, y.payload.toNat % 2 ^ 64)) = [(5, 6)] ∧ ((t.link 2).conn 1).gapTo = some 8) &&
      ok (exec (.flitReceive 2 (intact (aFlit 9))) t) (fun t => decide (((t.link 2).conn 1).naks.length = 1 ∧ ((t.link 2).conn 1).gapTo = some 9))) := by decide +kernel
-- with nothing queued an idle flit leaves; it takes 357 80ths of a cycle
theorem witness_FabricEventsComplete_send : linkSends (fabState) 2 = true ∧ linkOut (exec (.flitBoundary 2) (fabState)) (fun k => decide (k.slotAll = 1 ∧ k.ctr[0] = 1 ∧
    k.busyTo = 40357 ∧ (k.conn 1).txCtl = 1)) ∧ linkSends (fabState 2 fabAct fun k => { k with busyTo := 40080 }) 2 = false := by decide +kernel

def remoteState (w : InWhat) (rreqs : List RReq := []) (accs : List Access := []) (now : Nat := 500) : State :=
  let s := paged [] (fabState)
  { s with inbox := [{ id := 8, pkg := 1, part := 0, tag := 0, what := w }], rreqs := rreqs, now := now, cores := [(0, { (fabState).cc with accs := accs })] }
def aReq (excl : Bool) : RReq := { id := 2 ^ 13 + 5, part := 0, va := 0x8010, pkg := 1, excl := excl, slice := 4, since := 500 }
theorem witness_FlitsAndRemoteBlocks_blocks : 
    ok (exec (.proxyLineReply 8) (remoteState (.reply [1, 2, 3, 4] true 5) [aReq false])) (fun t => decide (t.inbox = [] ∧ t.rreqs = [] ∧ proxyState (t.slice 4) 0 0x8010 = .e)) ∧
    ok (exec (.proxyLineReply 8) (remoteState (.reply [1, 2, 3, 4] true 5) [aReq true])) (fun t => decide (proxyState (t.slice 4) 0 0x8010 = .m)) ∧
    ok (exec (.homeInvalidate 8) (remoteState (.invalidate 0x8010))) (fun t => decide (t.inbox = [] ∧ proxyState (t.slice (homeOf t 0x8010)) 0 0x8010 = .i)) ∧
    ok (exec (.homeRemoteRequest 8) (remoteState (.request false 0x8010))) (fun t => decide (t.inbox = [] ∧
      (t.slice (homeOf t 0x8000)).peers = [{ part := 0, blk := 0x100, pkg := 1, excl := true, asked := false, tag := 0 }])) := by decide +kernel
def waitingLoad : Access := { id := 7, act := 1, seq := 5, pc := 0x100, kind := .load .global (.s 9 false) false, va := 0x8018, size := 8, acq := false, rel := false, hint := 0, e4 := false,
                              dual := false, st := .pending, before := none }
-- FTO 4, one slot of 10 us a rotation: 84000 cycles
theorem witness_FlitsAndRemoteBlocks_timeout :
    ok (exec (.remoteRequestTimeout (2 ^ 13 + 5)) (remoteState (.invalidate 0) [aReq false] [waitingLoad] 84499)) (fun t => decide (t.rreqs.length = 1)) ∧
    ok (exec (.remoteRequestTimeout (2 ^ 13 + 5)) (remoteState (.invalidate 0) [aReq false] [waitingLoad] 84500)) (fun t => decide (t.rreqs = [] ∧
      t.cc.accs = [{ waitingLoad with st := .failed 4 0x8018 0 }])) := by decide +kernel

/-! ### Stockpots (15) -/

def potWords (l : List Nat) : List Byte := l.flatMap fun w => leBytes 8 w
-- an open pot of 4 integers, L 2, generation 9, slots 0 to 2 expected, slot 0 landed in row 9
def pot0 : Pot := { Pot.reset with isOpen := true, inc := 3, d := 4, l := 2, g := 9, e := 7, landed := Pot.reset.landed.set 9 1, sum := [0, 0, 0, 0], part := 0 }
def pot1 : Pot := { pot0 with inc := 8, isOpen := false }
/-- The handle of entry 0 of the home of 0x8000, and a stale one. -/
def potHome : Nat := homeOf (pk act) 0x8000
def hdl : Word := potHandle 0 potHome 0 3
-- blocks at 0x40 (open: 8 elements, L 2, generation 5, E 3, near 0x8000), 0x60 (post: slot 1, generation 9, 4 elements from 0x100 to element 0), 0x80 (read),
-- 0xA0 (open with a bad size)
def potAct : Act := { sr [(1, 0x40), (2, hdl), (3, 0x60), (4, 0x80), (5, 0xA0), (6, 0x2), (7, 0x11)] act with extBase := 0x1000, extLen := 512, rp := 0x5000 }
def potState (pots : FMap Pot := [(0, pot0), (1, pot1)]) (ways : Nat := 1) (f : Core → Core := id) (a : Act := potAct) : State :=
  let s := paged [] (pk a fun k => f { handled k with ls := mwrite [] 0x1040 (potWords
    [0x500200008, 3, 0x8000, 0, 0x900000001, 0x0004000000000100, 0, 0, 7, 0x64_00000140, 0x40000, 0, 0x500200006, 3, 0x8000]) })
  { s with slices := s.slices.map fun g => (g.1, if g.1 = potHome then { g.2 with pots := pots, ways := ways } else g.2) }
theorem witness_PotForms : (potState).live = true ∧ (potState).phase = .whole ∧ unconfirmed (potState).cc (potState).me.id = false ∧ (potState).cc.rb = [] ∧
    (postTrap (potState) hdl 0x60).isNone = true ∧ (potBlkTrap (potState) 0x40).isNone = true ∧ (potBlkTrap (potState) 0xA0).isNone = true ∧ (readTrap (potState) hdl 0x80).isNone = true ∧
    vaRemote (potState) (potState).mypart 0x8000 = none ∧ potHome < 512 ∧ potUsed ((potState).slice potHome) + potSize 8 false ≤ potStore ((potState).slice potHome) := by decide +kernel
theorem test_pot_buffers : ([(.potClose 2, 8, .potClose hdl), (.potSeal 2, 8, .potSeal hdl), (.potExp 2 7, 8, .potExp hdl 0x11), (.potReset 2 7, 8, .potReset hdl 0x11),
      (.potPost 2 3, 32, .post hdl { slot := 1, bf16 := false, gen := 9, src := 0x1100, first := 0, count := 4, cw := 0 } [])] : List (Instr × Nat × RbOp)).all (fun x =>
    answersCore x.1 (potState) (potState) ((potState).cc.buffering act x.2.1 x.2.2)) = true := by decide +kernel
theorem witness_PotForms_stat : answersCore (.potStat 9 2 6) (potState) (potState).used1 (((potState).cc.withRequest ((potState).request (.potStat hdl 2 9) 0 8 false false 2 none)).awaiting (.s 9))
    = true := by decide +kernel
theorem witness_PotForms_open : ok (exec (.potOpen 9 1) (potState)) (fun t => decide (t.me.regs.getS 9 = potHandle 0 potHome 1 9 ∧ t.me.potClaims = [potHandle 0 potHome 1 9] ∧
      fget (t.slice potHome).pots 1 = some { Pot.reset with isOpen := true, inc := 9, d := 8, l := 2, g := 5, e := 3, sum := List.replicate 8 0 })) ∧
    sOut (.potOpen 9 5) (potState) 9 = some (0x300000000, 0) ∧ sOut (.potOpen 9 1) (potState [(0, pot0)] 0) 9 = some (0x200000000, 0) ∧
    sOut (.potOpen 9 1) (potState ((List.range 16).map fun n => (n, pot0))) 9 = some (0x100000000, 0) := by decide +kernel
theorem witness_PotForms_read : ([(.potRead 9 2 4, false), (.potReadSeal 9 2 4, true)] : List (Instr × Bool)).all (fun x => ok (exec x.1 (potState)) fun t =>
    decide (t.cc.run = none ∧ t.cc.acts.map (fun y => (y.2.pc, y.2.pend)) = [(0x108, [.s 9])] ∧
      t.potReads.map (fun r => (r.handle, r.need, r.dst, r.bf16, r.limit)) = [(hdl, 7, 0x140, false, 0x64)] ∧
      t.potReads.map (fun r => (r.first, r.count, r.sealing, r.st)) = [(0, 4, x.2, .travelling)] ∧
      t.cc.acts.map (·.2.park) = t.potReads.map (fun r => .potRead r.id))) = true := by decide +kernel

def potFlight (op : RbOp) (pots : FMap Pot := [(0, pot0)]) : State := { potState pots with flights := [drained op] }
def postOf (slot : Nat) (gen : BitVec 32) (first : Nat := 0) : RbOp := .post hdl { slot := slot, bf16 := false, gen := gen, src := 0x1100, first := first, count := 2, cw := 0 } (leBytes 4 0x3F800000 ++ leBytes 4 0x40000000)
def potOut (o : Out) (p : Pot → Bool) : Bool := ok o fun t => decide (t.flights = []) && ((fget (t.slice potHome).pots 0).map p).getD false
theorem witness_PotEffects : potAt (potFlight (.potSeal hdl)) 0 hdl = some pot0 ∧ potPkg hdl = (potState).pkg ∧ (potFlight (.potSeal hdl)).potReads = [] ∧
    potOut (exec (.potPostPerform 3) (potFlight (postOf 1 9))) (fun p => decide (p.landed.get 9 = 3 ∧ p.rej = 0 ∧ p.sum.take 1 ≠ [0] ∧ p.sum.drop 2 = [0, 0])) ∧
    potOut (exec (.potPostPerform 3) (potFlight (postOf 2 7))) (fun p => decide (p.landed.get 7 = 4 ∧ p.rej = 0)) ∧
    ([postOf 0 9, postOf 3 9, postOf 1 6, postOf 1 10, postOf 1 9 3].all fun op => potOut (exec (.potPostPerform 3) (potFlight op)) fun p => decide (p = { pot0 with rej := 1 })) = true ∧
    potOut (exec (.potPostPerform 3) (potFlight (.potSeal hdl))) (fun p => decide (p.g = 10 ∧ p.landed.get 10 = 0 ∧ p.landed.get 9 = 1)) ∧
    potOut (exec (.potPostPerform 3) (potFlight (.potExp hdl 6))) (fun p => decide (p = { pot0 with e := 6 })) ∧
    potOut (exec (.potPostPerform 3) (potFlight (.potReset hdl 2))) (fun p => decide (p.g = 2 ∧ p.landed.get 9 = 0 ∧ p.e = 7)) ∧
    potOut (exec (.potPostPerform 3) (potFlight (.potClose hdl))) (fun p => decide (p = { Pot.reset with inc := 3 })) ∧
    potOut (exec (.potPostPerform 3) (potFlight (.potSeal (hdl + 1)))) (fun p => decide (p = pot0)) := by decide +kernel

def aRead (st : PotRdSt) (since : Option Nat) (need : Word := 1) (sl : Bool := false) : PotRd :=
  { id := 7, core := 0, act := 1, part := 0, handle := hdl, need := need, dst := 0x140, blk := 0x80, bf16 := false, limit := 100, first := 0, count := 4, sealing := sl, since := since, st := st }
def readState (r : PotRd) (now : Nat := 500) : State := { potState with potReads := [r], now := now }
def readOut (o : Out) : Option (List PotRdSt) :=
  match o with
  | .next t => some (t.potReads.map (·.st))
  | _ => none
theorem witness_PotEffects_reads : readOut (exec (.potReadPerform 7) (readState (aRead .travelling none))) = some [.answered 1 [0, 0, 0, 0] 9 false false false 0] ∧
    readOut (exec (.potReadPerform 7) (readState (aRead .travelling none 3))) = some [.waiting] ∧
    readOut (exec (.potReadLimit 7) (readState (aRead .waiting (some 400) 3))) = some [.answered 1 [0, 0, 0, 0] 9 false true false 0] ∧
    readOut (exec (.potReadLimit 7) (readState (aRead .waiting (some 401) 3))) = some [.waiting] ∧
    readOut (exec (.potReadResend 7) (readState (aRead (.held 500) none))) = some [.answered 1 [0, 0, 0, 0] 9 false false false 0] ∧
    readOut (exec (.potReadResend 7) (readState (aRead (.held 501) none))) = some [.held 501] ∧
    ok (exec (.potReadPerform 7) (readState (aRead .travelling none 1 true))) (fun t => decide ((fget (t.slice potHome).pots 0).map (fun p => (p.g, p.landed.get 10)) = some (10, 0))) := by
  decide +kernel
def replyState : State :=
  { potState [(0, pot0)] 1 (fun k => { k with run := none, accs := [{ id := 7, act := 1, seq := 5, pc := 0x100, kind := .potRead 9, va := 0, size := 8, acq := false, rel := false, hint := 0, e4 := false,
                                                                      dual := false, st := .pending, before := none }] }) { potAct with park := .potRead 7, pend := [.s 9] } with
    potReads := [aRead (.answered 5 [1, 2, 3, 0x04030201] 9 true true false 4) (some 400)] }
theorem witness_PotEffects_reply : replyState.cores.length = 1 ∧ replyState.cc.accs.length = 1 ∧ (replyState.partn 0).st = 2 ∧ replyState.cc.ls.wf = true ∧
    lsPlace potAct 0x140 16 = some 0x1140 ∧ lsPlace potAct 0x80 32 = some 0x1080 ∧ overlap 0x1140 16 0x1098 8 = false ∧
    ok (exec (.potReadReply 7) replyState) (fun t => decide (t.potReads = [] ∧ (t.core 0).accs = [] ∧ lsWord (t.core 0) 0x1140 = 0x200000001 ∧ lsWord (t.core 0) 0x1148 = 0x0403020100000003 ∧
      lsWord (t.core 0) 0x1098 = 0x300000009 ∧ (t.core 0).acts.map (fun x => (x.2.park, x.2.regs.getS 9, x.2.flags)) = [(.queued, 5, 4)])) := by decide +kernel
-- FTO 4, one slot of 10 us a rotation: 84000 cycles
def lostState (now : Nat) : State := { potState with now := now, posts := [(2, drained (postOf 1 9), 500)] }
theorem witness_PotEffects_lost : ok (exec (.postTrainTimeout 2) (lostState 84499)) (fun t => decide (t = lostState 84499)) ∧
    ok (exec (.postTrainTimeout 2) (lostState 84500)) (fun t => decide (t.posts = [])) := by decide +kernel

/-! ### Quadrilles and reels (17) -/

-- the region at 0x5000 is a quadrille's or a reel's; its parameters stand at 0x5800; s1 to s7 select 0 to 6, s8 names a launchable block, s10 one that fails a check
def gangAct (p : Park := .running) : Act := { sr [(1, 0), (2, 1), (3, 2), (4, 3), (5, 4), (6, 5), (7, 6), (8, 0x6000), (10, 0x7000), (63, 0x5000)] act with rp := 0x5000, park := p }
def gangBlock (kind : Byte) : Memory := [(0x5008, 0x88 + kind), (0x5009, 0x41), (0x5012, 1), (0x5014, 1), (0x5021, 3), (0x5030, 1), (0x5040, 2)]
def quad0 : Quad := { id := 6, part := 0, rcb := 0x5000, params := 0x5800, qid := 5, m := 2, tseg := 9, gran := 3, members := [(0, 0), (0, 1)], reserved := [0, 1], open_ := true, closed := false,
                      det := 2, dep := 4, src := none, e4 := false }
def reel0 : Reel := { id := 6, part := 0, rcb := 0x5000, params := 0x5800, e := 2, sc := 0, geoff := 0, a0 := 1000, cap := 1500, qdb := 0, rto := 100, round := 1, alive := 3, fin := 2,
                      scores := [8, 9], held := [[0], [1, 2]], since := 400, late := false }
def gangState (kind : Byte) (q : List Quad := []) (r : List Reel := []) (a : Act := gangAct) (now : Nat := 500) : State :=
  { paged (gangBlock kind) (pk a handled) with quads := q, reels := r, now := now, slices := (paged [] (pk a)).slices }
/-- The value that a status form leaves in s9. -/
def gangOut (o : Out) : Option Word :=
  match o with
  | .next t => some (t.me.regs.getS 9)
  | _ => none
theorem witness_GangForms_quad : (gangState 1 [quad0]).live = true ∧ (gangState 1 [quad0]).cc.rb = [] ∧ (gangState 1 [quad0]).flights = [] ∧
    quadOf (gangState 1 [quad0]) 0 0x5000 = some quad0 ∧ memberOf (gangState 1 [quad0]) quad0 0 = some 0 ∧
    ([1, 2, 3, 4, 5].map fun (n : Nat) => gangOut (exec (.qdStat 9 (BitVec.ofNat 6 n)) (gangState 1 [quad0]))) =
      [some 0x0101000014000000, some 0, some 2, some 4, some 0x0000000900030002] ∧
    ok (exec .qdDetach (gangState 1 [quad0])) (fun t => decide (t.quads.map (·.det) = [3] ∧ t.me.snap.pc = 0x108)) ∧
    ok (exec (.qdExit 9) (gangState 1 [{ quad0 with det := 3 }])) (fun t => decide (t.cc.run = none ∧ t.cc.acts.map (·.2.park) = [.qdExit 0x5000 9])) ∧
    gangOut (exec (.qdExit 9) (gangState 1 [{ quad0 with det := 3, closed := true }])) = some 4 := by decide +kernel
theorem witness_GangForms_none : quadOf (gangState 0) 0 0x5000 = none ∧ (reelOf (gangState 0) 0 0x5000).isNone = true ∧
    ([.qdStat 9 1, .qdDetach, .qdExit 9, .reelScore 1, .reelDone 9, .reelSync 9, .reelStat 9 1] : List Instr).all (fun i => decide (trapOut i (gangState 0) = some (4, 0x5000))) = true := by
  decide +kernel
theorem witness_GangForms_reel : reelOf (gangState 2 [] [reel0]) 0 0x5000 = some reel0 ∧ reel0.entrant 0 = some 0 ∧
    ([1, 2, 3, 4, 5, 6, 7].map fun (n : Nat) => gangOut (exec (.reelStat 9 (BitVec.ofNat 6 n)) (gangState 2 [] [reel0]))) =
      [some 0, some 1, some 3, some 2, some 1500, some 1, some 8] ∧
    ok (exec (.reelSync 9) (gangState 2 [] [reel0])) (fun t => decide (t.cc.run = none ∧ t.cc.acts.map (fun x => (x.2.park, x.2.pc)) = [(.round (some 9) false, 0x108)])) ∧
    ok (exec (.reelScore 7) (gangState 2 [] [reel0])) (fun t => decide (t.me.score = 6 ∧ t.reels.map (·.scores) = [[6, 9]] ∧ hwPeek t 0 0x5840 = 6)) ∧
    ok (exec (.reelDone 9) (gangState 2 [] [reel0])) (fun t => decide (t.cc.run = none ∧ t.reels.map (·.fin) = [3] ∧ hwPeek t 0 0x5830 = 3)) := by decide +kernel
/-- The block at 0x7000 has no CMIN and so fails a check (Table 13.10). -/
theorem witness_GangForms_open : gangOut (exec (.qdOpen 9 10) (gangState 0)) = some 2 ∧ gangOut (exec (.reelOpen 9 10) (gangState 0)) = some 2 ∧
    (match xlateHw (gangState 0) 0 0x7000 .w with
     | .ok pte _ pa => decide (homeWait (gangState 0) 0 0x7000 pte pa true = none)
     | _ => false) = true := by decide +kernel

def qdState (reserved : List Nat) (m : Nat := 3) (tile : Tile := Tile.reset) : State :=
  { gangState 1 [{ quad0 with open_ := false, det := 0, dep := 0, m := m, members := [(0, 1), (0, 0), (0, 2)].take m, reserved := reserved }] with
    clusters := [(0, { Cluster.reset with tiles := [(9, tile)] })] }
theorem witness_GangEvents_admission : ((qdState []).quads.map fun q => q.order) = [[1, 0, 2]] ∧ quadsOn (qdState []) 0 < 4 ∧ freeRun ((qdState []).cluster 0) 3 = some 0 ∧
    ok (exec (.qdAdmission 6) (qdState [])) (fun t => decide (t.quads.map (·.reserved) = [[1]] ∧ (t.cluster 0).tile 9 = { owner := some ⟨0, 0x5000⟩, ent := none, st := 0, base := 0, gran := 3, refill := false })) ∧
    ok (exec (.qdAdmission 6) (qdState [] 3 { Tile.reset with st := 3 })) (fun t => decide (t = qdState [] 3 { Tile.reset with st := 3 })) := by decide +kernel
-- offset 0x10 of member 1's segment (3 granules a member) in the window of quadrille 5; the tile 9 of cluster 1 is at granule 4
def quadVa : Nat := 0x0101000014000000 + 6144 + 0x10
def windowAcc (accs : List Access) (fl : List Flight) : State :=
  { gangState 1 [{ quad0 with dep := 0 }] [] { gangAct with pend := [.s 9] } with
    cores := [(0, { Core.reset with part := some 0, acts := [(0, { gangAct with pend := [.s 9] })], run := some 0, accs := accs })]
    clusters := [(1, { Cluster.reset with tiles := [(9, { owner := some ⟨0, 0x5000⟩, ent := none, st := 2, base := 4, gran := 3, refill := false })], spad := [(8208, 0x80), (8209, 0xFF)] })]
    flights := fl }
theorem witness_GangEvents_load : isQuad quadVa = true ∧
    (match quadPlace (windowAcc [] []) 0 0 0x5000 quadVa 2 with
     | .ok x => decide (x = (0, 1, 8208))
     | _ => false) = true ∧
    ok (exec (.windowAccess 7) (windowAcc [oneAcc (.load .global (.s 9 true) false) quadVa .pending 2] [])) (fun t => decide (t.me.regs.getS 9 = 0xFFFFFFFFFFFFFF80 ∧ t.me.pend = [] ∧ t.cc.accs = [])) := by
  decide +kernel
theorem witness_GangEvents_store : ((windowAcc [] [drained (.store .global quadVa [0, 7] false 0)]).access 3).isNone = true ∧ ((windowAcc [] []).cluster 1).spad.wf = true ∧
    ok (exec (.windowAccess 3) (windowAcc [] [drained (.store .global quadVa [0, 7] false 0)])) (fun t => decide (t.flights = [] ∧ (t.cluster 1).spad = [(8209, 7)])) := by decide +kernel
theorem witness_GangEvents_allowance : mustBarrier (gangState 2 [] [reel0]) 0 gangAct = true ∧ mustBarrier (gangState 2 [] [reel0] { gangAct with allow := 1 }) 0 { gangAct with allow := 1 } = false ∧
    ok (exec (.allowanceExhausted 0) (gangState 2 [] [reel0])) (fun t => decide (t.cc.run = none ∧ t.cc.acts.map (fun x => (x.2.park, x.2.pc)) = [(.round none false, 0x108)])) ∧
    ok (exec (.allowanceExhausted 0) (gangState 2 [] [reel0] { gangAct with allow := 1 })) (fun t => decide (t = gangState 2 [] [reel0] { gangAct with allow := 1 })) := by decide +kernel
def roundState (p : Park) (now : Nat := 500) : State := let s := gangState 2 [] [reel0] (gangAct p) now
  if p = .running then s else s.onCore 0 fun k => { k with run := none }
theorem witness_GangEvents_round : ok (exec (.roundTimeout 6) (roundState .running)) (fun t => decide (t.reels = [{ reel0 with late := true }])) ∧
    ok (exec (.roundTimeout 6) (roundState .running 499)) (fun t => decide (t.reels = [reel0])) ∧
    roundOver (roundState .running) reel0 = false ∧ roundOver (roundState (.round none false)) reel0 = true ∧ reel0.ranks = [1, 0] ∧
    ok (exec (.roundEnd 6) (roundState .running)) (fun t => decide (t = roundState .running)) ∧
    ok (exec (.roundEnd 6) (roundState (.round none false))) (fun t => decide (t.reels = [])) := by decide +kernel

/-! ### The system, the host and the platform (20) -/

-- s1 = 0, s2 = 1, s3 = 5000, s4 = 100, s5 names SLOT, s6 = 12, s7 partition 3, s8 partition 2, s9 = 32, s10 partition 3's STATE register, s11 FTO
def sysAct (m : Nat := 2) : Act := inMode m (sr [(1, 0), (2, 1), (3, 5000), (4, 100), (5, 0x400), (6, 12), (7, 3), (8, 2), (9, 32), (10, 0x30), (11, 0x403), (12, 0x1800000000000000),
  (13, 0x1000000000000000), (14, 4095)] { act with rp := 0x5000, bundle := 0x12345678E8000001 })
-- partition 0 runs here; partition 2 runs on granule 1; partition 3 is swapped out, for granule 2
def sysState (a : Act := sysAct) : State :=
  { pk a handled with cds := 3, parts := [(0, { Part.reset with st := 2, gran := 1 }), (2, { Part.reset with st := 2, gran := 2 }), (3, { Part.reset with st := 1, gran := 4 })]
                      cores := [(0, { (pk a handled).cc with part := some 0 }), (64, { Core.reset with part := some 2 })], fto := 4 }
theorem witness_SystemForms_leave : (sysState).live = true ∧ (sysState).phase = .whole ∧ unconfirmed (sysState).cc (sysState).me.id = false ∧
    ok (exec (.leave 4 1) (sysState)) (fun t => decide ((t.cluster 0).asked = 100 ∧ (t.die 0).reqs = [{ pool := .mx 0 0, n := 100, refused := false, since := 0 }])) ∧
    ok (exec (.leave 4 2) (sysState)) (fun t => decide (t.cc.cpAsked = 100 ∧ (t.die 0).reqs = [{ pool := .cp 0, n := 100, refused := false, since := 0 }])) ∧
    ok (exec (.leave 1 1) (sysState)) (fun t => decide (t = sysState)) := by decide +kernel
theorem witness_SystemForms_traps : ([.sysTlbinv 20 1 1, .sysMrd 20 1, .sysMwr 1 1, .sysSwap 20 1 1, .sysKill 20 1, .sysEvt 1 1] : List Instr).all (fun i =>
    decide (trapOut i (sysState (sysAct 0)) = some (4, 0xE8000001))) = true := by decide +kernel
theorem witness_SystemForms_registers : (sysState).mode = 2 ∧ (sysState).swaps = [] ∧
    [sOut (.sysMrd 20 10) (sysState) 20, sOut (.sysMrd 20 5) (sysState) 20, sOut (.sysTlbinv 20 13 1) (sysState) 20, sOut (.sysTlbinv 20 1 1) (sysState) 20,
      sOut (.sysTlbinv 20 12 1) (sysState) 20] = [some (1, 0), some (10, 0), some (0, 0), some (0, 0), some (0, 0)] := by decide +kernel
def withSlot (n : Nat) : State := { (sysState) with slotNext := n }
def withFto (n : Nat) : State := { (sysState) with fto := n }
theorem witness_SystemForms_writes : ok (exec (.sysMwr 5 6) (sysState)) (fun t => decide (t = withSlot 12)) = true ∧
    ok (exec (.sysMwr 11 6) (sysState)) (fun t => decide (t = withFto 12)) = true := by decide +kernel
def noParts : State := { (sysState) with parts := [] }
theorem witness_SystemForms_absent : sOut (.sysKill 20 6) (sysState) 20 = some (1, 0) ∧
    sOut (.sysTlbinv 20 1 1) noParts 20 = some (1, 0) := by decide +kernel
theorem witness_SystemForms_swap : swapStatus (sysState) 2 3 = 0 ∧ swapStatus (sysState) 3 32 = 1 ∧ swapStatus (sysState) 2 12 = 2 ∧ spanFar (sysState) 2 = false ∧ spanFar (sysState) 3 = false ∧
    (2 < 32 ∧ ((sysState).partn 2).gran.getLsbD (granOf (sysState).cur) = false ∧ ((sysState).partn 3).gran.getLsbD (granOf (sysState).cur) = false) ∧
    sOut (.sysSwap 20 7 9) (sysState) 20 = some (1, 0) ∧ sOut (.sysSwap 20 8 6) (sysState) 20 = some (2, 0) ∧
    (let s := { (sysState) with cds := 3, parts := [(0, { Part.reset with st := 2, gran := 1 }), (2, { Part.reset with st := 2, gran := 2 }), (3, { Part.reset with st := 1, gran := 2 })] }
     ok (exec (.sysSwap 20 8 7) s) (fun t => decide (t.swaps.map (fun x => (x.p, x.q, x.core, x.agreed, x.kill)) = [(2, 3, some (1, 20), true, false)] ∧ (t.core 64).swapping = true ∧ t.cc.swapping = false))) ∧
    ok (exec (.sysKill 20 8) (sysState)) (fun t => decide (t.swaps.map (fun x => (x.p, x.core, x.kill)) = [(2, some (1, 20), true)] ∧ (t.core 64).swapping = true)) := by decide +kernel

def swapState (rb : List RbEntry) : State :=
  { (sysState) with cores := [(0, (sysState).cc), (64, { Core.reset with part := some 2, swapping := true, rb := rb })]
                    swaps := [{ p := 2, q := 32, core := some (1, 20), req := none, since := 0, agreed := true, kill := false }] }
def hreq (l : List (BitVec 64)) (ver : BitVec 8 := 2) : HostReq := { ver := ver, tag := 0x1234, reply := 0x100, args := l }
/-- The reply: its first dword, and the second. -/
def reply (o : Out) : Option (Nat × Nat) :=
  match o with
  | .next t => some (ofLe (mread t.host 0x100 8), ofLe (mread t.host 0x108 8))
  | _ => none
def replied (i : Instr) (n : Nat) : Bool := decide ((reply (exec i (sysState))).map (·.1) = some (0x12340100 + n))
theorem witness_HostCommands_versions : (sysState).booted = true ∧ hostBusy (sysState) = false ∧
    ([.hello (hreq [] 0), .bootrpt (hreq [] 0), .pcreate (hreq [] 0), .pswap (hreq [] 0), .pkill (hreq [] 0), .pset (hreq [] 0), .tlbinv (hreq [] 0), .launch (hreq [] 0), .rkill (hreq [] 0),
      .plimit (hreq [] 0), .evring (hreq [] 0), .fabset (hreq [] 0), .linkrst (hreq [] 0), .attest (hreq [] 0), .copy (hreq [] 0), .netxfer (hreq [] 0)] : List Instr).all (fun i =>
      decide (reply (exec i (sysState)) = some (0x12340001, 0))) = true ∧ reply (exec (.hello (hreq [])) (sysState)) = some (0x12340100, 1) ∧
    hostKnown 0x70 = false ∧ replied (.hostBadcmd 0x70 (hreq [])) 2 = true := by decide +kernel
theorem witness_HostCommands_parts : granOk (sysState) 8 = true ∧
    ok (exec (.pcreate (hreq [5, 8, 0x4000000, 1, 0x1000])) (sysState)) (fun t => decide ((t.partn 5).st = 1 ∧ (t.partn 5).gran = 8 ∧ (t.partn 5).ctx = 0x4000000 ∧ (t.partn 5).ptroot = 0x1000)) ∧
    ([(.pcreate (hreq [5, 8, 0x4000000, 1, 0x1000]), 0), (.pcreate (hreq [2, 8]), 4), (.pswap (hreq [33, 1]), 3), (.pswap (hreq [2, 2]), 3), (.pkill (hreq [32]), 3), (.pkill (hreq [7]), 4),
      (.pset (hreq [3, 5, 7]), 0), (.tlbinv (hreq [7, 0, 0]), 4), (.tlbinv (hreq [3, 0, 0]), 0), (.launch (hreq [3, 0x6000]), 4)] : List (Instr × Nat)).all (fun x => replied x.1 x.2) = true := by
  decide +kernel
theorem witness_HostCommands_swaps : reply (exec (.pswap (hreq [3, 32])) (sysState)) = some (0x12340100, 1) ∧ swapStatus (sysState) 2 32 = 0 ∧
    ok (exec (.pswap (hreq [2, 32])) (sysState)) (fun t => decide (t.swaps.map (fun x => (x.p, x.q, x.req.isSome)) = [(2, 32, true)])) ∧
    ok (exec (.pkill (hreq [2])) (sysState)) (fun t => decide (t.swaps.map (fun x => (x.p, x.kill, x.req.isSome)) = [(2, true, true)])) ∧
    ok (exec (.pkill (hreq [2])) (swapState [])) (fun t => decide (t = swapState [])) ∧ ok (exec (.pswap (hreq [3, 32])) (swapState [])) (fun t => decide (t = swapState [])) := by decide +kernel
-- the host launches the block at 0x6000 of partition 0: KIND 3, one core; or one with CMIN 0
def launchRoot (cmin : Byte) : State :=
  let s := paged ([(0x6008, 3)] ++ (if cmin = 0 then [] else [(0x6010, cmin)]) ++ [(0x6012, 1), (0x6014, 1), (0x6030, 1)]) (sysState)
  { s with slices := (List.range 64).map fun h => (h, { Slice.reset with tlb := [{ part := 0, level := 0, page := 0, pte := 0x1F }] }) }
theorem witness_HostCommands_regions : (match xlateHw (launchRoot 1) 0 0x6000 .w with
      | .ok .. => true
      | _ => false) = true ∧
    (launchAt (launchRoot 1) 0 0x6000 none none (some 3) none false).2 = 0 ∧ (launchAt (launchRoot 0) 0 0x6000 none none (some 3) none false).2 = 2 ∧
    ok (exec (.launch (hreq [0, 0x6000])) (launchRoot 1)) (fun t => decide ((t.partn 0).root = 0x6000 ∧ regionState t 0 0x6000 = 2)) ∧
    (reply (exec (.launch (hreq [0, 0x6000])) (launchRoot 0))).map (·.1) = some 0x12340103 ∧
    (reply (exec (.rkill (hreq [0, 0x6000])) (launchRoot 1))).map (·.1) = some 0x12340100 := by decide +kernel
def killTree : State :=
  let s := paged [(0x5009, 0x40), (0x6001, 0x50), (0x6009, 0x40), (0x6040, 1)] (sysState)
  { s with slices := (List.range 64).map fun h => (h, { Slice.reset with tlb := [{ part := 0, level := 0, page := 0, pte := 0x1F }] })
           parts := [(0, { Part.reset with st := 2, gran := 1, root := 0x5000 })] }
theorem witness_HostCommands_rkill : inRegion killTree 0 0x6000 0x5000 = true ∧ regionState killTree 0 0x6000 = 2 ∧
    ok (exec (.rkill (hreq [0, 0x6000])) killTree) (fun t => decide (fieldOf (hwPeek t 0 0x6048) 0 8 = 3)) := by decide +kernel
theorem witness_HostCommands_platform :
    ([(.plimit (hreq [99]), 3), (.plimit (hreq [2401]), 3), (.plimit (hreq [600]), 0), (.evring (hreq [0, 0x8000, 6, 0x9000]), 0), (.fabset (hreq [0x400, 12]), 0), (.fabset (hreq [0x404, 1]), 3),
      (.fabset (hreq [0x3FF, 1]), 3), (.linkrst (hreq [5]), 0)] : List (Instr × Nat)).all (fun x => replied x.1 x.2) = true ∧
    ok (exec (.plimit (hreq [600])) (sysState)) (fun t => decide (t.plim = 600 ∧ dieBudget t 0 = 10 ∧ dieBudget t 1 = 10)) ∧
    ok (exec (.evring (hreq [0, 0x8000, 6, 0x9000])) (sysState)) (fun t => decide ((t.edge 0).evBase = 0x8000 ∧ (t.edge 0).evSize = 64 ∧ (t.edge 0).evConsAt = 0x9000)) ∧
    deviceOk (sysState) 0x3000 4 = true ∧
    ok (exec (.copy (hreq [0, 0x200, 0x3000, 4])) { (sysState) with host := [(0x201, 7)] }) (fun t => decide (t.dram = [(0x3001, 7)])) ∧
    ok (exec (.copy (hreq [1, 0x200, 0x3000, 4])) { (sysState) with dram := [(0x3002, 9)] }) (fun t => decide (mread t.host 0x200 4 = [0, 0, 9, 0])) ∧
    ok (exec (.netxfer (hreq [0, 1, 0x3000, 0, 4])) (sysState)) (fun t => decide (t.netx = [{ port := 0, left := 4, req := hreq [0, 1, 0x3000, 0, 4] }])) := by decide +kernel

def govState (now : Nat) : State := { (sysState) with now := now, dies := [(0, { Die.reset with window := 2, reqs := [{ pool := .mx 3 12, n := 64, refused := false, since := 4200 }] })] }
theorem witness_PlatformEvents_governor : ok (exec (.governorWindow 0) (govState 4300)) (fun t => decide ((t.die 0).reqs = [] ∧ (t.die 0).granted = 461440 ∧ (t.cluster 3).held = 64)) := by
  decide +kernel
def evRec : EvRec := { cls := 3, code := 4, part := 1, core := 5, count := 1, addr := 0xABC, time := 9 }
def ringState (size : Nat) : State := { (sysState) with edges := [(0, { Edge.reset with evBase := 0x8000, evSize := size, ev := { pend := some evRec, cnt := [] } })] }
theorem witness_PlatformEvents_ring : evFull (ringState 64) 0 = false ∧ evFull (ringState 0) 0 = true ∧
    ok (exec (.eventRingRoom 0) (ringState 64)) (fun t => decide ((t.edge 0).ev.pend = none ∧ (t.edge 0).evWritten = 1)) ∧ ok (exec (.eventRingRoom 0) (ringState 0)) (fun t => decide (t = ringState 0)) := by
  decide +kernel
def bootIn : BootInput := { pkg := 4, domain := 10, cds := 0xFFFF, eds := 0xFF, measures := [1, 2], release := 3 }
theorem witness_PlatformEvents_boot : ok (exec (.powerOn bootIn) State.reset) (fun t => decide (t.booted = true ∧ t.pkg = 4 ∧ t.domain = 10 ∧ t.cds = 0xFFFF ∧
      t.measures = [1, 2] ++ List.replicate 22 0)) ∧ ok (exec (.powerOn bootIn) (sysState)) (fun t => decide (t = sysState)) ∧
    ok (exec (.powerOn { bootIn with domain := 9 }) State.reset) (fun t => decide (t.booted = false)) ∧
    ok (exec (.dieAuthTimeout 7) State.reset) (fun t => decide (t.silent = [7])) := by decide +kernel
theorem witness_PlatformEvents_parts : ok (exec (.pstateCreate 6) (sysState)) (fun t => decide ((t.partn 6).st = 1 ∧ (t.partn 6).ptroot = 0)) ∧
    ok (exec (.pstateCreate 2) (sysState)) (fun t => decide (t = sysState)) ∧
    ok (exec (.mgmtRegisterWrite ⟨0, 0x400⟩ 13) (sysState)) (fun t => decide (t = withSlot 13)) ∧
    ok (exec (.tileRefill 0 5) { (sysState) with clusters := [(0, { Cluster.reset with tiles := [(5, { Tile.reset with refill := true })] })] }) (fun t => decide ((t.cluster 0).tile 5 = Tile.reset)) := by
  decide +kernel
/-- Tiles 5 and 6 are to be refilled, and the activation waits for tile 6. -/
def twoRefills : State :=
  let t : Tile := { Tile.reset with refill := true }
  { (sysState { sysAct with waitFor := some (.tile 6 [2]) }) with clusters := [(0, { Cluster.reset with tiles := [(5, t), (6, t)] })] }
theorem witness_PlatformEvents_refills : tileWanted twoRefills 0 6 = true ∧ tileWanted twoRefills 0 5 = false ∧
    ok (exec (.tileRefill 0 5) twoRefills) (fun t => decide (t = twoRefills)) ∧
    ok (exec (.tileRefill 0 6) twoRefills) (fun t => decide ((t.cluster 0).tile 6 = Tile.reset)) := by decide +kernel
theorem witness_PlatformEvents_swap : residentCores (swapState []) 2 = [64] ∧ coreHalted (haltDrain (swapState []) 64) 2 64 = true ∧
    ok (exec (.swapRestoreDone 2 32) (swapState [])) (fun t => decide (t.swaps = [] ∧ (t.partn 2).st = 1)) := by decide +kernel
def netState (left : Nat) : State := { (sysState) with netx := [{ port := 0, left := left, req := hreq [] }] }
theorem witness_PlatformEvents_net : ok (exec (.uetTransferReceive 0 (.data 0x3000 [1, 2])) (sysState)) (fun t => decide (t.dram = [(0x3000, 1), (0x3001, 2)])) ∧
    (reply (exec (.uetTransferReceive 0 (.ack 4)) (netState 4))).map (·.1) = some 0x12340100 ∧
    (reply (exec (.mgmtRegisterWrite ⟨0, 0x400⟩ 21) (netState 4))).map (·.1) = some 0x12340105 ∧
    ok (exec (.mgmtRegisterWrite ⟨0, 0x400⟩ 21) (sysState)) (fun t => decide ({ t with edges := [] } = sysState ∧ t.edge 0 = Edge.fresh (sysState.edge 0))) ∧
    ok (exec (.uetTransferReceive 0 (.ack 3)) (netState 4)) (fun t => decide (t.netx.map (·.left) = [1])) := by decide +kernel
theorem witness_PlatformEvents_unassigned : trapOut (.unassignedWord false 0x5A) (sysState (sysAct 0)) = some (1, 0x5A) ∧ trapOut (.unassignedWord true 0x5A) (sysState (sysAct 0)) = some (0x201, 0x10000005A) := by
  decide +kernel

-- a `clean` of a block of package 1 that is in M here
def awayState : State :=
  let s := (farPage (fabState)).onPart 0 fun p => { p with st := 2, span := 2 }
  { (s.onSlice (homeOf s 0x8000) fun g => { g with blocks := [{ part := 0, blk := 0x100, pkg := 1, st := .m }] }) with
    flights := [{ id := 3, core := 0, part := 0, act := 1, rp := 0x5000, ent := none, op := .clean 0x8000 32, leaveOk := false, sent := none }] }
def awayProxy (t : State) : PState := proxyState (t.slice (homeOf t 0x8000)) 0 0x8000
/-- What is left of the `clean` when a state that it leads to goes on by an instruction. -/
def cleanThen (o : Out) (i : State → Out) (p : State → Bool) : Bool := ok o fun t => ok (i t) p
def cleanAnswer (t : State) : Flit :=
  let f := ctlFlit 3 0 ((t.cleans.map (·.id)).headD 0) 0x8000 0 2
  { f with crc := flitCrc (ctlSeed 0) f }
theorem test_clean_away : ok (exec (.cleanPerform 3) awayState) (fun t => decide (t.flights.length = 1 ∧ t.cleans.map (fun c => (c.va, c.pkg, c.flight, c.blks)) = [(0x8000, 1, 3, [0x100])] ∧
      awayProxy t = .e ∧ ((fget (t.edge 0).bulkQ 1).map (·.length), (fget (t.edge 0).ctlQ 1).map (·.length)) = (some 1, some 2))) ∧
    cleanThen (exec (.cleanPerform 3) awayState) (fun t => exec (.flitReceive 2 (cleanAnswer t)) { t with links := awayState.links }) (fun t => decide (t.flights = [] ∧ t.cleans = [] ∧ awayProxy t = .e)) = true := by decide +kernel
theorem test_clean_timeout : cleanThen (exec (.cleanPerform 3) awayState) (fun t => exec (.remoteRequestTimeout ((t.cleans.map (·.id)).headD 0)) { t with now := 84499 }) (fun t => decide (t.cleans.length = 1)) ∧
    cleanThen (exec (.cleanPerform 3) awayState) (fun t => exec (.remoteRequestTimeout ((t.cleans.map (·.id)).headD 0)) { t with now := 84500 }) (fun t => decide (t.flights = [] ∧ t.cleans = [] ∧ awayProxy t = .m)) = true := by decide +kernel
-- a command whose source has no reply, and the fetch of the running activation
theorem test_timeout_command_and_fetch :
    let e : CpEnt := { cpEntry .running .copy [0x8000000000000005, 0x6000020, 0x8000, 0, 0x100000020, 0, 0, 0] with fault := none, left := [(0, 32)] }
    let s := { farPage (fabState) with rreqs := [{ aReq false with va := 0x8000 }], now := 84500, cores := [(0, { (fabState).cc with cps := [(0, e)], part := some 0 })] }
    let a := { fabAct with pc := 0x8000 }
    ok (exec (.remoteRequestTimeout (2 ^ 13 + 5)) s) (fun t => decide (((t.core 0).cp 0).fault = some (4, 0x8000))) ∧
    ok (exec (.remoteRequestTimeout (2 ^ 13 + 5)) { s with cores := [(0, { (fabState).cc with acts := [(0, a)], run := some 0, part := some 0 })] })
      (fun t => decide ((t.core 0).ftoFetch = some (a.id, 0x8000))) = true := by decide +kernel
-- a message for package 1 enters the control queue of its edge die
theorem test_message_departs : ok (exec (.messageLand 4) { fabState with msgs := [{ id := 4, hdr := sendHdr, pay := [7], part := 0, core := 9, far := true, port := 12288, sender := 0, act := none, st := .travelling, dest := some 1 }] }) (fun t => decide (t.msgs = [] ∧ (fget (t.edge 0).ctlQ 1).map (·.map fun x => (x.1, x.2.typ, x.2.tag)) = some [(0, 4, 9)])) = true := by decide +kernel

/-! ### Places (01 R11, R16, R18) and the launch of an image (02 R71-R73) -/

/-- Core 419 is on compute die 1, cluster 40 of it: on-die (0, 5), router (8, 5). Slice 13 of a die joins at tile 26. -/
theorem test_places : coreRouter 419 = (8, 5) ∧ sliceRouter 32 = (8, 0) ∧ sliceTiles 13 = (26, 27) ∧ sliceRouter 13 = (2, 3) ∧ routerAt 15 (7, 7) = (31, 31) ∧
    edgeStacks 5 = [10, 11] ∧ (edgeFibres 7).getLast? = some 191 ∧ linkFibre 0 = (0, 0) ∧ linkFibre 40 = (26, 8) := by decide +kernel
/-- Along x first; 1 cycle a hop within a die, 4 between dies. -/
theorem test_route : xyRoute (6, 0) (9, 2) = [(6, 0), (7, 0), (8, 0), (9, 0), (9, 1), (9, 2)] ∧ pathCost (xyRoute (6, 0) (9, 2)) = 8 := by decide +kernel

-- an image whose block is at 0x6000, a child of the running region: one core of granule 0, a tile budget of n
def imageOf (n : Nat) (tiles : List ImageTiles) (pots : List ImagePot := []) : Image :=
  { rcb := 0x6000, block := [(16, BitVec.ofNat 64 (1 + 2 ^ 16 + 2 ^ 32 + n * 2 ^ 48)), (48, 1)], pages := [], sections := [(0x7000, [5, 6])], tiles := tiles, pots := pots }
def imageState : State := paged goodBlock { pk { act with rp := 0x5000 } with parts := [(0, { Part.reset with st := 2, gran := 1 })] }
def doneOf (t : State) : Nat × Nat := (hwPeek t 0 0x6048 % 2 ^ 32, regionState t 0 0x6000)
theorem witness_RegionEvents_image : (imageState.core 0).running.isSome = true ∧ imageOk (imageOf 0 []) = true ∧
    doneOf (imageLaunch 0 (imageOf 0 []) imageState) = (0, 2) ∧ hwPeek (imageLaunch 0 (imageOf 0 []) imageState) 0 0x6000 = 0x5000 ∧
    fieldOf (hwPeek (imageLaunch 0 (imageOf 0 []) imageState) 0 0x7000) 0 16 = 0x605 := by decide +kernel
theorem witness_RegionEvents_image_fails : doneOf (imageLaunch 0 (imageOf 0 [⟨3, 1, 2, none⟩]) imageState) = (0x804, 0) ∧
    doneOf (imageLaunch 0 (imageOf 0 [] [⟨0x7008, 2, false, 0, 1⟩]) imageState) = (0x904, 0) := by decide +kernel

/-! ### Waits, refusals and forms of another package -/

/-- s1 = 2 and s2 = 0xAB at a `trap` with code 1 in runtime mode: the event waits, since there is no ring (20 R479, R483). -/
theorem witness_TrapsAndReturns_event : ok (exec (.trap 1) ((trapState 1).onMe (sr [(2, 0xAB)]))) (fun t => decide (t.me.regs.getS 1 = 2 ∧ t.cc.scause = 0x10D ∧ t.cc.stval = 1 ∧
    t.me.pc = 0x140000108 ∧ (t.die 0).ev.pend.map (fun r => (r.cls, r.code, r.addr)) = some (15, 2, 0xAB))) = true := by decide +kernel

/-- A claim of the activation is out. -/
def claimOutState (m : Nat) (a : Act := act) : State := pk (inMode m a) fun k =>
  { k with accs := [{ id := 3, act := 1, seq := 4, pc := 0xF8, kind := .claim 0x2000 9, va := 0x2000, size := 8, acq := true, rel := false, hint := 0, e4 := false, dual := false,
                      st := .pending, before := none }] }
def heldAt (s : State) : Act := { s.me with npc := s.me.pc }
theorem witness_ControlRegisters_waits : flagState.phase = .whole ∧ answers (.mfc 3 9) flagState (heldAt flagState) = true ∧
    ([0, 2].all fun m => (claimOutState m).live && decide ((claimOutState m).phase = .whole) && claimOut (claimOutState m).cc (claimOutState m).me.id) = true ∧
    ([0x0F, 0x10, 0x11].all fun c => answers (.mfc 3 c) (claimOutState 0) (heldAt (claimOutState 0)) && answers (.mtc c 3) (claimOutState 2) (heldAt (claimOutState 2))) = true := by decide +kernel
theorem witness_NestClaimsAndPoints_waits : (claimOutState 0).me.nest.fin.toNat ≤ (claimOutState 0).me.nest.cur.toNat ∧
    answers (.nestNext 1) (claimOutState 0) (heldAt (claimOutState 0)) = true ∧
    (let s := claimOutState 0 { act with nest := { Nest.zero with fin := 1 } }; answers (.nestNext 1) s (heldAt s)) = true := by decide +kernel

/-- A reduction to the four bytes at an address is buffered. -/
def redState (va : Nat) : State := memState.onCC fun k => { k with rb := [{ seq := 4, size := 16, op := .red va .add .n32 1 false false }] }
theorem witness_LoadsIssue_waits : (tileView (memState 1) 5).st = 1 ∧
    answers (.ldS 9 5 1 3) (memState 1) { heldAt (memState 1) with waitFor := some (.tile 5 [2]) } = true ∧
    (redState (winVa 0 0x1044)).phase = .whole ∧ redCovers (redState (winVa 0 0x1044)) (winVa 0 0x1044) 4 = true ∧
    redCovers (redState (winVa 0 0x1054)) (winVa 0 0x1050) 16 = true ∧ redCovers (redState 0x10004) (myPlace (redState 0x10004) 0x10000 8) 8 = true ∧
    redCovers (redState 0x10028) (myPlace (redState 0x10028) 0x10020 16) 16 = true ∧
    ([(.ldL 9 1 2 0 1 1 1, winVa 0 0x1044), (.ldLQ 4 1 2 0 1, winVa 0 0x1054), (.ldG 9 2 3 1 1 1 0, 0x10004), (.ldGQ 4 2 1 1 2, 0x10028)] : List (Instr × Nat)).all (fun x =>
      ok (exec x.1 (redState x.2)) fun t => decide (t.cc.accs = [] ∧ t.me.regs = memAct.regs ∧ t.me.npc = 0x100) && sameMem (redState x.2) t) = true := by decide +kernel

/-- A re-arm that is forced ends with 4, so a timeout changes nothing (20 R471). -/
def forcedState : State := timeState 60 |>.onCore 0 fun k =>
  { k with acts := fmapVals (fun _ a => { a with park := .waitAny [⟨0, 0, true, false⟩] (some 60) true 9 }) k.acts }
theorem witness_WaitAnyCourse_forced : ok (exec (.waitAnyTimeout 0 0) forcedState) (fun t => decide (t = forcedState)) = true := by decide +kernel

/-- The hypotheses that say what is not under way. -/
theorem witness_nothing_else : (attemptState.core 0).errDue = none ∧ moveState.cc.errDue = none ∧ ((dispatchState recordEnt).core 1).errDue = none ∧
    ([pageState, loadState true, loadState false, windowAcc [] []].all fun s => s.cores.all fun c => c.2.mxq.isEmpty) = true ∧ cleanState.tagsOut = [] ∧
    (rotorState 520 1).trains = [] ∧ (farPage fabState).tagsOut = [] ∧ replyState.flights = [] := by decide +kernel

/-- The section lies where no page is mapped, so step 2 fails and no message is sent (02 R73). -/
theorem witness_RegionEvents_image_built : (imageBuild 0 (imageOf 0 []) imageState).2 = true ∧
    (imageBuild 0 { imageOf 0 [] with sections := [(0x10000, [5, 6])] } imageState).2 = false ∧
    (imageLaunch 0 { imageOf 0 [] with sections := [(0x10000, [5, 6])] } imageState).msgs = [] := by decide +kernel

/-- A K-step that is added to a pending partial, and an integer promotion of it, meet their hypotheses; the sums of the elements wrap. -/
theorem witness_MatrixRequestsRun_pending : ∀ x ∈ ([(.mma 4 0 2 3 false, .part 5 1 false), (.prom 0 none, .none)] : List (MxOp × MxRes)),
    let s := doneState x.1 x.2 { emptyMx with pp := 1, cls := 2, part := 3 }
    s.live = true ∧ s.cc.run = some 0 ∧ mxReqsOf s s.me.id = s.cc.mxq ∧ s.findAct 1 = some s.me ∧ s.cc.accs = [] ∧
    s.cc.mxq.map (fun r => (r.act, r.started, r.flags, r.committed)) = [(s.me.id, true, 0, false)] ∧ (s.me.mx.ctx.get 0).pp = 1 ∧ (s.me.mx.ctx.get 0).cls = 2 ∧
    (promElem 2 0 0 0xFFFFFFFF 5).val = 4 := by decide +kernel

/-- A walk of two identifiers at 0x9000 starts with them. -/
def walking : CpEnt := cpEntry .queued .walk [0x8000, 0, 0x9000, 0, 0x200000020, 0, 0, 0]
def walkFrom : State := { cpState walking fun k => { k with cpq := [0] } with dram := [(0x9000, 7), (0x9004, 9)] }
theorem witness_CopyEngineRuns_first : walking.first = (0x9000, 8) ∧ walking.tilesOk walkFrom 0 = true ∧ walking.refills walkFrom 0 = false ∧
    (piecesOf 0x9000 8).findSome? (engWait walkFrom 0 0 0x5000 false) = none ∧
    ok (exec (.cpStart ⟨0, false⟩) walkFrom) (fun t => decide ((t.cc.cp 0).st = .running ∧ (t.cc.cp 0).group = [7, 9])) = true := by decide +kernel

/-- 200 bytes from 0x8010 lie in two blocks. -/
theorem witness_FabricForms_blocks : ok (exec (.fabPf 5 8) (farPage (fabState 2 (sr [(8, 200)] fabAct)))) (fun t =>
    decide (t.rreqs.map (fun r => (r.va, r.pkg, r.excl, r.since)) = [(0x8000, 1, false, 500), (0x8080, 1, false, 500)])) = true := by decide +kernel

/-- A queue of 256 bytes holds one flit of 136; the other waits to enter it (14 R371). -/
def retiring : State := { (fabState 2 fabAct fun k => { k.onConn 1 (fun c => { c with replay := [(0, { aFlit 3 with dst := 1 }), (0, { aFlit 4 with dst := 1 })] }) with
  ctr := k.ctr.set 5 8 }) with qmax := 8 }
theorem witness_RotorAndLinks_room : ok (exec (.linkRetrain 2) retiring) (fun t => decide (fget (t.edge 0).bulkQ 1 = some [(0, { aFlit 3 with dst := 1 })] ∧
    fget (t.edge 0).held 1 = some [(0, { aFlit 4 with dst := 1 })])) = true := by decide +kernel

/-- A watched word of the block has the copy that is granted asked back. -/
def watchedBlock : State := let s := remoteState (.request true 0x8010)
  s.onSlice (homeOf s 0x8010) fun g => { g with watches := [{ core := 0, ctx := 0, slot := 1, part := 0, va := 0x8010 }] }
theorem witness_FlitsAndRemoteBlocks_watched : watched watchedBlock (homeOf watchedBlock 0x8000) 0 0x8010 = true ∧
    ok (exec (.homeRemoteRequest 8) watchedBlock) (fun t => decide ((t.slice (homeOf t 0x8000)).peers.map (fun p => (p.pkg, p.excl, p.asked)) = [(1, true, true)])) = true := by decide +kernel

/-- A read with a stale handle, and one that finds 64 waiting at its slice. -/
def staleRead : State := { replyState with potReads := [{ aRead .travelling none with handle := hdl + 1 }] }
def waitingReads : List PotRd := (List.range 64).map fun n => { aRead .waiting (some 0) 3 with id := 100 + n, handle := hdl + 1 }
def fullRead : State := { potState with potReads := waitingReads ++ [aRead .travelling none 3], now := 500 }
theorem witness_PotEffects_refused : potAt staleRead 0 (hdl + 1) = none ∧
    ok (exec (.potReadPerform 7) staleRead) (fun t => decide (t.potReads = [] ∧ (t.core 0).accs.map (·.st) = [.failed 4 (hdl + 1).toNat 0])) ∧
    potAt fullRead 0 hdl = some pot0 ∧ potSlice (hdl + 1) = potSlice hdl ∧ (3 : Word) &&& pot0.e &&& ~~~(pot0.landed.get (Fin.ofNat 16 pot0.g.toNat)) ≠ 0 ∧
    ok (exec (.potReadPerform 7) fullRead) (fun t => decide (t = { fullRead with potReads := waitingReads ++ [aRead (.held 564) (some 500) 3] })) := by decide +kernel

/-- Gangs whose home is package 1 are asked about there. -/
def asksHome (o : Out) (k e : Nat) : Bool := ok o fun t => decide (t.cc.accs.map (·.kind) = [.gangStat 0x5000 1 k e 9] ∧ t.me.pend = [.s 9])
theorem witness_GangForms_asks :
    ([(1, 0), (3, 2), (4, 3), (5, 4)] : List (Nat × Nat)).all (fun x => asksHome (exec (.qdStat 9 (BitVec.ofNat 6 x.1)) (gangState 1 [{ quad0 with home := some 1 }])) x.2 0x1000) = true ∧
    ([(1, 0), (6, 5), (7, 6)] : List (Nat × Nat)).all (fun x => asksHome (exec (.reelStat 9 (BitVec.ofNat 6 x.1)) (gangState 2 [] [{ reel0 with home := some 1 }])) x.2 0) = true := by decide +kernel
/-- Member 0 has not detached: its exit detaches it, and ends the wait where it is the last (17 R432). -/
theorem witness_GangForms_exit :
    ok (exec (.qdExit 9) (gangState 1 [{ quad0 with det := 0, dep := 0 }])) (fun t => decide (t.quads.map (·.det) = [1] ∧ t.cc.acts.map (·.2.park) = [.qdExit 0x5000 9])) ∧
    ok (exec (.qdExit 9) (gangState 1 [{ quad0 with det := 2, dep := 0 }])) (fun t => decide (t.me.regs.getS 9 = 0 ∧ t.cc.run = some 0)) := by decide +kernel
/-- No core of cluster 200 is the partition's; the home of the reel is package 1. -/
theorem witness_GangEvents_far : let q : Quad := { quad0 with open_ := false, det := 0, dep := 0, members := [(0, 200), (0, 201)], reserved := [] }
    let r : Reel := { reel0 with home := some 1 }
    memberOk (gangState 1 [q]) 0 (0, 200) = false ∧ q.next.isSome = true ∧ ok (exec (.qdAdmission 6) (gangState 1 [q])) (fun t => decide (t = gangState 1 [q])) ∧
    ok (exec (.roundTimeout 6) (gangState 2 [] [r])) (fun t => decide (t = gangState 2 [] [r])) ∧
    ok (exec (.roundEnd 6) (gangState 2 [] [r])) (fun t => decide (t.reels.map (fun x => (x.id, (fget x.parts 0).isSome)) = [(6, true)])) := by decide +kernel

theorem witness_HostCommands_limits : hostPath sysState (hreq []) = true ∧
    ([(.evring (hreq [8, 0x8000, 6, 0x9000]), 3), (.evring (hreq [0, 0x8000, 5, 0x9000]), 3), (.evring (hreq [0, 0x8000, 17, 0x9000]), 3), (.evring (hreq [0, 0x800000000000, 6, 0x9000]), 3),
      (.evring (hreq [0, 0x8000, 6, 0x800000000000]), 3)] : List (Instr × Nat)).all (fun x => replied x.1 x.2) = true := by decide +kernel
/-- A transfer of ED 0 goes on when ED 1's Trivet is reset. -/
theorem witness_PlatformEvents_edges : ok (exec (.mgmtRegisterWrite ⟨1, 0x400⟩ 21) { netState 4 with eds := 3 }) (fun t => decide (t.netx.length = 1 ∧ t.edge 1 = Edge.fresh ((netState 4).edge 1))) ∧
    holdsHere (giveBack (haltDrain (swapState []) 64) 2) 2 = false := by decide +kernel
/-- Of two commands of one cycle, ED 0's is first (20 R488). -/
theorem witness_StepRunsInstruction_order : let h1 : HostReq := { hreq [1] with ed := 1, cycle := 4 }
    let h0 : HostReq := { hreq [2] with cycle := 4 }
    ((hostOrder [.event (.hello h1), .event .guardEnd, .event (.fabset h0)]).map fun m => (moveReq m).map (·.ed)) = [some 0, some 1, none] := by decide +kernel

/-! ### Whole steps, words, rounding and invariants -/

/-- The state that runs a table word next, from reset. -/
noncomputable def fetched (w : Nat) : State := State.reset.withFetchWord 32 w
/-- What a step leaves of the running activation. -/
noncomputable def steps (w : Nat) (p : State → Bool) : Bool := ok (step (fetched w)) p
theorem witness_StepRunsInstruction : (match (fetched 0x82440001).agenda with
      | .issue 0 :: _ => true
      | _ => false) = true ∧ corePresent (fetched 0x82440001) 0 = true ∧ ((fetched 0x82440001).core 0).running.isSome = true ∧ (fetched 0x82440001).me.stepDue = false ∧
    mayIssue { fetched 0x82440001 with agenda := [] } 0 (fetched 0x82440001).me = true ∧ (fetched 0x82440001).wf = true ∧ (fetched 0x82440001).booted = true := by decide +kernel
/-- `li s4, 1`; `add s3, s1, s2` and `b.nez s5, -24` as the only word of their bundle; `trap`; a word that no table assigns. -/
theorem test_step : steps 0x82440001 (fun t => decide (t.me.regs.getS 4 = 1 ∧ t.me.pc = 8)) = true ∧ steps 0x00860840 (fun t => decide (t.me.regs.getS 3 = 0 ∧ t.me.pc = 8)) = true ∧
    steps 0x10453FFD (fun t => decide (t.me.pc = 8)) = true := by decide +kernel
theorem witness_StepRunsInstruction_fetch : (match fetch { fetched 0x82440001 with agenda := [], now := (fetched 0x82440001).now } 0 (fetched 0x82440001).me.part (fetched 0x82440001).me.pc with
      | .ok u w => (match parse u.me.conly w with
        | .ok b => decide (b.c = .li 4 1 ∧ interlocked u.me b = false)
        | _ => false)
      | _ => false) = true ∧
    (match parse false 0x02C46400 with
      | .bad aw x lone => decide (aw = false ∧ x = 0x02C46400 ∧ lone = 0)
      | _ => false) = true := by decide +kernel
theorem witness_StepRunsInstruction_event : isBundleWord (.guardEnd) = false ∧ moveWaits { State.reset with agenda := [.event .guardEnd] } (.event .guardEnd) = false ∧
    ok (step { State.reset with agenda := [.event .guardEnd], booted := true, now := 500 }) (fun t => decide (t.guard = false ∧ t.agenda = [])) = true := by decide +kernel
theorem witness_DecodeAndEncodeAgree : Instr.wf (.li 4 1) = true ∧ Instr.wf (.add 3 1 2) = true ∧ encodeC false 2 (.li 4 1) = some 0x22440001 ∧ encodeA 5 (.add 3 1 2) = some 0xA0860840 ∧
    (decodeC 0x22440001).isSome = true ∧ (decodeA 0xA0860840).isSome = true := by decide +kernel
/-- Two warnings in one bundle count once; WARNPC names the first bundle (02 R52, R54). -/
theorem witness_Warnings : (warnCore (warnCore Core.reset 2 0x108) 1 0x108).warn = 0x103 ∧ (warnCore Core.reset 2 0x108).warnpc = 0x108 ∧ (2 : Word) ≠ 0 ∧ (2 : Word).toNat < 16 := by decide +kernel
/-- 1 + 2^-8 lies half-way between two BF16 codes. -/
theorem witness_Rounding : (match Fmt.bf16.read 0x3F80 with
      | .fin neg m e => decide (Fmt.bf16.round .ru neg m e = ⟨0x3F80, 0⟩)
      | _ => false) = true ∧ Fmt.bf16.round .rn false 257 (-8) = ⟨0x3F80, fNX⟩ ∧ Fmt.bf16.round .ru false 257 (-8) = ⟨0x3F81, fNX⟩ ∧
    Fmt.bf16.round .rd true 257 (-8) = ⟨0xBF81, fNX⟩ ∧ Fmt.bf16.round .rz true 257 (-8) = ⟨0xBF80, fNX⟩ := by decide +kernel
theorem witness_ResetState : State.reset.wf = true ∧ State.reset.byte (.dram 5) = 0 ∧ (State.reset.core 7).cctl = 0 := by decide +kernel
theorem witness_MemoryStaysCanonical : (fetched 0x82440001).wf = true ∧ (match step (fetched 0x82440001) with
      | .next t => t.wf
      | _ => false) = true := by decide +kernel
theorem witness_BootFactsStay : (fetched 0x82440001).booted = true ∧ (match step (fetched 0x82440001) with
      | .next t => t.booted && decide (t.bootFacts = (fetched 0x82440001).bootFacts)
      | _ => false) = true := by decide +kernel

end Sys2Proof.Tests
end

section
/-! SUPPORT. What every operation of the machine keeps: memories in canonical form (log 4) and, once the package has booted, what boot
found (20 R489). Each operation is proved to keep both once, and callers cite that. -/

namespace Sys2Proof.Machine

-- One theorem at a time: each thread takes its own stack, and hundreds of them do not fit in memory.
set_option Elab.async false

/-! ### The relation -/

/-- From `s` the machine may come to `t`: canonical memories stay canonical, and a package that has booted stays as boot found it. -/
def Keeps (s t : State) : Prop :=
  (s.wf = true → t.wf = true) ∧ (s.booted = true → t.booted = true ∧ t.bootFacts = s.bootFacts)

/-- What `Keeps` speaks of: a change of anything else keeps it. -/
def State.kept (s : State) : Bool × Bool × BootFacts := (s.wf, s.booted, s.bootFacts)

/-- `Keeps` of the state that an outcome goes on with. -/
def OutKeeps (s : State) : Out → Prop
  | .next t => Keeps s t
  | .fault _ => True
  | .refused _ => True

/-- `Keeps` of a state that may be answered. -/
def OptKeeps (s : State) : Option State → Prop
  | some t => Keeps s t
  | none => True

section
variable {s₀ s t : State} {c : Nat}

theorem Keeps.refl (s : State) : Keeps s s := ⟨id, fun h => ⟨h, rfl⟩⟩

theorem Keeps.trans {u : State} (h : Keeps s t) (g : Keeps t u) : Keeps s u :=
  ⟨fun w => g.1 (h.1 w), fun b => ⟨(g.2 (h.2 b).1).1, (g.2 (h.2 b).1).2.trans (h.2 b).2⟩⟩

/-- A change outside the memories and what boot found. -/
theorem Keeps.frame (h : Keeps s₀ s) (e : t.kept = s.kept := by rfl) : Keeps s₀ t := by
  obtain ⟨hw, hb, hf⟩ : t.wf = s.wf ∧ t.booted = s.booted ∧ t.bootFacts = s.bootFacts := by simpa [State.kept] using e
  exact h.trans ⟨fun w => hw.trans w, fun b => ⟨hb.trans b, hf⟩⟩

theorem Keeps.ite {p : Prop} [Decidable p] (h : Keeps s₀ s) (g : Keeps s₀ t) : Keeps s₀ (if p then s else t) := by
  split
  · exact h
  · exact g

theorem Keeps.foldl {α : Type} {f : State → α → State} {l : List α} (h : Keeps s₀ s) (hf : ∀ s x, Keeps s₀ s → Keeps s₀ (f s x)) :
    Keeps s₀ (l.foldl f s) := by
  induction l generalizing s with
  | nil => exact h
  | cons x r ih => exact ih (hf s x h)

theorem OutKeeps.ite {p : Prop} [Decidable p] {a b : Out} (h : OutKeeps s₀ a) (g : OutKeeps s₀ b) : OutKeeps s₀ (if p then a else b) := by
  split
  · exact h
  · exact g

theorem OptKeeps.of_some {o : Option State} (h : OptKeeps s₀ o) (e : o = some t) : Keeps s₀ t := by
  subst e
  exact h

theorem OptKeeps.none : OptKeeps s₀ .none := trivial

theorem OptKeeps.ite {p : Prop} [Decidable p] {a b : Option State} (h : OptKeeps s₀ a) (g : OptKeeps s₀ b) :
    OptKeeps s₀ (if p then a else b) := by
  split
  · exact h
  · exact g

theorem OptKeeps.orElse {o : Option State} {f : Unit → Option State} (h : OptKeeps s₀ o) (g : OptKeeps s₀ (f ())) :
    OptKeeps s₀ (o.orElse f) := by
  cases o with
  | some => exact h
  | none => exact g

theorem Keeps.of_eq (h : Keeps s₀ s) (e : s = t) : Keeps s₀ t := e ▸ h

theorem Keeps.of_fst {α : Type} {x : State × α} {a : α} (e : x = (t, a)) (h : Keeps s₀ x.1) : Keeps s₀ t := by
  subst e
  exact h

/-! ### Parts of the state -/

/-- A change of a core that leaves it canonical memories where those of the state are. -/
theorem Keeps.onCoreOfWf {f : Core → Core} (h : Keeps s₀ s) (hf : s₀.wf = true → s.wf = true → (f (s.core c)).wf = true) :
    Keeps s₀ (s.onCore c f) := ⟨fun w => State.wf_onCore (h.1 w) (hf w (h.1 w)), h.2⟩

theorem Keeps.onCore {f : Core → Core} (h : Keeps s₀ s) (hf : ∀ k : Core, k.wf = true → (f k).wf = true := by exact fun _ hk => hk) :
    Keeps s₀ (s.onCore c f) := h.onCoreOfWf fun _ w => hf _ (State.core_wf w c)

theorem Keeps.setCore {k : Core} (h : Keeps s₀ s) (hk : s₀.wf = true → s.wf = true → k.wf = true) : Keeps s₀ (s.setCore c k) :=
  h.onCoreOfWf (f := fun _ => k) hk

/-- A change of a cluster that leaves it a canonical scratchpad where the memories of the state are canonical. -/
theorem Keeps.onClusterOfWf {f : Cluster → Cluster} (h : Keeps s₀ s)
    (hf : s₀.wf = true → s.wf = true → (f (s.cluster c)).spad.wf = true) : Keeps s₀ (s.onCluster c f) :=
  ⟨fun w => State.wf_onCluster (h.1 w) (hf w (h.1 w)), h.2⟩

theorem Keeps.onCluster {f : Cluster → Cluster} (h : Keeps s₀ s)
    (hf : ∀ k : Cluster, k.spad.wf = true → (f k).spad.wf = true := by exact fun _ hk => hk) : Keeps s₀ (s.onCluster c f) :=
  h.onClusterOfWf fun _ w => hf _ (State.cluster_wf w c)

theorem Keeps.onSlice {f : Slice → Slice} (h : Keeps s₀ s) : Keeps s₀ (s.onSlice c f) := h.frame

theorem Keeps.onDie {f : Die → Die} (h : Keeps s₀ s) : Keeps s₀ (s.onDie c f) := h.frame

theorem Keeps.onEdge {f : Edge → Edge} (h : Keeps s₀ s) : Keeps s₀ (s.onEdge c f) := h.frame

theorem Keeps.onLink {f : Link → Link} (h : Keeps s₀ s) : Keeps s₀ (s.onLink c f) := h.frame

theorem Keeps.used (h : Keeps s₀ s) : Keeps s₀ s.used := h.frame

theorem Keeps.used1 (h : Keeps s₀ s) : Keeps s₀ s.used1 := h.frame

/-- A change of a partition that leaves it canonical memories where those of the state are. -/
theorem Keeps.onPartOfWf {f : Part → Part} (h : Keeps s₀ s) (hf : s₀.wf = true → s.wf = true → (f (s.partn c)).wf = true) :
    Keeps s₀ (s.onPart c f) := ⟨fun w => State.wf_onPart (h.1 w) (hf w (h.1 w)), h.2⟩

theorem Keeps.onPart {f : Part → Part} (h : Keeps s₀ s) (hf : ∀ p : Part, p.wf = true → (f p).wf = true := by exact fun _ hp => hp) :
    Keeps s₀ (s.onPart c f) := h.onPartOfWf fun _ w => hf _ (State.partn_wf w c)

/-- A change of every core, and of what is outside the memories and what boot found. -/
theorem Keeps.mapCores {g : Nat × Core → Nat × Core} (h : Keeps s₀ s) (ht : t.cores = s.cores.map g)
    (hg : ∀ x, x.2.wf = true → (g x).2.wf = true) (e : ({ t with cores := s.cores } : State).kept = s.kept := by rfl) : Keeps s₀ t := by
  refine (h.frame e).trans ⟨fun w => ?_, fun b => ⟨b, rfl⟩⟩
  obtain ⟨h1, h2, h3, h4⟩ := State.wf_iff.1 w
  exact State.wf_iff.2 ⟨h1, h2, ht ▸ List.forall_mem_map.2 fun x hx => hg x (h3 x hx), h4⟩

/-- A change of every cluster, and of what is outside the memories and what boot found. -/
theorem Keeps.mapClusters {g : Nat × Cluster → Nat × Cluster} (h : Keeps s₀ s) (ht : t.clusters = s.clusters.map g)
    (hg : ∀ x, x.2.spad.wf = true → (g x).2.spad.wf = true) (e : ({ t with clusters := s.clusters } : State).kept = s.kept := by rfl) :
    Keeps s₀ t := by
  refine (h.frame e).trans ⟨fun w => ?_, fun b => ⟨b, rfl⟩⟩
  obtain ⟨h1, h2, h3, h4, h5⟩ := State.wf_iff.1 w
  exact State.wf_iff.2 ⟨h1, h2, h3, ht ▸ List.forall_mem_map.2 fun x hx => hg x (h4 x hx), h5⟩

end

/-! ## What they keep: reports, writes of physical memory and accesses at the homes -/

section
variable {s₀ s : State} {core ctx part va rcb pa h e d n c w cl : Nat}

/-! ### Reports and physical memory -/

theorem physWrite_keeps {l : List Byte} (k : Keeps s₀ s) : Keeps s₀ (physWrite s pa l) := by
  refine k.trans ⟨physWrite_wf pa l, fun b => ?_⟩
  unfold physWrite
  split <;> exact ⟨b, rfl⟩

theorem evWrite_keeps {r : EvRec} (k : Keeps s₀ s) : Keeps s₀ (evWrite s e r) :=
  k.trans ⟨evWrite_wf e r, fun b => ⟨b, rfl⟩⟩

theorem Part.wf_setCore {p : Part} {k : Core} (hp : p.wf = true) (hk : k.wf = true) :
    ({ p with cores := fset p.cores c k } : Part).wf = true := by
  obtain ⟨h1, h2⟩ := Part.wf_iff.1 hp
  refine Part.wf_iff.2 ⟨fun x hx => ?_, h2⟩
  rcases mem_fset hx with rfl | hx
  · exact hk
  · exact h1 x hx

theorem Part.core_wf {p : Part} {k : Core} (hp : p.wf = true) (hk : fget p.cores c = some k) : k.wf = true :=
  (Part.wf_iff.1 hp).1 _ (fget_mem hk)

theorem Keeps.onCoreOf {f : Core → Core} (k : Keeps s₀ s) (hf : ∀ k : Core, k.wf = true → (f k).wf = true := by exact fun _ hk => hk) :
    Keeps s₀ (s.onCoreOf part core f) := by
  unfold State.onCoreOf
  split
  · exact k.onCore hf
  · split
    · next hk => exact k.onPartOfWf fun _ w => Part.wf_setCore (State.partn_wf w _) (hf _ (Part.core_wf (State.partn_wf w _) hk))
    · exact .ite (k.onCore hf) k

theorem evtNote_keeps {o : Option Nat} {p v : Bool} (k : Keeps s₀ s) : Keeps s₀ (evtNote s part o p v) := by
  unfold evtNote
  split
  · exact k
  · exact k.onCoreOf

theorem setEvDie_keeps {d : EvDie} {w : Reporter} (k : Keeps s₀ s) : Keeps s₀ (setEvDie s d w) := by
  cases w <;> exact k.frame

theorem report_keeps {w : Reporter} {o : Option Nat} {cls code : Nat} {a : Word} (k : Keeps s₀ s) :
    Keeps s₀ (report s w o cls code part a) :=
  .ite (evtNote_keeps (setEvDie_keeps k)) (.ite (evtNote_keeps (setEvDie_keeps k)) (evtNote_keeps (evWrite_keeps k)))

/-! ### Translation, flits and lines -/

theorem tlbTouch_keeps (k : Keeps s₀ s) : Keeps s₀ (tlbTouch s part va) := by
  unfold tlbTouch
  dsimp only
  split
  · exact k.frame
  · exact k

theorem tlbKeep_keeps {p : Perm} (k : Keeps s₀ s) : Keeps s₀ (tlbKeep s part va p) := by
  unfold tlbKeep
  split
  · exact k.frame
  · exact k

theorem walkedTake_keeps (k : Keeps s₀ s) : Keeps s₀ (walkedTake s part va) := k.frame

theorem refill_keeps (k : Keeps s₀ s) : Keeps s₀ (refill s e d) := k.frame

theorem sendFlit_keeps {f : Flit} (k : Keeps s₀ s) : Keeps s₀ (sendFlit s e part f) :=
  .ite k (.ite (.ite k.frame k.frame) k.frame)

theorem l1Drop_keeps (k : Keeps s₀ s) : Keeps s₀ (l1Drop s core part va) := by
  unfold l1Drop
  split
  · exact k
  · exact k.onCore

theorem nearRecall_keeps (k : Keeps s₀ s) : Keeps s₀ (nearRecall s h part va) := by
  unfold nearRecall
  split
  · split
    · exact (l1Drop_keeps k).frame
    · exact k
  · exact k

theorem dropSharers_keeps {o : Option Nat} (k : Keeps s₀ s) : Keeps s₀ (dropSharers s h part va o) := by
  unfold dropSharers
  split
  · exact (k.foldl fun _ _ => l1Drop_keeps).frame
  · exact k

theorem sendBlocks_keeps {p tag : Nat} {l : List (List Byte)} (k : Keeps s₀ s) : Keeps s₀ (sendBlocks e part p l tag s) := by
  induction l generalizing tag s with
  | nil => exact k
  | cons b r ih => exact ih (sendFlit_keeps k)

theorem pushTrain_keeps {t : TrainOut} (k : Keeps s₀ s) : Keeps s₀ (pushTrain s t) := by
  unfold pushTrain
  split
  · exact k.frame
  · exact sendBlocks_keeps (sendFlit_keeps k.frame)

theorem sendTrain_keeps {p : Nat} {l : List (List Byte)} (k : Keeps s₀ s) : Keeps s₀ (sendTrain s e part va p l) :=
  pushTrain_keeps k.frame

theorem dropBlockLines_keeps (k : Keeps s₀ s) : Keeps s₀ (dropBlockLines s h part va) := by
  refine k.foldl fun s a k => ?_
  extract_lets s₁
  have k₁ : Keeps s₀ s₁ := dropSharers_keeps (nearRecall_keeps k)
  split
  · exact k₁.onSlice
  · exact k₁

theorem evictBlock_keeps (k : Keeps s₀ s) : Keeps s₀ (evictBlock s h part va) := by
  unfold evictBlock
  extract_lets s₁ g p s₂
  have k₁ : Keeps s₀ s₁ := k.foldl fun _ _ => nearRecall_keeps
  have k₂ : Keeps s₀ s₂ := .ite (sendTrain_keeps k₁) k₁
  exact .onSlice (dropBlockLines_keeps k₂)

theorem evictLine_keeps {l : Line} (k : Keeps s₀ s) : Keeps s₀ (evictLine s h w l) := by
  unfold evictLine
  extract_lets va
  split
  · exact evictBlock_keeps k
  · rename_i s₁ _ _
    have k₁ : Keeps s₀ s₁ := dropSharers_keeps (nearRecall_keeps k)
    split
    · exact .onSlice (.ite (physWrite_keeps k₁) k₁)
    · exact k₁

theorem lineFill_keeps {l : Line} (k : Keeps s₀ s) : Keeps s₀ (lineFill s h l) := by
  unfold lineFill
  extract_lets va g set
  split
  extract_lets s₁ s₂
  have k₁ : Keeps s₀ s₁ := k.onSlice
  refine .onSlice ?_
  unfold s₂
  split
  · exact evictLine_keeps k₁
  · exact k₁

theorem mergeMiss_keeps (k : Keeps s₀ s) : Keeps s₀ (mergeMiss s pa) := k.frame

theorem lineGet_keeps {rm : Option Nat} (k : Keeps s₀ s) : Keeps s₀ (lineGet s h part va pa rm n) := by
  unfold lineGet
  split
  · exact k.frame
  · exact lineFill_keeps (mergeMiss_keeps k)

/-! ### Accesses at a home slice -/

theorem markFired_keeps {l : List Watch} (k : Keeps s₀ s) : Keeps s₀ (markFired l part va n s) := by
  refine k.foldl fun s x k => k.onCore fun q hq => ?_
  dsimp only
  split
  · split
    · exact hq
    · exact hq
  · exact hq

theorem askPeers_keeps {b : Bool} (k : Keeps s₀ s) : Keeps s₀ (askPeers s h part va b) := by
  unfold askPeers
  extract_lets ps s₁
  have k₁ : Keeps s₀ s₁ := k.foldl fun _ _ => sendFlit_keeps
  exact k₁.onSlice

theorem askBlock_keeps {p : Nat} {b : Bool} (k : Keeps s₀ s) : Keeps s₀ (askBlock s h part va p b) := by
  unfold askBlock
  split
  · exact k
  · split
    · exact k
    · next i _ =>
      have k₁ : Keeps s₀ { s with fresh := i + 1 } := k.frame
      exact (sendFlit_keeps k₁).frame

theorem homeWait_keeps {pte : Word} {b : Bool} (k : Keeps s₀ s) : OptKeeps s₀ (homeWait s part va pte pa b) := by
  unfold homeWait
  extract_lets h
  split
  · trivial
  · split
    · split
      · exact askBlock_keeps k
      · split
        · exact askBlock_keeps k
        · trivial
      · trivial
    · split
      · trivial
      · exact askPeers_keeps k

theorem homeRead_keeps {rm : Option Nat} {m : Nat} (k : Keeps s₀ s) : Keeps s₀ (homeRead s part va pa rm n m).1 := by
  unfold homeRead
  split
  · exact k
  · exact nearRecall_keeps (lineGet_keeps k)

theorem proxyWrote_keeps {rm : Option Nat} (k : Keeps s₀ s) : Keeps s₀ (proxyWrote s h part va rm) := by
  unfold proxyWrote
  split
  · exact k.onSlice
  · exact k

theorem homeWrite_keeps {o rm : Option Nat} {b : List Byte} (k : Keeps s₀ s) : Keeps s₀ (homeWrite s o part va pa rm b n) := by
  unfold homeWrite
  split
  · exact physWrite_keeps k
  · extract_lets h s₁ s₂ s₃ i s₄
    have k₁ : Keeps s₀ s₁ := nearRecall_keeps (lineGet_keeps k)
    have k₂ : Keeps s₀ s₂ := dropSharers_keeps (proxyWrote_keeps k₁)
    have k₃ : Keeps s₀ s₃ := by
      unfold s₃
      split
      · exact k₂.onSlice
      · exact k₂
    refine markFired_keeps ?_
    unfold s₄
    split
    · split
      · exact k₃.onCore
      · exact k₃
    · exact k₃

theorem countReq_keeps {m : Nat} (k : Keeps s₀ s) : Keeps s₀ (countReq s part va core m) := k.onSlice

theorem oweRecall_keeps (k : Keeps s₀ s) : Keeps s₀ (oweRecall s part va) := .ite k k.frame

theorem askOwed_keeps {l : List (Nat × Nat)} (k : Keeps s₀ s) : Keeps s₀ (askOwed s l) := k.foldl fun _ _ => askPeers_keeps

theorem hwWrite_keeps {t : State} {v : Nat} (k : Keeps s₀ s) (e : hwWrite s part va n v = .ok t) : Keeps s₀ t := by
  unfold hwWrite at e
  split at e
  · cases e
    exact homeWrite_keeps (oweRecall_keeps k)
  · cases e
  · cases e

theorem hwPoke_keeps {v : Nat} (k : Keeps s₀ s) : Keeps s₀ (hwPoke s part va v) := by
  unfold hwPoke
  split
  · next e => exact hwWrite_keeps k e
  · exact k

end

/-! ## What they keep: activations, their waits, tiles, barriers, messages of the hardware and starts of regions -/

section
variable {s₀ s : State} {core ctx part va rcb pa h e d n c w cl v : Nat}

/-! ### The running activation and its core -/

theorem Core.wf_onRun {k : Core} {f : Act → Act} (hk : k.wf = true) : (k.onRun f).wf = true := by
  unfold Core.onRun
  split
  · split
    · exact hk
    · exact hk
  · exact hk

theorem Core.wf_warnCore {k : Core} {x : Word} {pc : Nat} (hk : k.wf = true) : (warnCore k x pc).wf = true := by
  unfold warnCore
  split
  · exact hk
  · exact hk

theorem Keeps.onAct {f : Act → Act} (k : Keeps s₀ s) : Keeps s₀ (s.onAct core ctx f) := by
  refine k.onCore fun q hq => ?_
  split
  · exact hq
  · exact hq

theorem Keeps.onActAll {f : Act → Act} (k : Keeps s₀ s) : Keeps s₀ (s.onActAll n f) := k.mapCores rfl fun _ hq => hq

theorem Keeps.onCC {f : Core → Core} (k : Keeps s₀ s) (hf : ∀ k : Core, k.wf = true → (f k).wf = true := by exact fun _ hk => hk) :
    Keeps s₀ (s.onCC f) := k.onCore hf

theorem Keeps.onMe {f : Act → Act} (k : Keeps s₀ s) : Keeps s₀ (s.onMe f) := k.onCC fun _ => Core.wf_onRun

theorem Keeps.ws {r : SReg} {x : Word} (k : Keeps s₀ s) : Keeps s₀ (s.ws r x) := k.onMe

theorem Keeps.wv {r : VReg} {x : BitVec 128} (k : Keeps s₀ s) : Keeps s₀ (s.wv r x) := k.onMe

theorem Keeps.wk {r : KReg} {x : BitVec 16} (k : Keeps s₀ s) : Keeps s₀ (s.wk r x) := k.onMe

theorem Keeps.wi {r : IReg} {x : Word} (k : Keeps s₀ s) : Keeps s₀ (s.wi r x) := k.onMe

theorem Keeps.pendReg {r : Reg} (k : Keeps s₀ s) : Keeps s₀ (s.pendReg r) := .ite k k.onMe

theorem Keeps.orFlags {x : Word} (k : Keeps s₀ s) : Keeps s₀ (s.orFlags x) := k.onMe

theorem Keeps.warn {x : Word} (k : Keeps s₀ s) : Keeps s₀ (s.warn x) := k.onCC fun _ => Core.wf_warnCore

theorem Keeps.qualIf {b : Bool} (k : Keeps s₀ s) : Keeps s₀ (s.qualIf b) := .ite k.warn k

/-! ### Control blocks, queues and rings -/

theorem rcbPut_keeps {off lo len : Nat} (k : Keeps s₀ s) : Keeps s₀ (rcbPut s part rcb off lo len v) := hwPoke_keeps k

theorem enqueue_keeps {q : QKind} {p : Nat} (k : Keeps s₀ s) : Keeps s₀ (enqueue s core q p) := k.onCore

theorem wakeAct_keeps {f : Act → Act} (k : Keeps s₀ s) : Keeps s₀ (wakeAct s core ctx f) := by
  unfold wakeAct
  split
  · exact enqueue_keeps k.onAct
  · exact k

theorem wakeId_keeps {f : Act → Act} (k : Keeps s₀ s) : Keeps s₀ (wakeId s n f) := by
  unfold wakeId
  split
  · exact wakeAct_keeps k
  · exact k.frame

theorem Core.wf_advanceHead {l : List RingRec} {k : Core} (hk : k.wf = true) : (advanceHead n l k).wf = true := by
  induction l generalizing k with
  | nil => exact hk
  | cons r rs ih =>
    unfold advanceHead
    split
    · exact ih hk
    · split
      · have hp := Core.wf_lsPoke (ringBase n) (lsWord k (ringBase n) + r.size) hk
        exact ih hp
      · exact hk

theorem Core.wf_consumeMsg {k : Core} (hk : k.wf = true) : (consumeMsg k n c).wf = true := Core.wf_advanceHead hk

theorem pushFlight_keeps {act rp : Nat} {ent : Option Nat} {op : RbOp} {src : Option (Nat × Nat × Nat)} (k : Keeps s₀ s) :
    Keeps s₀ (pushFlight s core part act rp ent op src) := k.frame

/-! ### Tiles and barriers -/

theorem tileRelease_keeps (k : Keeps s₀ s) : Keeps s₀ (tileRelease s cl n) := k.onCluster

theorem tileSettle_keeps (k : Keeps s₀ s) : Keeps s₀ (tileSettle s cl n) :=
  .ite (.ite k.onCluster (k.onCluster fun _ hq => Memory.wf_filter _ hq)) k

theorem freeTilesOf_keeps {o : Own} (k : Keeps s₀ s) : Keeps s₀ (freeTilesOf s o) :=
  k.foldl fun _ _ k => k.foldl fun _ _ => tileRelease_keeps

theorem barRelay_keeps {f : BitVec 16 → Word} {x : Word} (k : Keeps s₀ s) : Keeps s₀ (barRelay s n f x) := by
  refine k.foldl fun s a k => ?_
  split
  · exact .ite (wakeId_keeps k) k
  · exact .ite k.onActAll k

theorem barRelease_keeps (k : Keeps s₀ s) : Keeps s₀ (barRelease s n) := barRelay_keeps k.onDie

theorem freeBarsOf_keeps {o : Own} (k : Keeps s₀ s) : Keeps s₀ (freeBarsOf s o) :=
  k.foldl fun _ _ k => k.foldl fun _ _ => barRelease_keeps

/-! ### Ends of activations -/

theorem bookOn_keeps {a : Act} (k : Keeps s₀ s) : Keeps s₀ (bookOn s core a) := by
  unfold bookOn
  split
  · exact k.onCore
  · exact k

theorem bookRestarts_keeps (k : Keeps s₀ s) : Keeps s₀ (bookRestarts s) := by
  refine k.foldl fun s x k => ?_
  split
  · exact k
  · split
    · exact bookOn_keeps k
    · exact k

theorem endCps_keeps {b : Bool} (k : Keeps s₀ s) : Keeps s₀ (endCps b n s) := k.mapCores rfl fun _ hq => hq

theorem cancelWatches_keeps (k : Keeps s₀ s) : Keeps s₀ (cancelWatches s core ctx) := k.mapCores rfl fun _ hq => hq

theorem Core.wf_addWait {k : Core} (hk : k.wf = true) : (addWait k n).wf = true := hk

theorem Core.wf_cpAwake {k : Core} (hk : k.wf = true) : (cpAwake k n).wf = true := by
  unfold cpAwake
  split
  · exact hk
  · exact hk

theorem Core.wf_foldl {α : Type} {f : Core → α → Core} {l : List α} {k : Core} (hk : k.wf = true) 
    (hf : ∀ k x, k.wf = true → (f k x).wf = true) :
    (l.foldl f k).wf = true := by
  induction l generalizing k with
  | nil => exact hk
  | cons x r ih => exact ih (hf k x hk)

theorem Core.wf_mxAwake {k : Core} (hk : k.wf = true) : (mxAwake n k).wf = true :=
  Core.wf_foldl hk fun k r hk => by
    split
    · exact Core.wf_addWait hk
    · exact hk

theorem Core.wf_keepReqs {p : MxReq → Bool} {k : Core} (hk : k.wf = true) : (keepReqs n p k).wf = true :=
  Core.wf_foldl hk fun k r hk => by
    split
    · exact Core.wf_addWait hk
    · exact hk

theorem freeStages_keeps (k : Keeps s₀ s) : Keeps s₀ (freeStages s core) := k.onCluster

theorem dropWork_keeps (k : Keeps s₀ s) : Keeps s₀ (dropWork s core n) := by
  refine freeStages_keeps (k.onCore fun q hq => Core.wf_keepReqs ?_)
  exact hq

theorem endAct_keeps {b : Bool} (k : Keeps s₀ s) : Keeps s₀ (endAct s core ctx b) := by
  unfold endAct
  split
  · exact k
  · next a _ =>
    extract_lets s₁ s₂
    have k₁ : Keeps s₀ s₁ := by
      unfold s₁
      split
      · exact cancelWatches_keeps k
      · exact k
    have k₂ : Keeps s₀ s₂ := k₁.onCore
    exact bookRestarts_keeps (dropWork_keeps (endCps_keeps k₂))

theorem dropLanded_keeps (k : Keeps s₀ s) : Keeps s₀ (dropLanded s core n c) := by
  unfold dropLanded
  extract_lets m s₁
  clear_value m
  have k₁ : Keeps s₀ s₁ := by
    unfold s₁
    split
    · exact endCps_keeps k
    · exact k
  exact k₁.onCore fun _ => Core.wf_consumeMsg

theorem clearFibre_keeps (k : Keeps s₀ s) : Keeps s₀ (clearFibre s core n) := by
  refine bookRestarts_keeps (k.onCore fun q hq => Core.wf_lsPoke _ _ ?_)
  exact hq

/-! ### Messages made by the hardware -/

theorem hwMessage_keeps {slice kind prio eoff spkg src : Nat} {b : Bool} {l : List Word} (k : Keeps s₀ s) :
    Keeps s₀ (hwMessage s part slice core kind rcb prio eoff b spkg src l) := k.frame

theorem entryMessage_keeps {o : Option Nat} {b : Bool} {i : Nat} (k : Keeps s₀ s) : Keeps s₀ (entryMessage s part rcb o b core i n) :=
  hwMessage_keeps k

theorem countMsg_keeps {p : Nat} {b : Bool} (k : Keeps s₀ s) : Keeps s₀ (countMsg s part p b) := k.frame

theorem hwMessageTo_keeps {p kind eoff spkg src : Nat} {b : Bool} {l : List Word} (k : Keeps s₀ s) :
    Keeps s₀ (hwMessageTo s part rcb p core kind eoff b spkg src l) := countMsg_keeps (sendFlit_keeps k)

theorem entryTo_keeps {o : Option Nat} {b : Bool} {p i : Nat} (k : Keeps s₀ s) : Keeps s₀ (entryTo s part rcb o b p core i n) :=
  .ite (entryMessage_keeps k) (hwMessageTo_keeps k)

theorem paramWrite_keeps (k : Keeps s₀ s) : Keeps s₀ (paramWrite s part va v) := by
  unfold paramWrite
  split
  · next e => exact hwWrite_keeps k e
  · exact report_keeps k

theorem reelCopy_keeps {r : Reel} {b : Bool} (k : Keeps s₀ s) : Keeps s₀ (reelCopy s r b) := by
  unfold reelCopy
  extract_lets s₁ s₂ s₃
  have k₃ : Keeps s₀ s₃ := paramWrite_keeps (paramWrite_keeps (paramWrite_keeps k))
  exact k₃.foldl fun _ _ => paramWrite_keeps

theorem gangFlit_keeps {p id code : Nat} (k : Keeps s₀ s) : Keeps s₀ (gangFlit s part rcb p id code v) := sendFlit_keeps k

theorem shareReel_keeps {r : Reel} {l : List (Nat × List Nat)} (k : Keeps s₀ s) : Keeps s₀ (shareReel s r l) :=
  k.foldl fun _ _ k => k.foldl fun _ _ => gangFlit_keeps

theorem openReel_keeps (k : Keeps s₀ s) : Keeps s₀ (openReel s part rcb).1 := by
  unfold openReel
  extract_lets _ _ _ _ _ _ _ _ _ _ _ _ _ r
  have k₁ : Keeps s₀ { s.used1 with reels := s.reels ++ [r] } := k.frame
  exact shareReel_keeps (reelCopy_keeps k₁)

theorem waitQuad_keeps {o : Option Nat} {b : Bool} (k : Keeps s₀ s) : Keeps s₀ (waitQuad s part rcb o b) := by
  unfold waitQuad
  extract_lets _ _ rest _ _ q
  have k₁ : Keeps s₀ { s.used1 with quads := rest ++ [q] } := k.frame
  exact (paramWrite_keeps k₁).foldl fun _ _ => gangFlit_keeps

theorem startRegion_keeps {o : Option Nat} {b : Bool} (k : Keeps s₀ s) : Keeps s₀ (startRegion s part rcb o b) := by
  unfold startRegion
  extract_lets kind s₁ m
  have k₁ : Keeps s₀ s₁ := rcbPut_keeps k
  split
  · exact waitQuad_keeps (rcbPut_keeps k)
  · split
    next t l e =>
    have k₂ : Keeps s₀ t := by
      split at e
      · exact Keeps.of_fst e (openReel_keeps k₁)
      · cases e
        exact k₁
    exact k₂.foldl fun _ _ => entryTo_keeps

theorem fireTrigger_keeps {o : Own} (k : Keeps s₀ s) : Keeps s₀ (fireTrigger s o) := by
  unfold fireTrigger
  split
  · exact k
  · exact (Keeps.frame k).foldl fun _ _ => startRegion_keeps

end

/-! ## What they keep: quadrilles, failures of regions and fault domains -/

section
variable {s₀ s : State} {core ctx part va rcb pa h e d n c w cl v : Nat}

/-! ### Quadrilles -/

theorem setQuad_keeps {q : Quad} (k : Keeps s₀ s) : Keeps s₀ (setQuad s q) := k.frame

theorem freeSegment_keeps {q : Quad} (k : Keeps s₀ s) : Keeps s₀ (freeSegment s q n) := by
  unfold freeSegment
  split
  · exact .ite (tileRelease_keeps k) k
  · exact k

theorem wakeExits_keeps {q : Quad} (k : Keeps s₀ s) : Keeps s₀ (wakeExits s q) := by
  refine k.foldl fun s a k => ?_
  split
  · exact .ite (wakeId_keeps k) k
  · exact k

theorem wakeOpens_keeps {x : Word} (k : Keeps s₀ s) : Keeps s₀ (wakeOpens s part rcb x) := by
  refine k.foldl fun s a k => ?_
  split
  · exact .ite (wakeId_keeps k) k
  · exact k

theorem quadFlit_keeps {q : Quad} {p : Nat} (k : Keeps s₀ s) : Keeps s₀ (quadFlit s q p n v) := gangFlit_keeps k

theorem quadRelease_keeps {q : Quad} (k : Keeps s₀ s) : Keeps s₀ (quadRelease s q) := k.foldl fun _ _ => quadFlit_keeps

theorem quadTell_keeps {q : Quad} (k : Keeps s₀ s) : Keeps s₀ (quadTell s q) := .ite k (k.foldl fun _ _ => quadFlit_keeps)

theorem quadWrite_keeps {q : Quad} (k : Keeps s₀ s) : Keeps s₀ (quadWrite s q n v) := .ite k (paramWrite_keeps k)

theorem closeQuad_keeps {q : Quad} (k : Keeps s₀ s) : Keeps s₀ (closeQuad s q) := by
  unfold closeQuad
  split
  · exact k
  · extract_lets s₁ held s₂ q s₃
    have k₁ : Keeps s₀ s₁ := .ite k (wakeOpens_keeps (.ite (quadRelease_keeps k) k))
    have k₂ : Keeps s₀ s₂ := k₁.foldl fun _ _ => freeSegment_keeps
    have k₃ : Keeps s₀ s₃ := .ite (k₂.foldl fun _ _ => quadFlit_keeps) k₂
    exact wakeExits_keeps (quadTell_keeps (quadWrite_keeps (setQuad_keeps k₃)))

theorem gangOver_keeps {id : Nat} {o : Option Nat} (k : Keeps s₀ s) : Keeps s₀ (gangOver s part rcb id o) := by
  unfold gangOver
  split
  · exact k.foldl fun _ _ => gangFlit_keeps
  · exact gangFlit_keeps k

theorem endQuads_keeps {p : Nat → Bool} (k : Keeps s₀ s) : Keeps s₀ (endQuads s part p) := by
  unfold endQuads
  extract_lets mine s₁ s₂
  have k₁ : Keeps s₀ s₁ := k.foldl fun _ _ => closeQuad_keeps
  have k₂ : Keeps s₀ s₂ := k₁.foldl fun _ _ => gangOver_keeps
  exact k₂.frame

theorem quadChanged_keeps {q : Quad} (k : Keeps s₀ s) : Keeps s₀ (quadChanged s q) := by
  unfold quadChanged
  extract_lets s₁
  have k₁ : Keeps s₀ s₁ := quadTell_keeps (quadWrite_keeps (quadWrite_keeps (setQuad_keeps k)))
  exact .ite (closeQuad_keeps k₁) k₁

theorem memberTell_keeps {q : Quad} {b : Bool} (k : Keeps s₀ s) : Keeps s₀ (memberTell s q n b) := by
  unfold memberTell
  split
  · exact quadFlit_keeps k
  · exact k

theorem memberDepart_keeps {q : Quad} (k : Keeps s₀ s) : Keeps s₀ (memberDepart s q n) :=
  .ite k (quadChanged_keeps (memberTell_keeps (freeSegment_keeps k)))

theorem memberDetach_keeps {q : Quad} (k : Keeps s₀ s) : Keeps s₀ (memberDetach s q n) :=
  .ite (quadChanged_keeps (memberTell_keeps k)) k

theorem departFrom_keeps (k : Keeps s₀ s) : Keeps s₀ (departFrom s part n cl) := by
  refine k.foldl fun s q k => ?_
  split
  · split
    · exact memberDepart_keeps k
    · exact k
  · exact k

/-! ### Regions that end or fail -/

theorem forgetEnts_keeps {r : Reel} (k : Keeps s₀ s) : Keeps s₀ (forgetEnts s r) := k.mapClusters rfl fun _ hq => hq

theorem dropReels_keeps {p : Reel → Bool} (k : Keeps s₀ s) : Keeps s₀ (dropReels s p) := by
  unfold dropReels
  extract_lets s₁
  have k₁ : Keeps s₀ s₁ := k.foldl fun _ _ k => gangOver_keeps (forgetEnts_keeps k)
  exact k₁.frame

theorem endRegion_keeps (k : Keeps s₀ s) : Keeps s₀ (endRegion s part n rcb) :=
  rcbPut_keeps (freeBarsOf_keeps (freeTilesOf_keeps (hwPoke_keeps (rcbPut_keeps k))))

theorem failRegion_keeps (k : Keeps s₀ s) : Keeps s₀ (failRegion s part rcb n) := by
  unfold failRegion
  extract_lets all dead hit acts fibs msgs s₁ s₂ s₃ rst s₄ s₅ s₆ s₇ s₈ s₉
  have k₁ : Keeps s₀ s₁ := k.foldl fun _ _ => endCps_keeps
  have k₂ : Keeps s₀ s₂ := k₁.foldl fun _ _ => endAct_keeps
  have k₃ : Keeps s₀ s₃ := k₂.foldl fun _ _ k => endCps_keeps (clearFibre_keeps k)
  have k₄ : Keeps s₀ s₄ := k₃.foldl fun _ _ k => dropWork_keeps (endCps_keeps k)
  have k₅ : Keeps s₀ s₅ := k₄.foldl fun _ _ k => k.onCore fun _ => Core.wf_consumeMsg
  have k₆ : Keeps s₀ s₆ := k₅.frame
  have k₇ : Keeps s₀ s₇ := endQuads_keeps k₆
  have k₈ : Keeps s₀ s₈ := dropReels_keeps k₇
  have k₉ : Keeps s₀ s₉ := k₈.foldl fun _ _ => endRegion_keeps
  exact k₉.foldl fun _ _ => fireTrigger_keeps

theorem liveDecrement_keeps (k : Keeps s₀ s) : Keeps s₀ (liveDecrement s part rcb) := by
  unfold liveDecrement
  extract_lets n st s₁ o s₂ s₃ s₄ s₅
  have k₁ : Keeps s₀ s₁ := hwPoke_keeps k
  have k₃ : Keeps s₀ s₃ := freeBarsOf_keeps (freeTilesOf_keeps (rcbPut_keeps k₁))
  have k₅ : Keeps s₀ s₅ := dropReels_keeps (endQuads_keeps k₃)
  exact .ite k (.ite (fireTrigger_keeps (rcbPut_keeps k₅)) k₁)

theorem recordFault_keeps {f : FaultRec} (k : Keeps s₀ s) : Keeps s₀ (recordFault s part rcb core f) := by
  unfold recordFault
  extract_lets w s₁ s₂ s₃
  have k₃ : Keeps s₀ s₃ := hwPoke_keeps (hwPoke_keeps (hwPoke_keeps k))
  exact hwPoke_keeps k₃

theorem rootFault_keeps {f : FaultRec} (k : Keeps s₀ s) : Keeps s₀ (rootFault s part rcb core f) := by
  unfold rootFault
  extract_lets s₁
  have k₁ : Keeps s₀ s₁ := failRegion_keeps k
  exact report_keeps k₁

theorem faultDomain_keeps {f : FaultRec} (k : Keeps s₀ s) : Keeps s₀ (faultDomain s core ctx f) := by
  unfold faultDomain
  split
  · exact k
  · extract_lets s₁ w
    have k₁ : Keeps s₀ s₁ := recordFault_keeps k
    split
    · exact pushFlight_keeps (departFrom_keeps (endAct_keeps k₁))
    · exact failRegion_keeps k₁
    · exact .ite (rootFault_keeps k₁) (failRegion_keeps k₁)

end

/-! ## What they keep: traps, attempts, the retire buffer and commit points -/

section
variable {s₀ s : State} {core ctx part va rcb pa h e d n c w cl v : Nat}

/-! ### Attempts that are discarded, traps -/

theorem setPot_keeps {x : Word} {p : Pot} (k : Keeps s₀ s) : Keeps s₀ (setPot s x p) := k.onSlice

theorem closePot_keeps {x : Word} (k : Keeps s₀ s) : Keeps s₀ (closePot s core part x) := by
  unfold closePot
  split
  · exact sendFlit_keeps k
  · split
    · exact k
    · next p _ =>
      have k₁ : Keeps s₀ (setPot s x { Pot.reset with inc := p.inc }) := setPot_keeps k
      exact k₁.frame

theorem discardAttempt_keeps (k : Keeps s₀ s) : Keeps s₀ (discardAttempt s core ctx) := by
  unfold discardAttempt
  split
  · exact k
  · next a _ =>
    extract_lets kept s₁ s₂ s₃ s₄ _ s₅
    have k₁ : Keeps s₀ s₁ := k.foldl fun _ _ k => k.onCluster fun _ hq => Memory.wf_mwrite _ _ hq
    have k₂ : Keeps s₀ s₂ := k₁.foldl fun _ _ k => .ite (tileRelease_keeps k) k
    have k₃ : Keeps s₀ s₃ := k₂.foldl fun _ _ k => .ite (barRelease_keeps k) k
    have k₄ : Keeps s₀ s₄ := k₃.foldl fun _ _ => closePot_keeps
    have k₅ : Keeps s₀ s₅ := k₄.onCore fun q hq =>
      Core.wf_keepReqs (n := s₄.now) (p := fun r => decide (r.act ≠ a.id) || r.committed) hq
    exact freeStages_keeps k₅

theorem attemptFailed_keeps (k : Keeps s₀ s) : Keeps s₀ (attemptFailed s core ctx) := by
  unfold attemptFailed
  extract_lets s₁
  have k₁ : Keeps s₀ s₁ := discardAttempt_keeps k
  split
  · exact k₁
  · next a _ =>
    extract_lets n s₂ s₃
    have k₂ : Keeps s₀ s₂ := by
      unfold s₂
      split
      · exact cancelWatches_keeps k₁
      · exact k₁
    have k₃ : Keeps s₀ s₃ := k₂.onCore
    exact .ite (faultDomain_keeps k₁) (bookRestarts_keeps k₃.frame)

theorem machineCheck_keeps {t : Trap} (k : Keeps s₀ s) : Keeps s₀ (machineCheck s core t) := by
  unfold machineCheck
  extract_lets s₁ cl s₂
  have k₁ : Keeps s₀ s₁ := (k.foldl fun _ _ => attemptFailed_keeps).onCore
  have k₂ : Keeps s₀ s₂ := by
    refine .ite k₁ (k₁.foldl fun s q k => ?_)
    split
    · exact memberDepart_keeps k
    · exact k
  exact report_keeps k₂

theorem trapEntry_keeps {t : Trap} (k : Keeps s₀ s) : Keeps s₀ (trapEntry s core ctx t) := by
  unfold trapEntry
  split
  · exact k
  · extract_lets q s₁ hd s₂ s₃ s₄
    have k₁ : Keeps s₀ s₁ := k.onCore
    have k₂ : Keeps s₀ s₂ := k₁.onCore
    have k₃ : Keeps s₀ s₃ := k₂.onAct
    have k₄ : Keeps s₀ s₄ := .ite (report_keeps k₃) k₃
    exact .ite (.ite k₁.onAct (faultDomain_keeps k₁)) (.ite (.ite k₄.onAct (faultDomain_keeps k₃)) (machineCheck_keeps k₁))

theorem eretTo_keeps (k : Keeps s₀ s) : Keeps s₀ (eretTo s) := .ite k.onMe k.onMe

theorem trapMe_keeps {t : Trap} (k : Keeps s₀ s) : Keeps s₀ (trapMe s t) := by
  unfold trapMe
  split
  · exact trapEntry_keeps k
  · exact k

theorem stall_keeps (k : Keeps s₀ s) : Keeps s₀ (stall s) := k.onMe

theorem Keeps.waitOn {x : IssueWait} (k : Keeps s₀ s) : Keeps s₀ (s.waitOn x) := k.onMe

theorem waitConfirm_keeps (k : Keeps s₀ s) : OptKeeps s₀ (waitConfirm s) := by
  unfold waitConfirm
  split
  · exact k
  · trivial

theorem addAccess_keeps {kind : AccKind} {acq rel : Bool} {b : Option Snap} (k : Keeps s₀ s) :
    Keeps s₀ (addAccess s kind va n acq rel h b) := .onCC (Keeps.used1 (.ite (walkedTake_keeps k) k))

/-! ### The retire buffer and commit points -/

theorem rbAppend_keeps {op : RbOp} (k : Keeps s₀ s) : Keeps s₀ (rbAppend s n op) := k.onCC

theorem Core.wf_mwrite {k : Core} {b : List Byte} (hk : k.wf = true) : ({ k with ls := mwrite k.ls n b } : Core).wf = true :=
  Core.wf_iff.2 ⟨Memory.wf_mwrite n b (Core.wf_iff.1 hk).1, (Core.wf_iff.1 hk).2⟩

theorem lsStore_keeps {b : List Byte} (k : Keeps s₀ s) : Keeps s₀ (lsStore s core n b) :=
  markFired_keeps (k.onCore fun _ => Core.wf_mwrite)

theorem spadStore_keeps {b : List Byte} (k : Keeps s₀ s) : Keeps s₀ (spadStore s cl n b) :=
  k.onCluster fun _ hq => Memory.wf_mwrite _ _ hq

theorem portStore_keeps {sp : Space} {b : List Byte} (k : Keeps s₀ s) : Keeps s₀ (portStore s core sp n b) := by
  cases sp
  · exact lsStore_keeps k
  · exact spadStore_keeps k
  · exact k

theorem drainStore_keeps {a : Act} {sp : Space} {b : List Byte} {rel : Bool} (k : Keeps s₀ s) :
    Keeps s₀ (drainStore s core a sp n b rel h) :=
  .ite (pushFlight_keeps k) (.ite (portStore_keeps k) (.ite (pushFlight_keeps k.used) (portStore_keeps k.used)))

theorem drainOne_keeps {a : Act} {x : RbEntry} (k : Keeps s₀ s) : OptKeeps s₀ (drainOne s core a x) := by
  unfold drainOne
  extract_lets fly
  have hf : ∀ op, OptKeeps s₀ (fly op) := fun _ => pushFlight_keeps k
  split
  · exact hf _
  · exact drainStore_keeps k
  · exact k.foldl fun _ _ => drainStore_keeps
  · split
    · exact k.onCore
    · trivial
  · split
    · trivial
    · exact hf _
  · exact hf _

theorem drainList_keeps {a : Act} {l : List RbEntry} (k : Keeps s₀ s) : Keeps s₀ (drainList core a l s) := by
  induction l generalizing s with
  | nil => exact k
  | cons x r ih =>
    unfold drainList
    split
    · next t e =>
      have k₁ : Keeps s₀ t := (drainOne_keeps k).of_some e
      exact ih k₁.onCore
    · exact k

theorem drain_keeps (k : Keeps s₀ s) : Keeps s₀ (drain s core) := by
  unfold drain
  split
  · exact drainList_keeps k
  · exact k

theorem snapshot_keeps (k : Keeps s₀ s) : Keeps s₀ (snapshot s core n) := by
  refine k.onCore fun q hq => ?_
  split
  · exact Core.wf_onRun hq
  · exact hq

theorem commitWait_keeps (k : Keeps s₀ s) : OptKeeps s₀ (commitWait s core) := by
  unfold commitWait
  split
  · trivial
  · split
    · exact k
    · extract_lets s₁
      have k₁ : Keeps s₀ s₁ := drain_keeps k
      split
      · trivial
      · exact k₁.onCore

theorem settleWait_keeps (k : Keeps s₀ s) : OptKeeps s₀ (settleWait s) := by
  unfold settleWait
  have k₁ : Keeps s₀ (drain s s.cur) := drain_keeps k
  cases e : commitWait s s.cur with
  | some t => exact (commitWait_keeps k).of_some e
  | none =>
    dsimp only [Option.orElse]
    split
    · exact k₁.onCC
    · trivial

theorem commitAt_keeps (k : Keeps s₀ s) : Keeps s₀ (commitAt s core n) := snapshot_keeps (drain_keeps k)

theorem commitHere_keeps (k : Keeps s₀ s) : Keeps s₀ (commitHere s) := .onMe (commitAt_keeps k)

theorem commitSend_keeps {kind : AccKind} {acq rel : Bool} {r : SReg} (k : Keeps s₀ s) :
    Keeps s₀ (commitSend s kind va n acq rel r) := snapshot_keeps (.pendReg (addAccess_keeps (drain_keeps k)))

theorem roomWait_keeps (k : Keeps s₀ s) : OptKeeps s₀ (roomWait s n) := by
  unfold roomWait
  split
  · trivial
  · split
    · next e => exact (commitWait_keeps k).of_some e
    · exact commitAt_keeps k

theorem parkRun_keeps {p : Park} (k : Keeps s₀ s) : Keeps s₀ (parkRun s core p) :=
  k.onCore fun _ hq => Core.wf_onRun (f := fun a => { a with park := p, pc := a.npc }) hq

theorem parkMe_keeps {p : Park} (k : Keeps s₀ s) : Keeps s₀ (parkMe s p) := parkRun_keeps k

theorem askWindow_keeps {p code : Nat} {who : AskWho} (k : Keeps s₀ s) : Keeps s₀ (askWindow s core part p who va n code v) := by
  unfold askWindow
  extract_lets again
  split
  · exact k
  · split
    · exact k
    · exact sendFlit_keeps k.frame

/-! ### Words of a bundle -/

theorem guarded_keeps {t : Option Trap} {w : Option State} {u : State} (k : Keeps s₀ s) (hw : OptKeeps s₀ w) (hu : Keeps s₀ u) :
    OutKeeps s₀ (guarded s t w u) := by
  unfold guarded
  split
  · exact hu
  · exact k.frame
  · split
    · exact Keeps.ite (stall_keeps k) (trapMe_keeps k)
    · split
      · exact stall_keeps hw
      · exact hu

theorem Keeps.wsF {r : SReg} {x : Flagged Int} (k : Keeps s₀ s) : Keeps s₀ (s.wsF r x) := k.ws.orFlags

theorem Keeps.jump {x : Word} (k : Keeps s₀ s) : Keeps s₀ (s.jump x) := k.onMe

theorem Keeps.branchTo {m : Nat} {x : BitVec m} (k : Keeps s₀ s) : Keeps s₀ (s.branchTo x) := k.jump

end

/-! ## What they keep: control registers, loads and stores at issue, tiles, and loads performed -/

section
variable {s₀ s : State} {core ctx part va rcb pa h e d n c w cl v id act : Nat}

/-! ### Control registers and traps -/

theorem nestWait_keeps (k : Keeps s₀ s) : OptKeeps s₀ (nestWait s) := .ite k trivial

theorem crWrite_keeps {x : Word} (k : Keeps s₀ s) : Keeps s₀ (crWrite s n x) := by
  unfold crWrite
  extract_lets user
  split
  case h_2 | h_3 | h_4 | h_5 | h_10 | h_13 | h_14 | h_15 | h_16 | h_17 => exact k.onMe
  case h_23 => exact k
  all_goals exact k.onCC

theorem stepTrapAt_keeps (k : Keeps s₀ s) : Keeps s₀ (stepTrapAt s core) := by
  unfold stepTrapAt
  split
  · exact .ite (trapEntry_keeps k.onAct) k
  · exact k

theorem execFlagsWrite_keeps (k : Keeps s₀ s) : OutKeeps s₀ (execFlagsWrite core s) := by
  change Keeps s₀ _
  split
  · split
    · exact .ite k (k.onCore fun _ => Core.wf_onRun)
    · exact k
  · exact k

/-! ### Loads, stores and tiles at issue -/

theorem redWaitAt_keeps (k : Keeps s₀ s) : OptKeeps s₀ (redWaitAt s n v) := by
  unfold redWaitAt
  split
  · split
    · next e => exact (commitWait_keeps k).of_some e
    · exact commitAt_keeps k
  · trivial

theorem redWait_keeps (k : Keeps s₀ s) : OptKeeps s₀ (redWait s va n) := redWaitAt_keeps k

theorem issueLoad_keeps {sp : Space} {dst : LdDst} {r : Reg} {roc acq : Bool} (k : Keeps s₀ s) :
    Keeps s₀ (issueLoad s sp dst r roc va n acq h) := .pendReg (addAccess_keeps k)

theorem issueStore_keeps {sp : Space} {b : List Byte} {rel : Bool} (k : Keeps s₀ s) : Keeps s₀ (issueStore s sp va b rel h) := by
  unfold issueStore
  split
  exact .ite (addAccess_keeps (rbAppend_keeps k)) (rbAppend_keeps k)

theorem rocInvAt_keeps (k : Keeps s₀ s) : Keeps s₀ (rocInvAt s core) := k.foldl fun _ _ k => k.onCore

theorem tileWait_keeps {l : List Nat} (k : Keeps s₀ s) : OptKeeps s₀ (tileWait s n l) := .ite .none k.waitOn

theorem refillWait_keeps (k : Keeps s₀ s) : OptKeeps s₀ (refillWait s n) := .ite k.waitOn trivial

theorem claimTile_keeps {t base : Nat} {o : Own} {x : Option Nat} (k : Keeps s₀ s) : Keeps s₀ (claimTile s cl t base n o x v) :=
  k.used1.onCluster fun _ hq => Memory.wf_filter _ hq

theorem tileChange_keeps {a : SReg} {t : TileChg} (k : Keeps s₀ s) : OutKeeps s₀ (tileChange a t s) :=
  guarded_keeps k (.orElse (refillWait_keeps k) (roomWait_keeps k)) (rbAppend_keeps k)

/-! ### Accesses that are under way -/

theorem Keeps.setAcc {st : AccSt} (k : Keeps s₀ s) : Keeps s₀ (s.setAcc core n st) := k.onCore

theorem Core.wf_trimUndo {k : Core} (hk : k.wf = true) : (trimUndo k).wf = true := by
  unfold trimUndo
  split
  · exact hk
  · exact hk

theorem Keeps.dropAcc (k : Keeps s₀ s) : Keeps s₀ (s.dropAcc core n) := by
  refine k.onCore fun q hq => Core.wf_trimUndo ?_
  exact hq

theorem Keeps.failAcc {x : Word} (k : Keeps s₀ s) : Keeps s₀ (s.failAcc core n c x v) := k.setAcc

theorem Keeps.failOf {x : Word} (k : Keeps s₀ s) : Keeps s₀ (s.failOf part core n c x) := k.onCoreOf

theorem Keeps.dropFlight (k : Keeps s₀ s) : Keeps s₀ (s.dropFlight n) := k.frame

theorem l1Fill_keeps {data : BitVec 256} {m o : Bool} (k : Keeps s₀ s) : Keeps s₀ (l1Fill s core part va data n m o) := by
  unfold l1Fill
  extract_lets
  split
  extract_lets s₁
  have k₁ : Keeps s₀ s₁ := by
    unfold s₁
    split
    · next old _ =>
      extract_lets va' h s₂
      have k₂ : Keeps s₀ s₂ := .ite (nearRecall_keeps k) k
      split
      · exact k₂
      · split
        · exact k₂.onSlice
        · exact k₂
    · exact k
  exact k₁.onCore

theorem l1Hit_keeps {l : L1Line} (k : Keeps s₀ s) : Keeps s₀ (l1Hit s core va w l) := k.onCore

theorem shareLine_keeps (k : Keeps s₀ s) : Keeps s₀ (shareLine s h part va core) := by
  unfold shareLine
  split
  · exact k.onSlice
  · exact k

theorem memErr_keeps (k : Keeps s₀ s) : Keeps s₀ (memErr s part pa) := report_keeps k

/-- `Keeps` of the state in which a read of a piece leaves the machine. -/
def RdKeeps (s : State) : Rd → Prop
  | .wait t => Keeps s t
  | .fault t _ _ => Keeps s t
  | .ok t _ => Keeps s t

theorem RdKeeps.of_eq {a b : Rd} (h : RdKeeps s₀ a) (e : a = b) : RdKeeps s₀ b := e ▸ h

theorem readPiece_keeps {roc err : Bool} (k : Keeps s₀ s) : RdKeeps s₀ (readPiece s core part va n h roc err) := by
  unfold readPiece
  split
  · extract_lets q
    split
    · exact l1Hit_keeps k
    · split
      · exact k
      · exact walkedTake_keeps k
      · have k₁ (m) : Keeps s₀ (countReq (tlbTouch s part va) part va core m) := countReq_keeps (tlbTouch_keeps k)
        split
        · next e => exact (homeWait_keeps k).of_some e
        · split
          · exact k₁ _
          · split
            · exact memErr_keeps (k₁ _)
            · split
              next t b e =>
              have k₂ : Keeps s₀ t := Keeps.of_fst e (homeRead_keeps (k₁ _))
              exact l1Fill_keeps (.ite k₂ (shareLine_keeps k₂))
  · split
    · exact k
    · exact k
  · exact k
  · exact k

theorem Keeps.onActId {f : Act → Act} (k : Keeps s₀ s) : Keeps s₀ (s.onActId core n f) := by
  unfold State.onActId
  split
  · exact k.onAct
  · exact k

theorem landFlags_keeps {x : Word} (k : Keeps s₀ s) : Keeps s₀ (landFlags s core act n x) := by
  refine .ite k (k.onActAll.onCore fun q hq => ?_)
  split
  · exact hq
  · exact hq

theorem landLoad_keeps {x : Access} {dst : LdDst} {b : List (List Byte)} (k : Keeps s₀ s) : Keeps s₀ (landLoad s core x dst b) :=
  .dropAcc (landFlags_keeps (.ite k k.onActId))

theorem choosePieces_keeps {l : List (Nat × Nat × Nat)} (k : Keeps s₀ s) : Keeps s₀ (choosePieces s l).1 := by
  unfold choosePieces
  split
  · exact k
  · exact k
  · split
    · exact k.used
    · exact k.used.used

theorem Keeps.gotPiece {b : List Byte} (k : Keeps s₀ s) : Keeps s₀ (s.gotPiece core n v b) := k.onCore

theorem readChosen_keeps {x : Access} {roc err : Bool} {l : List (Nat × Nat × Nat)} (k : Keeps s₀ s) :
    Keeps s₀ (readChosen core x h roc err l s).1 := by
  induction l generalizing s with
  | nil => exact k
  | cons p r ih =>
    obtain ⟨i, va, n⟩ := p
    have kp := readPiece_keeps (core := core) (part := ((s.core core).part).getD 0) (va := va) (n := n) (h := h) (roc := roc) (err := err) k
    unfold readChosen
    split
    · next e => exact ih (kp.of_eq e).gotPiece
    · next e => exact kp.of_eq e
    · next e => exact (kp.of_eq e).failAcc

theorem performLoad_keeps {x : Access} {sp : Space} {dst : LdDst} {roc err : Bool} (k : Keeps s₀ s) :
    Keeps s₀ (performLoad s core x sp dst roc err) := by
  unfold performLoad
  split
  next t ps e =>
  have k₁ : Keeps s₀ t := Keeps.of_fst e (choosePieces_keeps k)
  split
  next u ok e =>
  have k₂ : Keeps s₀ u := by
    refine Keeps.of_fst e ?_
    split
    · exact readChosen_keeps k₁
    · exact k₁.foldl fun _ _ k => k.gotPiece
  split
  · exact k₂
  · split
    · exact .ite (landLoad_keeps k₂) k₂
    · exact k₂

theorem performLdw_keeps {x : Access} {err : Bool} (k : Keeps s₀ s) : Keeps s₀ (performLdw s core x err) := by
  unfold performLdw
  split
  · exact k.dropAcc
  · extract_lets todo
    split
    · exact k.dropAcc
    · split
      · exact k
      · split
        next t ok e =>
        have k₁ : Keeps s₀ t := Keeps.of_fst e (readChosen_keeps k.used)
        extract_lets x'
        split
        · exact k₁
        · exact .dropAcc k₁.onCore

end

/-! ## What they keep: drained stores, late faults, page walks, cleans, atomics, waits and fences -/

section
variable {s₀ s : State} {core ctx part va rcb pa h e d n c w cl v id act : Nat}

/-! ### Loads performed, accesses confirmed -/

theorem execLoadPerform_keeps {err : Bool} (k : Keeps s₀ s) : OutKeeps s₀ (execLoadPerform core id err s) := by
  change Keeps s₀ _
  split
  · exact k
  · split
    · exact .ite (performLoad_keeps k) k
    · exact performLdw_keeps k
    · exact k

theorem Core.wf_warnLate {x : Access} {k : Core} (hk : k.wf = true) : (warnLate x k).wf = true :=
  Core.wf_warnCore (k := { k with earned := if x.warned then wQUAL else 0 }) hk

theorem nearHostWarn_keeps {x : Access} {b : Bool} (k : Keeps s₀ s) : Keeps s₀ (nearHostWarn s core part x b) := by
  unfold nearHostWarn
  split
  · exact .ite (k.onCore fun _ => Core.wf_warnLate) k
  · exact k

theorem execAccessConfirm_keeps (k : Keeps s₀ s) : OutKeeps s₀ (execAccessConfirm core id s) := by
  change Keeps s₀ _
  split
  · exact k
  · split
    · extract_lets part
      split
      · exact k
      · exact (walkedTake_keeps k).failAcc
      · exact k.dropAcc
      · split
        · exact .ite (nearHostWarn_keeps k).failAcc (nearHostWarn_keeps k).dropAcc
        · exact k.dropAcc
    · exact k

/-! ### Drained effects performed -/

theorem dropDrained_keeps {f : Flight} (k : Keeps s₀ s) : Keeps s₀ (dropDrained s f c va) := (report_keeps k).dropFlight

theorem storeAt_keeps {f : Flight} {b : List Byte} (k : Keeps s₀ s) : Keeps s₀ (storeAt s f va b h) := by
  unfold storeAt
  split
  · exact k
  · exact dropDrained_keeps (walkedTake_keeps k)
  · exact (lsStore_keeps k).dropFlight
  · split
    · next e => exact (homeWait_keeps k).of_some e
    · exact .dropFlight (homeWrite_keeps (countReq_keeps (tlbTouch_keeps k)))

theorem tileDrain_keeps {f : Flight} {t : TileChg} (k : Keeps s₀ s) : Keeps s₀ (tileDrain s f t n) := by
  unfold tileDrain
  extract_lets cl x
  split
  · split
    · exact tileRelease_keeps k
    · exact k.onCluster
  · exact k

theorem cutFlight_keeps {f : Flight} {sp : Space} {b : List Byte} {rel : Bool} (k : Keeps s₀ s) : Keeps s₀ (cutFlight s f sp n b rel h c) :=
  k.frame

theorem storeNow_keeps {f : Flight} {sp : Space} {b : List Byte} (k : Keeps s₀ s) : Keeps s₀ (storeNow s f sp n b h) := by
  unfold storeNow
  split
  · exact storeAt_keeps k
  · exact (portStore_keeps k).dropFlight

theorem execStorePerform_keeps (k : Keeps s₀ s) : OutKeeps s₀ (execStorePerform id s) := by
  change Keeps s₀ _
  split
  · exact k
  · split
    · exact k
    · split
      · exact .ite (cutFlight_keeps k) (storeNow_keeps (.ite k.used k))
      · exact (tileDrain_keeps k).dropFlight
      · exact .ite (barRelease_keeps k.dropFlight) k.dropFlight
      · exact k

/-! ### Late faults and page upcalls -/

theorem Core.wf_undoAfter {k : Core} {x : Access} (hk : k.wf = true) : (undoAfter k ctx x).wf = true := by
  refine Core.wf_trimUndo ?_
  exact hk

theorem freeStage_keeps {x : Access} (k : Keeps s₀ s) : Keeps s₀ (freeStage s core x) := by
  unfold freeStage
  split
  · exact k.onCluster
  · exact k

theorem pagePark_keeps {kind : Nat} {b : Bool} (k : Keeps s₀ s) : Keeps s₀ (pagePark s core ctx va kind n b) := by
  unfold pagePark
  split
  · exact k
  · exact .ite (parkRun_keeps (commitAt_keeps k).onAct) k.onAct

theorem takeLate_keeps {x : Access} {t : Word} (k : Keeps s₀ s) : Keeps s₀ (takeLate s core ctx x c t n) := by
  unfold takeLate
  split
  · exact k
  · split
    · exact .ite (pagePark_keeps k) (faultDomain_keeps k)
    · exact .ite (wakeAct_keeps (trapEntry_keeps k)) (trapEntry_keeps k)

theorem endArms_keeps {r : SReg} (k : Keeps s₀ s) : Keeps s₀ (endArms s core ctx act r) := (cancelWatches_keeps k).onCore.onAct

theorem undone_keeps {x : Access} (k : Keeps s₀ s) : Keeps s₀ (undone s core ctx x) := by
  unfold undone
  extract_lets s₁
  have k₁ : Keeps s₀ s₁ := freeStage_keeps (k.onCore fun _ => Core.wf_undoAfter)
  split
  · exact endArms_keeps k₁
  · exact k₁

theorem execLateFault_keeps (k : Keeps s₀ s) : OutKeeps s₀ (execLateFault core s) := by
  change Keeps s₀ _
  split
  · exact k
  · split
    · extract_lets s₁ up
      have k₁ : Keeps s₀ s₁ := undone_keeps k
      split
      · next e =>
        have k₂ := (OptKeeps.ite (commitWait_keeps k₁) .none).of_some e
        exact k₂.onCore
      · exact takeLate_keeps k₁
    · exact k.onActAll.dropAcc

theorem execPageUpcall_keeps (k : Keeps s₀ s) : OutKeeps s₀ (execPageUpcall core ctx s) := by
  unfold execPageUpcall
  extract_lets q
  change Keeps s₀ _
  split
  · split
    · split
      · exact k
      · split
        · exact k
        · extract_lets info up s₁ s₂
          have k₁ : Keeps s₀ s₁ := hwPoke_keeps k
          have k₂ : Keeps s₀ s₂ := by
            refine k₁.used1.onCore fun q hq => Core.wf_iff.2 ⟨?_, (Core.wf_iff.1 hq).2⟩
            dsimp only
            exact Memory.wf_mwrite _ _ (Core.wf_iff.1 hq).1
          exact .ite k₂ (enqueue_keeps k₂)
    · exact k
  · exact k

/-! ### Walks, near ownership and cleans -/

theorem execPageWalk_keeps {err : Bool} (k : Keeps s₀ s) : OutKeeps s₀ (execPageWalk n part va err s) := by
  change Keeps s₀ _
  split
  · split
    · exact k
    · extract_lets noted path
      have kn {t c l} (k : Keeps s₀ t) : Keeps s₀ (noted t c l) := k.onSlice
      split
      · exact kn (memErr_keeps k.used)
      · split
        · exact k.onSlice
        · exact k.onSlice
        · exact k
  · exact k

theorem dropMarkedLine_keeps (k : Keeps s₀ s) : Keeps s₀ (dropMarkedLine s part va) := k.mapCores rfl fun _ hq => hq

theorem execNearOwnershipGrant_keeps {x : DramRead} (k : Keeps s₀ s) : OutKeeps s₀ (execNearOwnershipGrant core x s) := by
  change Keeps s₀ _
  split
  · exact k
  · split
    · exact k
    · split
      · extract_lets h
        split
        · exact k
        · split
          · next e => exact (homeWait_keeps k).of_some e
          · split
            · exact (memErr_keeps k).failAcc
            · split
              next t b e =>
              have k₁ : Keeps s₀ t := Keeps.of_fst e (homeRead_keeps k)
              extract_lets s₂ data s₃
              have k₂ : Keeps s₀ s₂ := dropMarkedLine_keeps (dropSharers_keeps (proxyWrote_keeps k₁))
              have k₃ : Keeps s₀ s₃ := shareLine_keeps (l1Fill_keeps k₂)
              split
              · exact k₃.onSlice
              · exact k₃
      · exact k

theorem cleanLine_keeps {b : Bool} (k : Keeps s₀ s) : Keeps s₀ (cleanLine s part h b va pa) := by
  unfold cleanLine
  extract_lets others s₁ s₂
  have k₁ : Keeps s₀ s₁ := by
    refine k.foldl fun s x k => ?_
    split
    extract_lets a s₁
    have k₁ : Keeps s₀ s₁ := dropSharers_keeps (nearRecall_keeps k)
    split
    · exact .onSlice (.ite (physWrite_keeps k₁) k₁)
    · exact k₁
  have k₂ : Keeps s₀ s₂ := nearRecall_keeps k₁
  split
  · exact .ite (physWrite_keeps k₂).onSlice k₂
  · exact k₂

theorem cleanBlock_keeps {p : Nat} (k : Keeps s₀ s) : Keeps s₀ (cleanBlock part p s n).1 := by
  unfold cleanBlock
  extract_lets va h s₁
  have k₁ : Keeps s₀ s₁ := k.foldl fun _ _ => nearRecall_keeps
  dsimp only
  exact k₁.onSlice

theorem Keeps.foldl_fst {α β : Type} {f : State × β → α → State × β} {l : List α} {b : β} (k : Keeps s₀ s)
    (hf : ∀ s b x, Keeps s₀ s → Keeps s₀ (f (s, b) x).1) : Keeps s₀ (l.foldl f (s, b)).1 := by
  induction l generalizing s b with
  | nil => exact k
  | cons x r ih => exact ih (s := (f (s, b) x).1) (b := (f (s, b) x).2) (hf s b x k)

theorem cleanRun_keeps {p : Nat} {l : List Nat} (k : Keeps s₀ s) : Keeps s₀ (cleanRun part p s l) := by
  unfold cleanRun
  extract_lets b
  split
  next e =>
  refine sendTrain_keeps (Keeps.of_fst e ?_)
  refine k.foldl_fst fun s l b k => ?_
  dsimp only
  exact cleanBlock_keeps k

theorem cleanAway_keeps {p : Nat} (k : Keeps s₀ s) : Keeps s₀ (cleanAway s part n c p id) := by
  unfold cleanAway
  extract_lets blks s₁
  have k₁ : Keeps s₀ s₁ := k.foldl fun _ _ => cleanRun_keeps
  refine k₁.foldl fun s e k => ?_
  extract_lets i s₂
  have k₂ : Keeps s₀ s₂ := sendFlit_keeps k.frame
  exact k₂.frame

theorem cleanPage_keeps {b : Bool} {o : Option Nat} (k : Keeps s₀ s) : Keeps s₀ (cleanPage s part n c b o) := by
  unfold cleanPage
  split
  · split
    · split
      · exact cleanAway_keeps k
      · exact k
    · exact .ite k (k.foldl fun _ _ => cleanLine_keeps)
  · exact k

theorem cleanRange_keeps {b : Bool} {o : Option Nat} (k : Keeps s₀ s) : Keeps s₀ (cleanRange s part va n b o) :=
  k.foldl fun _ _ => cleanPage_keeps

theorem cleanRecall_keeps (k : Keeps s₀ s) : OptKeeps s₀ (cleanRecall s part va n) := by
  unfold cleanRecall
  split
  · trivial
  · exact k.foldl fun _ _ => askPeers_keeps

theorem execCleanPerform_keeps (k : Keeps s₀ s) : OutKeeps s₀ (execCleanPerform id s) := by
  change Keeps s₀ _
  split
  · exact k
  · split
    · split
      · exact k
      · split
        · next e => exact (cleanRecall_keeps k).of_some e
        · exact .ite (cleanRange_keeps k.used) (cleanRange_keeps k.used).dropFlight
    · exact k

theorem sampleWrite_keeps {o : Option State} (k : OptKeeps s₀ o) : OptKeeps s₀ (sampleWrite part va v o) := by
  cases o with
  | none => trivial
  | some t =>
    change OptKeeps s₀ (hwWrite t part va 8 v).toOption
    cases e : hwWrite t part va 8 v with
    | error => trivial
    | ok u => exact hwWrite_keeps k e

theorem execHotnessSample_keeps (k : Keeps s₀ s) : OutKeeps s₀ (execHotnessSample n part s) := by
  change Keeps s₀ _
  split
  · exact k
  · next x _ =>
    extract_lets s₁ d base log i s₂ a b
    have k₁ : Keeps s₀ s₁ := k.onSlice
    have k₂ : Keeps s₀ s₂ := physWrite_keeps k₁
    refine .ite k₁ ?_
    have k₃ : OptKeeps s₀ (sampleWrite part (a + 24) (i + 1) (sampleWrite part (a + 16) s₂.sinceBoot (sampleWrite part (a + 8) b
        (sampleWrite part a (x.2.1 % 2 ^ 57) (some s₂))))) := sampleWrite_keeps (sampleWrite_keeps (sampleWrite_keeps (sampleWrite_keeps k₂)))
    cases e : sampleWrite part (a + 24) (i + 1) _ with
    | none => exact k₂
    | some t => exact k₃.of_some e

/-! ### Atomics -/

theorem atomIssue_keeps {op : AtomOp} {r a : SReg} {ty : BitVec 3} {o : BitVec 2} {p : BitVec 1} (k : Keeps s₀ s) :
    OutKeeps s₀ (atomIssue op r a ty o p s) := guarded_keeps k (commitWait_keeps k) (commitSend_keeps k.qualIf)

theorem redIssue_keeps {op : AtomOp} {r a : SReg} {ty : BitVec 3} {o : BitVec 2} {p : BitVec 1} (k : Keeps s₀ s) :
    OutKeeps s₀ (redIssue op r a ty o p s) := guarded_keeps k (roomWait_keeps k) (addAccess_keeps (rbAppend_keeps k.qualIf))

/-- `Keeps` of the state in which an indivisible operation leaves the machine. -/
def AtomicKeeps (s : State) : Atomic → Prop
  | .wait t => Keeps s t
  | .fault t _ _ => Keeps s t
  | .done t _ => Keeps s t

theorem AtomicKeeps.of_eq {a b : Atomic} (h : AtomicKeeps s₀ a) (e : a = b) : AtomicKeeps s₀ b := e ▸ h

theorem rmwAt_farAt_keeps {err : Bool} {f : Word → Word} {pte : Word} (k : Keeps s₀ s) :
    AtomicKeeps s₀ (rmwAt.farAt core part va n err f s h pte pa) := by
  unfold rmwAt.farAt
  split
  · next e => exact (homeWait_keeps k).of_some e
  · extract_lets s₁
    have k₁ : Keeps s₀ s₁ := countReq_keeps (tlbTouch_keeps k)
    split
    · exact memErr_keeps k₁
    · split
      next t b e =>
      have k₂ : Keeps s₀ t := Keeps.of_fst e (homeRead_keeps k₁)
      exact dropSharers_keeps (homeWrite_keeps k₂)

theorem rmwAt_keeps {near host err : Bool} {f : Word → Word} (k : Keeps s₀ s) : AtomicKeeps s₀ (rmwAt s core part va n near host err f) := by
  unfold rmwAt
  split
  · exact k
  · exact walkedTake_keeps k
  · exact lsStore_keeps k
  · split
    · split
      · exact physWrite_keeps k
      · exact k
    · extract_lets h
      split
      · split
        · exact l1Hit_keeps k
        · split
          · exact rmwAt_farAt_keeps k
          · exact k
      · split
        · exact rmwAt_farAt_keeps k
        · exact k
      · exact rmwAt_farAt_keeps k

theorem loadWord_keeps {err : Bool} (k : Keeps s₀ s) : RdKeeps s₀ (loadWord core part va err s) := by
  unfold loadWord
  split
  · exact k
  · split
    · exact k
    · exact readPiece_keeps k

theorem loadWords_keeps {err : Bool} {l : List Nat} (k : Keeps s₀ s) : RdKeeps s₀ (loadWords core part err n va s l).1 := by
  induction n generalizing va s l with
  | zero => exact k
  | succ n ih =>
    unfold loadWords
    have k₁ := loadWord_keeps (core := core) (part := part) (va := va) (err := err) k
    split
    · next e => exact ih (k₁.of_eq e)
    · exact k₁

theorem performClaim_keeps {x : Access} {err : Bool} (k : Keeps s₀ s) : Keeps s₀ (performClaim s core x n err) := by
  unfold performClaim
  extract_lets part fail
  have kf {s} {c va l} (k : Keeps s₀ s) : Keeps s₀ (fail s c va l) := k.failAcc
  have kl {s n va l r m q} (k : Keeps s₀ s) (e : loadWords core part err n va s l = (r, m, q)) : RdKeeps s₀ r :=
    (loadWords_keeps k).of_eq (congrArg Prod.fst e)
  split
  · next e => exact kl k e
  · next e => exact kf (kl k e)
  · next e =>
    have k₁ := kl k e
    extract_lets
    split
    · exact kf k₁
    · split
      · next e => exact kl k₁ e
      · next e => exact kf (kl k₁ e)
      · next e =>
        have k₂ := kl k₁ e
        extract_lets
        split
        · exact kf k₂
        · split
          · next e => exact kl k₂ e
          · next e => exact kf (kl k₂ e)
          · next e =>
            have k₃ := kl k₂ e
            extract_lets
            split
            · exact kf k₃
            · split
              · exact kf k₃
              · split
                · next e => exact (rmwAt_keeps k₃).of_eq e
                · next e => exact kf ((rmwAt_keeps k₃).of_eq e)
                · next e => exact ((rmwAt_keeps k₃).of_eq e).onActAll.setAcc

theorem performRed_keeps {f : Flight} (k : Keeps s₀ s) : Keeps s₀ (performRed s f) := by
  unfold performRed
  split
  · split
    · next e => exact (rmwAt_keeps k).of_eq e
    · next e => exact dropDrained_keeps ((rmwAt_keeps k).of_eq e)
    · next e => exact ((rmwAt_keeps k).of_eq e).dropFlight
  · exact .ite k (liveDecrement_keeps k.dropFlight)
  · exact k

theorem execAtomicPerform_keeps {err : Bool} (k : Keeps s₀ s) : OutKeeps s₀ (execAtomicPerform id err s) := by
  change Keeps s₀ _
  split
  · split
    · exact k
    · split
      · extract_lets part
        split
        · exact k
        · split
          · next e => exact (rmwAt_keeps k).of_eq e
          · next e => exact (nearHostWarn_keeps ((rmwAt_keeps k).of_eq e)).failAcc
          · next e => exact (nearHostWarn_keeps ((rmwAt_keeps k).of_eq e)).setAcc
      · exact performClaim_keeps k
      · exact k
  · split
    · exact .ite (performRed_keeps k) k
    · exact k

theorem execAtomicReply_keeps (k : Keeps s₀ s) : OutKeeps s₀ (execAtomicReply core id s) := by
  change Keeps s₀ _
  split
  · exact k
  · split
    · exact k.onActAll.dropAcc
    · exact k.onActAll.dropAcc
    · exact k

/-! ### `wait.any` and fences -/

theorem armAll_keeps {b : Snap} {l : List (WSlot × Nat)} (k : Keeps s₀ s) : Keeps s₀ (armAll b l s) := by
  induction l generalizing s with
  | nil => exact k
  | cons x r ih => exact ih (.ite k (addAccess_keeps k))

theorem noteArm_keeps {b : Bool} (k : Keeps s₀ s) : Keeps s₀ (noteArm s core ctx n b) := k.onAct

theorem endWait_keeps {r : SReg} {x : Word} (k : Keeps s₀ s) : Keeps s₀ (endWait s core ctx r x) := wakeAct_keeps (cancelWatches_keeps k)

theorem execWaitAny_keeps {r a b : SReg} (k : Keeps s₀ s) : OutKeeps s₀ (execWaitAny r a b s) := by
  unfold execWaitAny
  extract_lets sl b4 s₁ s₂
  have k₁ : Keeps s₀ s₁ := commitHere_keeps k
  have k₂ : Keeps s₀ s₂ := armAll_keeps k₁
  split
  · exact guarded_keeps k₁ .none k
  · exact guarded_keeps k (commitWait_keeps k) (.ite k₁.ws (parkMe_keeps k₂.pendReg))

theorem execWatchArm_keeps (k : Keeps s₀ s) : OutKeeps s₀ (execWatchArm core ctx n s) := by
  change Keeps s₀ _
  split
  · exact k
  · split
    · extract_lets x w
      split
      · exact k
      · exact (walkedTake_keeps k).failAcc
      · exact .ite (noteArm_keeps k).dropAcc (noteArm_keeps k).onCore.dropAcc
      · split
        · exact k.failAcc
        · split
          · next e => exact (homeWait_keeps k).of_some e
          · split
            next t b e =>
            have k₁ : Keeps s₀ t := Keeps.of_fst e (homeRead_keeps (tlbTouch_keeps k))
            exact .ite (noteArm_keeps k₁).dropAcc (noteArm_keeps k₁).onSlice.dropAcc
    · exact k

theorem execWaitAnyTimeout_keeps (k : Keeps s₀ s) : OutKeeps s₀ (execWaitAnyTimeout core ctx s) := by
  change Keeps s₀ _
  split
  · exact .ite (endWait_keeps k) k
  · exact k

theorem fenceForm_keeps {mx eng roc : Bool} {sc : BitVec 3} {o : BitVec 2} (k : Keeps s₀ s) :
    OutKeeps s₀ (fenceForm n c mx eng roc sc o s) := by
  unfold fenceForm
  extract_lets scope ord act prog commit _ wait s₁ s₂
  have k₁ : Keeps s₀ s₁ := k.qualIf
  have k₂ : Keeps s₀ s₂ := .ite (commitHere_keeps k₁) k₁
  have kw : OptKeeps s₀ wait := by
    refine .ite k (.orElse (.ite (commitWait_keeps k) .none) ?_)
    exact .ite (Keeps.ite (commitHere_keeps k) k) trivial
  exact guarded_keeps k kw (.ite (rocInvAt_keeps k₂) k₂)

end

/-! ## What they keep: the matrix engine -/

section
variable {s₀ s : State} {core ctx part va rcb pa h e d n c w cl v id act : Nat}

/-! ### Matrix requests -/

/-- The first wait that a list of operands finds. -/
theorem OptKeeps.findSome {α : Type} {f : α → Option State} {l : List α} (hf : ∀ x, OptKeeps s₀ (f x)) : OptKeeps s₀ (l.findSome? f) := by
  induction l with
  | nil => exact .none
  | cons x r ih =>
    rw [List.findSome?_cons]
    split
    · next e => exact (hf x).of_some e
    · exact ih

theorem opndWait_keeps {a b : Word} (k : Keeps s₀ s) : OptKeeps s₀ (opndWait s a b n) := .findSome fun _ => tileWait_keeps k

theorem mxWait_keeps (k : Keeps s₀ s) : OptKeeps s₀ (mxWait s) := .orElse (waitConfirm_keeps k) (.ite .none k.waitOn)

theorem mxPush_keeps {op : MxOp} (k : Keeps s₀ s) : Keeps s₀ (mxPush s op) := by
  unfold mxPush
  extract_lets a r s₁
  have k₁ : Keeps s₀ s₁ := k.used1.onCC
  exact k₁.foldl fun _ _ k => k.pendReg

theorem mmaIssue_keeps {x : AccReg} {a b : XReg} (k : Keeps s₀ s) : OutKeeps s₀ (mmaIssue n x a b s) := by
  unfold mmaIssue
  split
  exact guarded_keeps k (mxWait_keeps k) (mxPush_keeps k.qualIf)

theorem mxIssue_keeps {t : Option Trap} {op : MxOp} (k : Keeps s₀ s) : OutKeeps s₀ (guarded s t (mxWait s) (mxPush s op)) :=
  guarded_keeps k (mxWait_keeps k) (mxPush_keeps k)

theorem opndIssue_keeps {a b : SReg} {f : Word → Word → MxOp} (k : Keeps s₀ s) : OutKeeps s₀ (opndIssue a b n c f s) :=
  guarded_keeps k (.orElse (mxWait_keeps k) (opndWait_keeps k)) (mxPush_keeps k)

theorem ldwIssue_keeps {q : Bool} {x : XReg} {a b : SReg} (k : Keeps s₀ s) : OutKeeps s₀ (ldwIssue q x a b s) :=
  guarded_keeps k (.orElse (mxWait_keeps k) (.findSome fun _ => redWait_keeps k)) (addAccess_keeps (mxPush_keeps k))

theorem askLeave_keeps {p : Pool} (k : Keeps s₀ s) : Keeps s₀ (askLeave s d p n) := k.onDie

theorem mxRun_keeps {r : MxReq} {m : MxState} (k : Keeps s₀ s) : Keeps s₀ (mxRun s cl n core r m) := by
  unfold mxRun
  split
  extract_lets s₁
  have k₁ : Keeps s₀ s₁ := by
    refine k.onCore fun q hq => ?_
    split
    · exact hq
    · exact hq
  exact k₁.onCluster

theorem mxAsk_keeps (k : Keeps s₀ s) : Keeps s₀ (mxAsk s cl core) := by
  unfold mxAsk
  extract_lets q s₁
  have k₁ : Keeps s₀ s₁ := .ite (askLeave_keeps k.onCluster) k
  refine k₁.foldl fun s c k => ?_
  split
  · exact k.onCore
  · exact k

theorem astStore_keeps {r : MxReq} {l : List (Nat × List Byte)} (k : Keeps s₀ s) : OptKeeps s₀ (astStore s core r l) := by
  unfold astStore
  split
  · exact k.foldl fun _ _ => spadStore_keeps
  · exact .none

theorem astEnter_keeps {r : MxReq} {l : List (Nat × List Byte)} (k : Keeps s₀ s) : OptKeeps s₀ (astEnter s core r l) := by
  unfold astEnter
  extract_lets
  split
  · split
    · exact astStore_keeps k
    · extract_lets put
      have kp {s c} (k : Keeps s₀ s) : Keeps s₀ (put s c) := k.onCore
      split
      · exact kp k
      · split
        · exact .none
        · split
          · exact kp (snapshot_keeps (drain_keeps k))
          · exact .none
  · exact astStore_keeps k

theorem execMxRequestStart_keeps (k : Keeps s₀ s) : OutKeeps s₀ (execMxRequestStart cl n s) := by
  unfold execMxRequestStart
  extract_lets q
  change Keeps s₀ _
  split
  · exact k
  · split
    · exact k
    · split
      · exact k
      · split
        · exact k.onCore fun _ => Core.wf_keepReqs
        · split
          · split
            · exact mxAsk_keeps k
            · exact mxRun_keeps (.ite k k.onCluster)
          · exact mxRun_keeps k

theorem execMxRequestComplete_keeps (k : Keeps s₀ s) : OutKeeps s₀ (execMxRequestComplete core id s) := by
  change Keeps s₀ _
  split
  · exact k
  · split
    · exact k
    · extract_lets o
      have ko : OptKeeps s₀ o := by
        unfold o
        split
        · exact astEnter_keeps k
        · exact k
      clear_value o
      split
      · exact k
      · extract_lets r fl s₁ s₂
        have k₁ : Keeps s₀ s₁ := landFlags_keeps (Keeps.onActAll ko)
        have k₂ : Keeps s₀ s₂ := k₁.onCore
        exact k₂.onCluster

theorem execMxStateCopy_keeps (k : Keeps s₀ s) : OutKeeps s₀ (execMxStateCopy core ctx s) := by
  change Keeps s₀ _
  split
  · exact k
  · exact .ite k.onCore k

end

/-! ## What they keep: the copy engine -/

section
variable {s₀ s : State} {core ctx part va rcb pa h e d n c w cl v id act m rp : Nat}

/-! ### The copy engine's accesses -/

/-- `Keeps` of the state in which a read or write of the copy engine leaves the machine. -/
def EngRdKeeps (s : State) : EngRd → Prop
  | .ok t _ => Keeps s t
  | .fault t _ _ => Keeps s t

theorem EngRdKeeps.of_eq {a b : EngRd} (h : EngRdKeeps s₀ a) (e : a = b) : EngRdKeeps s₀ b := e ▸ h

/-- `Keeps` of the state in which a piece that the copy engine moves leaves the machine. -/
def CpMoveKeeps (s : State) : CpMove → Prop
  | .moved t => Keeps s t
  | .waits t => Keeps s t
  | .faulted t _ _ => Keeps s t

theorem CpMoveKeeps.of_eq {a b : CpMove} (h : CpMoveKeeps s₀ a) (e : a = b) : CpMoveKeeps s₀ b := e ▸ h

/-- `Keeps` of the state in which the reads of a copy-on-write command leave the machine. -/
def CowResKeeps (s : State) : CowRes → Prop
  | .waits t => Keeps s t
  | .fault t _ _ => Keeps s t
  | .empty t _ _ => Keeps s t
  | .pair t _ _ => Keeps s t

theorem CowResKeeps.of_eq {a b : CowRes} (h : CowResKeeps s₀ a) (e : a = b) : CowResKeeps s₀ b := e ▸ h

theorem engWait_keeps {b : Bool} {p : Nat × Nat} (k : Keeps s₀ s) : OptKeeps s₀ (engWait s core part rp b p) := by
  unfold engWait
  split
  · exact homeWait_keeps k
  · split
    · exact .none
    · split
      · exact .ite k .none
      · split
        · exact .ite .none k
        · exact askWindow_keeps k
  · exact .none

theorem engErr_keeps {o : Option Nat} {b : Bool} {x : EngRd} (k : Keeps s₀ s) (hx : EngRdKeeps s₀ x) :
    EngRdKeeps s₀ ((engErr s part va o b).getD x) := by
  unfold engErr
  split
  · exact hx
  · extract_lets walk l
    cases l[below l.length s.freeNat]? with
    | none => exact hx
    | some a => exact memErr_keeps k.used

theorem engRead_keeps {b : Bool} {p : Nat × Nat} (k : Keeps s₀ s) : EngRdKeeps s₀ (engRead s core part rp b p) := by
  unfold engRead
  split
  refine engErr_keeps k ?_
  split
  · split
    next t x e =>
    have k₁ : Keeps s₀ t := Keeps.of_fst e (homeRead_keeps (countReq_keeps (tlbKeep_keeps k)))
    exact k₁
  · exact k
  · split
    · exact k
    · split
      · split
        · exact k.frame
        · exact k.frame
      · exact k
  · exact k

theorem engReads_keeps {b : Bool} {l : List (Nat × Nat)} {x : List Byte} (k : Keeps s₀ s) :
    EngRdKeeps s₀ (engReads core part rp b l s x) := by
  induction l generalizing s x with
  | nil => exact k
  | cons p r ih =>
    unfold engReads
    split
    · next e => exact ih ((engRead_keeps k).of_eq e)
    · next e => exact (engRead_keeps k).of_eq e

theorem engWrite_keeps {b : Bool} {l : List Byte} (k : Keeps s₀ s) : EngRdKeeps s₀ (engWrite s core part rp va l b) := by
  unfold engWrite
  refine engErr_keeps k ?_
  split
  · exact homeWrite_keeps (countReq_keeps (tlbKeep_keeps k))
  · exact lsStore_keeps k
  · split
    · exact spadStore_keeps k
    · exact askWindow_keeps k
  · exact k

theorem engWrites_keeps {b : Bool} {l : List (Nat × Nat)} {x : List Byte} (k : Keeps s₀ s) :
    EngRdKeeps s₀ (engWrites core part rp b l x s) := by
  induction l generalizing s x with
  | nil => exact k
  | cons p r ih =>
    obtain ⟨a, m⟩ := p
    unfold engWrites
    split
    · next e => exact ih ((engWrite_keeps k).of_eq e)
    · exact engWrite_keeps k

theorem Keeps.onCp {f : CpEnt → CpEnt} (k : Keeps s₀ s) : Keeps s₀ (s.onCp core id f) := k.onCore

theorem nameAsks_keeps (k : Keeps s₀ s) : Keeps s₀ (nameAsks core id s) := k.frame

/-! ### Copy commands at issue -/

theorem cpIssueWait_keeps (k : Keeps s₀ s) : OptKeeps s₀ (cpIssueWait s) := by
  unfold cpIssueWait
  generalize cpAlloc s.cc s.me.id = o
  exact .orElse (waitConfirm_keeps k) (.ite k.waitOn (roomWait_keeps k))

theorem cpPut_keeps {f : CpForm} {r : SReg} {l : List Word} {x : Word} (k : Keeps s₀ s) : Keeps s₀ (cpPut f r l x s) :=
  rbAppend_keeps (.ws k.onCp)

theorem cpIssue_keeps {f : CpForm} {r a : SReg} {x : Word} (k : Keeps s₀ s) : OutKeeps s₀ (cpIssue f r a x s) :=
  guarded_keeps k (cpIssueWait_keeps k) (cpPut_keeps k)

/-! ### Copy commands that run -/

theorem mixBytes_keeps {a b : List Byte} (k : Keeps s₀ s) : Keeps s₀ (mixBytes a b s).1 := by
  induction a generalizing b s with
  | nil => cases b <;> exact k
  | cons x r ih =>
    cases b with
    | nil => exact k
    | cons y q =>
      unfold mixBytes
      exact ih (.ite k k.used)

theorem srcRead_keeps {x : CpEnt} {b : Bool} {p : CpPlace} (k : Keeps s₀ s) : EngRdKeeps s₀ (srcRead s core x b n p) := by
  cases p
  · exact k
  · exact engReads_keeps k
  · exact k

theorem cpMove_keeps {x : CpEnt} {b : Bool} (k : Keeps s₀ s) : CpMoveKeeps s₀ (cpMove s core x b m n) := by
  unfold cpMove
  split
  extract_lets src dst
  clear_value src dst
  split
  · next e => exact (OptKeeps.orElse (.findSome fun _ => engWait_keeps k) (.findSome fun _ => engWait_keeps k)).of_some e
  · split
    · next e => exact (srcRead_keeps k).of_eq e
    · next e =>
      have k₁ := (srcRead_keeps k).of_eq e
      split
      next t y e =>
      have k₂ : Keeps s₀ t := Keeps.of_fst e (mixBytes_keeps k₁)
      extract_lets z
      split
      · exact spadStore_keeps k₂
      · exact k₂
      · split
        · next e => exact (engWrites_keeps k₂).of_eq e
        · next e => exact (engWrites_keeps k₂).of_eq e

theorem cpAhead_keeps {x : CpEnt} {b : Bool} (k : Keeps s₀ s) : CpMoveKeeps s₀ (cpAhead s core id x b m n) := by
  unfold cpAhead
  split
  extract_lets src
  split
  · next e => exact (OptKeeps.findSome fun _ => engWait_keeps k).of_some e
  · split
    · next e => exact (srcRead_keeps k).of_eq e
    · next t _ e =>
      have k₁ : Keeps s₀ t := (srcRead_keeps k).of_eq e
      exact k₁.onCp

theorem Core.wf_cpPay {k : Core} (hk : k.wf = true) : (cpPay k n).wf = true := by
  unfold cpPay
  split
  · exact hk
  · exact hk

theorem cpAsk_keeps (k : Keeps s₀ s) : Keeps s₀ (cpAsk s core) := by
  unfold cpAsk
  extract_lets s₁
  have k₁ : Keeps s₀ s₁ := .ite (askLeave_keeps k.onCore) k
  exact k₁.onCore

theorem cpRun_keeps {b : Bool} (k : Keeps s₀ s) : Keeps s₀ (cpRun core id b n m s) := by
  induction n generalizing s m with
  | zero => exact k
  | succ n ih =>
    unfold cpRun
    extract_lets x s₁
    have k₁ : Keeps s₀ s₁ := k.used.used.used
    split
    · exact k
    · split
      · exact cpAsk_keeps k
      · split
        extract_lets t
        split
        · exact ih k₁.onCp
        · split
          · next e => exact (cpMove_keeps k₁).of_eq e
          · next e => exact ((cpMove_keeps k₁).of_eq e).onCp
          · next e =>
            have k₂ := nameAsks_keeps (core := core) (id := id) ((cpMove_keeps k₁).of_eq e)
            exact ih (k₂.onCp.onCore fun _ => Core.wf_cpPay)

theorem cpLook_keeps {b : Bool} (k : Keeps s₀ s) : Keeps s₀ (cpLook core id b n s) := by
  induction n generalizing s with
  | zero => exact k
  | succ n ih =>
    unfold cpLook
    extract_lets x
    have k₁ : Keeps s₀ s.used.used.used := k.used.used.used
    split
    · exact k
    · split
      split
      · next e => exact (cpAhead_keeps k₁).of_eq e
      · next e => exact ((cpAhead_keeps k₁).of_eq e).onCp
      · next e => exact ih ((cpAhead_keeps k₁).of_eq e)

theorem cpReady_keeps {x : CpEnt} (k : Keeps s₀ s) : Keeps s₀ (cpReady s core x) := k.foldl fun _ _ k => k.onCluster

theorem cpObject_keeps {x : CpEnt} {a b : Word} (k : Keeps s₀ s) : Keeps s₀ (cpObject s core x a b) := by
  unfold cpObject
  extract_lets cw put
  have kp {s a v} (k : Keeps s₀ s) : Keeps s₀ (put s a v).1 := by
    unfold put
    split
    · next e => exact (engWrite_keeps k).of_eq e
    · next e => exact (engWrite_keeps k).of_eq e
  clear_value put
  split
  · exact k
  · split
    next e =>
    have k₁ := Keeps.of_fst e (kp k)
    split
    next e =>
    have k₂ := Keeps.of_fst e (kp k₁)
    split
    · exact report_keeps k₂
    · exact k₂

theorem cpFinish_keeps {code fc info : Nat} (k : Keeps s₀ s) : Keeps s₀ (cpFinish s core id code fc info) := by
  unfold cpFinish
  extract_lets x st iw s₁ s₂ named s₃ s₄ s₅
  have k₁ : Keeps s₀ s₁ := .ite (cpReady_keeps k) k
  have k₂ : Keeps s₀ s₂ := cpObject_keeps k₁
  have k₃ : Keeps s₀ s₃ := k₂.used1.onCp
  have k₄ : Keeps s₀ s₄ := by
    refine k₃.onCore fun q hq => ?_
    split
    · exact hq
    · exact Core.wf_cpAwake hq
  have k₅ : Keeps s₀ s₅ := .ite k₄ k₄.frame
  exact k₅.foldl fun _ _ => tileSettle_keeps

theorem cpObjWait_keeps {x : CpEnt} (k : Keeps s₀ s) : OptKeeps s₀ (cpObjWait s core x) := .ite .none (engWait_keeps k)

theorem engWord_keeps {x : CpEnt} {b : Bool} (k : Keeps s₀ s) : EngRdKeeps s₀ (engWord s core x b va n) := engReads_keeps k

theorem cowStart_keeps {x : CpEnt} {b : Bool} (k : Keeps s₀ s) : CowResKeeps s₀ (cowStart s core x b) := by
  unfold cowStart
  extract_lets src ring wait
  have kw {w a n} : OptKeeps s₀ (wait w a n) := .findSome fun _ => engWait_keeps k
  split
  · next e => exact (OptKeeps.orElse (.orElse (.orElse kw kw) kw) kw).of_some e
  · split
    · next e => exact (engWord_keeps k).of_eq e
    · next e =>
      have k₁ := (engWord_keeps k).of_eq e
      extract_lets old
      split
      · exact k₁
      · split
        · next e => exact (engWord_keeps k₁).of_eq e
        · next e =>
          have k₂ := (engWord_keeps k₁).of_eq e
          extract_lets w h slot
          split
          · exact k₂
          · split
            · next e => exact (engWait_keeps k₂).of_some e
            · split
              · next e => exact (engWrite_keeps k₂).of_eq e
              · next e =>
                have k₃ := (engWrite_keeps k₂).of_eq e
                split
                · exact k₃
                · split
                  · next e => exact (engWord_keeps k₃).of_eq e
                  · next e => exact (engWord_keeps k₃).of_eq e

theorem cpRunning_keeps {l : List Word} {b : Bool} (k : Keeps s₀ s) : Keeps s₀ (cpRunning s core id l b) := k.onCp

theorem cpPop_keeps (k : Keeps s₀ s) : Keeps s₀ (cpPop s core) := k.onCore

theorem cpEndRun_keeps {b : Bool} (k : Keeps s₀ s) : Keeps s₀ (cpEndRun s core id b) := by
  unfold cpEndRun
  extract_lets x
  split
  · exact cpFinish_keeps k
  · split
    · split
      · exact cpFinish_keeps k
      · split
        · next e => exact (engWait_keeps k).of_some e
        · split
          · next e =>
            extract_lets s₁
            have k₁ : Keeps s₀ s₁ := (nameAsks_keeps ((engWrite_keeps k).of_eq e)).onCp
            exact .ite k₁ (cpFinish_keeps k₁)
          · next e => exact cpFinish_keeps ((engWrite_keeps k).of_eq e)
    · exact cpFinish_keeps k
    · exact cpFinish_keeps k

theorem cpRelease_keeps (k : Keeps s₀ s) : OptKeeps s₀ (cpRelease s id) := by
  unfold cpRelease
  split
  · exact .none
  · split
    · next e => exact (commitWait_keeps k).of_some e
    · exact commitAt_keeps k

theorem cpTake_keeps {r : SReg} (k : Keeps s₀ s) : Keeps s₀ (cpTake s r id) := k.ws.onCp

theorem cpStop_keeps (k : Keeps s₀ s) : Keeps s₀ (cpStop s core id) := cpFinish_keeps k.onCore

theorem cpCancelWait_keeps (k : Keeps s₀ s) : OptKeeps s₀ (cpCancelWait s id) := by
  unfold cpCancelWait
  extract_lets x
  split
  · exact k.onCp.waitOn
  · exact cpObjWait_keeps k
  · exact cpObjWait_keeps k
  · exact .none

theorem execCpStart_keeps {x : DramRead} (k : Keeps s₀ s) : OutKeeps s₀ (execCpStart x s) := by
  unfold execCpStart
  extract_lets core q
  change Keeps s₀ _
  have kf {t c id} (k : Keeps s₀ t) : Keeps s₀ (cpFinish (cpPop t core) core id c 0 0) := cpFinish_keeps (cpPop_keeps k)
  split
  · exact k
  · next id r _ =>
    extract_lets y fail
    have kx {t c v} (k : Keeps s₀ t) : Keeps s₀ (fail t c v) := (cpRunning_keeps (cpPop_keeps k)).onCp
    clear_value fail
    split
    · exact cpPop_keeps k
    · split
      · split
        · next e => exact (cpObjWait_keeps k).of_some e
        · exact kf k
      · split
        · exact k
        · split
          · split
            · next e => exact (cpObjWait_keeps k).of_some e
            · exact kf k
          · split
            · exact cpRunning_keeps (cpPop_keeps k)
            · split
              split
              · exact kx k
              · split
                · next e => exact (OptKeeps.findSome fun _ => engWait_keeps k).of_some e
                · split
                  · next e => exact kx ((engReads_keeps k).of_eq e)
                  · next t _ e =>
                    have k₁ : Keeps s₀ t := (engReads_keeps k).of_eq e
                    have k₂ {g b} := cpRunning_keeps (core := core) (id := id) (l := g) (b := b) (cpPop_keeps (core := core) k₁)
                    exact .ite (.ite (kx k₁) k₂) k₂

theorem execCpComplete_keeps {b : Bool} (k : Keeps s₀ s) : OutKeeps s₀ (execCpComplete core id b s) := by
  unfold execCpComplete
  extract_lets x n s₁ y
  have k₁ : Keeps s₀ s₁ := .ite (cpLook_keeps k.used) (cpRun_keeps k.used)
  change Keeps s₀ _
  split
  · exact k
  · split
    · next e => exact (cpObjWait_keeps k).of_some e
    · split
      · split
        · next e => exact (cowStart_keeps k).of_eq e
        · next e => exact cpFinish_keeps ((cowStart_keeps k).of_eq e)
        · next e => exact cpFinish_keeps ((cowStart_keeps k).of_eq e).onCp
        · next e => exact (nameAsks_keeps ((cowStart_keeps k).of_eq e)).onCp
      · exact .ite (cpEndRun_keeps k₁) k₁

theorem execCpCancelStop_keeps (k : Keeps s₀ s) : OutKeeps s₀ (execCpCancelStop core id n s) := by
  unfold execCpCancelStop
  extract_lets x
  change Keeps s₀ _
  split
  · exact k
  · split
    · next e => exact (cpObjWait_keeps k).of_some e
    · exact cpFinish_keeps (cpRun_keeps k)

theorem execCpWait_keeps {r a : SReg} (k : Keeps s₀ s) : OutKeeps s₀ (execCpWait r a s) := by
  unfold execCpWait
  split
  · exact guarded_keeps k (waitConfirm_keeps k) k.ws
  · exact guarded_keeps k (.orElse (.orElse (waitConfirm_keeps k) (cpRelease_keeps k)) (.ite k.waitOn .none)) (cpTake_keeps k)

theorem execCpPoll_keeps {r a : SReg} (k : Keeps s₀ s) : OutKeeps s₀ (execCpPoll r a s) := by
  unfold execCpPoll
  split
  · exact guarded_keeps k (waitConfirm_keeps k) k.ws
  · exact guarded_keeps k (.orElse (waitConfirm_keeps k) (cpRelease_keeps k)) (.ite (cpTake_keeps k) k.ws)

theorem execCpCancel_keeps {r a : SReg} (k : Keeps s₀ s) : OutKeeps s₀ (execCpCancel r a s) := by
  unfold execCpCancel
  split
  · exact guarded_keeps k (waitConfirm_keeps k) k.ws
  · exact guarded_keeps k (.orElse (waitConfirm_keeps k) (cpCancelWait_keeps k)) (cpTake_keeps (.ite k (cpStop_keeps k)))

end

/-! ## What they keep: messages, the scheduler, launches and barriers -/

section
variable {s₀ s : State} {core ctx part va rcb pa h e d n c w cl v id act m rp : Nat}

/-! ### Messages -/

theorem sendForm_keeps {b : Word} {o : Option Word} {t : MsgTarget} (k : Keeps s₀ s) : OutKeeps s₀ (sendForm b o t s) :=
  guarded_keeps k (roomWait_keeps k) (addAccess_keeps (rbAppend_keeps k))

theorem msgDropped_keeps {p : Nat} {o : Option Nat} (k : Keeps s₀ s) : Keeps s₀ (msgDropped s part rcb p core o) := by
  cases o <;> exact report_keeps k

theorem rcbWait_keeps (k : Keeps s₀ s) : OptKeeps s₀ (rcbWait s part rcb) := by
  unfold rcbWait
  split
  · exact homeWait_keeps k
  · exact .none

/-- A change of a core's local store by a write. -/
theorem Core.wf_of_mwrite {j k : Core} {b : List Byte} (hk : k.wf = true) (hl : j.ls = mwrite k.ls n b) (hs : j.shadow = k.shadow := by rfl) :
    j.wf = true := Core.wf_iff.2 ⟨hl ▸ Memory.wf_mwrite n b (Core.wf_iff.1 hk).1, hs ▸ (Core.wf_iff.1 hk).2⟩

theorem Core.wf_landAt {k : Core} {x : Msg} {pad pos z : Nat} {b : Bool} (hk : k.wf = true) : (landAt k n x pad pos z b).wf = true := by
  unfold landAt
  extract_lets i a tail p k₁ bytes k₂
  have hp : p.wf = true := Core.wf_lsPoke _ _ (Core.wf_lsPoke _ _ hk)
  clear_value p
  have h₁ : k₁.wf = true := by
    unfold k₁
    split
    · exact hk
    · exact hp
  have h₂ : k₂.wf = true := Core.wf_lsPoke _ _ (Core.wf_mwrite h₁)
  exact h₂

theorem Keeps.dropMsg (k : Keeps s₀ s) : Keeps s₀ (s.dropMsg n) := k.frame

theorem refuseMsg_keeps {x : Msg} (k : Keeps s₀ s) : Keeps s₀ (refuseMsg s x n) := by
  unfold refuseMsg
  extract_lets b s₁ s₂
  have k₁ : Keeps s₀ s₁ := k.onCore fun _ => Core.wf_lsPoke _ _
  have k₂ : Keeps s₀ s₂ := hwPoke_keeps k₁
  exact k₂.frame

theorem refuseOut_keeps {x : Msg} (k : Keeps s₀ s) : Keeps s₀ (refuseOut s x n) := by
  unfold refuseOut
  extract_lets b bump s₁ s₂
  have hb {y : Memory} (hy : y.wf = true) : (bump y).wf = true := Memory.wf_mwrite _ _ hy
  clear_value bump
  have k₁ : Keeps s₀ s₁ := by
    refine .ite (k.onCore fun q hq => ?_) (k.onPart fun p hp => ?_)
    · obtain ⟨hl, hs⟩ := Core.wf_iff.1 hq
      exact Core.wf_iff.2 ⟨hl, hb hs⟩
    · obtain ⟨hc, hd⟩ := Part.wf_iff.1 hp
      refine Part.wf_iff.2 ⟨List.forall_mem_map.2 fun y hy => ?_, hd⟩
      split
      · obtain ⟨hl, hs⟩ := Core.wf_iff.1 (hc y hy)
        exact Core.wf_iff.2 ⟨hb hl, hs⟩
      · exact hc y hy
  have k₂ : Keeps s₀ s₂ := hwPoke_keeps k₁
  exact k₂.frame

theorem arriveHere_keeps {x : Msg} (k : Keeps s₀ s) : Keeps s₀ (arriveHere s x n) := by
  unfold arriveHere
  extract_lets q ended z b
  have ke {t} (k : Keeps s₀ t) : Keeps s₀ (ended t) := by
    unfold ended
    split
    · exact endCps_keeps k
    · exact k
  split
  · exact refuseMsg_keeps k
  · split
    · exact refuseOut_keeps k
    · split
      · exact msgDropped_keeps (liveDecrement_keeps (ke k.dropMsg))
      · split
        · exact msgDropped_keeps (ke k.dropMsg)
        · split
          · exact k.dropMsg.onCore fun _ => Core.wf_landAt
          · exact refuseMsg_keeps k

theorem noteFull_keeps {b : Bool} (k : Keeps s₀ s) : Keeps s₀ (noteFull s e b) := k.frame

theorem depart_keeps {x : Msg} {p : Nat} (k : Keeps s₀ s) : Keeps s₀ (depart s x p n) := by
  unfold depart
  extract_lets e q s₁
  have k₁ : Keeps s₀ s₁ := hwPoke_keeps (noteFull_keeps k)
  exact .ite (countMsg_keeps (sendFlit_keeps k.dropMsg)) k₁.frame

theorem arrive_keeps {x : Msg} (k : Keeps s₀ s) : Keeps s₀ (arrive s x n) := by
  unfold arrive
  split
  · exact arriveHere_keeps k
  · exact depart_keeps k

theorem execMessageRelease_keeps (k : Keeps s₀ s) : OutKeeps s₀ (execMessageRelease id s) := by
  change Keeps s₀ _
  split
  · exact k
  · split
    · split
      · exact k
      · split
        · split
          · next e => exact (rcbWait_keeps k).of_some e
          · split
            extract_lets x s₁ s₂ hdr out y
            have k₁ : Keeps s₀ s₁ := k.dropFlight
            have k₂ : Keeps s₀ s₂ := hwPoke_keeps k₁
            exact .ite (msgDropped_keeps k₁) k₂.frame
        · exact dropDrained_keeps k
        · exact k
    · exact k

theorem execMessageLand_keeps (k : Keeps s₀ s) : OutKeeps s₀ (execMessageLand id s) := by
  change Keeps s₀ _
  split
  · exact k
  · exact .ite (arrive_keeps k) k

theorem execMessageRetry_keeps (k : Keeps s₀ s) : OutKeeps s₀ (execMessageRetry id s) := by
  change Keeps s₀ _
  split
  · exact k
  · split
    · exact .ite (arrive_keeps k) k
    · exact k

/-! ### The scheduler -/

theorem runAct_keeps {a : Act} (k : Keeps s₀ s) : Keeps s₀ (runAct s core ctx a) := k.onCore

theorem dispatchMsg_keeps {ring pos b : Nat} (k : Keeps s₀ s) : Keeps s₀ (dispatchMsg s core ring pos ctx b) := by
  unfold dispatchMsg
  extract_lets q w8 x moved pay s₁
  have k₁ : Keeps s₀ s₁ := k.onCore fun _ => Core.wf_consumeMsg
  clear_value moved
  split
  · exact runAct_keeps k₁
  · exact .ite (trapEntry_keeps (runAct_keeps k₁.used1)) (runAct_keeps k₁.used1)

theorem execDispatch_keeps (k : Keeps s₀ s) : OutKeeps s₀ (execDispatch core s) := by
  unfold execDispatch
  extract_lets q
  change Keeps s₀ _
  split
  · exact k
  · split
    · exact k
    · split
      · split
        · exact runAct_keeps k.onCore
        · exact k.onCore
      · split
        · exact runAct_keeps k.onCore
        · exact k.onCore
      · extract_lets
        split
        · exact dispatchMsg_keeps k
        · exact k

theorem execPreemption_keeps (k : Keeps s₀ s) : OutKeeps s₀ (execPreemption core s) := by
  change Keeps s₀ _
  split
  · exact k
  · split
    · exact k
    · split
      · next e => exact (commitWait_keeps k).of_some e
      · exact enqueue_keeps (parkRun_keeps (commitAt_keeps k))

theorem execIssueWaitPark_keeps (k : Keeps s₀ s) : OutKeeps s₀ (execIssueWaitPark core s) := by
  change Keeps s₀ _
  split
  · exact k
  · split
    · exact k
    · split
      · next e => exact (commitWait_keeps k).of_some e
      · exact parkRun_keeps (commitAt_keeps k)

theorem execActivationWake_keeps (k : Keeps s₀ s) : OutKeeps s₀ (execActivationWake core ctx s) := by
  change Keeps s₀ _
  split
  · exact k
  · split
    · split
      · exact .ite (endWait_keeps k) k
      · exact .ite (endWait_keeps k) k
    · exact wakeAct_keeps k
    · exact .ite (wakeAct_keeps k) k
    · exact k

/-! ### Activation instructions and retry -/

theorem migrate_keeps (k : Keeps s₀ s) : Keeps s₀ (migrate s d) := by
  unfold migrate
  split
  · exact k
  · extract_lets s₁ a hdr x _ t
    have k₁ : Keeps s₀ s₁ := commitAt_keeps k
    have k₂ : Keeps s₀ t := k₁.frame
    exact .ite k₁ (bookRestarts_keeps k₂.onCC)

theorem migrateWait_keeps (k : Keeps s₀ s) : OptKeeps s₀ (migrateWait s d) :=
  .ite (commitWait_keeps k) (.orElse (settleWait_keeps k) (.ite k .none))

theorem execActEnd_keeps (k : Keeps s₀ s) : OutKeeps s₀ (execActEnd s) := by
  unfold execActEnd
  extract_lets a s₁
  have k₁ : Keeps s₀ s₁ := drain_keeps k
  refine guarded_keeps k (commitWait_keeps k) ?_
  split
  · exact pushFlight_keeps (endAct_keeps k₁)
  · exact k

theorem execActFail_keeps {a : SReg} (k : Keeps s₀ s) : OutKeeps s₀ (execActFail a s) := by
  refine guarded_keeps k (waitConfirm_keeps k) ?_
  split
  · exact faultDomain_keeps k
  · exact k

theorem errorAt_keeps (k : Keeps s₀ s) : Keeps s₀ (errorAt s core n) := .ite k.onCore (attemptFailed_keeps k)

theorem takeError_keeps (k : Keeps s₀ s) : Keeps s₀ (takeError s core n) := by
  unfold takeError
  extract_lets t
  have k₁ : Keeps s₀ t := k.onCore
  split
  · exact attemptFailed_keeps k₁
  · exact k₁

theorem execDetectedError_keeps (k : Keeps s₀ s) : OutKeeps s₀ (execDetectedError core s) := by
  change Keeps s₀ _
  split
  · exact takeError_keeps k
  · exact errorAt_keeps k
  · exact k

theorem execWatchdogExpiry_keeps (k : Keeps s₀ s) : OutKeeps s₀ (execWatchdogExpiry core s) := by
  change Keeps s₀ _
  split
  · exact .ite (errorAt_keeps k) k
  · exact k

theorem execRetryRestart_keeps {b : Bool} (k : Keeps s₀ s) : OutKeeps s₀ (execRetryRestart core b s) := by
  change Keeps s₀ _
  split
  · exact k
  · extract_lets a bytes r s₁
    have k₁ : Keeps s₀ s₁ := k.frame
    split
    · extract_lets s₂
      have k₂ : Keeps s₀ s₂ := k₁.onCore fun _ hq => Core.wf_of_mwrite hq rfl
      exact .ite (faultDomain_keeps k₂) (bookRestarts_keeps (enqueue_keeps k₂))
    · exact k

/-! ### Launches -/

theorem launchDone_keeps {code : Nat} (k : Keeps s₀ s) : Keeps s₀ (launchDone s part rcb n code) := hwPoke_keeps k

theorem freshCopies_keeps (k : Keeps s₀ s) : Keeps s₀ (freshCopies s part) := k.mapCores rfl fun _ hq => hq

theorem launchGo_keeps {p q o : Option Nat} {b : Bool} {x : Budget} (k : Keeps s₀ s) : Keeps s₀ (launchGo s part rcb p q o b x) := by
  unfold launchGo
  extract_lets depth s₁ s₂ s₃ s₄ s₅ s₆ s₇ s₈
  have k₂ : Keeps s₀ s₂ := hwPoke_keeps (hwPoke_keeps k)
  have k₃ : Keeps s₀ s₃ := hwPoke_keeps (hwPoke_keeps (hwPoke_keeps k₂))
  have k₄ : Keeps s₀ s₄ := hwPoke_keeps (hwPoke_keeps k₃)
  have k₅ : Keeps s₀ s₅ := k₄.foldl fun _ _ => hwPoke_keeps
  have k₆ : Keeps s₀ s₆ := freshCopies_keeps (launchDone_keeps k₅)
  clear_value s₆
  have k₇ : Keeps s₀ s₇ := k₆.frame
  split
  · split
    · exact startRegion_keeps k₇
    · have k₈ : Keeps s₀ s₈ := rcbPut_keeps k₇
      exact k₈.frame
  · exact startRegion_keeps k₇

theorem launchAt_keeps {p q x o : Option Nat} {b : Bool} (k : Keeps s₀ s) : Keeps s₀ (launchAt s part rcb p q x o b).1 := by
  unfold launchAt
  extract_lets y code
  split
  · exact launchDone_keeps k
  · exact launchGo_keeps k

theorem probeBlock_keeps (k : Keeps s₀ s) : Keeps s₀ (probeBlock s rcb) := addAccess_keeps k

theorem execLaunchPerform_keeps (k : Keeps s₀ s) : OutKeeps s₀ (execLaunchPerform id s) := by
  change Keeps s₀ _
  split
  · exact k
  · split
    · extract_lets p
      split
      · exact k
      · split
        · split
          · next e => exact (OptKeeps.orElse (rcbWait_keeps k) (rcbWait_keeps k)).of_some e
          · exact (launchAt_keeps k).dropFlight
        · exact dropDrained_keeps k
        · exact dropDrained_keeps k
        · exact k
    · exact k

theorem execLaunchTrigger_keeps (k : Keeps s₀ s) : OutKeeps s₀ (execLaunchTrigger id s) := by
  change Keeps s₀ _
  split
  · exact k
  · split
    · exact .ite (fireTrigger_keeps k.dropFlight) k
    · exact k

theorem execRegionKillPerform_keeps (k : Keeps s₀ s) : OutKeeps s₀ (execRegionKillPerform id s) := by
  change Keeps s₀ _
  split
  · exact k
  · split
    · split
      · exact k
      · split
        · split
          · next e => exact (rcbWait_keeps k).of_some e
          · exact .ite (failRegion_keeps k.dropFlight) k.dropFlight
        · exact dropDrained_keeps k
        · exact k
    · exact k

theorem execRegionComplete_keeps (k : Keeps s₀ s) : OutKeeps s₀ (execRegionComplete part rcb s) := by
  change Keeps s₀ _
  split
  · exact k
  · exact .ite (liveDecrement_keeps k.dropFlight) k

/-! ### Barriers -/

theorem Keeps.setBar {b : Bar} (k : Keeps s₀ s) : Keeps s₀ (s.setBar n b) := k.onDie

theorem arriveForm_keeps {b : Bool} {r x y : SReg} (k : Keeps s₀ s) : OutKeeps s₀ (arriveForm b r x y s) :=
  guarded_keeps k (commitWait_keeps k) (.ite (parkMe_keeps (commitSend_keeps k)) (commitSend_keeps k))

theorem barPhase_keeps (k : Keeps s₀ s) : Keeps s₀ (barPhase s n) := barRelay_keeps k

theorem execBarInit_keeps {r a b : SReg} (k : Keeps s₀ s) : OutKeeps s₀ (execBarInit r a b s) :=
  guarded_keeps k (waitConfirm_keeps k) (.ite k.ws (.ite k.ws k.used1.setBar.onMe.ws))

theorem execBarrierArrival_keeps (k : Keeps s₀ s) : OutKeeps s₀ (execBarrierArrival core id s) := by
  change Keeps s₀ _
  split
  · exact k
  · split
    · extract_lets b a full s₁ s₂
      have k₁ : Keeps s₀ s₁ := k.setBar
      have k₂ : Keeps s₀ s₂ := .dropAcc (.ite k₁.onActAll k₁.onActAll)
      exact .ite k (.ite k.failAcc (.ite k.failAcc (.ite (barPhase_keeps k₂) k₂)))
    · exact k

theorem execBarWait_keeps {r a b : SReg} (k : Keeps s₀ s) : OutKeeps s₀ (execBarWait r a b s) := by
  unfold execBarWait
  extract_lets x u bar mine result waits
  clear_value result
  refine guarded_keeps k (.ite k.waitOn.onMe .none) ?_
  split
  · exact k.ws
  · exact .ite (trapMe_keeps k) k.ws

end

/-! ## What they keep: halts and exchanges of partitions, and what other packages tell of quadrilles and reels -/

section
variable {s₀ s : State} {core ctx part va rcb pa h e d n c w cl v id act m rp p q : Nat}

/-! ### Halting a partition -/

theorem hostReply_keeps {r : HostReq} {l : List Word} (k : Keeps s₀ s) : Keeps s₀ (hostReply s r n l) :=
  k.trans ⟨hostReply_wf r n l, fun b => ⟨b, rfl⟩⟩

theorem swapAnswer_keeps {x : Swap} (k : Keeps s₀ s) : Keeps s₀ (swapAnswer s x n) := by
  unfold swapAnswer
  extract_lets s₁ s₂
  have k₁ : Keeps s₀ s₁ := k.frame
  have k₂ : Keeps s₀ s₂ := by
    unfold s₂
    split
    · exact k₁.onActAll
    · exact k₁
  split
  · exact hostReply_keeps k₂
  · exact k₂

theorem beginHalt_keeps (k : Keeps s₀ s) : Keeps s₀ (beginHalt s p) := by
  refine k.mapCores rfl fun x hx => ?_
  dsimp only
  split
  · exact hx
  · exact hx

theorem haltDrain_keeps (k : Keeps s₀ s) : Keeps s₀ (haltDrain s c) := by
  unfold haltDrain
  split
  · refine .ite k ?_
    cases e : commitWait s c with
    | none => exact k
    | some t => exact (commitWait_keeps k).of_some e
  · exact k

theorem haltCommit_keeps (k : Keeps s₀ s) : Keeps s₀ (haltCommit s c) := by
  unfold haltCommit
  split
  · exact commitAt_keeps k
  · exact k

theorem dropWatches_keeps (k : Keeps s₀ s) : Keeps s₀ (dropWatches s p) := k.mapCores rfl fun _ hx => hx

theorem dropLeave_keeps {a b : List Nat} (k : Keeps s₀ s) : Keeps s₀ (dropLeave s a b) := k.frame

/-! ### Core and cluster state that moves -/

theorem Core.wf_savedCore {k : Core} : (savedCore n k).wf = true := rfl

theorem Core.wf_setLs {k : Core} {y : Memory} (hk : k.wf = true) (hy : y.wf = true) : ({ k with ls := y } : Core).wf = true :=
  Core.wf_iff.2 ⟨hy, (Core.wf_iff.1 hk).2⟩

theorem Part.wf_putSavedLs {x : Part} {y : Memory} (hx : x.wf = true) (hy : y.wf = true) : (putSavedLs x c y).wf = true := by
  obtain ⟨hc, hd⟩ := Part.wf_iff.1 hx
  refine Part.wf_iff.2 ⟨List.forall_mem_map.2 fun z hz => ?_, hd⟩
  split
  · exact Core.wf_setLs (hc z hz) hy
  · exact hc z hz

theorem Part.wf_setCluster {x : Part} {k : Cluster} (hx : x.wf = true) (hk : k.spad.wf = true) :
    ({ x with clusters := fset x.clusters cl k } : Part).wf = true := by
  obtain ⟨hc, hd⟩ := Part.wf_iff.1 hx
  refine Part.wf_iff.2 ⟨hc, fun z hz => ?_⟩
  rcases mem_fset hz with rfl | hz
  · exact hk
  · exact hd z hz

theorem wf_getCore {l : FMap Core} (hl : ∀ x ∈ l, x.2.wf = true) : ((fget l c).getD Core.reset).wf = true := by
  cases e : fget l c with
  | none => rfl
  | some k => exact hl _ (fget_mem e)

theorem wf_getCluster {l : FMap Cluster} (hl : ∀ x ∈ l, x.2.spad.wf = true) : ((fget l c).getD Cluster.reset).spad.wf = true := by
  cases e : fget l c with
  | none => rfl
  | some k => exact hl _ (fget_mem e)

theorem State.saved_core_wf (h : s.wf = true) : ((fget (s.partn p).cores c).getD Core.reset).wf = true :=
  wf_getCore (Part.wf_iff.1 (State.partn_wf h p)).1

theorem State.saved_cluster_wf (h : s.wf = true) : ((fget (s.partn p).clusters c).getD Cluster.reset).spad.wf = true :=
  wf_getCluster (Part.wf_iff.1 (State.partn_wf h p)).2

theorem spillBank_keeps (k : Keeps s₀ s) : Keeps s₀ (spillBank s p c) := by
  unfold spillBank
  extract_lets q
  split
  · refine .ite k ((k.onPartOfWf fun _ w => ?_).onCore fun x hx => ?_)
    · exact Part.wf_putSavedLs (State.partn_wf w _) (Core.wf_iff.1 (State.core_wf w c)).2
    · exact Core.wf_iff.2 ⟨(Core.wf_iff.1 hx).1, rfl⟩
  · exact k

theorem coreOut_keeps (k : Keeps s₀ s) : Keeps s₀ (coreOut s p c) := by
  refine (k.onPart fun x hx => ?_).onCoreOfWf fun _ w => ?_
  · exact Part.wf_setCore hx Core.wf_savedCore
  · exact Core.wf_iff.2 ⟨rfl, (Core.wf_iff.1 (State.core_wf w c)).1⟩

theorem Part.wf_eraseCore {x : Part} (hx : x.wf = true) : ({ x with cores := ferase x.cores c } : Part).wf = true :=
  Part.wf_iff.2 ⟨fun z hz => (Part.wf_iff.1 hx).1 z (mem_ferase hz), (Part.wf_iff.1 hx).2⟩

theorem Part.wf_eraseCluster {x : Part} (hx : x.wf = true) : ({ x with clusters := ferase x.clusters c } : Part).wf = true :=
  Part.wf_iff.2 ⟨(Part.wf_iff.1 hx).1, fun z hz => (Part.wf_iff.1 hx).2 z (mem_ferase hz)⟩

theorem coreIn_keeps (k : Keeps s₀ s) : Keeps s₀ (coreIn s q c) := by
  refine (k.onPart fun x hx => Part.wf_eraseCore hx).onCoreOfWf fun w₀ w => ?_
  have hs := State.saved_core_wf (p := q) (c := c) (k.1 w₀)
  exact Core.wf_iff.2 ⟨(Core.wf_iff.1 hs).1, (Core.wf_iff.1 (State.core_wf w c)).2⟩

theorem clusterIn_keeps (k : Keeps s₀ s) : Keeps s₀ (clusterIn s q cl) :=
  (k.onPart fun _ hx => Part.wf_eraseCluster hx).onClusterOfWf fun w₀ _ => State.saved_cluster_wf (k.1 w₀)

theorem partOut_keeps (k : Keeps s₀ s) : Keeps s₀ (partOut s p) := by
  unfold partOut
  extract_lets cores clusters s₁ s₂ s₃
  have k₁ : Keeps s₀ s₁ := dropLeave_keeps (dropWatches_keeps k)
  have k₂ : Keeps s₀ s₂ := by
    refine k₁.foldl fun t x k => ?_
    refine (k.onPartOfWf fun _ w => ?_).onCluster fun _ _ => rfl
    exact Part.wf_setCluster (State.partn_wf w p) (State.cluster_wf w x)
  have k₃ : Keeps s₀ s₃ := k₂.foldl fun _ _ => coreOut_keeps
  exact k₃.onPart

theorem partIn_keeps (k : Keeps s₀ s) : Keeps s₀ (partIn s q) := by
  unfold partIn
  extract_lets s₁ s₂ s₃
  have k₁ : Keeps s₀ s₁ := k.foldl fun _ _ => clusterIn_keeps
  have k₂ : Keeps s₀ s₂ := k₁.foldl fun _ _ => coreIn_keeps
  clear_value s₂
  have k₃ : Keeps s₀ s₃ := k₂.frame
  exact k₃.onPart

theorem dropPartial_keeps (k : Keeps s₀ s) : Keeps s₀ (dropPartial s p) :=
  k.foldl fun _ _ k => setQuad_keeps ((quadRelease_keeps k).foldl fun _ _ => freeSegment_keeps)

theorem giveBack_keeps (k : Keeps s₀ s) : Keeps s₀ (giveBack s p) := by
  refine k.foldl fun t x k => ?_
  split
  · exact setQuad_keeps (quadFlit_keeps k)
  · exact k

theorem exchange_keeps (k : Keeps s₀ s) : Keeps s₀ (exchange s p q) := by
  unfold exchange
  extract_lets s₁ all s₂ s₃
  have k₁ : Keeps s₀ s₁ := dropPartial_keeps k
  have k₂ : Keeps s₀ s₂ := k₁.foldl fun _ _ => spillBank_keeps
  have k₃ : Keeps s₀ s₃ := .ite (partOut_keeps k₂) k₂
  exact .ite (partIn_keeps k₃) k₃

/-! ### A partition that is out, as if it were resident -/

theorem layCore_keeps (k : Keeps s₀ s) : Keeps s₀ (layCore s p c) := by
  refine k.setCore fun _ w => ?_
  obtain ⟨hl, hs⟩ := Core.wf_iff.1 (State.saved_core_wf (p := p) (c := c) w)
  refine Core.wf_iff.2 ⟨?_, hs⟩
  dsimp only
  split
  · exact (Core.wf_iff.1 (State.core_wf w c)).2
  · exact hl

theorem liftCore_keeps (k : Keeps s₀ s) : Keeps s₀ (liftCore s p c) := by
  refine k.onPartOfWf fun _ w => Part.wf_setCore (State.partn_wf w p) ?_
  exact Core.wf_setLs Core.wf_savedCore (Core.wf_iff.1 (State.core_wf w c)).1

theorem backCore_keeps {l : FMap Core} (hl : s₀.wf = true → ∀ x ∈ l, x.2.wf = true) (k : Keeps s₀ s) : Keeps s₀ (backCore l s p c) := by
  refine k.setCore fun w₀ w => ?_
  obtain ⟨ho, hs⟩ := Core.wf_iff.1 (wf_getCore (c := c) (hl w₀))
  refine Core.wf_iff.2 ⟨ho, ?_⟩
  dsimp only
  split
  · exact (Core.wf_iff.1 (State.core_wf w c)).1
  · exact hs

theorem underPart_keeps {f : State → State} (hf : ∀ t, Keeps s₀ t → Keeps s₀ (f t)) (k : Keeps s₀ s) : Keeps s₀ (underPart s p f) := by
  unfold underPart
  split
  · exact hf s k
  · extract_lets cores clusters heldCores heldClusters s₁ s₂ s₃ s₄ s₅
    have hc : s₀.wf = true → ∀ x ∈ heldCores, x.2.wf = true := fun w x hx =>
      (State.wf_iff.1 (k.1 w)).2.2.1 x (List.mem_filter.1 hx).1
    have hd : s₀.wf = true → ∀ x ∈ heldClusters, x.2.spad.wf = true := fun w x hx =>
      (State.wf_iff.1 (k.1 w)).2.2.2.1 x (List.mem_filter.1 hx).1
    have k₁ : Keeps s₀ s₁ := k.foldl fun _ _ => layCore_keeps
    have k₂ : Keeps s₀ s₂ := k₁.foldl fun _ _ k => k.onClusterOfWf fun _ w => State.saved_cluster_wf w
    have k₃ : Keeps s₀ s₃ := (hf s₂ k₂).foldl fun _ _ => liftCore_keeps
    have k₄ : Keeps s₀ s₄ := k₃.foldl fun _ x k => k.onPartOfWf fun _ w => Part.wf_setCluster (State.partn_wf w p) (State.cluster_wf w x)
    have k₅ : Keeps s₀ s₅ := k₄.foldl fun _ _ => backCore_keeps hc
    exact k₅.foldl fun _ _ k => k.onClusterOfWf fun w₀ _ => wf_getCluster (hd w₀)

theorem agreeSwaps_keeps (k : Keeps s₀ s) : Keeps s₀ (agreeSwaps s) := by
  refine k.foldl fun t x k => ?_
  extract_lets s₁
  have k₁ : Keeps s₀ s₁ := k.frame
  exact .ite (.ite (beginHalt_keeps k₁) k₁) (.ite (swapAnswer_keeps k.used) k.used)

/-! ### Quadrilles of other packages -/

theorem Keeps.onTile {f : Tile → Tile} (k : Keeps s₀ s) : Keeps s₀ (s.onCluster c fun x => x.onTile n f) := k.onCluster

theorem quadMember_keeps (k : Keeps s₀ s) : Keeps s₀ (quadMember s p part rcb v) := by
  unfold quadMember
  extract_lets qid m i c q q' _ s₁ s₂ s₃
  have k₁ : Keeps s₀ s₁ := k.frame
  clear_value s₁
  have k₂ : Keeps s₀ s₂ := k₁.foldl fun _ _ k => .ite k.onTile k
  have k₃ : Keeps s₀ s₃ := by
    unfold s₃
    clear_value s₂
    split
    · exact k₂.frame
    · exact k₂
  exact .ite k₁ (setQuad_keeps k₃)

theorem quadTold_keeps (k : Keeps s₀ s) : Keeps s₀ (quadTold s p part rcb v) := by
  unfold quadTold
  split
  · exact k
  · extract_lets q gone s₁
    have k₁ : Keeps s₀ s₁ := by
      refine k.foldl fun t x k => ?_
      split
      · exact .ite (tileRelease_keeps k) k
      · exact k
    exact .ite (closeQuad_keeps (setQuad_keeps k₁)) (setQuad_keeps k₁)

theorem quadLeft_keeps (k : Keeps s₀ s) : Keeps s₀ (quadLeft s p part rcb v) := by
  unfold quadLeft
  extract_lets i
  split
  · exact k
  · exact .ite k (.ite (memberDepart_keeps k) (memberDetach_keeps k))

theorem quadGranted_keeps (k : Keeps s₀ s) : Keeps s₀ (quadGranted s p part rcb n m) := k.frame

theorem quadReleased_keeps (k : Keeps s₀ s) : Keeps s₀ (quadReleased s p part rcb) := by
  unfold quadReleased
  extract_lets s₁
  have k₁ : Keeps s₀ s₁ := k.frame
  clear_value s₁
  split
  · exact k₁
  · extract_lets s₂
    have k₂ : Keeps s₀ s₂ := k₁.foldl fun _ _ => freeSegment_keeps
    clear_value s₂
    exact k₂.frame

theorem quadGivenUp_keeps (k : Keeps s₀ s) : Keeps s₀ (quadGivenUp s p part rcb) := by
  unfold quadGivenUp
  split
  · exact k
  · exact quadFlit_keeps (setQuad_keeps k)

theorem gangForgotten_keeps (k : Keeps s₀ s) : Keeps s₀ (gangForgotten s p part rcb) := by
  unfold gangForgotten
  extract_lets mine s₁ gone s₂
  have k₁ : Keeps s₀ s₁ := k.foldl fun _ _ => closeQuad_keeps
  have k₂ : Keeps s₀ s₂ := k₁.foldl fun _ _ => forgetEnts_keeps
  clear_value s₂
  exact k₂.frame

theorem gangEnded_keeps (k : Keeps s₀ s) : Keeps s₀ (gangEnded s part rcb) := fireTrigger_keeps (dropReels_keeps (endQuads_keeps k))

theorem qidTold_keeps {b : Bool} (k : Keeps s₀ s) : Keeps s₀ (qidTold s p part q b) := k.frame

theorem gangAsked_keeps {code tag : Nat} (k : Keeps s₀ s) : Keeps s₀ (gangAsked s p part tag rcb code v) := sendFlit_keeps k.used

/-! ### Reels -/

theorem setReel_keeps {r : Reel} (k : Keeps s₀ s) : Keeps s₀ (setReel s r) := k.frame

theorem reelTold_keeps (k : Keeps s₀ s) : Keeps s₀ (reelTold s p part rcb v) := k.frame

theorem reelReported_keeps {code : Nat} (k : Keeps s₀ s) : Keeps s₀ (reelReported s p part rcb code v) := by
  unfold reelReported
  split
  · exact k
  · exact setReel_keeps k

theorem setScore_keeps {r : Reel} {x : Word} (k : Keeps s₀ s) : Keeps s₀ (setScore s r n x) := paramWrite_keeps (setReel_keeps k)

theorem reelNews_keeps {r : Reel} (k : Keeps s₀ s) : Keeps s₀ (reelNews s r n w) := .ite k (k.foldl fun _ _ => gangFlit_keeps)

theorem setFin_keeps {r : Reel} (k : Keeps s₀ s) : Keeps s₀ (setFin s r n) := reelNews_keeps (paramWrite_keeps (setReel_keeps k))

theorem killEntrant_keeps {r : Reel} (k : Keeps s₀ s) : Keeps s₀ (killEntrant s r n) := by
  unfold killEntrant
  extract_lets cores mine acts fibs rst msgs minus s₁ s₂ s₃ s₄
  have km {t c a} (k : Keeps s₀ t) : Keeps s₀ (minus t c a) := pushFlight_keeps k
  clear_value minus
  have k₁ : Keeps s₀ s₁ := k.foldl fun _ _ k => km (endAct_keeps k)
  have k₂ : Keeps s₀ s₂ := k₁.foldl fun _ _ k => km (endCps_keeps (clearFibre_keeps k))
  clear_value s₂
  have k₃ : Keeps s₀ s₃ := (Keeps.frame k₂).foldl fun _ _ k => km (dropWork_keeps (endCps_keeps k))
  have k₄ : Keeps s₀ s₄ := k₃.foldl fun _ _ k => liveDecrement_keeps (dropLanded_keeps k)
  split
  · exact k₄
  · split
    · exact memberDepart_keeps k₄
    · exact k₄

theorem passTiles_keeps {r : Reel} (k : Keeps s₀ s) : Keeps s₀ (passTiles s r n m) := k.foldl fun _ _ k => tileSettle_keeps k.onTile

theorem setAllow_keeps {a : Act} {x : Word} (k : Keeps s₀ s) : Keeps s₀ (setAllow s a x) :=
  k.onActAll.foldl fun _ _ k => .ite (k.onCore fun _ => Core.wf_lsPoke _ _) k

theorem releaseAct_keeps {r : Reel} {b : Bool} {a : Act} (k : Keeps s₀ s) : Keeps s₀ (releaseAct s r b a) := by
  unfold releaseAct
  split
  · exact wakeId_keeps k
  · exact wakeId_keeps k
  · exact .ite k.onActAll k
  · exact .ite k.onActAll k
  · exact k

theorem releaseEntrant_keeps {old r : Reel} {b : Bool} {x : Word} (k : Keeps s₀ s) : Keeps s₀ (releaseEntrant s old r b n x) :=
  k.foldl fun _ _ k => .ite (setAllow_keeps k) (releaseAct_keeps (setAllow_keeps k))

theorem releaseOthers_keeps {r : Reel} {b : Bool} (k : Keeps s₀ s) : Keeps s₀ (releaseOthers s r b) := by
  refine k.foldl fun t x k => ?_
  refine .ite k ?_
  split
  · exact .ite (wakeId_keeps k.used) k
  · exact wakeId_keeps k
  · exact wakeId_keeps k
  · exact k

theorem reelPassed_keeps (k : Keeps s₀ s) : Keeps s₀ (reelPassed s p part rcb v) := by
  unfold reelPassed
  split
  · exact k
  · exact setReel_keeps (passTiles_keeps (killEntrant_keeps k))

theorem farRound_keeps {old r : Reel} (k : Keeps s₀ s) : Keeps s₀ (farRound s old r) :=
  releaseOthers_keeps ((setReel_keeps k).foldl fun _ _ => releaseEntrant_keeps)

theorem farClose_keeps {old : Reel} (k : Keeps s₀ s) : Keeps s₀ (farClose s old n) := by
  unfold farClose
  extract_lets s₁
  have k₁ : Keeps s₀ s₁ := releaseOthers_keeps (releaseEntrant_keeps (forgetEnts_keeps k))
  clear_value s₁
  exact k₁.frame

theorem reelNewsTold_keeps (k : Keeps s₀ s) : Keeps s₀ (reelNewsTold s p part rcb v) := by
  unfold reelNewsTold
  split
  · exact k
  · split
    · exact farRound_keeps k
    · exact farClose_keeps k
    · exact setReel_keeps k

theorem gangTold_keeps {tag code : Nat} (k : Keeps s₀ s) : Keeps s₀ (gangTold s p part tag rcb code v) := by
  unfold gangTold
  split
  · exact quadMember_keeps k
  · exact quadTold_keeps k
  · exact quadLeft_keeps k
  · exact quadReleased_keeps k
  · exact gangForgotten_keeps k
  · exact quadGivenUp_keeps k
  · exact gangEnded_keeps k
  · exact qidTold_keeps k
  · exact qidTold_keeps k
  · exact gangAsked_keeps k
  · exact gangAsked_keeps k
  · exact reelTold_keeps k
  · exact reelPassed_keeps k
  · exact reelNewsTold_keeps k
  · exact reelReported_keeps k
  · exact reelReported_keeps k
  · exact reelReported_keeps k
  · split
    · exact setScore_keeps k
    · exact k
  · split
    · exact setFin_keeps k
    · exact k
  · exact k

end

/-! ## What they keep: the fabric -/

section
variable {s₀ s : State} {core ctx part va rcb pa h e d n c w cl v id act m rp p q l tag code link pkg blk : Nat}

/-! ### Slots, flits and links -/

theorem execFabricSlotStart_keeps (k : Keeps s₀ s) : OutKeeps s₀ (execFabricSlotStart s) := by
  unfold execFabricSlotStart
  extract_lets last change s₁
  have k₁ : Keeps s₀ s₁ := Keeps.frame (s := if change then s.used else s) (.ite k.used k)
  exact Keeps.ite k (.ite (agreeSwaps_keeps k₁) k₁)

theorem retryTrains_keeps (k : Keeps s₀ s) : Keeps s₀ (retryTrains s p) := Keeps.foldl k.frame fun _ _ => pushTrain_keeps

theorem execGuardEnd_keeps (k : Keeps s₀ s) : OutKeeps s₀ (execGuardEnd s) := by
  unfold execGuardEnd
  extract_lets q s₁
  have k₁ : Keeps s₀ s₁ := retryTrains_keeps k
  change Keeps s₀ _
  refine .ite k (Keeps.foldl k₁.frame fun _ ⟨c, x, a⟩ k => ?_)
  dsimp only
  split
  · exact .ite (wakeAct_keeps k) k
  · exact k

theorem unsendBulk_keeps {x : Nat × Flit} (k : Keeps s₀ s) : Keeps s₀ (unsendBulk s e d x) := refill_keeps k.onEdge

theorem sendNext_keeps (k : Keeps s₀ s) : Keeps s₀ (sendNext s l p) := by
  unfold sendNext
  extract_lets e g f c ctl idle second direct relay room waits full
  clear_value ctl second direct relay room waits full
  split
  · exact k.onEdge.onLink
  · split
    · exact k.onLink
    · split
      · exact k.onEdge.onLink
      · split
        · exact (unsendBulk_keeps k).onLink
        · exact .ite (unsendBulk_keeps k).onLink (unsendBulk_keeps k).onLink
        · exact (unsendBulk_keeps k).onLink
        · exact k.onLink

theorem sendOne_keeps (k : Keeps s₀ s) : Keeps s₀ (sendOne s l) := by
  unfold sendOne
  extract_lets peer c
  split
  · exact k.onLink
  · exact k.onLink
  · exact noteFull_keeps (sendNext_keeps k)

theorem execFlitBoundary_keeps (k : Keeps s₀ s) : OutKeeps s₀ (execFlitBoundary l s) := Keeps.ite (sendOne_keeps k.onLink) k

theorem requeue_keeps (k : Keeps s₀ s) : Keeps s₀ (requeue s l p) := by
  unfold requeue
  extract_lets
  exact noteFull_keeps k.used.onEdge

theorem retire_keeps (k : Keeps s₀ s) : Keeps s₀ (retire s l) := report_keeps (Keeps.foldl k fun _ _ => requeue_keeps).onLink

theorem retrain_keeps (k : Keeps s₀ s) : Keeps s₀ (retrain s l) := .ite k (.ite (retire_keeps k) k.onLink)

theorem execLinkRetrain_keeps (k : Keeps s₀ s) : OutKeeps s₀ (execLinkRetrain l s) := Keeps.ite (retrain_keeps k) k

theorem execLinkRetrainEnd_keeps (k : Keeps s₀ s) : OutKeeps s₀ (execLinkRetrainEnd l s) := Keeps.ite k.used.onLink k

theorem execLeakyBucketDecay_keeps (k : Keeps s₀ s) : OutKeeps s₀ (execLeakyBucketDecay l s) := k.onLink

theorem execLaneErrorWindow_keeps (k : Keeps s₀ s) : OutKeeps s₀ (execLaneErrorWindow l n m s) := by
  unfold execLaneErrorWindow
  extract_lets x
  change Keeps s₀ _
  split
  · split
    · exact .ite k (.ite (retrain_keeps k) k.onLink)
    · exact .ite k.onLink k.onLink
    · exact k
  · exact k

theorem execLaneRetrainEnd_keeps (k : Keeps s₀ s) : OutKeeps s₀ (execLaneRetrainEnd l n s) := by
  change Keeps s₀ _
  split
  · split
    · exact k.onLink
    · exact k
  · exact k

theorem execLinkUp_keeps (k : Keeps s₀ s) : OutKeeps s₀ (execLinkUp l n s) := Keeps.ite k.onLink k

theorem restoreLink_keeps (k : Keeps s₀ s) : Keeps s₀ (restoreLink s l) := k.onLink

theorem nakLink_keeps {b : Bool} (k : Keeps s₀ s) : Keeps s₀ (nakLink s l b n) := by
  unfold nakLink
  extract_lets p c first again fails s₁ back
  have k₁ : Keeps s₀ s₁ := k.onLink
  exact .ite (.ite k (.ite (retrain_keeps k₁) k₁)) (.ite k k.onLink)

theorem execNak_keeps {b : Bool} (k : Keeps s₀ s) : OutKeeps s₀ (execNak l b n s) := Keeps.ite (nakLink_keeps k) k

/-! ### What arrives -/

theorem addInbox_keeps {x : InWhat} (k : Keeps s₀ s) : Keeps s₀ (addInbox s pkg part tag x) := k.frame

theorem inMessage_keeps {f : Flit} (k : Keeps s₀ s) : Keeps s₀ (inMessage s l f) := by
  unfold inMessage
  extract_lets _ _ _ _ _ s₁
  have k₁ : Keeps s₀ s₁ := countMsg_keeps k
  exact .ite k₁.frame (report_keeps k₁)

theorem cleanDone_keeps {f : CleanReq → Bool} (k : Keeps s₀ s) : Keeps s₀ (cleanDone s f) :=
  Keeps.foldl k.frame fun _ _ k => .ite k k.dropFlight

theorem applyBlock_keeps {x : BitVec 1024} (k : Keeps s₀ s) : OptKeeps s₀ (applyBlock s part va x) := by
  unfold applyBlock
  split
  · split
    · trivial
    · exact Keeps.foldl k fun _ _ => homeWrite_keeps
  · trivial

theorem potBlock_keeps {b : List Byte} (k : Keeps s₀ s) : Keeps s₀ (potBlock s id b) := k.frame

theorem Keeps.dropInbox (k : Keeps s₀ s) : Keeps s₀ (s.dropInbox id) := k.frame

theorem Keeps.setInbox {x : InWhat} (k : Keeps s₀ s) : Keeps s₀ (s.setInbox id x) := k.frame

theorem Keeps.setLost {o : Option (Word × PostBlk × Nat)} (k : Keeps s₀ s) : Keeps s₀ (s.setLost id o n) := .ite k.dropInbox k.setInbox

theorem losePost_keeps {x : Inbound} {y : Word} {b : PostBlk} (k : Keeps s₀ s) : Keeps s₀ (losePost s x y b n m) := k.setLost

theorem inTrain_keeps {x : Inbound} {y : BitVec 1024} (k : Keeps s₀ s) : Keeps s₀ (inTrain s x va n c m y) := by
  unfold inTrain
  extract_lets b
  split
  next t m' e =>
    have k₁ : Keeps s₀ t := by
      refine .of_fst e ?_
      split
      · next e' => exact OptKeeps.of_some (.ite (applyBlock_keeps k) .none) e'
      · exact addInbox_keeps k
    exact .ite (sendFlit_keeps k₁.dropInbox) k₁.setInbox

theorem trainAnswered_keeps (k : Keeps s₀ s) : Keeps s₀ (trainAnswered s p tag n) := by
  unfold trainAnswered
  split
  · exact k
  · exact k.frame

theorem inHeader_keeps (k : Keeps s₀ s) : Keeps s₀ (inHeader s pkg part tag va n) := addInbox_keeps k.frame

theorem inBlock_keeps {x : BitVec 1024} (k : Keeps s₀ s) : Keeps s₀ (inBlock s pkg tag x) := by
  unfold inBlock
  split
  · exact addInbox_keeps k
  · exact potBlock_keeps k
  · split
    · exact inTrain_keeps k
    · exact .ite (losePost_keeps k) k.setInbox
    · exact k.setLost
    · exact k

theorem feedEarly_keeps (k : Keeps s₀ s) : Keeps s₀ (feedEarly s pkg) :=
  Keeps.foldl k fun s x k => by
    split
    · exact inBlock_keeps k.dropInbox
    · exact k

theorem windowLate_keeps {f : Flight} {x : Nat × Word} (k : Keeps s₀ s) : Keeps s₀ (windowLate s f x va n) := by
  unfold windowLate
  split
  · split
    · exact k.used1.dropFlight.onCore
    · exact dropDrained_keeps k
  · exact dropDrained_keeps k

theorem potReply_keeps (k : Keeps s₀ s) : Keeps s₀ (potReply s pkg tag d) := feedEarly_keeps k.frame

theorem landStat_keeps {x : Access} {r : SReg} {y : Word} (k : Keeps s₀ s) : Keeps s₀ (landStat s core x r y) := k.onActId.dropAcc

theorem potRefused_keeps (k : Keeps s₀ s) : Keeps s₀ (potRefused s pkg tag) := by
  unfold potRefused
  split
  · exact .failOf k.frame
  · split
    · exact k.failAcc
    · exact k

theorem postOver_keeps (k : Keeps s₀ s) : Keeps s₀ (postOver s pkg tag v) := by
  unfold postOver
  extract_lets mine s₁
  have k₁ : Keeps s₀ s₁ := k.foldl fun _ _ k => k.onCoreOf
  exact k₁.frame

theorem pieceCame_keeps {x : Access} {b : List Byte} (k : Keeps s₀ s) : Keeps s₀ (pieceCame s core x n va b) := by
  unfold pieceCame
  split
  · extract_lets s₁
    have k₁ : Keeps s₀ s₁ := k.gotPiece
    split
    · exact .ite (landLoad_keeps k₁) k₁
    · exact k₁
  · exact k

theorem askDone_keeps {a : WinAsk} (k : Keeps s₀ s) : Keeps s₀ (askDone s a v) := by
  unfold askDone
  split
  · split
    · exact pieceCame_keeps k
    · exact k
  · split
    · exact .ite k.setAcc k
    · exact k
  · split
    · split
      · exact landStat_keeps k
      · exact k
    · exact k
  · exact k.dropFlight
  · exact k.frame
  · exact k

theorem askFailed_keeps {a : WinAsk} {x : Word} (k : Keeps s₀ s) : Keeps s₀ (askFailed s a c x) := by
  unfold askFailed
  extract_lets fail
  have hf : ∀ id, Keeps s₀ (fail id) := fun id => by
    unfold fail
    split
    · exact .ite k.failAcc k
    · exact k
  clear_value fail
  split
  · exact hf _
  · exact hf _
  · exact hf _
  · split
    · exact windowLate_keeps k
    · exact k
  · exact k.frame
  · exact .ite k.onCoreOf (report_keeps k)

theorem askAnswered_keeps (k : Keeps s₀ s) : Keeps s₀ (askAnswered s pkg tag v) := by
  unfold askAnswered
  split
  · exact k
  · next a _ =>
    extract_lets s₁
    have k₁ : Keeps s₀ s₁ := k.frame
    exact .ite (askDone_keeps k₁) (askFailed_keeps k₁)

theorem inResponse_keeps (k : Keeps s₀ s) : Keeps s₀ (inResponse s pkg part tag va code v) := by
  unfold inResponse
  split
  · exact k.onSlice
  · exact postOver_keeps k
  · exact cleanDone_keeps k
  · exact potReply_keeps k
  · split
    · exact landStat_keeps k
    · exact k
  · exact potRefused_keeps k
  · exact askAnswered_keeps k
  · exact quadGranted_keeps k
  · exact trainAnswered_keeps k
  · exact k

theorem inRequest_keeps (k : Keeps s₀ s) : Keeps s₀ (inRequest s pkg part tag va code v) := by
  unfold inRequest
  extract_lets x
  split
  · exact .ite (feedEarly_keeps (addInbox_keeps k)) k
  · split
    case h_6 => exact feedEarly_keeps (addInbox_keeps k)
    case h_16 => exact gangTold_keeps k
    all_goals exact addInbox_keeps k

theorem inControl_keeps {f : Flit} (k : Keeps s₀ s) : Keeps s₀ (inControl s l pkg f) := by
  unfold inControl
  extract_lets
  split
  · exact inRequest_keeps k
  · exact addInbox_keeps k
  · exact inResponse_keeps k
  · exact inMessage_keeps k
  · exact nakLink_keeps k
  · exact feedEarly_keeps (inHeader_keeps k)
  · exact k

theorem inBulk_keeps {f : Flit} (k : Keeps s₀ s) : Keeps s₀ (inBulk s l pkg f) :=
  .ite k.onEdge.onLink (.ite (addInbox_keeps k) (inBlock_keeps k))

theorem receiveBulk_keeps {f : Flit} (k : Keeps s₀ s) : Keeps s₀ (receiveBulk s l pkg f) := by
  unfold receiveBulk
  extract_lets whole on
  split
  · exact inBulk_keeps k.onLink
  all_goals exact k.onLink

theorem receiveCtl_keeps {f : Flit} (k : Keeps s₀ s) : Keeps s₀ (receiveCtl s l pkg f) :=
  .ite (inControl_keeps k.onLink) (.ite k.used (.onLink (.ite k.used k)))

theorem execFlitReceive_keeps {f : Flit} (k : Keeps s₀ s) : OutKeeps s₀ (execFlitReceive l f s) :=
  Keeps.ite k (.ite (receiveBulk_keeps k) (receiveCtl_keeps k))

/-! ### Blocks and windows of other packages -/

theorem putRemoteLine_keeps {x : BitVec 256} (k : Keeps s₀ s) : Keeps s₀ (putRemoteLine s h part va pkg x) := by
  unfold putRemoteLine
  split
  · exact k.onSlice
  · exact lineFill_keeps k

theorem execProxyLineReply_keeps (k : Keeps s₀ s) : OutKeeps s₀ (execProxyLineReply id s) := by
  change Keeps s₀ _
  split
  · split
    · extract_lets s₁
      have k₁ : Keeps s₀ s₁ := k.dropInbox
      split
      · exact k₁
      · extract_lets b s₂ s₃
        have k₂ : Keeps s₀ s₂ := k₁.frame
        have k₃ : Keeps s₀ s₃ := k₂.foldl fun _ _ => putRemoteLine_keeps
        exact k₃.onSlice
    · exact k
  · exact k

theorem WinPlace.write_keeps {x : WinPlace} {b : List Byte} (k : Keeps s₀ s) : Keeps s₀ (x.write s b) := by
  cases x with
  | spad => exact spadStore_keeps k
  | ls => exact lsStore_keeps k
  | shadow c off => exact k.onCore fun _ hk => Core.wf_iff.2 ⟨(Core.wf_iff.1 hk).1, Memory.wf_mwrite _ _ (Core.wf_iff.1 hk).2⟩

theorem serveWindow_keeps {x : Inbound} (k : Keeps s₀ s) : Keeps s₀ (serveWindow s x code va d) := by
  unfold serveWindow
  extract_lets ty n answer
  have ha : ∀ t p v, Keeps s₀ t → Keeps s₀ (answer t p v) := fun _ _ _ => sendFlit_keeps
  clear_value answer
  split
  · exact ha _ _ _ k
  · extract_lets port old new
    exact .ite (ha _ _ _ k) (.ite (ha _ _ _ (WinPlace.write_keeps k)) (ha _ _ _ (WinPlace.write_keeps k)))

theorem noteHeld_keeps {x : Inbound} (k : Keeps s₀ s) : Keeps s₀ (noteHeld s x rcb cl n m) := by
  unfold noteHeld
  split
  · exact setQuad_keeps k
  · exact k.frame

theorem quadReserve_keeps {x : Inbound} (k : Keeps s₀ s) : Keeps s₀ (quadReserve s x rcb cl n m) := by
  unfold quadReserve
  extract_lets
  split
  · exact k
  · split
    · exact sendFlit_keeps (noteHeld_keeps (claimTile_keeps k.dropInbox))
    · exact k

theorem execHomeInvalidate_keeps (k : Keeps s₀ s) : OutKeeps s₀ (execHomeInvalidate id s) := by
  change Keeps s₀ _
  split
  · split
    · extract_lets h
      exact .ite k (sendFlit_keeps (markFired_keeps (evictBlock_keeps k.dropInbox)))
    · exact k
  · exact k

theorem execHomeRemoteRequest_keeps (k : Keeps s₀ s) : OutKeeps s₀ (execHomeRemoteRequest id s) := by
  change Keeps s₀ _
  split
  · split
    · extract_lets b h others inWay again new s₁ own
      split
      · split
        · exact k.dropInbox
        · split
          · exact k
          · split
            · have k₁ : Keeps s₀ s₁ := k.foldl fun _ _ => sendFlit_keeps
              exact k₁.onSlice
            · split
              next t bytes e =>
                have k₁ : Keeps s₀ t := .of_fst e (Keeps.foldl_fst k.dropInbox fun _ _ _ k =>
                  .ite (dropSharers_keeps (homeRead_keeps k)) (homeRead_keeps k))
                extract_lets back mine s₂ s₃
                have k₂ : Keeps s₀ s₂ := k₁.onSlice
                have k₃ : Keeps s₀ s₃ := sendFlit_keeps k₂
                exact .ite (sendFlit_keeps k₃) k₃
      · exact k.dropInbox
    · exact serveWindow_keeps k.dropInbox
    · extract_lets before
      split
      · exact k
      · split
        · next e => exact (cleanRecall_keeps k).of_some e
        · exact sendFlit_keeps (cleanRange_keeps k.dropInbox.used)
    · exact quadReserve_keeps k
    · exact k
  · exact k

/-! ### Requests that time out -/

theorem cpTimedOut_keeps {f : Nat → Bool} (k : Keeps s₀ s) : Keeps s₀ (cpTimedOut s core id f) := by
  unfold cpTimedOut
  extract_lets e
  split
  next now obj _ =>
    extract_lets s₁
    have k₁ : Keeps s₀ s₁ := .ite (report_keeps k.onCp) k
    split
    · exact k₁
    · exact .ite (cpRunning_keeps (cpPop_keeps k₁)).onCp k₁.onCp

theorem objTimedOut_keeps {f : Nat → Bool} (k : Keeps s₀ s) : Keeps s₀ (objTimedOut s part f) := by
  unfold objTimedOut
  extract_lets event s₁ s₂
  have he : ∀ t h o w, Keeps s₀ t → Keeps s₀ (event t h o w) := fun _ _ _ _ => report_keeps
  have k₁ : Keeps s₀ s₁ := k.foldl fun s x k => by
    split
    · exact he _ _ _ _ k.frame
    · exact k
  have k₂ : Keeps s₀ s₂ := k₁.foldl fun s x k => by
    split
    · exact he _ _ _ _ k.frame
    · exact k
  exact k₂.foldl fun s x k => by
    split
    · exact .ite (he _ _ _ _ k.setLost) k
    · exact k

theorem blockTimedOut_keeps (k : Keeps s₀ s) : Keeps s₀ (blockTimedOut s part blk) := by
  unfold blockTimedOut
  extract_lets mine s₁ s₂
  have k₁ : Keeps s₀ s₁ := k.foldl fun s x k => by
    refine .ite k ?_
    extract_lets t₁ t₂
    have k₁ : Keeps s₀ t₁ := k.foldl fun s x k => by
      split
      · exact k.failAcc
      · exact k
    have k₂ : Keeps s₀ t₂ := by
      unfold t₂
      split
      · exact .ite k₁.onCore k₁
      · exact k₁
    exact k₂.foldl fun _ _ => cpTimedOut_keeps
  have k₂ : Keeps s₀ s₂ := objTimedOut_keeps k₁
  exact k₂.frame

theorem cleanTimedOut_keeps {x : CleanReq} (k : Keeps s₀ s) : Keeps s₀ (cleanTimedOut s x) :=
  cleanDone_keeps (k.foldl fun _ _ k => .ite k.onSlice k)

theorem potTimedOut_keeps (k : Keeps s₀ s) : Keeps s₀ (potTimedOut s id) := by
  unfold potTimedOut
  split
  · exact report_keeps (.failOf k.frame)
  · split
    · split
      · exact .ite (report_keeps k.failAcc) k
      · exact k
    · exact k

theorem execRemoteRequestTimeout_keeps (k : Keeps s₀ s) : OutKeeps s₀ (execRemoteRequestTimeout id s) := by
  change Keeps s₀ _
  split
  · exact .ite k (blockTimedOut_keeps (report_keeps k.frame))
  · split
    · exact .ite k (report_keeps (cleanTimedOut_keeps k))
    · split
      · exact .ite k (askFailed_keeps (report_keeps k.frame))
      · exact potTimedOut_keeps k

/-! ### The instructions of the fabric -/

theorem prefetch_keeps (k : Keeps s₀ s) : Keeps s₀ (prefetch s va n) :=
  Keeps.foldl k fun s x k => by
    split
    · split
      · exact .ite (askBlock_keeps k) k
      · exact k
    · exact k

theorem execFabWait_keeps {r a b : SReg} (k : Keeps s₀ s) : OutKeeps s₀ (execFabWait r a b s) := by
  refine .ite (guarded_keeps k .none k.ws) (.ite (guarded_keeps k .none k.ws) ?_)
  exact guarded_keeps k (commitWait_keeps k) (parkMe_keeps (commitHere_keeps k).pendReg)

theorem execFabWaitTimeout_keeps (k : Keeps s₀ s) : OutKeeps s₀ (execFabWaitTimeout core ctx s) := by
  change Keeps s₀ _
  split
  · exact .ite (wakeAct_keeps k) k
  · exact k

end

/-! ## What they keep: stockpots -/

section
variable {s₀ s : State} {core ctx part va rcb pa h e d n c w cl v id act m rp p q l tag code link pkg blk : Nat}

/-! ### Stockpots -/

theorem potReadForm_keeps {b : Bool} {r x y : SReg} (k : Keeps s₀ s) : OutKeeps s₀ (potReadForm b r x y s) := by
  unfold potReadForm
  extract_lets h v w1 w2 need s₁ id rd
  have k₁ : Keeps s₀ s₁ := commitSend_keeps k
  clear_value s₁
  exact guarded_keeps k (commitWait_keeps k) (parkMe_keeps k₁.frame)

theorem potOpenAt_keeps {b : Bool} {g : BitVec 32} {x : Word} (k : Keeps s₀ s) : Keeps s₀ (potOpenAt s part h d l b g x).1 := by
  unfold potOpenAt
  extract_lets
  split
  · exact k
  · split
    · exact k
    · split
      · exact k
      · exact k.onSlice

theorem potOpenPlace_keeps {b : Bool} {g : BitVec 32} {x : Word} (k : Keeps s₀ s) : Keeps s₀ (potOpenPlace s core part p d l b g x).1 := by
  unfold potOpenPlace
  split
  · exact potOpenAt_keeps k
  · extract_lets s₁ f v
    have k₁ : Keeps s₀ s₁ := sendFlit_keeps k
    clear_value s₁
    exact k₁.frame

theorem execPotPost_keeps {a b : SReg} (k : Keeps s₀ s) : OutKeeps s₀ (execPotPost a b s) :=
  guarded_keeps k (roomWait_keeps k) (rbAppend_keeps k)

theorem execPotOpen_keeps {a b : SReg} (k : Keeps s₀ s) : OutKeeps s₀ (execPotOpen a b s) := by
  unfold execPotOpen
  extract_lets v w0 e place t r
  have k₁ : Keeps s₀ r.1 := potOpenPlace_keeps k
  clear_value r
  exact guarded_keeps k (waitConfirm_keeps k) (.ite k₁.ws k₁.onMe.ws)

theorem execPotStat_keeps {r a b : SReg} (k : Keeps s₀ s) : OutKeeps s₀ (execPotStat r a b s) :=
  guarded_keeps k (waitConfirm_keeps k) (addAccess_keeps k).pendReg

theorem setRead_keeps {r : PotRd} (k : Keeps s₀ s) : Keeps s₀ (setRead s r) := k.frame

theorem dropRead_keeps (k : Keeps s₀ s) : Keeps s₀ (dropRead s id) := k.frame

theorem answerRead_keeps {r : PotRd} {x : Pot} (k : Keeps s₀ s) : Keeps s₀ (answerRead s r x) := by
  unfold answerRead
  extract_lets v s₁
  have k₁ : Keeps s₀ s₁ := setRead_keeps k
  exact .ite (setPot_keeps k₁) k₁

theorem settleReads_keeps {x : Word} (k : Keeps s₀ s) : Keeps s₀ (settleReads s x) :=
  Keeps.foldl k fun s r k => by
    split
    · split
      · exact k
      · split
        · exact .ite (answerRead_keeps k) k
        · exact k
    · exact k

theorem refuseRead_keeps {r : PotRd} {x : Word} (k : Keeps s₀ s) : Keeps s₀ (refuseRead s r x) := by
  unfold refuseRead
  split
  · exact sendFlit_keeps (dropRead_keeps k)
  · exact (dropRead_keeps k).failOf

theorem remoteRead_keeps {r : PotRd} (k : Keeps s₀ s) : Keeps s₀ (remoteRead s r) := .ite k (setRead_keeps (sendFlit_keeps k))

theorem arriveRead_keeps {r : PotRd} (k : Keeps s₀ s) : Keeps s₀ (arriveRead s r) := by
  unfold arriveRead
  extract_lets s₁ r'
  have k₁ : Keeps s₀ s₁ := settleReads_keeps k
  refine .ite k (.ite (remoteRead_keeps k) ?_)
  split
  · exact refuseRead_keeps k₁
  · exact .ite (refuseRead_keeps k₁) (.ite (answerRead_keeps k₁) (.ite (setRead_keeps k₁) (setRead_keeps k₁)))

theorem performStat_keeps {x : Access} {y z : Word} {r : SReg} (k : Keeps s₀ s) : Keeps s₀ (performStat s core x y z r) := by
  unfold performStat
  refine .ite (.ite k (sendFlit_keeps k).setAcc) ?_
  split
  · exact k.failAcc
  · exact landStat_keeps k

theorem execPotReadPerform_keeps (k : Keeps s₀ s) : OutKeeps s₀ (execPotReadPerform id s) := by
  change Keeps s₀ _
  split
  · split
    · exact arriveRead_keeps k
    · exact settleReads_keeps k
    · exact k
  · split
    · split
      · exact performStat_keeps k
      · exact k
    · exact k

theorem execPotReadLimit_keeps (k : Keeps s₀ s) : OutKeeps s₀ (execPotReadLimit id s) := by
  change Keeps s₀ _
  split
  · exact .ite (settleReads_keeps k) k
  · exact k

theorem execPotReadResend_keeps (k : Keeps s₀ s) : OutKeeps s₀ (execPotReadResend id s) := by
  change Keeps s₀ _
  split
  · split
    · exact .ite (arriveRead_keeps k) k
    · exact k
  · exact k

theorem replyFar_keeps {r : PotRd} {x y : Word} {l : List (BitVec 32)} {g : BitVec 32} {a b c : Bool} (k : Keeps s₀ s) :
    Keeps s₀ (replyFar s r pkg tag x l g a b c y) := by
  unfold replyFar
  extract_lets e b bit s₁
  have k₁ : Keeps s₀ s₁ := sendFlit_keeps (dropRead_keeps k)
  exact k₁.foldl fun _ _ => sendFlit_keeps

theorem execPotReadReply_keeps (k : Keeps s₀ s) : OutKeeps s₀ (execPotReadReply id s) := by
  change Keeps s₀ _
  split
  · exact k
  · split
    · split
      · exact .ite k (replyFar_keeps k)
      · split
        · extract_lets b w
          split
          · exact k
          · split
            · extract_lets s₁ s₂
              have k₁ : Keeps s₀ s₁ := lsStore_keeps (.ite k (lsStore_keeps k))
              have k₂ : Keeps s₀ s₂ := (dropRead_keeps k₁).dropAcc
              split
              · exact wakeAct_keeps k₂
              · exact k₂.onActAll
            · exact refuseRead_keeps k
        · exact .ite (dropRead_keeps k) k
    · exact k

theorem objPut_keeps {f : Flight} (k : Keeps s₀ s) : Keeps s₀ (objPut s f va v).1 := by
  unfold objPut
  split
  · dsimp only
    exact homeWrite_keeps k
  · dsimp only
    exact lsStore_keeps k
  · split
    · next t _ e =>
      have k₁ : Keeps s₀ t := (engWrite_keeps k).of_eq e
      exact k₁
    · next t _ _ e =>
      have k₁ : Keeps s₀ t := (engWrite_keeps k).of_eq e
      exact k₁
  · exact k

theorem postComplete_keeps {f : Flight} {x : Word} (k : Keeps s₀ s) : Keeps s₀ (postComplete s f x c n m) := by
  unfold postComplete
  refine .ite k ?_
  split
  next t a e =>
    have k₁ : Keeps s₀ t := .of_fst e (objPut_keeps k)
    split
    next u b e =>
      have k₂ : Keeps s₀ u := .of_fst e (objPut_keeps k₁)
      split
      · exact report_keeps k₂
      · exact k₂

theorem postAnswer_keeps {f : Flight} {x : Word} (k : Keeps s₀ s) : Keeps s₀ (postAnswer s f x) := by
  unfold postAnswer
  split
  · exact sendFlit_keeps k
  · exact k

theorem postAt_keeps {f : Flight} {x : Word} {b : PostBlk} {l : List Byte} (k : Keeps s₀ s) : Keeps s₀ (postAt s f x b l) := by
  unfold postAt
  extract_lets s₁
  have k₁ : Keeps s₀ s₁ := (settleReads_keeps k).dropFlight
  split
  · exact postAnswer_keeps (postComplete_keeps k₁)
  · extract_lets s₂
    have k₂ : Keeps s₀ s₂ := setPot_keeps k₁
    exact postAnswer_keeps (postComplete_keeps k₂)

theorem sendPost_keeps {f : Flight} {x : Word} {b : PostBlk} {l : List Byte} (k : Keeps s₀ s) : Keeps s₀ (sendPost s f x b l) := by
  unfold sendPost
  extract_lets e pkg n
  split
  · exact k
  · extract_lets tag s₁
    have k₁ : Keeps s₀ s₁ := sendFlit_keeps k.frame
    exact (k₁.foldl fun _ _ => sendFlit_keeps).dropFlight

theorem postObjWait_keeps {f : Flight} {b : PostBlk} (k : Keeps s₀ s) : OptKeeps s₀ (postObjWait s f b) := .ite .none (engWait_keeps k)

theorem performPost_keeps {f : Flight} {x : Word} {b : PostBlk} {l : List Byte} (k : Keeps s₀ s) : Keeps s₀ (performPost s f x b l) := by
  unfold performPost
  extract_lets die
  refine .ite (.ite k (sendPost_keeps k)) (.ite (.ite k (askLeave_keeps k)) ?_)
  split
  · next e => exact (postObjWait_keeps k).of_some e
  · exact postAt_keeps k

theorem performChange_keeps {f : Flight} {x : Word} {g : Pot → Pot} (k : Keeps s₀ s) : Keeps s₀ (performChange s f x code v g) := by
  unfold performChange
  extract_lets s₁ s₂
  have k₁ : Keeps s₀ s₁ := k.dropFlight
  have k₂ : Keeps s₀ s₂ := settleReads_keeps k₁
  refine .ite (sendFlit_keeps k₁) ?_
  split
  · exact setPot_keeps k₂
  · exact k₂

theorem potAsked_keeps {x : Inbound} {y : Word} (k : Keeps s₀ s) : Keeps s₀ (potAsked s x code y v) := by
  unfold potAsked
  extract_lets answer s₁ home rd
  have ha : ∀ t h c v, Keeps s₀ t → Keeps s₀ (answer t h c v) := fun _ _ _ _ => sendFlit_keeps
  have k₁ : Keeps s₀ s₁ := k.frame
  clear_value answer s₁
  split
  · split
    next t w e =>
      have k₂ : Keeps s₀ t := .of_fst e (potOpenAt_keeps k₁)
      exact ha _ _ _ _ k₂
  · split
    · split
      · exact ha _ _ _ _ k₁
      · exact ha _ _ _ _ k₁
    · exact k₁.frame

theorem acceptPost_keeps {x : Inbound} (k : Keeps s₀ s) : Keeps s₀ (acceptPost s x) := by
  unfold acceptPost
  extract_lets first accept
  have ha : ∀ op n, Keeps s₀ (accept op n) := fun _ _ => k.frame
  clear_value accept
  split
  · exact .ite k (ha _ _)
  · exact .ite (ha _ _) k
  · exact .ite (potAsked_keeps k) k
  · exact k

theorem execPotPostPerform_keeps (k : Keeps s₀ s) : OutKeeps s₀ (execPotPostPerform id s) := by
  change Keeps s₀ _
  split
  · split
    · exact k
    · split
      · exact performPost_keeps k
      · exact closePot_keeps (settleReads_keeps k.dropFlight)
      · exact performChange_keeps k
      · exact performChange_keeps k
      · exact performChange_keeps k
      · exact k
  · split
    · exact acceptPost_keeps k
    · exact k

theorem execPostTrainTimeout_keeps (k : Keeps s₀ s) : OutKeeps s₀ (execPostTrainTimeout id s) := by
  change Keeps s₀ _
  split
  · split
    · exact k
    · split
      · split
        · next e => exact (postObjWait_keeps k).of_some e
        · exact postComplete_keeps k.frame
      · exact k
  · split
    · split
      · exact .ite k (losePost_keeps k)
      · extract_lets f
        split
        · next e => exact (postObjWait_keeps k).of_some e
        · exact (postComplete_keeps k).setLost
      · exact k
    · exact k

end

/-! ## What they keep: quadrilles, reels and images -/

section
variable {s₀ s : State} {core ctx part va rcb pa h e d n c w cl v id act m rp p q l tag code link pkg blk par b : Nat}

/-! ### Quadrilles -/

theorem gangFault_keeps {x : Word} (k : Keeps s₀ s) : Keeps s₀ (gangFault s x c l) := by
  unfold gangFault
  extract_lets s₁
  have k₁ : Keeps s₀ s₁ := addAccess_keeps (drain_keeps k)
  exact k₁.failAcc

theorem gangLaunch_keeps {r a : SReg} (k : Keeps s₀ s) : OutKeeps s₀ (gangLaunch n r a s) := by
  unfold gangLaunch
  extract_lets v x
  have k₁ : Keeps s₀ x.1 := launchAt_keeps (drain_keeps k)
  clear_value x
  refine guarded_keeps k (.orElse (settleWait_keeps k) (rcbWait_keeps k)) ?_
  split
  · exact gangFault_keeps k
  · exact .ite (commitAt_keeps k₁.ws) (parkMe_keeps (commitAt_keeps k₁.pendReg))

theorem quadEntry_keeps {x : Quad} (k : Keeps s₀ s) : Keeps s₀ (quadEntry s x n) := entryTo_keeps k

theorem quadShare_keeps {x : Quad} (k : Keeps s₀ s) : Keeps s₀ (quadShare s x p) := Keeps.foldl k fun _ _ => quadFlit_keeps

theorem openQuad_keeps {x : Quad} (k : Keeps s₀ s) : Keeps s₀ (openQuad s x) := by
  unfold openQuad
  extract_lets s₁ x' s₂ s₃ s₄
  have k₁ : Keeps s₀ s₁ := k.foldl fun _ _ k => .ite (claimTile_keeps k) k
  have k₂ : Keeps s₀ s₂ := paramWrite_keeps (paramWrite_keeps (paramWrite_keeps (setQuad_keeps k₁)))
  have k₃ : Keeps s₀ s₃ := rcbPut_keeps k₂
  have k₄ : Keeps s₀ s₄ := (wakeOpens_keeps k₃).foldl fun _ _ => quadShare_keeps
  exact k₄.foldl fun _ _ => quadEntry_keeps

theorem execQdAdmission_keeps (k : Keeps s₀ s) : OutKeeps s₀ (execQdAdmission id s) := by
  change Keeps s₀ _
  split
  · exact k
  · next x _ =>
    refine .ite k ?_
    split
    · exact openQuad_keeps k
    · extract_lets m x' took c t
      have ht : ∀ u, Keeps s₀ u → Keeps s₀ (took u) := fun _ k => .ite (openQuad_keeps (setQuad_keeps k)) (setQuad_keeps k)
      clear_value took
      refine .ite k (.ite (.ite (setQuad_keeps (quadFlit_keeps k)) (.ite (ht _ k) k)) (.ite k ?_))
      split
      · exact ht _ (claimTile_keeps k)
      · exact k

theorem gangWait_keeps (k : Keeps s₀ s) : OptKeeps s₀ (gangWait s) := .orElse (commitWait_keeps k) (.ite k.used .none)

theorem execQdDetach_keeps (k : Keeps s₀ s) : OutKeeps s₀ (execQdDetach s) := by
  unfold execQdDetach
  extract_lets s₁ s₂
  have k₁ : Keeps s₀ s₁ := drain_keeps k
  have k₂ : Keeps s₀ s₂ := by
    unfold s₂
    split
    · split
      · exact memberDetach_keeps k₁
      · exact k₁
    · exact k₁
  exact guarded_keeps k (gangWait_keeps k) (commitAt_keeps k₂)

theorem execQdExit_keeps {r : SReg} (k : Keeps s₀ s) : OutKeeps s₀ (execQdExit r s) := by
  unfold execQdExit
  extract_lets s₁
  have k₁ : Keeps s₀ s₁ := drain_keeps k
  refine guarded_keeps k (gangWait_keeps k) ?_
  split
  · exact k₁
  · extract_lets i s₂ dep
    have k₂ : Keeps s₀ s₂ := .ite k₁ (memberDetach_keeps k₁)
    split
    · exact parkMe_keeps (commitAt_keeps k₂.pendReg)
    · exact commitAt_keeps k₂.ws

theorem execQdStat_keeps {r a : SReg} (k : Keeps s₀ s) : OutKeeps s₀ (execQdStat r a s) := by
  unfold execQdStat
  extract_lets v i
  split
  · exact guarded_keeps k .none k
  · refine guarded_keeps k (commitWait_keeps k) ?_
    split
    · exact .ite (commitAt_keeps k.ws) (commitSend_keeps k)
    · exact commitAt_keeps k.ws

/-! ### Windows of a quadrille -/

/-- `Keeps` of what an operation that may fail leaves where it does not. -/
def OkKeeps {ε : Type} (s : State) : Except ε State → Prop
  | .ok t => Keeps s t
  | .error _ => True

theorem OkKeeps.of_eq {ε : Type} {a b : Except ε State} (h : OkKeeps s₀ a) (e : a = b) : OkKeeps s₀ b := e ▸ h

theorem windowReads_keeps {x : Access} {l : List (Nat × Nat × Nat)} (k : Keeps s₀ s) :
    OkKeeps s₀ (windowReads core part rp x l s) := by
  induction l generalizing s with
  | nil => exact k
  | cons y r ih =>
    unfold windowReads
    split
    · trivial
    · exact ih k.gotPiece
    · exact ih (askWindow_keeps k)

theorem spadRmw_keeps {op : AtomOp} {ty : AtomTy} {x y : Word} (k : Keeps s₀ s) : Keeps s₀ (spadRmw s cl n op ty x y).1 := spadStore_keeps k

theorem windowAcc_keeps {x : Access} (k : Keeps s₀ s) : Keeps s₀ (windowAcc s core x) := by
  unfold windowAcc
  extract_lets part rp
  split
  · refine .ite k ?_
    split
    next t ps e =>
      have k₁ : Keeps s₀ t := .of_fst e (choosePieces_keeps k)
      split
      · exact k₁.failAcc
      · next u e =>
        have k₂ : Keeps s₀ u := (windowReads_keeps k₁).of_eq e
        split
        · exact .ite (landLoad_keeps k₂) k₂
        · exact k₂
  · split
    · exact k.failAcc
    · exact k.dropAcc
  · refine .ite k ?_
    split
    · exact k.failAcc
    · exact (spadRmw_keeps k).setAcc
    · exact askWindow_keeps k
  · exact k

theorem windowFlight_keeps {f : Flight} (k : Keeps s₀ s) : Keeps s₀ (windowFlight s f) := by
  unfold windowFlight
  split
  · split
    · exact windowLate_keeps k
    · exact (spadStore_keeps k).dropFlight
    · exact askWindow_keeps k
  · split
    · exact windowLate_keeps k
    · exact (spadRmw_keeps k).dropFlight
    · exact askWindow_keeps k
  · exact k

theorem gangRead_keeps {x : Access} (k : Keeps s₀ s) : Keeps s₀ (gangRead s core x) := by
  unfold gangRead
  split
  · exact askWindow_keeps k
  · exact k

theorem execWindowAccess_keeps (k : Keeps s₀ s) : OutKeeps s₀ (execWindowAccess id s) := by
  change Keeps s₀ _
  split
  · exact .ite (windowAcc_keeps k) (gangRead_keeps k)
  · split
    · split
      · exact .ite (windowFlight_keeps k) k
      · exact k
    · exact k

/-! ### Reels -/

theorem tellReel_keeps {r : Reel} (k : Keeps s₀ s) : Keeps s₀ (tellReel s r pkg code v) := sendFlit_keeps k

theorem execReelScore_keeps {a : SReg} (k : Keeps s₀ s) : OutKeeps s₀ (execReelScore a s) := by
  unfold execReelScore
  extract_lets v s₁
  split
  · exact guarded_keeps k .none k
  · extract_lets s₂
    have k₁ : Keeps s₀ s₁ := (drain_keeps k).onMe
    have k₂ : Keeps s₀ s₂ := by
      unfold s₂
      split
      · exact setScore_keeps k₁
      · exact tellReel_keeps k₁
      · exact k₁
    exact guarded_keeps k (settleWait_keeps k) (commitAt_keeps k₂)

theorem execReelDone_keeps {a : SReg} (k : Keeps s₀ s) : OutKeeps s₀ (execReelDone a s) := by
  unfold execReelDone
  split
  · exact guarded_keeps k .none k
  · extract_lets s₁ s₂
    have k₁ : Keeps s₀ s₁ := drain_keeps k
    have k₂ : Keeps s₀ s₂ := by
      unfold s₂
      split
      · exact setFin_keeps k₁
      · exact tellReel_keeps (setReel_keeps k₁)
      · exact k₁
    exact guarded_keeps k (commitWait_keeps k) (parkMe_keeps (commitAt_keeps k₂.pendReg))

theorem execReelSync_keeps {a : SReg} (k : Keeps s₀ s) : OutKeeps s₀ (execReelSync a s) := by
  unfold execReelSync
  split
  · exact guarded_keeps k .none k
  · exact guarded_keeps k (commitWait_keeps k) (parkMe_keeps (commitAt_keeps (drain_keeps k).pendReg))

theorem execReelStat_keeps {r a : SReg} (k : Keeps s₀ s) : OutKeeps s₀ (execReelStat r a s) := by
  unfold execReelStat
  extract_lets v i
  split
  · exact guarded_keeps k .none k
  · refine guarded_keeps k (commitWait_keeps k) ?_
    split
    · exact commitSend_keeps k
    · exact commitAt_keeps k.used.ws

theorem execAllowanceExhausted_keeps (k : Keeps s₀ s) : OutKeeps s₀ (execAllowanceExhausted core s) := by
  change Keeps s₀ _
  split
  · exact k
  · split
    · exact k
    · split
      · next e => exact (commitWait_keeps k).of_some e
      · exact parkRun_keeps (commitAt_keeps k)

theorem execRoundTimeout_keeps (k : Keeps s₀ s) : OutKeeps s₀ (execRoundTimeout id s) := by
  change Keeps s₀ _
  split
  · exact k
  · exact .ite (reelNews_keeps (setReel_keeps k)) k

theorem reelReport_keeps {r : Reel} (k : Keeps s₀ s) : Keeps s₀ (reelReport s r pkg) := by
  unfold reelReport
  extract_lets p say s₁ s₂
  have hs : ∀ t c v, Keeps s₀ t → Keeps s₀ (say t c v) := fun _ _ _ => gangFlit_keeps
  have k₁ : Keeps s₀ s₁ := k.foldl fun _ _ => hs _ _ _
  have k₂ : Keeps s₀ s₂ := k₁.foldl fun _ _ => hs _ _ _
  exact .ite k (setReel_keeps (hs _ _ _ k₂))

theorem sendGrow_keeps {r : Reel} {b : Bool} {g : Grow} (k : Keeps s₀ s) : Keeps s₀ (sendGrow s r b g) := by
  unfold sendGrow
  extract_lets w8 s₁
  have k₁ : Keeps s₀ s₁ := hwPoke_keeps k
  split
  split
  extract_lets pay
  exact .ite (hwMessage_keeps k₁) (hwMessageTo_keeps k₁)

theorem beat_keeps {r : Reel} (k : Keeps s₀ s) : Keeps s₀ (beat s r n m).1 := by
  unfold beat
  extract_lets s₁ far z g _ r' s₂
  have k₁ : Keeps s₀ s₁ := killEntrant_keeps k
  have k₂ : Keeps s₀ s₂ := k₁.foldl fun _ _ => gangFlit_keeps
  exact setReel_keeps (passTiles_keeps k₂)

theorem beatAll_keeps {l : List (Nat × Nat)} {r : Reel} {gs : List Grow} (k : Keeps s₀ s) : Keeps s₀ (beatAll l s r gs).1 := by
  induction l generalizing s r gs with
  | nil => exact k
  | cons y l ih => exact ih (beat_keeps k)

theorem nextRound_keeps {r : Reel} {l : List Nat} (k : Keeps s₀ s) : Keeps s₀ (nextRound s r l) := by
  unfold nextRound
  extract_lets h pairs
  split
  next t r' gs e =>
    have k₁ : Keeps s₀ t := .of_fst e (beatAll_keeps k)
    extract_lets new s₂ s₃
    have k₂ : Keeps s₀ s₂ := reelNews_keeps (reelCopy_keeps (setReel_keeps k₁))
    have k₃ : Keeps s₀ s₃ := k₂.foldl fun _ _ => releaseEntrant_keeps
    exact (releaseOthers_keeps k₃).foldl fun _ _ => sendGrow_keeps

theorem closeReel_keeps {r : Reel} {l : List Nat} (k : Keeps s₀ s) : Keeps s₀ (closeReel s r n l) := by
  unfold closeReel
  extract_lets one
  split
  next t r' gs e =>
    have k₁ : Keeps s₀ t := .of_fst e (beatAll_keeps k)
    extract_lets s₂ s₃ s₄ s₅ g
    have k₂ : Keeps s₀ s₂ := rcbPut_keeps (reelNews_keeps (reelCopy_keeps k₁))
    have k₃ : Keeps s₀ s₃ := forgetEnts_keeps k₂
    have k₄ : Keeps s₀ s₄ := releaseOthers_keeps (releaseEntrant_keeps k₃)
    clear_value s₄
    have k₅ : Keeps s₀ s₅ := k₄.frame
    exact sendGrow_keeps k₅

theorem execRoundEnd_keeps (k : Keeps s₀ s) : OutKeeps s₀ (execRoundEnd id s) := by
  change Keeps s₀ _
  split
  · exact k
  · split
    · exact reelReport_keeps k
    · refine .ite k ?_
      split
      · exact k
      · exact .ite (closeReel_keeps k) (nextRound_keeps k)

/-! ### Images -/

theorem putByte_keeps {b : Byte} (k : Keeps s₀ s) : OptKeeps s₀ (putByte s part va b) := by
  unfold putByte
  split
  · exact homeWrite_keeps (oweRecall_keeps k)
  · trivial

theorem putBytes_keeps {l : List Byte} (k : Keeps s₀ s) : Keeps s₀ (putBytes part l va s).1 := by
  induction l generalizing s va with
  | nil => exact k
  | cons y r ih =>
    unfold putBytes
    split
    · next e => exact ih ((putByte_keeps k).of_some e)
    · exact ih k

theorem doAll_keeps {α : Type} {f : α → State → State × Bool} {l : List α} {b : Bool} (k : Keeps s₀ s)
    (hf : ∀ s x, Keeps s₀ s → Keeps s₀ (f x s).1) : Keeps s₀ (doAll f l (s, b)).1 :=
  k.foldl_fst fun _ _ _ => hf _ _

theorem imageBuild_keeps {x : Image} (k : Keeps s₀ s) : Keeps s₀ (imageBuild part x s).1 := by
  unfold imageBuild
  extract_lets page dword
  have hp : ∀ s x, Keeps s₀ s → Keeps s₀ (page x s).1 := fun s x k => by
    unfold page
    split
    · exact physWrite_keeps k
    · exact k
  have hd : ∀ s x, Keeps s₀ s → Keeps s₀ (dword x s).1 := fun s x k => by
    unfold dword
    split
    · next e => exact hwWrite_keeps k e
    · exact k
  exact doAll_keeps (doAll_keeps (doAll_keeps k hp) hd) fun _ _ => putBytes_keeps

theorem OptKeeps.bind {α : Type} {o : Option α} {f : α → Option State} (hf : ∀ a, OptKeeps s₀ (f a)) : OptKeeps s₀ (o.bind f) := by
  cases o with
  | none => exact .none
  | some a => exact hf a

theorem OptKeeps.bindState {o : Option State} {f : State → Option State} (k : OptKeeps s₀ o) (hf : ∀ t, Keeps s₀ t → OptKeeps s₀ (f t)) :
    OptKeeps s₀ (o.bind f) := by
  cases o with
  | none => exact .none
  | some t => exact hf t k

theorem OptKeeps.map {α : Type} {o : Option α} {f : α → State} (hf : ∀ a, Keeps s₀ (f a)) : OptKeeps s₀ (o.map f) := by
  cases o with
  | none => exact .none
  | some a => exact hf a

theorem OptKeeps.foldl {α : Type} {f : Option State → α → Option State} {l : List α} {o : Option State} (k : OptKeeps s₀ o)
    (hf : ∀ o x, OptKeeps s₀ o → OptKeeps s₀ (f o x)) : OptKeeps s₀ (l.foldl f o) := by
  induction l generalizing o with
  | nil => exact k
  | cons x r ih => exact ih (hf o x k)

theorem imageTile_keeps {t : ImageTiles} (k : Keeps s₀ s) : OptKeeps s₀ (imageTile part p rcb t cl n s) := by
  unfold imageTile
  extract_lets m x
  refine .ite .none (.bind fun b => ?_)
  extract_lets s₁
  have k₁ : Keeps s₀ s₁ := claimTile_keeps k
  split
  · exact k₁
  · exact .map fun l => k₁.onCluster fun _ => Memory.wf_mwrite _ _

theorem imageTiles_keeps {t : ImageTiles} {l : List Nat} (k : Keeps s₀ s) : OptKeeps s₀ (imageTiles part p rcb n l t s) :=
  .ite .none (OptKeeps.foldl k fun _ _ k => .foldl k fun _ _ k => .bindState k fun _ => imageTile_keeps)

theorem imagePot_keeps {x : ImagePot} (k : Keeps s₀ s) : OptKeeps s₀ (imagePot core part x s) := by
  unfold imagePot
  split
  next t y e =>
    have k₁ : Keeps s₀ t := .of_fst e (potOpenPlace_keeps k)
    refine .ite .none ?_
    cases e' : hwWrite t part x.addr 8 y.toNat with
    | error => trivial
    | ok u => exact hwWrite_keeps k₁ e'

/-- `Keeps` of what an image claims, where it does. -/
def ClaimsKeep (s : State) : State ⊕ Nat → Prop
  | .inl t => Keeps s t
  | .inr _ => True

theorem ClaimsKeep.of_eq {a b : State ⊕ Nat} (h : ClaimsKeep s₀ a) (e : a = b) : ClaimsKeep s₀ b := e ▸ h

theorem imageClaims_keeps {x : Image} {b : Budget} (k : Keeps s₀ s) : ClaimsKeep s₀ (imageClaims core part p x b s) := by
  unfold imageClaims
  split
  · trivial
  · next t e =>
    have k₁ : Keeps s₀ t := OptKeeps.of_some (.foldl (o := some s) k fun _ _ k => .bindState k fun _ => imageTiles_keeps) e
    split
    · trivial
    · next u e =>
      have k₂ : Keeps s₀ u := OptKeeps.of_some (.foldl (o := some t) k₁ fun _ _ k => .bindState k fun _ => imagePot_keeps) e
      exact k₂

theorem imageLaunch_keeps {x : Image} (k : Keeps s₀ s) : Keeps s₀ (imageLaunch core x s) := by
  unfold imageLaunch
  split
  · exact k
  · extract_lets p built s₁ b fail c
    have k₁ : Keeps s₀ s₁ := imageBuild_keeps k
    have hf : ∀ c, Keeps s₀ (fail c) := fun _ => launchDone_keeps k₁
    clear_value s₁ built b c fail
    refine .ite k (.ite (launchDone_keeps k₁.used) (.ite (hf _) ?_))
    split
    · exact hf _
    · next t e =>
      have k₂ : Keeps s₀ t := (imageClaims_keeps k₁).of_eq e
      exact .ite (hf _) (launchGo_keeps k₂)

end

/-! ## What they keep: vectors -/

section
variable {s₀ s : State} {core ctx part va rcb pa h e d n c w cl v id act m rp p q l tag code link pkg blk par b : Nat}
  {kd : KReg} {vd va' vb : VReg} {sb : SReg} {f : Fmt} {z : BitVec 3}

/-! ### Vectors -/

theorem Keeps.lanesF {g : Nat → Flagged Nat} (k : Keeps s₀ s) : Keeps s₀ (s.lanesF vd z n g) := k.wv.orFlags

theorem Keeps.lanes {g : Nat → Nat} (k : Keeps s₀ s) : Keeps s₀ (s.lanes vd z n g) := k.wv

theorem Keeps.vop {g : BitVec n → BitVec n → BitVec n} (k : Keeps s₀ s) : Keeps s₀ (s.vop vd va' vb z n g) := k.lanes

theorem Keeps.vsat {g : BitVec n → BitVec n → Flagged Int} (k : Keeps s₀ s) : Keeps s₀ (s.vsat vd va' vb z n g) := k.lanesF

theorem Keeps.vcmpI {g : BitVec n → BitVec n → Bool} (k : Keeps s₀ s) : Keeps s₀ (s.vcmpI kd va' vb z n g) := k.wk

theorem Keeps.vfp {g : Nat → Nat → Nat → Flagged Nat} (k : Keeps s₀ s) : Keeps s₀ (s.vfp f vd va' vb z g) := k.lanesF

theorem Keeps.vfps {g : Nat → Nat → Nat → Flagged Nat} (k : Keeps s₀ s) : Keeps s₀ (s.vfps vd va' sb z g) := k.lanesF

theorem Keeps.vops {g : BitVec 32 → BitVec 32 → BitVec 32} (k : Keeps s₀ s) : Keeps s₀ (s.vops vd va' sb z g) := k.lanes

theorem Keeps.vcmpFp {x : BitVec 2} (k : Keeps s₀ s) : Keeps s₀ (s.vcmpFp f kd va' vb z x) := k.wk.orFlags

theorem Keeps.wlow (k : Keeps s₀ s) : Keeps s₀ (s.wlow vd n) := k.wv

theorem Keeps.vdotI {g : BitVec n → Int} (k : Keeps s₀ s) : Keeps s₀ (s.vdotI vd va' vb z n g) := k.lanes

theorem Keeps.vdotF (k : Keeps s₀ s) : Keeps s₀ (s.vdotF f vd va' vb z) := k.lanesF

theorem Keeps.narrowTo {g : Nat → Flagged Nat} (k : Keeps s₀ s) : Keeps s₀ (s.narrowTo vd w n p g) := k.wv.orFlags

theorem Keeps.convAll {g : Nat → Flagged Nat} (k : Keeps s₀ s) : Keeps s₀ (s.convAll vd w g) := k.wv.orFlags

theorem Keeps.vsfu {x : BitVec 1} (k : Keeps s₀ s) : Keeps s₀ (s.vsfu n vd va' z x) := k.lanesF

end

/-! ## What they keep: the governor, management registers, kills, event rings, boot and host commands -/

section
variable {s₀ s : State} {core ctx part va rcb pa h e d n c w cl v id act m rp p q l tag code link pkg blk par b : Nat}

/-! ### Power and translation -/

theorem execLeave_keeps {a b : SReg} (k : Keeps s₀ s) : OutKeeps s₀ (execLeave a b s) :=
  guarded_keeps k .none (.ite (.ite k (askLeave_keeps k.onCluster)) (.ite k (askLeave_keeps k.onCC)))

theorem grantLeave_keeps {r : GovReq} (k : Keeps s₀ s) : Keeps s₀ (grantLeave s r) := by
  unfold grantLeave
  split
  · exact Keeps.foldl k.onCluster fun _ _ k => k.onCore fun _ => Core.wf_mxAwake
  · exact k.onCore fun _ hk => Core.wf_cpAwake (k := _) hk
  · extract_lets s₁
    have k₁ : Keeps s₀ s₁ := k.frame
    exact .ite k₁.onCore k₁

theorem grantWindow_keeps (k : Keeps s₀ s) : Keeps s₀ (grantWindow d m n s) := by
  induction n generalizing s with
  | zero => exact k
  | succ n ih =>
    unfold grantWindow
    extract_lets g
    split
    · exact k
    · extract_lets e
      exact .ite (ih (grantLeave_keeps k.onDie)) k

theorem refuseWindow_keeps (k : Keeps s₀ s) : Keeps s₀ (refuseWindow d m s) := by
  unfold refuseWindow
  extract_lets late s₁
  have k₁ : Keeps s₀ s₁ := k.foldl fun s x k => by
    split
    · exact k.onCore
    · exact k.frame
    · exact k
  exact k₁.onDie

theorem runWindows_keeps (k : Keeps s₀ s) : Keeps s₀ (runWindows d n s) := by
  induction n generalizing s with
  | zero => exact k
  | succ n ih =>
    unfold runWindows
    extract_lets m s₁ w s₂ nextAt
    have k₁ : Keeps s₀ s₁ := grantWindow_keeps k
    have k₂ : Keeps s₀ s₂ := refuseWindow_keeps k₁
    exact .ite k₁ (ih k₂.onDie)

theorem execGovernorWindow_keeps (k : Keeps s₀ s) : OutKeeps s₀ (execGovernorWindow d s) := Keeps.ite (runWindows_keeps k) k

theorem dropUnmapped_keeps (k : Keeps s₀ s) : Keeps s₀ (dropUnmapped p h s) := Keeps.foldl k fun _ _ => evictLine_keeps

theorem tlbInvalidate_keeps (k : Keeps s₀ s) : Keeps s₀ (tlbInvalidate s p m n) := Keeps.foldl k.frame fun _ _ => dropUnmapped_keeps

/-! ### Management registers -/

theorem createPart_keeps (k : Keeps s₀ s) : Keeps s₀ (createPart s p n) :=
  k.onPart fun _ _ => rfl

theorem setPotWays_keeps (k : Keeps s₀ s) : OptKeeps s₀ (setPotWays s h n) := by
  unfold setPotWays
  extract_lets lost s₁
  have k₁ : Keeps s₀ s₁ := k.foldl fun _ _ => evictLine_keeps
  exact .ite .none k₁.onSlice

theorem OkKeeps.ite {ε : Type} {p : Prop} [Decidable p] {a b : Except ε State} (h : OkKeeps s₀ a) (g : OkKeeps s₀ b) :
    OkKeeps s₀ (if p then a else b) := by
  split
  · exact h
  · exact g

theorem OkKeeps.error {ε : Type} {e : ε} : OkKeeps s₀ (.error e) := trivial

theorem inRange_keeps (k : Keeps s₀ s) : OkKeeps s₀ (inRange v m n s) := .ite k .error

theorem partWrite_keeps {x : Word} (k : Keeps s₀ s) : OkKeeps s₀ (partWrite s p n x) := by
  unfold partWrite
  extract_lets y m absent
  have ha : ∀ b t, Keeps s₀ t → OkKeeps s₀ (absent b t) := fun _ _ k => .ite .error (.ite k .error)
  clear_value absent
  split
  · exact ha _ _ (createPart_keeps k)
  · exact ha _ _ k.onPart
  · exact .ite k.onPart .error
  · exact ha _ _ k.onPart
  · exact .error
  · exact k.onPart
  · exact ha _ _ k.onPart
  · exact inRange_keeps k.onPart
  · exact .error

theorem mgmtWrite_keeps {x : Word} (k : Keeps s₀ s) : OkKeeps s₀ (mgmtWrite s n x) := by
  unfold mgmtWrite
  extract_lets v
  refine .ite (partWrite_keeps k) (.ite (.ite .error (.ite .error ?_)) (.ite (inRange_keeps k.frame) (.ite (inRange_keeps k.frame)
    (.ite (inRange_keeps k.frame) (.ite (inRange_keeps k.frame) (.ite (Keeps.ite (restoreLink_keeps k) k) (.ite (inRange_keeps k.frame) .error)))))))
  split
  · next e => exact (setPotWays_keeps k).of_some e
  · exact .error

/-! ### System instructions -/

theorem execSysTlbinv_keeps {r a b : SReg} (k : Keeps s₀ s) : OutKeeps s₀ (execSysTlbinv r a b s) :=
  guarded_keeps k (waitConfirm_keeps k) (.ite k.ws (tlbInvalidate_keeps k).ws)

theorem execSysMrd_keeps {r a : SReg} (k : Keeps s₀ s) : OutKeeps s₀ (execSysMrd r a s) := guarded_keeps k (waitConfirm_keeps k) k.ws

theorem execSysMwr_keeps {a b : SReg} (k : Keeps s₀ s) : OutKeeps s₀ (execSysMwr a b s) := by
  unfold execSysMwr
  extract_lets n t
  refine guarded_keeps k (waitConfirm_keeps k) ?_
  split
  · next e =>
    have k₁ := (mgmtWrite_keeps k).of_eq e
    exact k₁
  · exact k

theorem startSwap_keeps {x : Option (Nat × SReg)} {y : Option HostReq} (k : Keeps s₀ s) : Keeps s₀ (startSwap s p q x y) := by
  unfold startSwap
  extract_lets far w s₁
  have k₁ : Keeps s₀ s₁ := k.frame
  clear_value s₁
  exact .ite (beginHalt_keeps k₁) k₁

theorem startKill_keeps {x : Option (Nat × SReg)} {y : Option HostReq} (k : Keeps s₀ s) : Keeps s₀ (startKill s p x y) :=
  beginHalt_keeps k.frame

theorem execSysSwap_keeps {r a b : SReg} (k : Keeps s₀ s) : OutKeeps s₀ (execSysSwap r a b s) := by
  unfold execSysSwap
  extract_lets v p q g own st
  exact guarded_keeps k (.orElse (waitConfirm_keeps k) (.ite .none k)) (.ite k.ws (startSwap_keeps k.pendReg))

theorem execSysKill_keeps {r a : SReg} (k : Keeps s₀ s) : OutKeeps s₀ (execSysKill r a s) :=
  guarded_keeps k (.orElse (waitConfirm_keeps k) (.ite .none k)) (.ite k.ws (startKill_keeps k.pendReg))

theorem execSysEvt_keeps {a b : SReg} (k : Keeps s₀ s) : OutKeeps s₀ (execSysEvt a b s) :=
  guarded_keeps k (waitConfirm_keeps k) (report_keeps k)

/-! ### Kills -/

theorem killRegions_keeps (k : Keeps s₀ s) : Keeps s₀ (killRegions s p) := Keeps.foldl k fun _ _ k => .ite (failRegion_keeps k) k

theorem closePotsOf_keeps (k : Keeps s₀ s) : Keeps s₀ (closePotsOf s p h) := Keeps.foldl k fun _ _ k => .ite (closePot_keeps k) k

theorem dropSliceOf_keeps (k : Keeps s₀ s) : Keeps s₀ (dropSliceOf s p h) := by
  unfold dropSliceOf
  extract_lets mine s₁
  have k₁ : Keeps s₀ s₁ := k.foldl fun _ _ => evictLine_keeps
  exact k₁.onSlice

theorem Core.wf_bareCore {k : Core} (hk : k.wf = true) : (bareCore k).wf = true := Core.wf_iff.2 ⟨rfl, (Core.wf_iff.1 hk).2⟩

theorem Core.wf_dropCoreOf {k : Core} (hk : k.wf = true) : (dropCoreOf p k).wf = true := by
  obtain ⟨hl, hs⟩ := Core.wf_iff.1 hk
  unfold dropCoreOf
  extract_lets j
  have hj : j.wf = true := Core.wf_iff.2 ⟨hl, by
    unfold j
    dsimp only
    split
    · rfl
    · exact hs⟩
  split
  · exact Core.wf_bareCore hj
  · exact hj

theorem killPart_keeps (k : Keeps s₀ s) : Keeps s₀ (killPart s p) := by
  unfold killPart
  extract_lets s₁ hs s₂ s₃ cls s₄ s₅ s₆ s₇
  have k₁ : Keeps s₀ s₁ := underPart_keeps (fun _ => killRegions_keeps) k
  have k₂ : Keeps s₀ s₂ := k₁.foldl fun _ _ => closePotsOf_keeps
  have k₃ : Keeps s₀ s₃ := k₂.foldl fun _ _ => dropSliceOf_keeps
  have k₄ : Keeps s₀ s₄ := .ite (dropLeave_keeps k₃) k₃
  have k₅ : Keeps s₀ s₅ := .ite (k₄.foldl fun _ _ k => k.onCluster fun _ _ => rfl) k₄
  have k₆ : Keeps s₀ s₆ := k₅.foldl fun _ _ k => Keeps.foldl k fun _ _ => barRelease_keeps
  clear_value s₆
  have k₇ : Keeps s₀ s₇ := k₆.mapCores rfl fun _ => Core.wf_dropCoreOf
  exact k₇.onPart fun _ _ => rfl

theorem execSwapRestoreDone_keeps (k : Keeps s₀ s) : OutKeeps s₀ (execSwapRestoreDone p q s) := by
  change Keeps s₀ _
  split
  · exact k
  · extract_lets mine s₁ s₂
    have k₁ : Keeps s₀ s₁ := giveBack_keeps (k.foldl fun _ _ => haltDrain_keeps)
    have k₂ : Keeps s₀ s₂ := k₁.foldl fun _ _ => haltCommit_keeps
    exact .ite k₁ (.ite (swapAnswer_keeps (killPart_keeps k₂)) (swapAnswer_keeps (exchange_keeps k₂)))

theorem execTileRefill_keeps (k : Keeps s₀ s) : OutKeeps s₀ (execTileRefill cl n s) := Keeps.ite k.onTile k

/-! ### Event rings -/

theorem overflowRecs_keeps {x : Reporter} {l : List (Nat × Nat)} (k : Keeps s₀ s) : Keeps s₀ (overflowRecs x e l s) := by
  induction l generalizing s with
  | nil => exact k
  | cons y r ih =>
    unfold overflowRecs
    exact .ite k (ih (evWrite_keeps (setEvDie_keeps k)))

theorem pendDone_keeps (k : Keeps s₀ s) : Keeps s₀ (pendDone s part core) := .ite k k.onCoreOf

theorem flushEvents_keeps {x : Reporter} (k : Keeps s₀ s) : Keeps s₀ (flushEvents s x) := by
  unfold flushEvents
  extract_lets e _ s₁
  have k₁ : Keeps s₀ s₁ := by
    unfold s₁
    split
    · exact pendDone_keeps (evWrite_keeps (setEvDie_keeps k))
    · exact k
  exact .ite k (overflowRecs_keeps k₁)

theorem execEventRingRoom_keeps (k : Keeps s₀ s) : OutKeeps s₀ (execEventRingRoom e s) := Keeps.foldl k fun _ _ => flushEvents_keeps

/-! ### Boot -/

/-- Boot happens once, so it leaves a package that has booted as it is. -/
theorem execPowerOn_keeps {x : BootInput} (k : Keeps s₀ s) : OutKeeps s₀ (execPowerOn x s) := by
  unfold execPowerOn
  extract_lets ok cds eds
  split
  next cds eds e =>
    change Keeps s₀ _
    split
    · exact k
    · next hb =>
      refine ⟨k.1, fun b => absurd (k.2 b).1 fun hs => hb ?_⟩
      simp [hs]

theorem execDieAuthTimeout_keeps (k : Keeps s₀ s) : OutKeeps s₀ (execDieAuthTimeout d s) := Keeps.ite k k.frame

theorem execPstateCreate_keeps (k : Keeps s₀ s) : OutKeeps s₀ (execPstateCreate p s) := Keeps.ite (createPart_keeps k) k

/-! ### Host commands -/

theorem dropSwap_keeps {x : Swap} (k : Keeps s₀ s) : Keeps s₀ (dropSwap s x) :=
  k.mapCores rfl fun _ hk => by
    dsimp only
    split
    · exact hk
    · exact hk

theorem trivetReset_keeps (k : Keeps s₀ s) : Keeps s₀ (trivetReset s e) := by
  unfold trivetReset
  extract_lets s₁ s₂
  have k₁ : Keeps s₀ s₁ := k.foldl fun s x k => by
    split
    · exact .ite (hostReply_keeps (dropSwap_keeps k)) k
    · exact k
  have k₂ : Keeps s₀ s₂ := k₁.foldl fun _ _ k => .ite (hostReply_keeps k.frame) k
  exact k₂.onEdge

theorem execMgmtRegisterWrite_keeps {r : MgmtReg} {x : BitVec 64} (k : Keeps s₀ s) : OutKeeps s₀ (execMgmtRegisterWrite r x s) := by
  refine Keeps.ite k ?_
  split
  · next e => exact (mgmtWrite_keeps k).of_eq e
  · exact trivetReset_keeps k

section
variable {r : HostReq}

theorem hostCmd_keeps {t : State} (k : Keeps s₀ s) (kt : Keeps s₀ t) : OutKeeps s₀ (hostCmd r s t) :=
  Keeps.ite k (.ite (hostReply_keeps k) kt)

theorem hostDone_keeps (k : Keeps s₀ s) : Keeps s₀ (hostDone s r n) := hostReply_keeps k

theorem hostWrite_keeps {x : Word} (k : Keeps s₀ s) : Keeps s₀ (hostWrite s r n x) := by
  unfold hostWrite
  split
  · next t e =>
    have k₁ : Keeps s₀ t := (mgmtWrite_keeps k).of_eq e
    exact hostDone_keeps k₁
  · exact hostDone_keeps k

theorem execHello_keeps (k : Keeps s₀ s) : OutKeeps s₀ (execHello r s) := hostCmd_keeps k (hostReply_keeps k)

theorem execBootrpt_keeps (k : Keeps s₀ s) : OutKeeps s₀ (execBootrpt r s) := hostCmd_keeps k (.ite (hostDone_keeps k) (hostReply_keeps k))

theorem execPcreate_keeps (k : Keeps s₀ s) : OutKeeps s₀ (execPcreate r s) := by
  unfold execPcreate
  extract_lets p s₁
  have k₁ : Keeps s₀ s₁ := k.onPart
  refine hostCmd_keeps k (.ite (hostDone_keeps k) (.ite (hostDone_keeps k) ?_))
  split
  · exact hostDone_keeps (createPart_keeps k₁)
  · exact hostDone_keeps k

theorem execPswap_keeps (k : Keeps s₀ s) : OutKeeps s₀ (execPswap r s) :=
  hostCmd_keeps k (.ite (hostDone_keeps k) (.ite k (.ite (hostReply_keeps k) (startSwap_keeps k))))

theorem execPkill_keeps (k : Keeps s₀ s) : OutKeeps s₀ (execPkill r s) :=
  hostCmd_keeps k (.ite (hostDone_keeps k) (.ite k (.ite (hostDone_keeps k) (startKill_keeps k))))

theorem execPset_keeps (k : Keeps s₀ s) : OutKeeps s₀ (execPset r s) := hostCmd_keeps k (.ite (hostDone_keeps k) (hostWrite_keeps k))

theorem execTlbinv_keeps (k : Keeps s₀ s) : OutKeeps s₀ (execTlbinv r s) :=
  hostCmd_keeps k (.ite (hostDone_keeps k) (.ite (hostDone_keeps k) (hostDone_keeps (tlbInvalidate_keeps k))))

theorem execLaunch_keeps (k : Keeps s₀ s) : OutKeeps s₀ (execLaunch r s) := by
  unfold execLaunch
  extract_lets p rcb
  refine hostCmd_keeps k (.ite (hostDone_keeps k) (.ite (hostDone_keeps k) (.ite (hostDone_keeps k) ?_)))
  split
  · split
    next t code e =>
      have k₁ : Keeps s₀ t := .of_fst e (launchAt_keeps k)
      exact .ite (hostDone_keeps k₁.onPart) (hostDone_keeps k₁)
  · exact hostDone_keeps k

theorem execRkill_keeps (k : Keeps s₀ s) : OutKeeps s₀ (execRkill r s) :=
  hostCmd_keeps k (.ite (hostDone_keeps k) (.ite (hostDone_keeps k)
    (.ite (hostDone_keeps (underPart_keeps (fun _ => failRegion_keeps) k)) (hostDone_keeps k))))

theorem execPlimit_keeps (k : Keeps s₀ s) : OutKeeps s₀ (execPlimit r s) :=
  hostCmd_keeps k (.ite (hostDone_keeps k) (hostDone_keeps k.frame))

theorem execEvring_keeps (k : Keeps s₀ s) : OutKeeps s₀ (execEvring r s) :=
  hostCmd_keeps k (.ite (hostDone_keeps k) (hostDone_keeps k.onEdge))

theorem execFabset_keeps (k : Keeps s₀ s) : OutKeeps s₀ (execFabset r s) := hostCmd_keeps k (.ite (hostDone_keeps k) (hostWrite_keeps k))

theorem execLinkrst_keeps (k : Keeps s₀ s) : OutKeeps s₀ (execLinkrst r s) :=
  hostCmd_keeps k (.ite (hostDone_keeps k) (hostDone_keeps (restoreLink_keeps k)))

/-- Host memory that is written is still canonical. -/
theorem hostStore_keeps {l : List Byte} (k : Keeps s₀ s) : Keeps s₀ { s with host := mwrite s.host n l } := by
  refine k.trans ⟨fun w => ?_, fun b => ⟨b, rfl⟩⟩
  obtain ⟨hd, hh, hc⟩ := State.wf_iff.1 w
  exact State.wf_iff.2 ⟨hd, Memory.wf_mwrite _ _ hh, hc⟩

theorem deviceWrite_keeps {l : List Byte} (k : Keeps s₀ s) : Keeps s₀ (deviceWrite s n l) := by
  induction l generalizing s n with
  | nil => exact k
  | cons b r ih =>
    refine ih (k.trans ⟨fun w => ?_, fun b => ⟨b, rfl⟩⟩)
    obtain ⟨hd, hc⟩ := State.wf_iff.1 w
    exact State.wf_iff.2 ⟨Memory.wf_mset _ _ hd, hc⟩

theorem execAttest_keeps (k : Keeps s₀ s) : OutKeeps s₀ (execAttest r s) :=
  hostCmd_keeps k (.ite (hostDone_keeps k) (hostDone_keeps (hostStore_keeps k)))

theorem execCopy_keeps (k : Keeps s₀ s) : OutKeeps s₀ (execCopy r s) :=
  hostCmd_keeps k (.ite (hostDone_keeps k) (.ite (hostDone_keeps (deviceWrite_keeps k)) (hostDone_keeps (hostStore_keeps k))))

theorem execNetxfer_keeps (k : Keeps s₀ s) : OutKeeps s₀ (execNetxfer r s) :=
  hostCmd_keeps k (.ite (hostDone_keeps k) (.ite (hostDone_keeps k) k.frame))

theorem execHostBadcmd_keeps (k : Keeps s₀ s) : OutKeeps s₀ (execHostBadcmd n r s) := .ite k (hostCmd_keeps k (hostDone_keeps k))

end

theorem execUetTransferReceive_keeps {x : UetInput} (k : Keeps s₀ s) : OutKeeps s₀ (execUetTransferReceive p x s) := by
  refine Keeps.ite k ?_
  split
  · exact .ite (deviceWrite_keeps k) k
  · split
    · exact .ite k (.ite (hostDone_keeps k.frame) k.frame)
    · exact k

theorem execUnassignedWord_keeps {b : Bool} {x : BitVec 32} (k : Keeps s₀ s) : OutKeeps s₀ (execUnassignedWord b x s) := guarded_keeps k .none k

end

/-! ## What they keep: every instruction -/

section
variable {s₀ s : State}

/-! ### Every instruction -/

theorem exec_keeps {i : Instr} (k : Keeps s₀ s) : OutKeeps s₀ (exec i s) := by
  cases i
  case nopC | hintC | nopA | hintA => exact k
  case bEqz | bNez | bLtz | bGez | bGtz | bLez | bEq | bNe | bLt | bGe | bLtn | bGen => exact Keeps.ite k.branchTo k
  case j => exact k.branchTo
  case jl => exact k.branchTo.ws
  case jr => exact guarded_keeps k .none k.jump
  case jlr => exact guarded_keeps k .none k.jump.ws
  case nestClaim => exact guarded_keeps k (.orElse (nestWait_keeps k) (commitWait_keeps k)) (commitSend_keeps k)
  case nestNext => exact guarded_keeps k (nestWait_keeps k) (.ite k.wi.wi.wi.wi.onMe k)
  case leaS | leaI | li | lis | add | sub | addI32 | subI32 | and | or | xor | andn | orn | xnor | addImm | andImm |
      orImm | xorImm | shl | shrN64 | shr | rol | ror | shlI32 | shrN32 | shrI32 | shlImm | shrN64Imm | shrImm |
      rolImm | rorImm | shlI32Imm | shrN32Imm | shrI32Imm | mul | mulh | mulhN64 | mulI32 | mla | cmpEq | cmpNe |
      cmpLt | cmpLtN64 | cmpLe | cmpLeN64 | selNez | selEqz | bfxN64 | bfx | bfi | clz | ctz | popc | bswap | brev |
      min | minN64 | max | maxN64 | abs | kget | kpopc | kffs => exact k.ws
  case mfc => exact guarded_keeps k (.ite k (.ite (nestWait_keeps k) .none)) k.ws
  case mtc => exact guarded_keeps k (.orElse (waitConfirm_keeps k) (.ite (nestWait_keeps k) .none)) (.ite k.onMe (crWrite_keeps k))
  case ldL | ldLQ => exact guarded_keeps k (redWaitAt_keeps k) (issueLoad_keeps k.qualIf)
  case stL | stG | stLQ => exact guarded_keeps k (roomWait_keeps k) (issueStore_keeps k.qualIf)
  case ldS => exact guarded_keeps k (.orElse (tileWait_keeps k) (redWaitAt_keeps k)) (issueLoad_keeps k)
  case stS => exact guarded_keeps k (.orElse (tileWait_keeps k) (roomWait_keeps k)) (issueStore_keeps k)
  case ldG | ldc => exact guarded_keeps k (redWait_keeps k) (issueLoad_keeps k.qualIf)
  case ldGQ | ldGE4 | regionStat => exact guarded_keeps k (redWait_keeps k) (issueLoad_keeps k)
  case ldGW4 => exact guarded_keeps k (.orElse (redWait_keeps k) (redWait_keeps k)) (issueLoad_keeps k)
  case stGQ => exact guarded_keeps k (roomWait_keeps k) (issueStore_keeps k)
  case rocInv => exact guarded_keeps k (.ite k .none) (rocInvAt_keeps k)
  case tileClaim => exact guarded_keeps k (.orElse (waitConfirm_keeps k) (refillWait_keeps k)) (.ite (claimTile_keeps k).onMe.ws k.ws)
  case tileFree | tileFill | tileReady | tileDrop => exact tileChange_keeps k
  case tileStat | actInfo | fabSlot | fabPeer | fabCtr => exact guarded_keeps k .none k.ws
  case clean => exact guarded_keeps k (.ite .none (roomWait_keeps k)) (.ite k (rbAppend_keeps k))
  case upResume => exact guarded_keeps k (waitConfirm_keeps k) (.ite (enqueue_keeps (k.onCC fun _ => Core.wf_lsPoke _ _)) k)
  case cpCopy | cpGather | cpScatter | cpFill | cpMcast | cpWalk | cpCow => exact cpIssue_keeps k
  case atomAdd | atomSwap | atomCas | atomAnd | atomOr | atomXor | atomMin | atomMax => exact atomIssue_keeps k
  case redAdd | redAnd | redOr | redXor | redMin | redMax => exact redIssue_keeps k
  case fence | fenceEng | fenceMx | fenceRoc | fenceFull => exact fenceForm_keeps k
  case sendR | sendA | sendAny => exact sendForm_keeps k
  case actMigrate => exact guarded_keeps k (migrateWait_keeps k) (.ite (commitAt_keeps k) (migrate_keeps k))
  case barArrive | barArriveNb => exact arriveForm_keeps k
  case barFree | launchTrig | potClose | potSeal | potExp | potReset => exact guarded_keeps k (roomWait_keeps k) (rbAppend_keeps k)
  case regionLaunch | regionKill => exact guarded_keeps k (roomWait_keeps k) (probeBlock_keeps (rbAppend_keeps k))
  case regionLaunchEarly => exact guarded_keeps k (roomWait_keeps k) (probeBlock_keeps (probeBlock_keeps (rbAppend_keeps k)))
  case fabPf => exact guarded_keeps k .none (prefetch_keeps k)
  case potRead | potReadSeal => exact potReadForm_keeps k
  case qdOpen | reelOpen => exact gangLaunch_keeps k
  case trap => exact guarded_keeps k (waitConfirm_keeps k) (.ite k.warn (trapMe_keeps k))
  case eret => exact guarded_keeps k .none (eretTo_keeps k).onMe.onCC
  case addsI64 | addsN64 | subsI64 | subsN64 | mulsI64 | abss => exact k.wsF
  case kand | kor | kxor | kandn | knot | kset => exact k.wk
  case vbcast | vbsl | vtbl | vzlo | vzhi | vuzev | vuzod | vrev | vdup => exact k.lanes
  case vins => exact k.qualIf.lanes
  case vextI | vextN => exact k.qualIf.ws
  case vadd | vsub | vmul | vabs | vand | vor | vxor | vandn | vorn | vxnor | vmov | vshl | vshrN | vshrI | vrol |
      vror | vminI | vminN | vmaxI | vmaxN => exact k.vop
  case vaddsI | vaddsN | vsubsI | vsubsN => exact k.vsat
  case vcmpEq | vcmpLtI | vcmpLtN | vcmpNe => exact k.vcmpI
  case vaddF32 | vsubF32 | vmulF32 | vfmaF32 | vfnmaF32 | vaddBf16 | vsubBf16 | vmulBf16 | vfmaBf16 | vfnmaBf16 => exact k.vfp
  case vminF32 | vmaxF32 | vminBf16 | vmaxBf16 => exact k.qualIf.vfp
  case vcmpF32 | vcmpBf16 => exact k.vcmpFp
  case vrsumInt | vrminI | vrminN | vrmaxI | vrmaxN => exact k.wlow
  case vrsumBf16 | vrsumF32 | vrmaxF32 | vrminF32 => exact k.wlow.orFlags
  case vdotI8 | vdotN8 | vdotI16 => exact k.vdotI
  case vdotBf16 | vdotE4m3 | vdotE5m2 => exact k.vdotF
  case vcvtBf16F32 | vcvtE4m3F32 | vcvtE5m2F32 | vcvtI16I32 | vcvtI8I16 => exact k.qualIf.narrowTo
  case vcvtF32Bf16 | vcvtF32E4m3 | vcvtF32E5m2 | vcvtI32F32 | vcvtN32F32 | vcvtF32I32 | vcvtF32N32 | vcvtI32I16 |
      vcvtI16I8 => exact k.qualIf.convAll
  case vsfuExp2 | vsfuLog2 | vsfuRcp | vsfuRsqrt | vsfuSqrt | vsfuSinpi | vsfuCospi | vsfuTanh | vsfuSigm => exact k.vsfu
  case vaddF32S | vsubF32S | vmulF32S | vfmaF32S | vminF32S | vmaxF32S => exact k.vfps
  case vaddI32S | vsubI32S | vmulI32S | vshlN32S | vshrN32S | vshrI32S => exact k.vops
  case mxMmaE4m3 | mxMmaE5m2 | mxMmxE4m3 | mxMmxE5m2 | mxMmaI8 | mxMmaBf16 | mxCmmaBf16 => exact mmaIssue_keeps k
  case mxProm | mxPromU | mxAzero | mxStat | mxDrop => exact mxIssue_keeps k
  case mxLd | mxLd2 | mxLdt | mxAstF32 | mxAstBf16 | mxAldF32 => exact opndIssue_keeps k
  case mxLdwQ4 | mxLdwE4m3 => exact ldwIssue_keeps k
  case mxSync => exact guarded_keeps k (waitConfirm_keeps k) k.onMe
  case stepTrap => exact stepTrapAt_keeps k
  case dramBurst => exact k.onEdge
  case nearRecall => exact nearRecall_keeps k
  case priorityAgeing | runQueueReport => exact k.onCore
  case linkRestore => exact restoreLink_keeps k
  case flagsWrite => exact execFlagsWrite_keeps k
  case cpWait => exact execCpWait_keeps k
  case cpPoll => exact execCpPoll_keeps k
  case cpCancel => exact execCpCancel_keeps k
  case waitAny => exact execWaitAny_keeps k
  case actEnd => exact execActEnd_keeps k
  case actFail => exact execActFail_keeps k
  case barInit => exact execBarInit_keeps k
  case barWait => exact execBarWait_keeps k
  case fabWait => exact execFabWait_keeps k
  case potPost => exact execPotPost_keeps k
  case potOpen => exact execPotOpen_keeps k
  case potStat => exact execPotStat_keeps k
  case qdDetach => exact execQdDetach_keeps k
  case qdExit => exact execQdExit_keeps k
  case qdStat => exact execQdStat_keeps k
  case reelScore => exact execReelScore_keeps k
  case reelDone => exact execReelDone_keeps k
  case reelSync => exact execReelSync_keeps k
  case reelStat => exact execReelStat_keeps k
  case leave => exact execLeave_keeps k
  case sysTlbinv => exact execSysTlbinv_keeps k
  case sysMrd => exact execSysMrd_keeps k
  case sysMwr => exact execSysMwr_keeps k
  case sysSwap => exact execSysSwap_keeps k
  case sysKill => exact execSysKill_keeps k
  case sysEvt => exact execSysEvt_keeps k
  case accessConfirm => exact execAccessConfirm_keeps k
  case lateFault => exact execLateFault_keeps k
  case pageUpcall => exact execPageUpcall_keeps k
  case loadPerform => exact execLoadPerform_keeps k
  case pageWalk => exact execPageWalk_keeps k
  case storePerform => exact execStorePerform_keeps k
  case watchArm => exact execWatchArm_keeps k
  case waitAnyTimeout => exact execWaitAnyTimeout_keeps k
  case atomicPerform => exact execAtomicPerform_keeps k
  case atomicReply => exact execAtomicReply_keeps k
  case nearOwnershipGrant => exact execNearOwnershipGrant_keeps k
  case cleanPerform => exact execCleanPerform_keeps k
  case hotnessSample => exact execHotnessSample_keeps k
  case detectedError => exact execDetectedError_keeps k
  case watchdogExpiry => exact execWatchdogExpiry_keeps k
  case retryRestart => exact execRetryRestart_keeps k
  case messageRelease => exact execMessageRelease_keeps k
  case messageLand => exact execMessageLand_keeps k
  case messageRetry => exact execMessageRetry_keeps k
  case dispatch => exact execDispatch_keeps k
  case preemption => exact execPreemption_keeps k
  case issueWaitPark => exact execIssueWaitPark_keeps k
  case activationWake => exact execActivationWake_keeps k
  case launchPerform => exact execLaunchPerform_keeps k
  case launchTrigger => exact execLaunchTrigger_keeps k
  case regionKillPerform => exact execRegionKillPerform_keeps k
  case regionComplete => exact execRegionComplete_keeps k
  case barrierArrival => exact execBarrierArrival_keeps k
  case cpStart => exact execCpStart_keeps k
  case cpComplete => exact execCpComplete_keeps k
  case cpCancelStop => exact execCpCancelStop_keeps k
  case mxRequestStart => exact execMxRequestStart_keeps k
  case mxRequestComplete => exact execMxRequestComplete_keeps k
  case mxStateCopy => exact execMxStateCopy_keeps k
  case governorWindow => exact execGovernorWindow_keeps k
  case potPostPerform => exact execPotPostPerform_keeps k
  case potReadPerform => exact execPotReadPerform_keeps k
  case potReadLimit => exact execPotReadLimit_keeps k
  case potReadResend => exact execPotReadResend_keeps k
  case potReadReply => exact execPotReadReply_keeps k
  case fabricSlotStart => exact execFabricSlotStart_keeps k
  case guardEnd => exact execGuardEnd_keeps k
  case flitBoundary => exact execFlitBoundary_keeps k
  case flitReceive => exact execFlitReceive_keeps k
  case nak => exact execNak_keeps k
  case linkRetrain => exact execLinkRetrain_keeps k
  case linkRetrainEnd => exact execLinkRetrainEnd_keeps k
  case leakyBucketDecay => exact execLeakyBucketDecay_keeps k
  case laneErrorWindow => exact execLaneErrorWindow_keeps k
  case laneRetrainEnd => exact execLaneRetrainEnd_keeps k
  case linkUp => exact execLinkUp_keeps k
  case remoteRequestTimeout => exact execRemoteRequestTimeout_keeps k
  case proxyLineReply => exact execProxyLineReply_keeps k
  case homeRemoteRequest => exact execHomeRemoteRequest_keeps k
  case homeInvalidate => exact execHomeInvalidate_keeps k
  case postTrainTimeout => exact execPostTrainTimeout_keeps k
  case fabWaitTimeout => exact execFabWaitTimeout_keeps k
  case qdAdmission => exact execQdAdmission_keeps k
  case windowAccess => exact execWindowAccess_keeps k
  case allowanceExhausted => exact execAllowanceExhausted_keeps k
  case roundTimeout => exact execRoundTimeout_keeps k
  case roundEnd => exact execRoundEnd_keeps k
  case tileRefill => exact execTileRefill_keeps k
  case eventRingRoom => exact execEventRingRoom_keeps k
  case powerOn => exact execPowerOn_keeps k
  case dieAuthTimeout => exact execDieAuthTimeout_keeps k
  case pstateCreate => exact execPstateCreate_keeps k
  case mgmtRegisterWrite => exact execMgmtRegisterWrite_keeps k
  case hello => exact execHello_keeps k
  case bootrpt => exact execBootrpt_keeps k
  case pcreate => exact execPcreate_keeps k
  case pswap => exact execPswap_keeps k
  case pkill => exact execPkill_keeps k
  case pset => exact execPset_keeps k
  case tlbinv => exact execTlbinv_keeps k
  case launch => exact execLaunch_keeps k
  case rkill => exact execRkill_keeps k
  case plimit => exact execPlimit_keeps k
  case evring => exact execEvring_keeps k
  case fabset => exact execFabset_keeps k
  case linkrst => exact execLinkrst_keeps k
  case attest => exact execAttest_keeps k
  case copy => exact execCopy_keeps k
  case netxfer => exact execNetxfer_keeps k
  case hostBadcmd => exact execHostBadcmd_keeps k
  case unassignedWord => exact execUnassignedWord_keeps k
  case uetTransferReceive => exact execUetTransferReceive_keeps k
  case swapRestoreDone => exact execSwapRestoreDone_keeps k

end

/-! ## What they keep: bundles, moves and steps -/

section
variable {s₀ s : State} {core ctx part va pc x : Nat} {i : Instr} {b : Bundle} {w : BitVec 64}

/-! ### Fetching and issuing a bundle -/

theorem andThen_keeps {o : Out} {f : State → Out} (k : OutKeeps s₀ o) (hf : ∀ t, Keeps s₀ t → OutKeeps s₀ (f t)) :
    OutKeeps s₀ (andThen o f) := by
  cases o with
  | next t => exact hf t k
  | fault => trivial
  | refused => trivial

/-- `Keeps` of the state that a fetch leaves. -/
def FetchKeeps (s : State) : Fetch → Prop
  | .wait t => Keeps s t
  | .fault t _ _ _ => Keeps s t
  | .ok t _ => Keeps s t

theorem FetchKeeps.of_eq {a b : Fetch} (h : FetchKeeps s₀ a) (e : a = b) : FetchKeeps s₀ b := e ▸ h

theorem FetchKeeps.ite {p : Prop} [Decidable p] {a b : Fetch} (h : FetchKeeps s₀ a) (g : FetchKeeps s₀ b) :
    FetchKeeps s₀ (if p then a else b) := by
  split
  · exact h
  · exact g

theorem fetchHome_keeps {err : Bool} (k : Keeps s₀ s) : FetchKeeps s₀ (fetchHome s core part pc err) := by
  unfold fetchHome
  split
  · exact k
  · exact walkedTake_keeps k
  · split
    · next e => exact .ite k ((homeWait_keeps k).of_some e)
    · have k₁ : Keeps s₀ (countReq (tlbTouch s part pc) part pc core 6) := countReq_keeps (tlbTouch_keeps k)
      refine .ite (memErr_keeps k₁) ?_
      split
      next t l e =>
        have k₂ : Keeps s₀ t := .of_fst e (homeRead_keeps k₁)
        exact k₂.onCore

theorem fetch_keeps {err : Bool} (k : Keeps s₀ s) : FetchKeeps s₀ (fetch s core part pc err) := by
  unfold fetch
  split
  · split
    · exact .ite k.used (fetchHome_keeps k.used)
    · exact fetchHome_keeps k
  · exact k

theorem Keeps.setPhase {x : Phase} (k : Keeps s₀ s) : Keeps s₀ { s with phase := x } := k.frame

theorem waitTick_keeps {l : Bool} (k : Keeps s₀ s) : Keeps s₀ (waitTick core l s) := k.onCore.setPhase

theorem holdBundle_keeps (k : Keeps s₀ s) : Keeps s₀ (holdBundle core s) := waitTick_keeps (stall_keeps k)

theorem pace_keeps (k : Keeps s₀ s) : Keeps s₀ (pace core b s) := by
  unfold pace
  extract_lets n t
  have kt : Keeps s₀ t := k.onCore
  clear_value t
  exact kt.frame

theorem latchRegs_keeps {l : List Reg} {p q : List FixedPend} {g : Regs} (k : Keeps s₀ s) : Keeps s₀ (latchRegs l p (s, g, q)).1 := by
  induction p generalizing s g q with
  | nil => exact k
  | cons f r ih =>
    unfold latchRegs
    split
    · exact ih k.used
    · exact ih k

theorem latchBundle_keeps (k : Keeps s₀ s) : Keeps s₀ (latchBundle core w b s) := by
  unfold latchBundle
  extract_lets c regs
  split
  next t g l e =>
    have k₁ : Keeps s₀ t := .of_fst e (latchRegs_keeps k)
    exact k₁.onCore fun _ => Core.wf_onRun

theorem noteFixed_keeps {l : List Reg} (k : Keeps s₀ s) : Keeps s₀ (noteFixed core i l s) := by
  unfold noteFixed
  split
  · exact k
  · refine k.onCore fun c hc => ?_
    split
    · exact hc
    · exact hc

theorem midBundle_keeps {t : State} (k : Keeps s₀ s) : Keeps s₀ (midBundle core b t s) := by
  unfold midBundle
  extract_lets f old c
  refine (noteFixed_keeps (k.onCore fun q hq => ?_)).warn
  extract_lets r
  have hr : r.wf = true := Core.wf_onRun hq
  exact hr

theorem warnA_keeps {a : Act} {t : State} (k : Keeps s₀ s) : Keeps s₀ (warnA core a t s) := k.onCore fun _ => Core.wf_warnCore

theorem dualFix_keeps {a : Act} (k : Keeps s₀ s) : Keeps s₀ (dualFix core b a s) := by
  unfold dualFix
  extract_lets s₁
  have k₁ : Keeps s₀ s₁ := k.onActAll.onCore
  clear_value s₁
  exact .ite k (.onCore (.frame k₁) fun _ => Core.wf_warnCore)

theorem noteUndo_keeps {a : Act} {o : Bool} (k : Keeps s₀ s) : OptKeeps s₀ (noteUndo core b a o s) := by
  unfold noteUndo
  refine .ite k ?_
  split
  · exact k
  · exact .ite .none k.onCore

theorem closeBundle_keeps {a : Act} (k : Keeps s₀ s) : Keeps s₀ (closeBundle core b a s) := by
  unfold closeBundle
  extract_lets step taken n s₁
  have k₁ : Keeps s₀ s₁ := k.onCore
  clear_value s₁
  exact k₁.frame

theorem aloneA_keeps (k : Keeps s₀ s) : Keeps s₀ (aloneA s) := k.onMe.setPhase

theorem goBundle_keeps (k : Keeps s₀ s) : OutKeeps s₀ (goBundle core b s) := by
  unfold goBundle
  extract_lets a
  refine andThen_keeps (exec_keeps (aloneA_keeps k)) fun sa ka => ?_
  extract_lets m was
  have km : Keeps s₀ m := midBundle_keeps ka
  clear_value m
  refine andThen_keeps (exec_keeps km.frame) fun t kt => ?_
  extract_lets t₁
  have k₁ : Keeps s₀ t₁ := noteFixed_keeps (dualFix_keeps (warnA_keeps kt))
  split
  · exact holdBundle_keeps k
  · next u e =>
    have ku : Keeps s₀ u := (noteUndo_keeps k₁).of_some e
    exact closeBundle_keeps ku

theorem trapBundle_keeps {x : Word} (k : Keeps s₀ s) : OutKeeps s₀ (trapBundle core i x s) :=
  .ite (holdBundle_keeps k) (andThen_keeps (exec_keeps k.warn.onMe) fun _ kt => kt.onCore.setPhase)

theorem waitBundle_keeps (k : Keeps s₀ s) : OutKeeps s₀ (waitBundle core i s) :=
  andThen_keeps (exec_keeps k) fun _ => waitTick_keeps

theorem shortTrap_keeps {aw : Bool} {y : Reg × Nat} (k : Keeps s₀ s) : Keeps s₀ (shortTrap core b aw y s) :=
  .ite (holdBundle_keeps k) (waitTick_keeps (trapMe_keeps k.onMe.warn))

theorem issueWords_keeps (k : Keeps s₀ s) : OutKeeps s₀ (issueWords core w b s) := by
  unfold issueWords
  split
  · exact holdBundle_keeps k
  · split
    · exact (pace_keeps k).onCore.setPhase
    · extract_lets s₁ c _ s₂
      have k₁ : Keeps s₀ s₁ := pace_keeps k
      have k₂ : Keeps s₀ s₂ := latchBundle_keeps k₁
      clear_value s₂
      split
      · exact shortTrap_keeps k₁.onCore.setPhase
      · split
        · exact trapBundle_keeps k₂
        · exact trapBundle_keeps k₂
        · exact waitBundle_keeps k₂
        · exact waitBundle_keeps k₂
        · exact goBundle_keeps k₂

theorem issueBits_keeps (k : Keeps s₀ s) : OutKeeps s₀ (issueBits core w s) := by
  unfold issueBits
  split
  · exact issueWords_keeps k
  · exact trapBundle_keeps k.onCore

theorem fetchFault_keeps {c l : Nat} {late : Bool} (k : Keeps s₀ s) : Keeps s₀ (fetchFault s core x c l late) := by
  unfold fetchFault
  extract_lets a t
  refine .ite (holdBundle_keeps k) (.ite (.ite ?_ (faultDomain_keeps k)) (waitTick_keeps (trapEntry_keeps k.onCore)))
  split
  · next e =>
    have k₁ := (commitWait_keeps k).of_some e
    exact holdBundle_keeps k₁
  · exact pagePark_keeps k

theorem issueBundle_keeps {err : Bool} (k : Keeps s₀ s) : OutKeeps s₀ (issueBundle core s err) := by
  unfold issueBundle
  refine .ite trivial ?_
  extract_lets s₁
  have k₁ : Keeps s₀ s₁ := k.frame
  clear_value s₁
  split
  · exact k₁
  · refine .ite (stepTrapAt_keeps k₁) (.ite k₁ ?_)
    split
    · next e =>
      have k₂ := (fetch_keeps k₁.frame).of_eq e
      exact holdBundle_keeps k₂
    · next e =>
      have k₂ := (fetch_keeps k₁.frame).of_eq e
      exact fetchFault_keeps k₂
    · next e =>
      have k₂ := (fetch_keeps k₁.frame).of_eq e
      exact issueBits_keeps k₂

/-! ### Moves and steps -/

theorem runMove_keeps {m : Move} (k : Keeps s₀ s) : OutKeeps s₀ (runMove m s) := by
  cases m with
  | issue => exact issueBundle_keeps k
  | issueErr => exact issueBundle_keeps k
  | image => exact imageLaunch_keeps k.frame
  | event => exact .ite k (exec_keeps k.frame)

theorem freeMove_keeps (k : Keeps s₀ s) : OutKeeps s₀ (freeMove s) := by
  unfold freeMove
  extract_lets l n s₁
  have k₁ : Keeps s₀ s₁ := k.frame
  clear_value s₁
  split
  · exact .ite (runMove_keeps k₁) (askOwed_keeps k₁)
  · exact k₁.frame

theorem settleMove_keeps {m : Move} {l : List Move} {o : Out} (k : Keeps s₀ s) (ko : OutKeeps s₀ o) : OutKeeps s₀ (settleMove m l s o) := by
  unfold settleMove
  refine .ite ko ?_
  extract_lets s₁ front back
  have k₁ : Keeps s₀ s₁ := askOwed_keeps k
  clear_value s₁
  exact .ite k₁ (.ite (freeMove_keeps k₁.frame) k₁.frame)

/-- Whatever step is made, canonical memories stay canonical, and a package that has booted stays as boot found it. -/
theorem step_keeps : OutKeeps s (step s) := by
  have k : Keeps s s := .refl s
  unfold step
  split
  · have k₁ : Keeps s { s with agenda := _ } := k.frame
    exact .ite (freeMove_keeps k) (settleMove_keeps k₁ (runMove_keeps k₁))
  · exact freeMove_keeps k

end

end Sys2Proof.Machine
end

section
/-! PROOFS. The canonical form of memory is kept. -/

namespace Sys2Proof.Machine

/-- Settles O59: the step keeps the memories canonical by `step_keeps`, which goes through what every move may do. -/
theorem memoryStaysCanonical : Obligations.MemoryStaysCanonical := by
  unfold Obligations.MemoryStaysCanonical
  intro s t hs e
  have k : OutKeeps s (step s) := step_keeps
  rw [e] at k
  exact k.1 hs

end Sys2Proof.Machine
end

section
/-! SUPPORT. What the decoder answers has a word of its own, and the words of an instruction decode to it: the tables of
02 R41-R48 read in both directions. -/

namespace Sys2Proof.Laws

/-! ### From an instruction to its body and back -/

/-- The body of every well-formed instruction decodes to that instruction: the lemma of each constructor, in the order of the type. -/
theorem Encoding.statement (i : Instr) : Encoding.Statement i :=
  Instr.casesOn (motive := Encoding.Statement) i
    nopC bEqz bNez bLtz bGez bGtz bLez bEq bNe bLt bGe bLtn bGen j jl jr jlr nestClaim nestNext leaS leaI li lis mfc mtc flagsWrite ldL stL ldS stS
    ldG stG ldLQ ldGQ ldGW4 ldGE4 stLQ stGQ ldc rocInv tileClaim tileFree tileFill tileReady tileDrop tileStat clean upResume cpCopy cpGather
    cpScatter cpFill cpMcast cpWalk cpCow cpWait cpPoll cpCancel atomAdd atomSwap atomCas atomAnd atomOr atomXor atomMin atomMax redAdd redAnd redOr
    redXor redMin redMax waitAny fence fenceEng fenceMx fenceRoc fenceFull sendR sendA sendAny actEnd actMigrate actFail actInfo barInit barArrive
    barArriveNb barWait barFree regionLaunch regionLaunchEarly regionKill regionStat launchTrig fabPf fabSlot fabPeer fabCtr fabWait potPost potRead
    potReadSeal potOpen potClose potStat potSeal potExp potReset qdOpen qdDetach qdExit qdStat reelOpen reelScore reelDone reelSync reelStat trap
    eret leave sysTlbinv sysMrd sysMwr sysSwap sysKill sysEvt hintC nopA add sub addI32 subI32 addsI64 addsN64 subsI64 subsN64 and or xor andn orn
    xnor addImm andImm orImm xorImm shl shrN64 shr rol ror shlI32 shrN32 shrI32 shlImm shrN64Imm shrImm rolImm rorImm shlI32Imm shrN32Imm shrI32Imm
    mul mulh mulhN64 mulI32 mla mulsI64 cmpEq cmpNe cmpLt cmpLtN64 cmpLe cmpLeN64 selNez selEqz bfxN64 bfx bfi clz ctz popc bswap brev min minN64 max
    maxN64 abs abss kand kor kxor kandn knot kset kget kpopc kffs vbcast vins vextI vextN vadd vsub vaddsI vaddsN vsubsI vsubsN vmul vabs vand vor
    vxor vandn vorn vxnor vbsl vmov vshl vshrN vshrI vrol vror vcmpEq vcmpLtI vcmpLtN vminI vminN vmaxI vmaxN vcmpNe vaddF32 vsubF32 vmulF32 vfmaF32
    vfnmaF32 vminF32 vmaxF32 vcmpF32 vtbl vzlo vzhi vuzev vuzod vrev vdup vrsumInt vrminI vrminN vrmaxI vrmaxN vrsumBf16 vrsumF32 vrmaxF32 vrminF32
    vdotI8 vdotN8 vdotI16 vdotBf16 vdotE4m3 vdotE5m2 vcvtBf16F32 vcvtF32Bf16 vcvtE4m3F32 vcvtE5m2F32 vcvtF32E4m3 vcvtF32E5m2 vcvtI32F32 vcvtN32F32
    vcvtF32I32 vcvtF32N32 vcvtI16I32 vcvtI8I16 vcvtI32I16 vcvtI16I8 vsfuExp2 vsfuLog2 vsfuRcp vsfuRsqrt vsfuSqrt vsfuSinpi vsfuCospi vsfuTanh
    vsfuSigm vaddF32S vsubF32S vmulF32S vfmaF32S vaddI32S vsubI32S vmulI32S vshlN32S vshrN32S vshrI32S vminF32S vmaxF32S vaddBf16 vsubBf16 vmulBf16
    vfmaBf16 vfnmaBf16 vminBf16 vmaxBf16 vcmpBf16 mxMmaE4m3 mxMmaE5m2 mxMmxE4m3 mxMmxE5m2 mxMmaI8 mxMmaBf16 mxCmmaBf16 mxProm mxPromU mxLd mxLd2
    mxLdwQ4 mxLdwE4m3 mxLdt mxAstF32 mxAstBf16 mxAldF32 mxAzero mxSync mxStat mxDrop hintA stepTrap accessConfirm lateFault pageUpcall loadPerform
    pageWalk dramBurst storePerform watchArm waitAnyTimeout atomicPerform atomicReply nearOwnershipGrant nearRecall cleanPerform hotnessSample
    detectedError watchdogExpiry retryRestart messageRelease messageLand messageRetry dispatch preemption priorityAgeing runQueueReport issueWaitPark
    activationWake launchPerform launchTrigger regionKillPerform regionComplete barrierArrival cpStart cpComplete cpCancelStop mxRequestStart
    mxRequestComplete mxStateCopy governorWindow potPostPerform potReadPerform potReadLimit potReadResend potReadReply fabricSlotStart guardEnd
    flitBoundary flitReceive nak linkRetrain linkRetrainEnd leakyBucketDecay laneErrorWindow laneRetrainEnd linkUp remoteRequestTimeout
    proxyLineReply homeRemoteRequest homeInvalidate postTrainTimeout fabWaitTimeout qdAdmission windowAccess allowanceExhausted roundTimeout roundEnd
    tileRefill eventRingRoom powerOn dieAuthTimeout pstateCreate linkRestore mgmtRegisterWrite hello bootrpt pcreate pswap pkill pset tlbinv launch
    rkill plimit evring fabset linkrst attest copy netxfer hostBadcmd unassignedWord uetTransferReceive swapRestoreDone

/-! ### What decodes has a body (R43, R48) -/

/-- An instruction that a decoder answers is well formed and has a body in the slot of the encoder `enc`. -/
def Encoding.Encodable {n : Nat} (enc : Instr → Option (BitVec n)) (o : Option Instr) : Bool := o.all fun i => i.wf && (enc i).isSome

theorem Encoding.encodable_assigned {n : Nat} {enc : Instr → Option (BitVec n)} {i : Instr} (h : (enc i).isSome = true) :
    Encoding.Encodable enc (assigned i) = true := by
  unfold assigned
  split
  next hw => simp [Encoding.Encodable, hw, h]
  next => rfl

theorem Encoding.encodable_bind {n : Nat} {enc : Instr → Option (BitVec n)} {α : Type} {o : Option α} {f : α → Option Instr}
    (h : ∀ a, Encoding.Encodable enc (f a) = true) : Encoding.Encodable enc (o.bind f) = true := by
  cases o with
  | none => rfl
  | some a => exact h a

/-- Well-formedness and a body, of an instruction that was decoded. -/
theorem Encoding.wf_and_body_of_encodable {n : Nat} {enc : Instr → Option (BitVec n)} {o : Option Instr} {i : Instr}
    (h : Encoding.Encodable enc o = true) (ho : o = some i) : i.wf = true ∧ ∃ y, enc i = some y := by
  subst ho
  simpa [Encoding.Encodable, Option.isSome_iff_exists] using h

theorem Encoding.decC08_encodable (x : BitVec 28) : Encoding.Encodable encodeCBody (decC08 x) = true := by
  simp only [decC08]; split
  iterate 4 · rfl
  iterate 4 · exact encodable_bind fun _ => rfl
  · rfl

theorem Encoding.decC0B_encodable (x : BitVec 28) : Encoding.Encodable encodeCBody (decC0B x) = true := by
  simp only [decC0B]; split
  iterate 2 · exact encodable_assigned rfl
  · rfl

theorem Encoding.decC16_encodable (x : BitVec 28) : Encoding.Encodable encodeCBody (decC16 x) = true := by
  simp only [decC16]; split
  iterate 2 · exact encodable_bind fun _ => rfl
  · exact encodable_bind fun _ => encodable_assigned rfl
  · exact encodable_bind fun _ => rfl
  · rfl

theorem Encoding.decC17_encodable (x : BitVec 28) : Encoding.Encodable encodeCBody (decC17 x) = true := by
  simp only [decC17]; split
  iterate 2 · exact encodable_bind fun _ => rfl
  · rfl

theorem Encoding.decC1C_encodable (x : BitVec 28) : Encoding.Encodable encodeCBody (decC1C x) = true := by
  simp only [decC1C]; split
  iterate 8 · exact encodable_assigned rfl
  · rfl

theorem Encoding.decC1D_encodable (x : BitVec 28) : Encoding.Encodable encodeCBody (decC1D x) = true := by
  simp only [decC1D]; split
  iterate 6 · exact encodable_assigned rfl
  · rfl

theorem Encoding.decC1F_encodable (x : BitVec 28) : Encoding.Encodable encodeCBody (decC1F x) = true := by
  simp only [decC1F]; split
  iterate 5 · exact encodable_assigned rfl
  · rfl

theorem Encoding.decodeCBody_encodable (x : BitVec 28) : Encoding.Encodable encodeCBody (decodeCBody x) = true := by
  unfold decodeCBody
  split
  · rfl
  · simp only [decC01]; split <;> rfl
  · simp only [decC02]; split <;> rfl
  · rfl
  · rfl
  · simp only [decC05]; split <;> rfl
  · simp only [decC06]; split <;> rfl
  · exact decC08_encodable x
  · rfl
  · rfl
  · exact decC0B_encodable x
  · rfl
  · rfl
  · rfl
  · rfl
  · rfl
  · rfl
  · exact decC16_encodable x
  · exact decC17_encodable x
  · simp only [decC18]; split <;> rfl
  · simp only [decC19]; split <;> rfl
  · simp only [decC1A]; split <;> rfl
  · simp only [decC1B]; split <;> rfl
  · exact decC1C_encodable x
  · exact decC1D_encodable x
  · simp only [decC1E]; split <;> rfl
  · exact decC1F_encodable x
  · simp only [decC20]; split <;> rfl
  · simp only [decC21]; split <;> rfl
  · simp only [decC22]; split <;> rfl
  · simp only [decC23]; split <;> rfl
  · simp only [decC24]; split <;> rfl
  · simp only [decC25]; split <;> rfl
  · simp only [decC26]; split <;> rfl
  · simp only [decC27]; split <;> rfl
  · simp only [decC38]; split <;> rfl
  · simp only [decC39]; split <;> rfl
  · simp only [decC3A]; split <;> rfl
  · rfl
  · rfl
  · rfl

theorem Encoding.decA03_encodable (x : BitVec 29) : Encoding.Encodable encodeABody (decA03 x) = true := by
  simp only [decA03]; split
  iterate 13 · rfl
  iterate 3 · exact encodable_assigned rfl
  · rfl

theorem Encoding.decA08_encodable (x : BitVec 29) : Encoding.Encodable encodeABody (decA08 x) = true := by
  simp only [decA08]; split
  iterate 4 · exact encodable_bind fun _ => encodable_bind fun _ => encodable_bind fun _ => rfl
  · exact encodable_bind fun _ => encodable_bind fun _ => rfl
  iterate 4 · exact encodable_bind fun _ => rfl
  · rfl

theorem Encoding.decA09_encodable (x : BitVec 29) : Encoding.Encodable encodeABody (decA09 x) = true := by
  simp only [decA09]; split
  iterate 4 · rfl
  iterate 12 · exact encodable_assigned rfl
  · rfl

theorem Encoding.decA13_encodable (x : BitVec 29) : Encoding.Encodable encodeABody (decA13 x) = true := by
  simp only [decA13]; split
  iterate 12 · exact encodable_bind fun _ => rfl
  iterate 16 · rfl
  iterate 4 · exact encodable_bind fun _ => rfl
  · rfl

theorem Encoding.decA14_encodable (x : BitVec 29) : Encoding.Encodable encodeABody (decA14 x) = true := by
  simp only [decA14]; split
  iterate 7 · rfl
  · exact encodable_bind fun _ => rfl
  · rfl

theorem Encoding.decA1B_encodable (x : BitVec 29) : Encoding.Encodable encodeABody (decA1B x) = true := by
  simp only [decA1B]; split
  iterate 7 · rfl
  · exact encodable_bind fun _ => rfl
  · rfl

theorem Encoding.decA18_encodable (x : BitVec 29) : Encoding.Encodable encodeABody (decA18 x) = true := by
  simp only [decA18]; split
  · rfl
  split <;> rfl

theorem Encoding.decA20_encodable (x : BitVec 29) : Encoding.Encodable encodeABody (decA20 x) = true := by
  simp only [decA20]; split
  iterate 5 · rfl
  iterate 2 · exact encodable_assigned rfl
  · rfl

theorem Encoding.decA22_encodable (x : BitVec 29) : Encoding.Encodable encodeABody (decA22 x) = true := by
  simp only [decA22]; split
  · rfl
  · exact encodable_assigned rfl
  iterate 4 · rfl

theorem Encoding.decodeABody_encodable (x : BitVec 29) : Encoding.Encodable encodeABody (decodeABody x) = true := by
  unfold decodeABody
  split
  · rfl
  · simp only [decA01]; split <;> rfl
  · simp only [decA02]; split <;> rfl
  · exact decA03_encodable x
  · simp only [decA04]; split <;> rfl
  · simp only [decA05]; split <;> rfl
  · simp only [decA06]; split <;> rfl
  · simp only [decA07]; split <;> rfl
  · exact decA08_encodable x
  · exact decA09_encodable x
  · simp only [decA10]; split <;> rfl
  · simp only [decA11]; split <;> rfl
  · simp only [decA12]; split <;> rfl
  · exact decA13_encodable x
  · exact decA14_encodable x
  · exact decA1B_encodable x
  · simp only [decA15]; split <;> rfl
  · simp only [decA16]; split <;> rfl
  · simp only [decA17]; split <;> rfl
  · exact decA18_encodable x
  · simp only [decA19]; split <;> rfl
  · simp only [decA1A]; split <;> rfl
  · exact decA20_encodable x
  · simp only [decA21]; split <;> rfl
  · exact decA22_encodable x
  · simp only [decA23]; split <;> rfl
  · simp only [decA24]; split <;> rfl
  · rfl
  · rfl
  · rfl

/-! ### Words (Tables 2.1, 2.2) -/

theorem cWord_fields (lone : Bool) (wait : BitVec 3) (x : BitVec 28) :
    (cWord lone wait x).getLsbD 31 = lone ∧ (cWord lone wait x).extractLsb' 28 3 = wait ∧ (cWord lone wait x).extractLsb' 0 28 = x := by
  refine ⟨?_, ?_, ?_⟩
  · simp only [cWord, BitVec.getLsbD_append]
    cases lone <;> rfl
  · show BitVec.extractLsb' (n := 1 + 3 + 28) 28 3 (BitVec.ofBool lone ++ wait ++ x) = wait
    rw [xhi _ _ (by decide), xlo _ _ (by decide)]
    exact BitVec.extractLsb'_eq_self
  · show BitVec.extractLsb' (n := 1 + 3 + 28) 0 28 (BitVec.ofBool lone ++ wait ++ x) = x
    rw [xlo _ _ (by decide)]
    exact BitVec.extractLsb'_eq_self

theorem cWord_of_fields (w : BitVec 32) : cWord (w.getLsbD 31) (w.extractLsb' 28 3) (w.extractLsb' 0 28) = w := by
  apply BitVec.eq_of_getLsbD_eq
  intro i hi
  simp only [cWord, BitVec.getLsbD_append, BitVec.getLsbD_extractLsb', BitVec.getLsbD_ofBool, Nat.zero_add]
  rcases (by omega : i < 28 ∨ (28 ≤ i ∧ i < 31) ∨ i = 31) with h | ⟨h, h'⟩ | rfl
  · rw [if_pos h, decide_eq_true h, Bool.true_and]
  · rw [if_neg (by omega), if_pos (by omega), decide_eq_true (by omega), Bool.true_and, Nat.add_sub_cancel' h]
  · rfl

/-- A C-word with the fields of `w` before its body is `w` when its body is. -/
theorem cWord_eq_iff (w : BitVec 32) (y : BitVec 28) : cWord (w.getLsbD 31) (w.extractLsb' 28 3) y = w ↔ y = w.extractLsb' 0 28 := by
  constructor
  · intro e
    rw [← (cWord_fields (w.getLsbD 31) (w.extractLsb' 28 3) y).2.2, e]
  · rintro rfl
    exact cWord_of_fields w

theorem aWord_fields (wait : BitVec 3) (x : BitVec 29) :
    (aWord wait x).extractLsb' 29 3 = wait ∧ (aWord wait x).extractLsb' 0 29 = x := by
  refine ⟨?_, ?_⟩
  · show BitVec.extractLsb' (n := 3 + 29) 29 3 (wait ++ x) = wait
    rw [xhi _ _ (by decide)]
    exact BitVec.extractLsb'_eq_self
  · show BitVec.extractLsb' (n := 3 + 29) 0 29 (wait ++ x) = x
    rw [xlo _ _ (by decide)]
    exact BitVec.extractLsb'_eq_self

theorem aWord_of_fields (w : BitVec 32) : aWord (w.extractLsb' 29 3) (w.extractLsb' 0 29) = w := by
  apply BitVec.eq_of_getLsbD_eq
  intro i hi
  simp only [aWord, BitVec.getLsbD_append, BitVec.getLsbD_extractLsb', Nat.zero_add]
  rcases Nat.lt_or_ge i 29 with h | h
  · rw [if_pos h, decide_eq_true h, Bool.true_and]
  · rw [if_neg (by omega), decide_eq_true (by omega), Bool.true_and, Nat.add_sub_cancel' h]

/-- An A-word with the fields of `w` before its body is `w` when its body is. -/
theorem aWord_eq_iff (w : BitVec 32) (y : BitVec 29) : aWord (w.extractLsb' 29 3) y = w ↔ y = w.extractLsb' 0 29 := by
  constructor
  · intro e
    rw [← (aWord_fields (w.extractLsb' 29 3) y).2, e]
  · rintro rfl
    exact aWord_of_fields w

/-- The C-word of a well-formed instruction decodes to it, with no reserved bit. -/
theorem decodeC_encodeC {i : Instr} {lone : Bool} {wait : BitVec 3} {c : BitVec 32} (hw : i.wf = true) (h : encodeC lone wait i = some c) :
    decodeC c = some ⟨lone, wait, i, false⟩ := by
  obtain ⟨x, hx, rfl⟩ := Option.map_eq_some_iff.mp h
  obtain ⟨hl, hs, hb⟩ := cWord_fields lone wait x
  have hd : decodeCBody x = some i := (Encoding.statement i hw).1 x hx
  simp only [decodeC, hl, hs, hb, hd, hx, Option.map_some, ne_eq, not_true_eq_false, decide_false]

/-- The A-word of a well-formed instruction decodes to it, with no reserved bit. -/
theorem decodeA_encodeA {i : Instr} {wait : BitVec 3} {a : BitVec 32} (hw : i.wf = true) (h : encodeA wait i = some a) :
    decodeA a = some ⟨false, wait, i, false⟩ := by
  obtain ⟨x, hx, rfl⟩ := Option.map_eq_some_iff.mp h
  obtain ⟨hs, hb⟩ := aWord_fields wait x
  have hd : decodeABody x = some i := (Encoding.statement i hw).2 x hx
  simp [decodeA, hs, hb, hd, hx]

/-- What a C-word decodes to is well formed and has a C-word, which differs only where reserved bits were set. -/
theorem encodeC_decodeC {w : BitVec 32} {x : DWord} (h : decodeC w = some x) :
    x.instr.wf = true ∧ ∃ c, encodeC x.lone x.wait x.instr = some c ∧ (x.rsv = false ↔ c = w) := by
  obtain ⟨i, hi, rfl⟩ := Option.map_eq_some_iff.mp h
  obtain ⟨hw, y, hy⟩ := Encoding.wf_and_body_of_encodable (Encoding.decodeCBody_encodable _) hi
  refine ⟨hw, cWord (w.getLsbD 31) (w.extractLsb' 28 3) y, by simp [encodeC, hy], ?_⟩
  simp only [hy, cWord_eq_iff, Option.some.injEq, ne_eq, decide_eq_false_iff_not, Decidable.not_not]

/-- What an A-word decodes to is well formed and has an A-word, which differs only where reserved bits were set. -/
theorem encodeA_decodeA {w : BitVec 32} {x : DWord} (h : decodeA w = some x) :
    x.lone = false ∧ x.instr.wf = true ∧ ∃ a, encodeA x.wait x.instr = some a ∧ (x.rsv = false ↔ a = w) := by
  obtain ⟨i, hi, rfl⟩ := Option.map_eq_some_iff.mp h
  obtain ⟨hw, y, hy⟩ := Encoding.wf_and_body_of_encodable (Encoding.decodeABody_encodable _) hi
  refine ⟨rfl, hw, aWord (w.extractLsb' 29 3) y, by simp [encodeA, hy], ?_⟩
  simp only [hy, aWord_eq_iff, Option.some.injEq, ne_eq, decide_eq_false_iff_not, Decidable.not_not]

/-! ### The words of a bundle (R28, R31) -/

theorem bundleC_append (a c : BitVec 32) : bundleC (a ++ c) = c := by
  show BitVec.extractLsb' (n := 32 + 32) 0 32 (a ++ c) = c
  rw [xlo _ _ (by decide)]
  exact BitVec.extractLsb'_eq_self

theorem bundleA_append (a c : BitVec 32) : bundleA (a ++ c) = a := by
  show BitVec.extractLsb' (n := 32 + 32) 32 32 (a ++ c) = a
  rw [xhi _ _ (by decide)]
  exact BitVec.extractLsb'_eq_self

/-- The bit that makes a bundle lone is the C-word's. -/
theorem bitAt_encodeC {i : Instr} {lone : Bool} {wait : BitVec 3} {c : BitVec 32} (h : encodeC lone wait i = some c) : bitAt c 31 = lone := by
  obtain ⟨x, -, rfl⟩ := Option.map_eq_some_iff.mp h
  exact (cWord_fields lone wait x).1

/-- The word 0 is the A-slot's `nop` (R31, R49). -/
theorem decodeA_zero : decodeA 0#32 = some ⟨false, 0, .nopA, false⟩ := rfl

end Sys2Proof.Laws
end

section
/-! SUPPORT. Bundles of encoded words, the WARN register of a core, and what a step makes of the bits that a core has fetched. -/

namespace Sys2Proof.Machine

open Sys2Proof.Laws

/-! ### Bundles of encoded words (02 R28-R31) -/

/-- A bundle of two encoded instructions decodes to them; with the lone bit the A-word counts as `nop` (R28-R31). -/
theorem parse_encode {ic ia : Instr} {wc wa : BitVec 3} {lone : Bool} {c a : BitVec 32} (hic : ic.wf = true) (hia : ia.wf = true)
    (hc : encodeC lone wc ic = some c) (ha : encodeA wa ia = some a) :
    parse false (a ++ c) = .ok
      (if lone then { c := ic, a := .nopA, wait := wc.toNat, lone := if a = 0 then 0 else wLONE, rsv := 0 }
       else { c := ic, a := ia, wait := max wc.toNat wa.toNat, lone := 0, rsv := 0 }) := by
  have hl : bitAt c 31 = lone := bitAt_encodeC hc
  have dc := decodeC_encodeC hic hc
  have da := decodeA_encodeA hia ha
  cases lone with
  | true => simp [parse, bundleC_append, bundleA_append, hl, dc, decodeA_zero]
  | false => simp [parse, bundleC_append, bundleA_append, hl, dc, da]

/-! ### WARN (02 R52, R54) -/

/-- WARN after a warning, its bits and its COUNT side by side (Table 2.10). -/
theorem warnCore_warn {k : Core} {w : Word} {pc : Nat} (hw : w ≠ 0) :
    (warnCore k w pc).warn = ((k.warn ||| w) &&& 0xF#64) |||
      BitVec.ofNat 64 (256 * if k.earned = 0 then min 255 (bitsNat k.warn 15 8 + 1) else bitsNat k.warn 15 8) := by
  rw [warnCore, if_neg hw]
  rfl

/-- COUNT of a WARN word that is put together of its bits and its COUNT. -/
theorem warnWord_count (b : Word) {n : Nat} (hn : n < 256) : bitsNat ((b &&& 0xF#64) ||| BitVec.ofNat 64 (256 * n)) 15 8 = n := by
  have hb : (b &&& 0xF#64).toNat >>> 8 = 0 := by
    rw [BitVec.toNat_and, Nat.shiftRight_eq_div_pow]
    exact Nat.div_eq_of_lt (Nat.lt_of_le_of_lt Nat.and_le_right (by decide))
  have hc : (BitVec.ofNat 64 (256 * n)).toNat >>> 8 = n := by
    rw [BitVec.toNat_ofNat, Nat.shiftRight_eq_div_pow]
    omega
  rw [bitsNat, BitVec.toNat_or, Nat.shiftRight_or_distrib, hb, hc, Nat.zero_or]
  omega

/-- The mask of WARN's four bits (Table 2.10). -/
theorem warnMask_getLsbD (j : Nat) : (0xF#64).getLsbD j = decide (j < 4) := by
  by_cases h : j < 64
  · revert j; decide
  · rw [BitVec.getLsbD_of_ge _ _ (by omega), decide_eq_false (by omega)]

/-- COUNT takes bits 15:8 of WARN and no other. -/
theorem countField_getLsbD {n j : Nat} (hn : n < 256) (hj : j < 8 ∨ 16 ≤ j) : (BitVec.ofNat 64 (256 * n)).getLsbD j = false := by
  rw [BitVec.getLsbD_ofNat, show 256 * n = 2 ^ 8 * n from rfl, Nat.testBit_two_pow_mul]
  rcases hj with hj | hj
  · rw [decide_eq_false (by omega : ¬8 ≤ j), Bool.false_and, Bool.and_false]
  · rw [Nat.testBit_lt_two_pow (Nat.lt_of_lt_of_le hn (Nat.pow_le_pow_right (n := 2) (i := 8) (by decide) (by omega))),
      Bool.and_false, Bool.and_false]

theorem bitsNat_15_8_lt (v : Word) : bitsNat v 15 8 < 256 := Nat.mod_lt _ (by decide)

/-- The address of a bundle as WARNPC holds it: bits 56:3, in place. -/
theorem warnpc_eq (pc : Nat) : pc % 2 ^ 57 / 8 * 8 = bitsNat (BitVec.ofNat 64 pc) 56 3 * 8 := by
  rw [bitsNat, BitVec.toNat_ofNat, Nat.shiftRight_eq_div_pow]
  omega

/-! ### The next move -/

/-- A move that is no command of the host keeps its place in front. -/
theorem hostOrder_cons {m : Move} {rest : List Move} (h : moveReq m = none) : hostOrder (m :: rest) = m :: rest := by
  rw [hostOrder, h]

/-- A step makes the move in front, when that has not to wait. -/
theorem step_of_front {s : State} {m : Move} {rest : List Move} (h : hostOrder s.agenda = m :: rest) (hw : moveWaits s m = false) :
    step s = settleMove m rest { s with agenda := rest } (runMove m { s with agenda := rest }) := by
  simp only [step, h, hw, Bool.false_eq_true, if_false]

/-- With no move given, a step is a free move. -/
theorem step_of_no_agenda {s : State} (h : s.agenda = []) : step s = freeMove s := by
  simp only [step, h, hostOrder]

/-! ### From the fetch to the words -/

/-- The state in which a core's next bundle is judged and fetched. -/
def State.issuing (s : State) (core : Nat) : State := { s with cur := core, phase := .whole, owed := [] }

/-- A core whose activation may issue executes the bundle that it fetches. -/
theorem issueBundle_of_fetch {s u : State} {core x : Nat} {a : Act} {w : BitVec 64} (hp : corePresent s core = true)
    (hr : ((s.issuing core).core core).running = some (x, a)) (hd : a.stepDue = false) (hm : mayIssue (s.issuing core) core a = true)
    (hf : fetch { s.issuing core with now := max (s.issuing core).now ((s.issuing core).core core).nextIssue } core a.part a.pc = .ok u w) :
    issueBundle core s = issueBits core w u := by
  rw [State.issuing] at hr hm hf
  rw [issueBundle, if_neg (by simp [hp])]
  simp only [hr, hd, hm, hf, Bool.not_true, Bool.false_eq_true, if_false]

theorem issueBits_of_bad {s : State} {core : Nat} {w : BitVec 64} {aw : Bool} {x : BitVec 32} {lone : Word}
    (h : parse s.me.conly w = .bad aw x lone) :
    issueBits core w s = trapBundle core (.unassignedWord aw x) lone (s.onCore core fun k => { k with earned := 0 }) := by
  rw [issueBits, h]

theorem issueBits_of_ok {s : State} {core : Nat} {w : BitVec 64} {b : Bundle} (h : parse s.me.conly w = .ok b) :
    issueBits core w s = issueWords core w b s := by
  rw [issueBits, h]

/-! ### What the verdicts of the words make of a bundle -/

section
variable {s p l : State} {core : Nat} {w : BitVec 64} {b : Bundle} (hp : pace core b s = p) (hl : latchBundle core w b p = l)
  (hi : interlocked s.me b = false) (hf : fabricDue s p.now = false)
  (hs : bitAt (p.core core).cctl 0 = true → shortRead (p.core core) b.reads = none)

include hp hl hi hf hs

/-- A word that traps at issue does so for the bundle, the C-word's trap first. -/
theorem issueWords_of_trap_c (hc : dryRun b.c l = .traps) : issueWords core w b s = trapBundle core b.c b.lone l := by
  simp only [issueWords, hi, hp, hf, ite_eq_right_iff.mpr hs, hl, hc, Bool.false_eq_true, if_false]

theorem issueWords_of_trap_a (hc : dryRun b.c l ≠ .traps) (ha : dryRun b.a l = .traps) :
    issueWords core w b s = trapBundle core b.a b.lone l := by
  simp only [issueWords, hi, hp, hf, ite_eq_right_iff.mpr hs, hl, Bool.false_eq_true, if_false]
  cases hv : dryRun b.c l with
  | traps => exact absurd hv hc
  | acts => rw [ha]
  | waits => rw [ha]

/-- A word that waits at issue does so for the bundle. -/
theorem issueWords_of_wait_c (hc : dryRun b.c l = .waits) (ha : dryRun b.a l ≠ .traps) :
    issueWords core w b s = waitBundle core b.c l := by
  simp only [issueWords, hi, hp, hf, ite_eq_right_iff.mpr hs, hl, Bool.false_eq_true, if_false]
  rw [hc]
  cases hv : dryRun b.a l with
  | traps => exact absurd hv ha
  | acts => rfl
  | waits => rfl

theorem issueWords_of_wait_a (hc : dryRun b.c l = .acts) (ha : dryRun b.a l = .waits) :
    issueWords core w b s = waitBundle core b.a l := by
  simp only [issueWords, hi, hp, hf, ite_eq_right_iff.mpr hs, hl, hc, ha, Bool.false_eq_true, if_false]

/-- Otherwise both words take effect. -/
theorem issueWords_of_act (hc : dryRun b.c l = .acts) (ha : dryRun b.a l = .acts) : issueWords core w b s = goBundle core b l := by
  simp only [issueWords, hi, hp, hf, ite_eq_right_iff.mpr hs, hl, hc, ha, Bool.false_eq_true, if_false]

end

/-- With every earlier access confirmed no undo log is kept, and a bundle whose words both go on ends. -/
theorem goBundle_of_next {s ta tc : State} {core : Nat} {b : Bundle} (hu : unconfirmed (s.core core) s.me.id = false)
    (ha : exec b.a (aloneA s) = .next ta) (hc : exec b.c { midBundle core b s ta with phase := .go } = .next tc) :
    goBundle core b s = .next (closeBundle core b s.me
      (noteFixed core b.c b.common (dualFix core b (midBundle core b s ta).me (warnA core s.me ta tc)))) := by
  simp only [goBundle, ha, hc, andThen, hu, noteUndo, Bool.not_false, if_true]

theorem runMove_event {i : Instr} {s : State} (h : isBundleWord i = false) :
    runMove (.event i) s = exec i { s with phase := .whole, owed := [] } := by
  simp only [runMove, h, Bool.false_eq_true, if_false]

/-- A free move is one of those that may be open, made unless copies of other packages have to be recalled first (14 R376). -/
theorem freeMove_of_move {s u : State} {l : List Move} {n : Nat} {m : Move} (hl : openMoves (Config.freeNat (s.free + 1)) s = l)
    (hn : s.freeNat % (l.length + 1) = n) (hu : { s with free := s.free + 2 } = u) (h : l[n]? = some m) :
    freeMove s = if (owedOf (runMove m u)).isEmpty then runMove m u else .next (askOwed u (owedOf (runMove m u))) := by
  subst hl hn hu
  simp only [freeMove, h]

/-- When the free choice is none of them, a cycle passes. -/
theorem freeMove_of_none {s : State} {l : List Move} {n : Nat} (hl : openMoves (Config.freeNat (s.free + 1)) s = l)
    (hn : s.freeNat % (l.length + 1) = n) (h : l[n]? = none) : freeMove s = .next { s with free := s.free + 2, now := s.now + 1 } := by
  subst hl hn
  simp only [freeMove, h]

end Sys2Proof.Machine
end

section
/-! PROOFS. Encoding, warnings, the step of a bundle, and the machine after reset. -/

namespace Sys2Proof.Machine

open Sys2Proof.Laws

/-- Settles O57: from an instruction to its word and back by the lemma of its constructor, and from a word to its instruction and back
since every entry of the decoder's tables has a body. -/
theorem decodeAndEncodeAgree : Obligations.DecodeAndEncodeAgree := by
  unfold Obligations.DecodeAndEncodeAgree
  refine ⟨fun ic ia wc wa lone c a hic hia hc ha => parse_encode hic hia hc ha, fun w x h => ?_, fun w x h => ?_⟩
  · obtain ⟨hw, c, hc, hr⟩ := encodeC_decodeC h
    exact ⟨hw, c, hc, decodeC_encodeC hw hc, hr⟩
  · obtain ⟨hl, hw, a, ha, hr⟩ := encodeA_decodeA h
    refine ⟨hw, a, ha, ?_, hr⟩
    rw [decodeA_encodeA hw ha, ← hl]

/-- Settles O19: WARN is its four bits beside COUNT, and WARNPC holds bits 56:3 of the address. -/
theorem warnings : Obligations.Warnings := by
  unfold Obligations.Warnings
  intro k w pc hw _
  have hcount : (if k.earned = 0 then min 255 (bitsNat k.warn 15 8 + 1) else bitsNat k.warn 15 8) < 256 := by
    have := bitsNat_15_8_lt k.warn
    split <;> omega
  refine ⟨fun j hj => ?_, ?_, fun j h4 hj => ?_, ?_, ?_, ?_⟩
  · rw [warnCore_warn hw, BitVec.getLsbD_or, countField_getLsbD hcount (by omega), BitVec.getLsbD_and, warnMask_getLsbD,
      decide_eq_true hj, Bool.and_true, Bool.or_false, BitVec.getLsbD_or]
  · rw [warnCore_warn hw, warnWord_count _ hcount]
  · rw [warnCore_warn hw, BitVec.getLsbD_or, countField_getLsbD hcount hj, BitVec.getLsbD_and, warnMask_getLsbD,
      decide_eq_false (by omega : ¬j < 4), Bool.and_false, Bool.or_false]
  · rw [← warnpc_eq, warnCore, if_neg hw]
  · rw [warnCore, if_neg hw]
  · rw [warnCore, if_neg hw]

/-- Settles O55: the step is followed from the front of the agenda to the verdicts of the words; with no agenda it is a free move. -/
theorem stepRunsInstruction : Obligations.StepRunsInstruction := by
  unfold Obligations.StepRunsInstruction
  refine ⟨?_, ?_, ?_, ?_⟩
  · intro s u core ctx rest a w hag hp hr hd r fin hm hf
    have hstep : step s = fin (issueBits core w u) := by
      have hfront : hostOrder s.agenda = .issue core :: rest := by rw [hag, hostOrder_cons rfl]
      rw [step_of_front hfront rfl]
      exact congrArg fin (issueBundle_of_fetch hp hr hd hm hf)
    refine ⟨fun aw x lone hb => by rw [hstep, issueBits_of_bad hb], ?_⟩
    intro b hb hi p hfd hs l
    rw [hstep, issueBits_of_ok hb]
    refine ⟨fun hc => ?_, fun hc ha => ?_, fun hc ha => ?_, fun hc ha => ?_, fun hc ha hu ta tc hta htc => ?_⟩
    · rw [issueWords_of_trap_c rfl rfl hi hfd hs hc]
    · rw [issueWords_of_trap_a rfl rfl hi hfd hs hc ha]
    · rw [issueWords_of_wait_c rfl rfl hi hfd hs hc ha]
    · rw [issueWords_of_wait_a rfl rfl hi hfd hs hc ha]
    · rw [issueWords_of_act rfl rfl hi hfd hs hc ha, goBundle_of_next hu hta htc]
  · intro s i rest hag hw hi
    rw [step_of_front hag hw, runMove_event hi]
  · intro s core img rest hag
    have hfront : hostOrder s.agenda = .image core img :: rest := by rw [hag, hostOrder_cons rfl]
    rw [step_of_front hfront rfl]
    rfl
  · intro s hag
    rw [step_of_no_agenda hag]
    exact ⟨fun m h => freeMove_of_move rfl rfl rfl h, fun h => freeMove_of_none rfl rfl h⟩

/-- Settles O56: every listed word is decoded by evaluation. -/
theorem decodeWords : Obligations.DecodeWords := by
  unfold Obligations.DecodeWords
  decide +kernel

/-- Settles O58: no file of the reset state lists an entry, so every part of it is the reset value of its kind. -/
theorem resetState : Obligations.ResetState := by
  unfold Obligations.ResetState
  refine ⟨State.reset_wf, rfl, rfl, fun p => ?_, fun c => ⟨rfl, rfl, rfl, rfl, rfl, rfl, rfl, rfl, rfl, rfl, rfl⟩, fun p => rfl,
    rfl, rfl, rfl, rfl, rfl, rfl, rfl, rfl, rfl⟩
  cases p <;> rfl

end Sys2Proof.Machine
end

section
/-! SUPPORT. Exact values and the values of codes in units of one power of two, and rounding as a choice between two codes that
follow each other (03 R78, R79, R82, R85). -/

namespace Sys2Proof.Machine

/-! ### Exact values -/

/-- An exact value in units of 2^g, for a g that is at most its exponent. -/
def Dy.units (g : Int) (d : Dy) : Int := d.m * (2 ^ (d.e - g).toNat : Nat)

/-- How far apart two exact values are. -/
def Dy.dist (a b : Dy) : Dy := ⟨(a.add b.neg).m.natAbs, (a.add b.neg).e⟩

theorem Dy.units_natCast (g : Int) (m : Nat) (e : Int) : (⟨m, e⟩ : Dy).units g = (m * 2 ^ (e - g).toNat : Nat) := (Int.natCast_mul ..).symm

theorem two_pow_toNat_mul {a b g : Int} (hb : b ≤ a) (hg : g ≤ b) : (2 ^ (a - b).toNat : Nat) * 2 ^ (b - g).toNat = 2 ^ (a - g).toNat := by
  rw [← Nat.pow_add, show (a - b).toNat + (b - g).toNat = (a - g).toNat by omega]

section
variable {g : Int} {a b : Dy}

theorem Dy.le_add (ha : g ≤ a.e) (hb : g ≤ b.e) : g ≤ (a.add b).e := Int.le_min.2 ⟨ha, hb⟩

theorem Dy.le_dist (ha : g ≤ a.e) (hb : g ≤ b.e) : g ≤ (a.dist b).e := Dy.le_add ha hb

theorem Dy.units_add (ha : g ≤ a.e) (hb : g ≤ b.e) : (a.add b).units g = a.units g + b.units g := by
  have hpow (n : Nat) : (2 : Int) ^ n = (2 ^ n : Nat) := (Int.natCast_pow 2 n).symm
  have hmin : g ≤ min a.e b.e := Int.le_min.2 ⟨ha, hb⟩
  simp only [Dy.add, Dy.units, hpow]
  rw [Int.add_mul, Int.mul_assoc, Int.mul_assoc, ← Int.natCast_mul, ← Int.natCast_mul, two_pow_toNat_mul (Int.min_le_left ..) hmin,
    two_pow_toNat_mul (Int.min_le_right ..) hmin]

theorem Dy.units_neg (g : Int) (a : Dy) : a.neg.units g = -a.units g := Int.neg_mul ..

theorem Dy.units_sub (ha : g ≤ a.e) (hb : g ≤ b.e) : (a.add b.neg).units g = a.units g - b.units g := by
  rw [Dy.units_add (b := b.neg) ha hb, Dy.units_neg, Int.sub_eq_add_neg]

theorem Dy.units_dist (ha : g ≤ a.e) (hb : g ≤ b.e) : (a.dist b).units g = (a.units g - b.units g).natAbs := by
  rw [← Dy.units_sub ha hb, Dy.dist, Dy.units, Dy.units, Int.natAbs_mul, Int.natAbs_natCast, Int.natCast_mul]

theorem Dy.units_lt_zero_iff (g : Int) (a : Dy) : a.units g < 0 ↔ a.m < 0 := by
  have h := Int.mul_lt_mul_right (b := a.m) (c := 0) (Int.natCast_pos.2 (Nat.two_pow_pos (a.e - g).toNat))
  rwa [Int.zero_mul] at h

theorem Dy.units_eq_zero_iff (g : Int) (a : Dy) : a.units g = 0 ↔ a.m = 0 := by
  have h : ((2 ^ (a.e - g).toNat : Nat) : Int) ≠ 0 := Int.natCast_ne_zero.2 (Nat.ne_of_gt (Nat.two_pow_pos _))
  rw [Dy.units, Int.mul_eq_zero, or_iff_left h]

theorem Dy.lt_iff (ha : g ≤ a.e) (hb : g ≤ b.e) : a.lt b = true ↔ a.units g < b.units g := by
  rw [Dy.lt, decide_eq_true_iff, ← Dy.units_lt_zero_iff g, Dy.units_sub ha hb]
  omega

theorem Dy.lt_eq_false_iff (ha : g ≤ a.e) (hb : g ≤ b.e) : a.lt b = false ↔ b.units g ≤ a.units g := by
  rw [← Bool.not_eq_true, Dy.lt_iff ha hb, Int.not_lt]

theorem Dy.eq_iff (ha : g ≤ a.e) (hb : g ≤ b.e) : a.eq b = true ↔ a.units g = b.units g := by
  rw [Dy.eq, decide_eq_true_iff, ← Dy.units_eq_zero_iff g, Dy.units_sub ha hb]
  omega

theorem Dy.eq_eq_false_iff (ha : g ≤ a.e) (hb : g ≤ b.e) : a.eq b = false ↔ a.units g ≠ b.units g := by
  rw [← Bool.not_eq_true, Dy.eq_iff ha hb]

end

/-! ### Values of codes (R78, R79) -/

/-- The exponent of the smallest subnormal number: every finite number is a multiple of 2 to it. -/
def Fmt.grid (f : Fmt) : Int := 1 - (f.bias : Int) - (f.mbits : Int)

/-- The significand of a code without its sign: the fraction, with the leading one of a normal number. -/
def Fmt.sig (f : Fmt) (c : Nat) : Nat := if c < 2 ^ f.mbits then c else 2 ^ f.mbits + c % 2 ^ f.mbits

/-- The exponent of that significand, counted from the grid. -/
def Fmt.scale (f : Fmt) (c : Nat) : Nat := c / 2 ^ f.mbits - 1

/-- The exact value of a code without its sign. A code past the largest finite one has the value that it would have with no upper
limit of the exponent. -/
def Fmt.dy (f : Fmt) (c : Nat) : Dy := ⟨f.sig c, f.grid + f.scale c⟩

/-- That value in units p places below the grid. -/
def Fmt.value (f : Fmt) (p c : Nat) : Nat := f.sig c * 2 ^ (f.scale c + p)

theorem Fmt.le_dy (f : Fmt) (p c : Nat) : f.grid - p ≤ (f.dy c).e := by
  show f.grid - p ≤ f.grid + f.scale c
  omega

theorem Fmt.units_dy (f : Fmt) (p c : Nat) : (f.dy c).units (f.grid - p) = f.value p c := by
  rw [Fmt.dy, Dy.units_natCast, Fmt.value, show (f.grid + f.scale c - (f.grid - p)).toNat = f.scale c + p by omega]

theorem Fmt.le_smallestNormal (f : Fmt) (p : Nat) : f.grid - p ≤ 1 - (f.bias : Int) := by
  unfold Fmt.grid
  omega

theorem Fmt.units_smallestNormal (f : Fmt) (p : Nat) :
    (⟨1, 1 - (f.bias : Int)⟩ : Dy).units (f.grid - p) = (2 ^ (f.mbits + p) : Nat) := by
  unfold Dy.units Fmt.grid
  rw [Int.one_mul, show (1 - (f.bias : Int) - (1 - f.bias - f.mbits - p)).toNat = f.mbits + p by omega]

theorem Fmt.one_le_mbits (f : Fmt) : 1 ≤ f.mbits := by rcases f with _ | _ | _ | _ | _ <;> decide

theorem Fmt.code_eq (f : Fmt) (c : Nat) : f.scale c * 2 ^ f.mbits + f.sig c = c := by
  unfold Fmt.scale Fmt.sig
  split
  · next h => rw [Nat.div_eq_of_lt h, Nat.zero_sub, Nat.zero_mul, Nat.zero_add]
  · next h =>
    have h1 : 1 ≤ c / 2 ^ f.mbits := (Nat.one_le_div_iff (Nat.two_pow_pos _)).2 (Nat.not_lt.1 h)
    calc (c / 2 ^ f.mbits - 1) * 2 ^ f.mbits + (2 ^ f.mbits + c % 2 ^ f.mbits)
        = (c / 2 ^ f.mbits - 1 + 1) * 2 ^ f.mbits + c % 2 ^ f.mbits := by rw [Nat.add_one_mul, Nat.add_assoc]
      _ = c := by rw [Nat.sub_add_cancel h1, Nat.div_add_mod']

theorem Fmt.sig_lt (f : Fmt) (c : Nat) : f.sig c < 2 ^ (f.mbits + 1) := by
  have := Nat.mod_lt c (Nat.two_pow_pos f.mbits)
  rw [Fmt.sig, Nat.pow_succ]
  split <;> omega

theorem Fmt.scale_eq_zero_or (f : Fmt) (c : Nat) : f.scale c = 0 ∨ 2 ^ f.mbits ≤ f.sig c := by
  unfold Fmt.scale Fmt.sig
  split
  · next h => exact .inl (by rw [Nat.div_eq_of_lt h])
  · exact .inr (Nat.le_add_right ..)

/-- The value of the code that a significand and an exponent make, also where a carry has left the significand one bit longer. -/
theorem Fmt.value_code (f : Fmt) (p : Nat) {k r : Nat} (hr : r ≤ 2 ^ (f.mbits + 1)) (hk : k = 0 ∨ 2 ^ f.mbits ≤ r) :
    f.value p (k * 2 ^ f.mbits + r) = r * 2 ^ (k + p) := by
  have hB := Nat.two_pow_pos f.mbits
  unfold Fmt.value Fmt.sig Fmt.scale
  rw [Nat.pow_succ] at hr
  generalize 2 ^ f.mbits = B at *
  rcases Nat.lt_or_ge r B with h | h
  · obtain rfl : k = 0 := hk.resolve_right (Nat.not_le.2 h)
    rw [Nat.zero_mul, Nat.zero_add, if_pos h, Nat.div_eq_of_lt h]
  obtain ⟨t, rfl⟩ := Nat.exists_eq_add_of_le h
  have e : k * B + (B + t) = t + B * (k + 1) := by rw [Nat.mul_comm B, Nat.add_one_mul]; omega
  have hge : ¬t + B * (k + 1) < B := Nat.not_lt.2 (Nat.le_trans (Nat.le_mul_of_pos_right B (Nat.succ_pos k)) (Nat.le_add_left ..))
  rw [e, if_neg hge, Nat.add_mul_div_left _ _ hB, Nat.add_mul_mod_self_left]
  rcases Nat.lt_or_ge t B with h' | h'
  · rw [Nat.mod_eq_of_lt h', Nat.div_eq_of_lt h', Nat.zero_add, Nat.add_sub_cancel]
  · obtain rfl : t = B := by omega
    rw [Nat.mod_self, Nat.div_self hB, show 1 + (k + 1) - 1 + p = k + p + 1 by omega, Nat.pow_succ, Nat.add_zero, ← Nat.mul_two,
      Nat.mul_assoc, Nat.mul_comm 2]

theorem Fmt.value_lt_succ (f : Fmt) (p c : Nat) : f.value p c < f.value p (c + 1) := by
  have hk := f.scale_eq_zero_or c
  have h0 := f.value_code p (Nat.le_of_lt (f.sig_lt c)) hk
  have h1 := f.value_code p (r := f.sig c + 1) (f.sig_lt c) (hk.imp_right Nat.le_succ_of_le)
  rw [← Nat.add_assoc, f.code_eq] at h1
  rw [f.code_eq] at h0
  rw [h0, h1]
  exact Nat.mul_lt_mul_of_pos_right (Nat.lt_succ_self _) (Nat.two_pow_pos _)

theorem Fmt.value_zero (f : Fmt) (p : Nat) : f.value p 0 = 0 := by
  rw [Fmt.value, Fmt.sig, if_pos (Nat.two_pow_pos _), Nat.zero_mul]

theorem Fmt.value_pos (f : Fmt) (p : Nat) : 0 < f.value p 1 := Nat.lt_of_le_of_lt (Nat.zero_le _) (f.value_lt_succ p 0)

theorem Fmt.value_mono (f : Fmt) (p : Nat) {b c : Nat} (h : b ≤ c) : f.value p b ≤ f.value p c := by
  induction h with
  | refl => exact Nat.le_refl _
  | step _ ih => exact Nat.le_trans ih (Nat.le_of_lt (f.value_lt_succ p _))

theorem Fmt.value_lt_iff (f : Fmt) (p : Nat) {b c : Nat} : f.value p b < f.value p c ↔ b < c := by
  refine ⟨fun h => Nat.lt_of_not_le fun hle => Nat.not_le.2 h (f.value_mono p hle), fun h => ?_⟩
  exact Nat.lt_of_lt_of_le (f.value_lt_succ p b) (f.value_mono p h)

theorem Fmt.value_le_iff (f : Fmt) (p : Nat) {b c : Nat} : f.value p b ≤ f.value p c ↔ b ≤ c := by
  rw [← Nat.not_lt, f.value_lt_iff, Nat.not_lt]

theorem Fmt.maxFinite_lt (f : Fmt) : f.maxFinite < 2 ^ (f.mbits + f.ebits) := by
  rcases f with _ | _ | _ | _ | _ <;> decide

/-! ### Codes read (R78, R79) -/

theorem Fmt.signed_mod_two (f : Fmt) (neg : Bool) (c : Nat) : f.signed neg c % 2 = c % 2 := by
  obtain ⟨j, hj⟩ := Nat.exists_eq_add_of_le f.one_le_mbits
  have h : 2 ^ (f.mbits + f.ebits) = 2 * 2 ^ (j + f.ebits) := by rw [hj, Nat.add_assoc, Nat.pow_add, Nat.pow_one]
  cases neg with
  | false => rfl
  | true => rw [Fmt.signed, if_pos rfl, h, Nat.add_mul_mod_self_left]

/-- The fields of a code with a sign over it (Table 3.2). -/
theorem Fmt.signed_fields (f : Fmt) (neg : Bool) {c : Nat} (hc : c < 2 ^ (f.mbits + f.ebits)) :
    f.signed neg c % 2 ^ f.mbits = c % 2 ^ f.mbits ∧ f.signed neg c / 2 ^ f.mbits % 2 ^ f.ebits = c / 2 ^ f.mbits ∧
      decide (f.signed neg c / 2 ^ (f.mbits + f.ebits) % 2 = 1) = neg := by
  have he : c / 2 ^ f.mbits < 2 ^ f.ebits := Nat.div_lt_of_lt_mul (by rwa [← Nat.pow_add])
  cases neg with
  | false =>
    rw [show f.signed false c = c from rfl, Nat.mod_eq_of_lt he, Nat.div_eq_of_lt hc]
    exact ⟨rfl, rfl, rfl⟩
  | true =>
    have hs : f.signed true c = c + 2 ^ (f.mbits + f.ebits) := rfl
    refine ⟨?_, ?_, ?_⟩
    · rw [hs, Nat.pow_add, Nat.add_mul_mod_self_left]
    · rw [hs, Nat.pow_add, Nat.add_mul_div_left _ _ (Nat.two_pow_pos _), Nat.add_mod_right, Nat.mod_eq_of_lt he]
    · rw [hs, Nat.add_div_right _ (Nat.two_pow_pos _), Nat.div_eq_of_lt hc]
      rfl

/-- The codes past the largest finite one: the top exponent, under the FN reading with the top fraction (Table 3.3). -/
theorem Fmt.maxFinite_lt_iff (f : Fmt) {c : Nat} (hc : c < 2 ^ (f.mbits + f.ebits)) :
    f.maxFinite < c ↔ c / 2 ^ f.mbits = 2 ^ f.ebits - 1 ∧ (f.hasInf = true ∨ c % 2 ^ f.mbits = 2 ^ f.mbits - 1) := by
  rcases f with _ | _ | _ | _ | _ <;> simp only [Fmt.maxFinite, Fmt.mbits, Fmt.ebits, Fmt.hasInf, eq_self,
    Bool.false_eq_true, true_or, false_or, and_true] at hc ⊢ <;> omega

theorem Fmt.read_signed (f : Fmt) (neg : Bool) {c : Nat} (h : c ≤ f.maxFinite) :
    f.read (f.signed neg c) = .fin neg (f.sig c) (f.grid + f.scale c) := by
  have hc := Nat.lt_of_le_of_lt h f.maxFinite_lt
  have hfin := mt (f.maxFinite_lt_iff hc).2 (Nat.not_lt.2 h)
  obtain ⟨hm, he, hs⟩ := f.signed_fields neg hc
  simp only [Fmt.read, hm, he, hs]
  rw [if_neg (fun hn => hfin ⟨hn.1, .inl hn.2⟩), if_neg (fun hn => hfin ⟨hn.1, .inr hn.2.1⟩)]
  have hE : 0 < c / 2 ^ f.mbits ↔ 2 ^ f.mbits ≤ c := by rw [Nat.div_pos_iff, and_iff_right (Nat.two_pow_pos _)]
  unfold Fmt.sig Fmt.scale Fmt.grid
  split
  · next h0 =>
    have hlt : c < 2 ^ f.mbits := by omega
    rw [if_pos hlt, Nat.mod_eq_of_lt hlt, h0, Nat.zero_sub, Int.natCast_zero, Int.add_zero]
  · next h0 =>
    rw [if_neg (Nat.not_lt.2 (hE.1 (Nat.pos_of_ne_zero h0))), Int.natCast_sub (Nat.pos_of_ne_zero h0)]
    congr 1
    omega

theorem Fmt.le_maxFinite_of_read (f : Fmt) {neg n : Bool} {c m : Nat} {e : Int} (hc : c < 2 ^ (f.mbits + f.ebits))
    (h : f.read (f.signed neg c) = .fin n m e) : c ≤ f.maxFinite := by
  refine Nat.not_lt.1 fun hlt => ?_
  obtain ⟨he', hr⟩ := (f.maxFinite_lt_iff hc).1 hlt
  obtain ⟨hm, he, hs⟩ := f.signed_fields neg hc
  simp only [Fmt.read, hm, he, hs] at h
  cases hi : f.hasInf with
  | true =>
    rw [if_pos ⟨he', hi⟩] at h
    split at h <;> cases h
  | false =>
    have hmant := hr.resolve_left (by rw [hi]; decide)
    rw [hi, if_neg (fun hn => Bool.noConfusion hn.2), if_pos ⟨he', hmant, rfl⟩] at h
    cases h

/-- Every code that reads as a finite number is a sign over one at most the largest finite one. -/
theorem Fmt.exists_signed_of_read (f : Fmt) {neg : Bool} {c m : Nat} {e : Int} (hc : c < 2 ^ f.width) (h : f.read c = .fin neg m e) :
    ∃ c', c' ≤ f.maxFinite ∧ c = f.signed neg c' ∧ m = f.sig c' ∧ e = f.grid + f.scale c' := by
  have hw : 2 ^ f.width = 2 ^ (f.mbits + f.ebits) * 2 := by
    rw [Fmt.width, ← Nat.pow_succ, show 1 + f.ebits + f.mbits = (f.mbits + f.ebits).succ by omega]
  have hlt : c % 2 ^ (f.mbits + f.ebits) < 2 ^ (f.mbits + f.ebits) := Nat.mod_lt _ (Nat.two_pow_pos _)
  have hdm := Nat.mod_add_div c (2 ^ (f.mbits + f.ebits))
  have hd : c / 2 ^ (f.mbits + f.ebits) < 2 := Nat.div_lt_of_lt_mul (hw ▸ hc)
  obtain ⟨b, hb⟩ : ∃ b, c = f.signed b (c % 2 ^ (f.mbits + f.ebits)) := by
    rcases Nat.lt_or_ge (c / 2 ^ (f.mbits + f.ebits)) 1 with h0 | h1
    · rw [Nat.lt_one_iff.1 h0, Nat.mul_zero] at hdm
      exact ⟨false, hdm.symm⟩
    · rw [Nat.le_antisymm (Nat.le_of_lt_succ hd) h1, Nat.mul_one] at hdm
      exact ⟨true, hdm.symm⟩
  rw [hb] at h
  have hle := f.le_maxFinite_of_read hlt h
  rw [f.read_signed _ hle] at h
  injection h with hn hm he
  exact ⟨_, hle, hn ▸ hb, hm.symm, he.symm⟩

/-! ### Rounding to a multiple of a power of two (R82, Table 3.5) -/

/-- Whether a mode takes the upper neighbour of a magnitude that lies x/d of the way to it; r is the lower one, in multiples. -/
def roundsUp (rm : RMode) (neg : Bool) (r x d : Nat) : Bool :=
  match rm with
  | .rn => decide (d < 2 * x) || (decide (2 * x = d) && decide (r % 2 = 1))
  | .rz => false
  | .rd => neg && decide (x ≠ 0)
  | .ru => !neg && decide (x ≠ 0)

theorem roundsUp_rn_iff {neg : Bool} {r x d : Nat} : roundsUp .rn neg r x d = true ↔ d < 2 * x ∨ 2 * x = d ∧ r % 2 = 1 := by
  simp only [roundsUp, Bool.or_eq_true, Bool.and_eq_true, decide_eq_true_iff]

theorem inexact_of_roundsUp {rm : RMode} {neg : Bool} {r x d : Nat} (hx : x < d) (h : roundsUp rm neg r x d = true) : x ≠ 0 := by
  cases rm with
  | rn =>
    have := roundsUp_rn_iff.1 h
    omega
  | rz => cases h
  | rd => exact of_decide_eq_true (Bool.and_eq_true_iff.1 h).2
  | ru => exact of_decide_eq_true (Bool.and_eq_true_iff.1 h).2

theorem roundsUp_exact (rm : RMode) (neg : Bool) (r : Nat) {d : Nat} (hd : 0 < d) : roundsUp rm neg r 0 d = false :=
  Bool.eq_false_iff.2 fun h => inexact_of_roundsUp hd h rfl

/-- A mode that faces zero never takes the upper neighbour. -/
theorem roundsUp_inward {rm : RMode} {neg : Bool} (h : rm = .rz ∨ rm = .rd ∧ neg = false ∨ rm = .ru ∧ neg = true) (r x d : Nat) :
    roundsUp rm neg r x d = false := by
  rcases h with rfl | ⟨rfl, rfl⟩ | ⟨rfl, rfl⟩ <;> rfl

/-- A directed mode that faces away from zero takes the upper neighbour of whatever is not exact. -/
theorem roundsUp_outward {rm : RMode} {neg : Bool} (hrn : rm ≠ .rn) (h : ¬(rm = .rz ∨ rm = .rd ∧ neg = false ∨ rm = .ru ∧ neg = true))
    (r x d : Nat) : roundsUp rm neg r x d = decide (x ≠ 0) := by
  cases rm with
  | rn => exact absurd rfl hrn
  | rz => exact absurd (.inl rfl) h
  | rd =>
    cases neg with
    | false => exact absurd (.inr (.inl ⟨rfl, rfl⟩)) h
    | true => rfl
  | ru =>
    cases neg with
    | false => rfl
    | true => exact absurd (.inr (.inr ⟨rfl, rfl⟩)) h

theorem roundsUp_congr (rm : RMode) (neg : Bool) {r r' : Nat} (x d : Nat) (h : r % 2 = r' % 2) :
    roundsUp rm neg r x d = roundsUp rm neg r' x d := by
  simp only [roundsUp, h]

/-- The code that rounding comes to between code c and the one after it. -/
def roundedCode (rm : RMode) (neg : Bool) (c x d : Nat) : Nat := c + if roundsUp rm neg c x d then 1 else 0

theorem roundedCode_down {rm : RMode} {neg : Bool} {c x d : Nat} (h : roundsUp rm neg c x d = false) : roundedCode rm neg c x d = c := by
  rw [roundedCode, h]
  rfl

theorem roundedCode_up {rm : RMode} {neg : Bool} {c x d : Nat} (h : roundsUp rm neg c x d = true) :
    roundedCode rm neg c x d = c + 1 := by
  rw [roundedCode, h]
  rfl

/-- Rounding divides a numerator by a denominator, one of which holds the power of two between the exponents. -/
theorem roundAt_eq (rm : RMode) (neg : Bool) {m n d : Nat} {e q : Int} (hn : m * 2 ^ (e - q).toNat = n) (hd : 2 ^ (q - e).toNat = d) :
    roundAt rm neg m e q = (n / d + if roundsUp rm neg (n / d) (n % d) d then 1 else 0, decide (n % d ≠ 0)) := by
  subst hn hd
  unfold roundAt
  split
  · next h =>
    rw [show (q - e).toNat = 0 by omega, Nat.pow_zero, Nat.mod_one, Nat.div_one, roundsUp_exact _ _ _ Nat.one_pos]
    rfl
  · next h =>
    rw [show (e - q).toNat = 0 by omega, Nat.pow_zero, Nat.mul_one]
    cases rm <;> rfl

/-! ### Rounding into a format (R82, R83, R85) -/

/-- The exponent to whose multiples a format rounds m * 2^e. -/
def Fmt.quantum (f : Fmt) (m : Nat) (e : Int) : Int := max ((Nat.log2 m : Int) + e - f.mbits) f.grid

/-- What rounding makes of the code that it has come to, past the largest finite one by the rules of overflow. -/
def Fmt.finish (f : Fmt) (rm : RMode) (neg nx tiny : Bool) (code : Nat) : Flagged Nat :=
  if f.maxFinite < code then ⟨f.overflow rm neg, fOF ||| fNX ||| (if f.narrow then fSAT else 0)⟩
  else ⟨f.signed neg code, (if nx then fNX else 0) ||| (if nx && tiny then fUF else 0)⟩

theorem Fmt.finish_of_le {f : Fmt} {rm : RMode} {neg nx tiny : Bool} {code : Nat} (h : code ≤ f.maxFinite) :
    f.finish rm neg nx tiny code = ⟨f.signed neg code, if nx then if tiny then fNX ||| fUF else fNX else 0⟩ := by
  rw [Fmt.finish, if_neg (Nat.not_lt.2 h)]
  cases nx <;> cases tiny <;> rfl

/-- A carry out of the significand and the leading one of a normal number need no case of their own: both add up in the code. -/
theorem Fmt.code_of_significand (f : Fmt) {k r : Nat} {q : Int} (hq : q = f.grid + k) (hk : k = 0 ∨ 2 ^ f.mbits ≤ r) :
    (let p := if r = 2 ^ (f.mbits + 1) then (2 ^ f.mbits, q + 1) else (r, q)
     if p.1 < 2 ^ f.mbits then (p.1 : Int) else (p.2 + f.mbits + f.bias) * 2 ^ f.mbits + (p.1 - 2 ^ f.mbits)) =
      (k * 2 ^ f.mbits + r : Nat) := by
  have hB : (2 : Int) ^ f.mbits = (2 ^ f.mbits : Nat) := (Int.natCast_pow 2 _).symm
  have hbias : q + f.mbits + f.bias = k + 1 := by unfold Fmt.grid at hq; omega
  have hbias' : q + 1 + f.mbits + f.bias = k + 2 := by omega
  rw [Int.natCast_add, Int.natCast_mul, hB]
  rcases Decidable.em (r = 2 ^ (f.mbits + 1)) with hr | hr
  · rw [if_pos hr]
    show (if 2 ^ f.mbits < 2 ^ f.mbits then _ else _) = _
    rw [if_neg (Nat.lt_irrefl _), hbias', hr, Nat.pow_succ, Int.add_mul]
    omega
  · rw [if_neg hr]
    show (if r < 2 ^ f.mbits then _ else _) = _
    split
    · next h =>
      rw [hk.resolve_right (Nat.not_le.2 h), Int.natCast_zero, Int.zero_mul, Int.zero_add]
    · rw [hbias, Int.add_mul]
      omega

theorem Fmt.round_eq_finish (f : Fmt) (rm : RMode) (neg : Bool) {m k : Nat} {e : Int} (hm : m ≠ 0)
    (hq : f.quantum m e = f.grid + k) (hk : k = 0 ∨ 2 ^ f.mbits ≤ (roundAt rm neg m e (f.quantum m e)).1) :
    f.round rm neg m e =
      f.finish rm neg (roundAt rm neg m e (f.quantum m e)).2 (decide ((Nat.log2 m : Int) + e < 1 - (f.bias : Int)))
        (k * 2 ^ f.mbits + (roundAt rm neg m e (f.quantum m e)).1) := by
  have hmax : max ((Nat.log2 m : Int) + e - f.mbits) (1 - (f.bias : Int) - f.mbits) = f.quantum m e := rfl
  simp only [Fmt.round, if_neg hm, hmax, f.code_of_significand hq hk, Int.ofNat_lt, Int.toNat_natCast, Fmt.finish]

theorem Fmt.quotient_lt (f : Fmt) (m : Nat) (e : Int) :
    m * 2 ^ (e - f.quantum m e).toNat / 2 ^ (f.quantum m e - e).toNat < 2 ^ (f.mbits + 1) := by
  have hq : (Nat.log2 m : Int) + e - f.mbits ≤ f.quantum m e := Int.le_max_left ..
  rw [Nat.div_lt_iff_lt_mul (Nat.two_pow_pos _), ← Nat.pow_add]
  calc m * 2 ^ (e - f.quantum m e).toNat
      < 2 ^ (Nat.log2 m + 1) * 2 ^ (e - f.quantum m e).toNat := Nat.mul_lt_mul_of_pos_right Nat.lt_log2_self (Nat.two_pow_pos _)
    _ = 2 ^ (Nat.log2 m + 1 + (e - f.quantum m e).toNat) := (Nat.pow_add ..).symm
    _ ≤ 2 ^ (f.mbits + 1 + (f.quantum m e - e).toNat) := Nat.pow_le_pow_right (by decide) (by omega)

/-- Above the grid the quantum leaves a significand with its leading one. -/
theorem Fmt.le_quotient (f : Fmt) {m : Nat} {e : Int} (hm : m ≠ 0) (hq : f.grid < f.quantum m e) :
    2 ^ f.mbits ≤ m * 2 ^ (e - f.quantum m e).toNat / 2 ^ (f.quantum m e - e).toNat := by
  have hq' : f.quantum m e = (Nat.log2 m : Int) + e - f.mbits := by unfold Fmt.quantum at hq ⊢; omega
  rw [Nat.le_div_iff_mul_le (Nat.two_pow_pos _), ← Nat.pow_add]
  calc 2 ^ (f.mbits + (f.quantum m e - e).toNat)
      ≤ 2 ^ (Nat.log2 m + (e - f.quantum m e).toNat) := Nat.pow_le_pow_right (by decide) (by omega)
    _ = 2 ^ Nat.log2 m * 2 ^ (e - f.quantum m e).toNat := Nat.pow_add ..
    _ ≤ m * 2 ^ (e - f.quantum m e).toNat := Nat.mul_le_mul_right _ (Nat.log2_self_le hm)

theorem log2_add_lt_iff {m : Nat} (a t : Nat) (hm : m ≠ 0) : Nat.log2 m + a < t ↔ m * 2 ^ a < 2 ^ t := by
  have hlo : 2 ^ (Nat.log2 m + a) ≤ m * 2 ^ a := by
    rw [Nat.pow_add]
    exact Nat.mul_le_mul_right _ (Nat.log2_self_le hm)
  have hhi : m * 2 ^ a < 2 ^ (Nat.log2 m + 1 + a) := by
    rw [Nat.pow_add]
    exact Nat.mul_lt_mul_of_pos_right Nat.lt_log2_self (Nat.two_pow_pos a)
  constructor
  · intro h
    exact Nat.lt_of_lt_of_le hhi (Nat.pow_le_pow_right (by decide) (by omega))
  · intro h
    exact (Nat.pow_lt_pow_iff_right (by decide)).1 (Nat.lt_of_le_of_lt hlo h)

/-- A value is below the smallest normal one exactly when its leading one is (R85). -/
theorem Fmt.tiny_iff (f : Fmt) {m p : Nat} {e : Int} (hm : m ≠ 0) (hp : f.grid - p ≤ e) :
    (Nat.log2 m : Int) + e < 1 - (f.bias : Int) ↔ m * 2 ^ (e - (f.grid - p)).toNat < 2 ^ (f.mbits + p) := by
  rw [← log2_add_lt_iff _ _ hm]
  unfold Fmt.grid at hp ⊢
  omega

/-- The value v, in units p places below the grid, lies x/d of the way from code c to the code after it. -/
structure Fmt.Between (f : Fmt) (p v c x d : Nat) : Prop where
  lt : x < d
  eq : ∃ s, 0 < s ∧ v = f.value p c + x * s ∧ f.value p (c + 1) = f.value p c + d * s

/-- Every magnitude lies between two codes that follow each other, and rounding decides for one of them. -/
theorem Fmt.round_between (f : Fmt) (rm : RMode) (neg : Bool) {m p v : Nat} {e : Int} (hp : f.grid - p ≤ e)
    (hv : v = m * 2 ^ (e - (f.grid - p)).toNat) :
    ∃ c x d, f.Between p v c x d ∧
      f.round rm neg m e = f.finish rm neg (decide (x ≠ 0)) (decide (v < 2 ^ (f.mbits + p))) (roundedCode rm neg c x d) := by
  rcases Decidable.em (m = 0) with rfl | hm
  · refine ⟨0, 0, f.value p 1, ⟨f.value_pos p, 1, Nat.one_pos, ?_, ?_⟩, ?_⟩
    · rw [hv, f.value_zero, Nat.zero_mul, Nat.zero_mul]
    · rw [f.value_zero, Nat.zero_add, Nat.mul_one, Nat.zero_add]
    · rw [Fmt.round, if_pos rfl, roundedCode_down (roundsUp_exact rm neg 0 (f.value_pos p)),
        Fmt.finish_of_le (Nat.zero_le _)]
      rfl
  obtain ⟨k, hk⟩ : ∃ k : Nat, f.quantum m e = f.grid + k :=
    ⟨(f.quantum m e - f.grid).toNat, by have : f.grid ≤ f.quantum m e := Int.le_max_right ..; omega⟩
  have hhi := f.quotient_lt m e
  have hlo : k = 0 ∨ _ := (Nat.eq_zero_or_pos k).imp_right fun h => f.le_quotient (e := e) hm (by omega)
  -- s is the smaller of the two units 2^e and 2^quantum: the value and the step from code to code are multiples of it
  obtain ⟨s, hs⟩ : ∃ s, s = 2 ^ (min e (f.quantum m e) - (f.grid - p)).toNat := ⟨_, rfl⟩
  have hvs : v = m * 2 ^ (e - f.quantum m e).toNat * s := by
    rw [hv, hs, Nat.mul_assoc, ← Nat.pow_add]
    congr 2
    omega
  have hgap : 2 ^ (k + p) = 2 ^ (f.quantum m e - e).toNat * s := by
    rw [hs, ← Nat.pow_add]
    congr 1
    omega
  generalize hn : m * 2 ^ (e - f.quantum m e).toNat = n at *
  generalize hd : 2 ^ (f.quantum m e - e).toNat = d at *
  have hR := roundAt_eq rm neg hn hd
  have hd0 : 0 < d := hd ▸ Nat.two_pow_pos _
  have hpar : (n / d) % 2 = (k * 2 ^ f.mbits + n / d) % 2 := by
    obtain ⟨j, hj⟩ := Nat.exists_eq_add_of_le f.one_le_mbits
    rw [hj, Nat.pow_add, Nat.pow_one, Nat.mul_left_comm, Nat.mul_add_mod_self_left]
  refine ⟨k * 2 ^ f.mbits + n / d, n % d, d, ⟨Nat.mod_lt n hd0, s, hs ▸ Nat.two_pow_pos _, ?_, ?_⟩, ?_⟩
  · rw [f.value_code p (Nat.le_of_lt hhi) hlo, hgap, hvs, ← Nat.mul_assoc, ← Nat.add_mul, Nat.mul_comm (n / d), Nat.div_add_mod]
  · rw [Nat.add_assoc, f.value_code p (Nat.le_of_lt hhi) hlo, f.value_code p hhi (hlo.imp_right Nat.le_succ_of_le), hgap, Nat.add_one_mul]
  · rw [f.round_eq_finish rm neg hm hk (by rw [hR]; exact hlo.imp_right (Nat.le_add_right_of_le ·)), hR, roundsUp_congr rm neg _ _ hpar,
      roundedCode, Nat.add_assoc]
    simp only [f.tiny_iff hm hp, hv]

/-! ### Between two codes (Table 3.5) -/

namespace Fmt.Between

variable {f : Fmt} {p v c x d : Nat}

theorem low_le (B : f.Between p v c x d) : f.value p c ≤ v := by
  obtain ⟨s, _, hv, _⟩ := B.eq
  omega

theorem lt_high (B : f.Between p v c x d) : v < f.value p (c + 1) := by
  obtain ⟨s, hs, hv, hh⟩ := B.eq
  have := Nat.mul_lt_mul_of_pos_right B.lt hs
  omega

theorem eq_low_iff (B : f.Between p v c x d) : f.value p c = v ↔ x = 0 := by
  obtain ⟨s, hs, hv, _⟩ := B.eq
  have h : x * s = 0 ↔ x = 0 := by rw [Nat.mul_eq_zero, or_iff_left (Nat.ne_of_gt hs)]
  omega

theorem nearer_low_iff (B : f.Between p v c x d) : 2 * v < f.value p c + f.value p (c + 1) ↔ 2 * x < d := by
  obtain ⟨s, hs, hv, hh⟩ := B.eq
  have h : 2 * (x * s) < d * s ↔ 2 * x < d := by rw [← Nat.mul_assoc, Nat.mul_lt_mul_right hs]
  omega

theorem tie_iff (B : f.Between p v c x d) : 2 * v = f.value p c + f.value p (c + 1) ↔ 2 * x = d := by
  obtain ⟨s, hs, hv, hh⟩ := B.eq
  have h : 2 * (x * s) = d * s ↔ 2 * x = d := by rw [← Nat.mul_assoc, Nat.mul_left_inj (Nat.ne_of_gt hs)]
  omega

theorem value_roundedCode_eq_iff (B : f.Between p v c x d) (rm : RMode) (neg : Bool) :
    f.value p (roundedCode rm neg c x d) = v ↔ x = 0 := by
  cases h : roundsUp rm neg c x d with
  | false => rw [roundedCode_down h, B.eq_low_iff]
  | true =>
    rw [roundedCode_up h]
    exact iff_of_false (Nat.ne_of_gt B.lt_high) (inexact_of_roundsUp B.lt h)

/-- Rounding never takes a value that is not past the largest finite one past it. -/
theorem roundedCode_le_maxFinite (B : f.Between p v c x d) (rm : RMode) (neg : Bool) (hv : v ≤ f.value p f.maxFinite) :
    roundedCode rm neg c x d ≤ f.maxFinite := by
  have hc : c ≤ f.maxFinite := (f.value_le_iff p).1 (Nat.le_trans B.low_le hv)
  cases h : roundsUp rm neg c x d with
  | false => rwa [roundedCode_down h]
  | true =>
    rw [roundedCode_up h]
    refine Nat.lt_of_le_of_ne hc ?_
    rintro rfl
    exact inexact_of_roundsUp B.lt h (B.eq_low_iff.1 (Nat.le_antisymm B.low_le hv))

/-! #### Directed modes -/

theorem le_low_of_le (B : f.Between p v c x d) {b : Nat} (hb : f.value p b ≤ v) : f.value p b ≤ f.value p c :=
  f.value_mono p (Nat.le_of_lt_succ ((f.value_lt_iff p).1 (Nat.lt_of_le_of_lt hb B.lt_high)))

theorem le_roundedCode_of_up (B : f.Between p v c x d) {rm : RMode} {neg : Bool} (h : roundsUp rm neg c x d = decide (x ≠ 0)) :
    v ≤ f.value p (roundedCode rm neg c x d) ∧ ∀ b, v ≤ f.value p b → f.value p (roundedCode rm neg c x d) ≤ f.value p b := by
  rcases Decidable.em (x = 0) with hx | hx
  · rw [roundedCode_down (h.trans (decide_eq_false (not_not_intro hx))), B.eq_low_iff.2 hx]
    exact ⟨Nat.le_refl v, fun _ hb => hb⟩
  · rw [roundedCode_up (h.trans (decide_eq_true hx))]
    have hlow : f.value p c < v := Nat.lt_of_le_of_ne B.low_le (mt B.eq_low_iff.1 hx)
    exact ⟨Nat.le_of_lt B.lt_high, fun b hb => f.value_mono p ((f.value_lt_iff p).1 (Nat.lt_of_lt_of_le hlow hb))⟩

/-! #### Nearest even -/

/-- Under RN the lower code is taken only if it is no farther, and on a tie only if it is even. -/
theorem rn_down (B : f.Between p v c x d) {neg : Bool} (h : roundsUp .rn neg c x d = false) :
    2 * v ≤ f.value p c + f.value p (c + 1) ∧ (2 * v = f.value p c + f.value p (c + 1) → c % 2 = 0) := by
  have hnot := mt roundsUp_rn_iff.2 (Bool.eq_false_iff.1 h)
  have hnear := B.nearer_low_iff
  have htie := B.tie_iff
  omega

/-- Under RN the upper code is taken only if it is no farther, and on a tie only if it is even. -/
theorem rn_up (B : f.Between p v c x d) {neg : Bool} (h : roundsUp .rn neg c x d = true) :
    f.value p c + f.value p (c + 1) ≤ 2 * v ∧ (2 * v = f.value p c + f.value p (c + 1) → (c + 1) % 2 = 0) := by
  have hor := roundsUp_rn_iff.1 h
  have hnear := B.nearer_low_iff
  have htie := B.tie_iff
  omega

/-- Every code lies at one of the two or beyond it. -/
theorem le_low_or_high_le (f : Fmt) (p c b : Nat) : f.value p b ≤ f.value p c ∨ f.value p (c + 1) ≤ f.value p b :=
  (Nat.lt_or_ge c b).symm.imp (f.value_mono p) (f.value_mono p)

/-- Under RN no code is nearer, and where another value is as near the code taken is even. -/
theorem rn_nearest (B : f.Between p v c x d) (neg : Bool) (b : Nat) :
    let dist := fun (a : Nat) => ((f.value p a : Int) - v).natAbs
    let t := roundedCode .rn neg c x d
    dist t ≤ dist b ∧ (dist b = dist t → f.value p b ≠ f.value p t → t % 2 = 0) := by
  have hlow := B.low_le
  have hhigh := B.lt_high
  have hb := le_low_or_high_le f p c b
  cases h : roundsUp .rn neg c x d with
  | false =>
    obtain ⟨hle, heven⟩ := B.rn_down h
    rw [roundedCode_down h]
    dsimp only
    omega
  | true =>
    obtain ⟨hle, heven⟩ := B.rn_up h
    rw [roundedCode_up h]
    dsimp only
    omega

end Fmt.Between

/-! ### Codes and flags of a rounding that does not overflow (R82, R85) -/

/-- A code that reads as a finite number is between no two other codes, so that rounding its number gives it back. -/
theorem Fmt.round_read {f : Fmt} {c m : Nat} {neg : Bool} {e : Int} (rm : RMode) (hc : c < 2 ^ f.width) (h : f.read c = .fin neg m e) :
    f.round rm neg m e = ⟨c, 0⟩ := by
  obtain ⟨b, hb, rfl, rfl, rfl⟩ := f.exists_signed_of_read hc h
  have hv : f.value 0 b = f.sig b * 2 ^ (f.grid + f.scale b - (f.grid - (0 : Nat))).toNat :=
    Int.ofNat.inj ((f.units_dy 0 b).symm.trans (Dy.units_natCast ..))
  obtain ⟨c, x, d, B, hr⟩ := f.round_between rm neg (e := f.grid + f.scale b) (f.le_dy 0 b) hv
  have hcb : c ≤ b := (f.value_le_iff 0).1 B.low_le
  have hbc : b < c + 1 := (f.value_lt_iff 0).1 B.lt_high
  obtain rfl : c = b := Nat.le_antisymm hcb (Nat.le_of_lt_succ hbc)
  obtain rfl : x = 0 := B.eq_low_iff.1 rfl
  rw [hr, roundedCode_down (roundsUp_exact rm neg c B.lt), Fmt.finish_of_le hb]
  rfl

/-- A value at most the largest finite one rounds to the rounded code under its sign. -/
theorem Fmt.round_of_le_maxFinite (f : Fmt) (rm : RMode) (neg : Bool) {m p v : Nat} {e : Int} (hp : f.grid - p ≤ e)
    (hv : v = m * 2 ^ (e - (f.grid - p)).toNat) (hmax : v ≤ f.value p f.maxFinite) :
    ∃ c x d, f.Between p v c x d ∧ roundedCode rm neg c x d ≤ f.maxFinite ∧
      f.round rm neg m e = ⟨f.signed neg (roundedCode rm neg c x d),
        if f.value p (roundedCode rm neg c x d) = v then 0 else if v < 2 ^ (f.mbits + p) then fNX ||| fUF else fNX⟩ := by
  obtain ⟨c, x, d, B, hr⟩ := f.round_between rm neg hp hv
  have hle := B.roundedCode_le_maxFinite rm neg hmax
  refine ⟨c, x, d, B, hle, ?_⟩
  rw [hr, Fmt.finish_of_le hle]
  simp only [B.value_roundedCode_eq_iff, decide_eq_true_iff, ne_eq, ite_not]

end Sys2Proof.Machine
end

section
/-! SUPPORT. A write of FMT in user mode (03 R86, R87). -/

namespace Sys2Proof.Machine

theorem mtcTrap_fmt_user {s : State} {v : Word} (hm : s.mode = 0) :
    mtcTrap s 8 v = if bitAt v 0 = bitAt s.cc.fmt 0 then none else some (crTrap s 8) := by
  simp [mtcTrap, crAccess, hm]

theorem exec_mtc_fmt_user {s : State} {d : SReg} (hm : s.mode = 0) (hu : unconfirmed s.cc s.me.id = false) :
    exec (.mtc 8 d) s = guarded s (if bitAt (s.rs d) 0 = bitAt s.cc.fmt 0 then none else some (crTrap s 8)) none
      (s.onCC fun k => { k with fmt := s.rs d &&& 3 }) := by
  have hw : waitConfirm s = none := by simp [waitConfirm, hu]
  change execMtc 8 d s = _
  rw [← mtcTrap_fmt_user hm]
  simp [execMtc, hw, crWrite]

theorem exec_mtc_fmt_user_traps {s : State} {d : SReg} (hm : s.mode = 0) (hp : s.phase = .whole)
    (hu : unconfirmed s.cc s.me.id = false) (hv : bitAt (s.rs d) 0 ≠ bitAt s.cc.fmt 0) :
    exec (.mtc 8 d) s = .next (trapMe s (crTrap s 8)) := by
  rw [exec_mtc_fmt_user hm hu, if_neg hv]
  exact guarded_traps hp hu

theorem exec_mtc_fmt_user_writes {s : State} {d : SReg} (hm : s.mode = 0) (hp : s.phase = .whole)
    (hu : unconfirmed s.cc s.me.id = false) (hv : bitAt (s.rs d) 0 = bitAt s.cc.fmt 0) :
    exec (.mtc 8 d) s = .next (s.onCC fun k => { k with fmt := s.rs d &&& 3 }) := by
  rw [exec_mtc_fmt_user hm hu, if_pos hv]
  exact guarded_acts (by simp [hp])

/-- Bits 63:2 of FMT are reserved (Table 3.6). -/
theorem fmtMask_getLsbD (j : Nat) : (3#64).getLsbD j = decide (j < 2) := by
  have h3 : (3#64).toNat = 2 ^ 2 - 1 := rfl
  rw [BitVec.getLsbD, h3, Nat.testBit_two_pow_sub_one]

end Sys2Proof.Machine
end

section
/-! PROOFS. Formats and rounding (03). -/

namespace Sys2Proof.Machine

/-- Settles O13: rounding chooses between two codes that follow each other, and what each mode promises is read off from that choice. All
values are compared in one unit, p places below the grid of the format, of which the value to be rounded is a multiple. -/
theorem rounding : Obligations.Rounding := by
  unfold Obligations.Rounding
  refine ⟨fun f rm c neg m e hc h => Fmt.round_read rm hc h, ?_⟩
  intro f rm neg m e v mag dist r w inward hv
  obtain ⟨p, hp⟩ : ∃ p : Nat, f.grid - p ≤ e := ⟨(f.grid - e).toNat, by omega⟩
  obtain ⟨n, hn⟩ : ∃ n, n = m * 2 ^ (e - (f.grid - p)).toNat := ⟨_, rfl⟩
  have hvu : v.units (f.grid - p) = n := by rw [hn]; exact Dy.units_natCast ..
  have hmag : ∀ (b : Bool) {c : Nat}, c ≤ f.maxFinite → mag (f.signed b c) = f.dy c := by
    intro b c hc
    simp only [mag, f.read_signed b hc]
    rfl
  have hdist : ∀ (b : Bool) {c : Nat}, c ≤ f.maxFinite → dist (f.signed b c) = (f.dy c).dist v := by
    intro b c hc
    rw [← hmag b hc]
    rfl
  -- the codes without a sign are those with the sign +
  have hmag' : ∀ {c : Nat}, c ≤ f.maxFinite → mag c = f.dy c := hmag false
  have hdist' : ∀ {c : Nat}, c ≤ f.maxFinite → dist c = (f.dy c).dist v := hdist false
  have hle_dist : ∀ c, f.grid - p ≤ ((f.dy c).dist v).e := fun c => Dy.le_dist (f.le_dy p c) hp
  have hdist_units : ∀ c, ((f.dy c).dist v).units (f.grid - p) = ((f.value p c : Int) - n).natAbs := by
    intro c
    rw [Dy.units_dist (f.le_dy p c) hp, f.units_dy, hvu]
  rw [hmag' (Nat.le_refl _), Dy.lt_eq_false_iff (f.le_dy p _) hp, hvu, f.units_dy, Int.ofNat_le] at hv
  obtain ⟨c, x, d, B, hle, hr⟩ := f.round_of_le_maxFinite rm neg hp hn hv
  have hrv : r.val = f.signed neg (roundedCode rm neg c x d) := congrArg Flagged.val hr
  have hw : w = f.dy (roundedCode rm neg c x d) := (congrArg mag hrv).trans (hmag neg hle)
  refine ⟨⟨_, _, hrv ▸ f.read_signed neg hle⟩, ?_, ?_, ?_, ?_⟩
  · rintro rfl b hb
    obtain ⟨hnear, heven⟩ := B.rn_nearest neg b
    rw [hw, hrv, hdist' hb, hdist neg hle, hmag' hb, Dy.lt_eq_false_iff (hle_dist _) (hle_dist _), Dy.eq_iff (hle_dist _) (hle_dist _),
      Dy.eq_eq_false_iff (f.le_dy p _) (f.le_dy p _), hdist_units, hdist_units, f.units_dy, f.units_dy, f.signed_mod_two]
    exact ⟨Int.ofNat_le.2 hnear, fun he hne => heven (Int.ofNat.inj he) (mt (congrArg Int.ofNat) hne)⟩
  · intro hin
    rw [hw, roundedCode_down (roundsUp_inward hin c x d), Dy.lt_eq_false_iff hp (f.le_dy p _), hvu, f.units_dy]
    refine ⟨Int.ofNat_le.2 B.low_le, fun b hb hbv => ?_⟩
    rw [hmag' hb, Dy.lt_eq_false_iff hp (f.le_dy p _), hvu, f.units_dy, Int.ofNat_le] at hbv
    rw [hmag' hb, Dy.lt_eq_false_iff (f.le_dy p _) (f.le_dy p _), f.units_dy, f.units_dy]
    exact Int.ofNat_le.2 (B.le_low_of_le hbv)
  · intro hrn hout
    obtain ⟨hge, hleast⟩ := B.le_roundedCode_of_up (roundsUp_outward hrn hout c x d)
    rw [hw, Dy.lt_eq_false_iff (f.le_dy p _) hp, hvu, f.units_dy]
    refine ⟨Int.ofNat_le.2 hge, fun b hb hbv => ?_⟩
    rw [hmag' hb, Dy.lt_eq_false_iff (f.le_dy p _) hp, hvu, f.units_dy, Int.ofNat_le] at hbv
    rw [hmag' hb, Dy.lt_eq_false_iff (f.le_dy p _) (f.le_dy p _), f.units_dy, f.units_dy]
    exact Int.ofNat_le.2 (hleast b hbv)
  · have hexact : w.eq v = true ↔ f.value p (roundedCode rm neg c x d) = n := by
      rw [hw, Dy.eq_iff (f.le_dy p _) hp, hvu, f.units_dy, Int.ofNat_inj]
    have htiny : v.lt ⟨1, 1 - (f.bias : Int)⟩ = true ↔ n < 2 ^ (f.mbits + p) := by
      rw [Dy.lt_iff hp (f.le_smallestNormal p), hvu, f.units_smallestNormal, Int.ofNat_lt]
    simp only [hexact, htiny]
    exact congrArg Flagged.flags hr

/-- Settles O18: by what an `mtc` of FMT does in user mode; entering the handler leaves FMT alone. -/
theorem userFormatWrite : Obligations.UserFormatWrite := by
  unfold Obligations.UserFormatWrite
  intro s d hl hm hp hu
  refine ⟨fun hne ht => ⟨_, exec_mtc_fmt_user_traps hm hp hu hne, rfl, ?_⟩, fun heq => ⟨s.rs d &&& 3#64, ?_, ?_, ?_, fun j hj => ?_⟩⟩
  · rw [trapMe_user hl hm ht]
    simp
  · exact answersCore_onCC (exec_mtc_fmt_user_writes hm hp hu heq) (sameBytes_onCC s _ rfl rfl) rfl
  · rw [BitVec.getLsbD_and, fmtMask_getLsbD, ← heq, decide_eq_true (by decide : 0 < 2), Bool.and_true]
  · rw [BitVec.getLsbD_and, fmtMask_getLsbD, decide_eq_true (by decide : 1 < 2), Bool.and_true]
  · rw [BitVec.getLsbD_and, fmtMask_getLsbD, decide_eq_false (by omega), Bool.and_false]

end Sys2Proof.Machine
end

section
/-! SUPPORT. The elements of an accumulator or partial register, and the integer arithmetic of K-steps and promotions on them (06 R183, R186). -/

namespace Sys2Proof.Machine

/-! ### Elements -/

@[simp] theorem accElems_length (v : BitVec 131072) : (accElems v).length = 4096 := by simp [accElems]

theorem accElems_getElem (v : BitVec 131072) {n : Nat} (h : n < (accElems v).length) :
    (accElems v)[n] = (v.extractLsb' (32 * n) 32).toNat := by simp [accElems]

/-- Lane j of a vector of any width that is built from lanes. -/
theorem lanes_extract {W w : Nat} {l : List Nat} (h : w * l.length ≤ W) (j : Nat) :
    ((BitVec.ofNat W (l.foldr (fun x r => x % 2 ^ w + 2 ^ w * r) 0)).extractLsb' (w * j) w).toNat = l.getD j 0 % 2 ^ w := by
  have hlt := Nat.lt_of_lt_of_le (lanes_lt w l) (Nat.pow_le_pow_right (by decide) h)
  rw [BitVec.extractLsb'_toNat, BitVec.toNat_ofNat, Nat.mod_eq_of_lt hlt, Nat.shiftRight_eq_div_pow, lanes_get]

/-- Element n of a register that is built from its elements. -/
theorem accOf_elem {l : List Nat} (hl : l.length = 4096) {n : Nat} (hn : n < l.length) :
    ((accOf l).extractLsb' (32 * n) 32).toNat = l[n] % 2 ^ 32 := by
  rw [accOf, lanes_extract (by omega), List.getD_eq_getElem?_getD, List.getElem?_eq_getElem hn, Option.getD_some]

/-- The sums, modulo 2^32, of the elements of two registers. -/
def addElems (v w : BitVec 131072) : List Nat := List.zipWith (fun p q => (p + q) % 2 ^ 32) (accElems v) (accElems w)

theorem accOf_addElems_elem (v w : BitVec 131072) {n : Nat} (hn : n < 4096) :
    ((accOf (addElems v w)).extractLsb' (32 * n) 32).toNat =
      ((v.extractLsb' (32 * n) 32).toNat + (w.extractLsb' (32 * n) 32).toNat) % 2 ^ 32 := by
  have hl : (addElems v w).length = 4096 := by simp [addElems]
  rw [accOf_elem hl (hl.symm ▸ hn)]
  simp only [addElems, List.getElem_zipWith, accElems_getElem, Nat.mod_mod]

/-! ### Integer K-steps and promotions -/

/-- Results that set no flag set none together. -/
theorem Flagged.all_map_noFlag {α β : Type} (f : α → β) (l : List α) :
    Flagged.all (l.map fun x => (⟨f x, 0⟩ : Flagged β)) = ⟨l.map f, 0⟩ := by
  have hf : ∀ w : Word, (l.map fun x => (⟨f x, 0⟩ : Flagged β)).foldl (fun w a => w ||| a.flags) w = w := by
    induction l with
    | nil => exact fun _ => rfl
    | cons x l ih => exact fun w => by simpa using ih w
  rw [Flagged.all, hf 0, List.map_map]
  rfl

theorem Flagged.all_zipWith_noFlag {α β γ : Type} (f : α → β → γ) (l : List α) (m : List β) :
    Flagged.all (List.zipWith (fun x y => (⟨f x y, 0⟩ : Flagged γ)) l m) = ⟨List.zipWith f l m, 0⟩ := by
  simp only [← List.map_uncurry_zip_eq_zipWith]
  exact Flagged.all_map_noFlag (Function.uncurry f) _

theorem mapIdx_const {α β : Type} (f : α → β) (l : List α) : (l.mapIdx fun _ x => f x) = l.map f :=
  List.ext_getElem (by simp) fun n _ _ => by simp

theorem addPartial_int {x : MxCtx} (h : 0 < x.pp) (v : BitVec 131072) (rz : BitVec 64) (bz : Bool) :
    addPartial 2 x v rz bz = ({ part := accOf (addElems x.part v), pp := x.pp + 1, cls := 2, rowz := x.rowz &&& rz, blkz := x.blkz && bz }, 0) := by
  unfold addPartial
  rw [if_neg (Nat.ne_of_gt h)]
  simp only [if_true, Flagged.all_zipWith_noFlag]
  rfl

theorem promote_int {x : MxCtx} (h : 0 < x.pp) (hc : x.cls = 2) (acc : BitVec 131072) (zs : Bool) (sa : List Nat) (sb : Nat) :
    promote x acc zs sa sb = (emptyCtx, accOf (addElems x.part acc), 0) := by
  have h1 : ¬(2 = 1) := by decide
  have hz : (((accElems x.part).zip (accElems acc)).map fun pa => (pa.1 + pa.2) % 2 ^ 32) = addElems x.part acc := by
    rw [List.map_zip_eq_zipWith, addElems]
    rfl
  unfold promote
  rw [if_neg (Nat.ne_of_gt h)]
  simp only [hc, h1, false_and, if_false, promElem, if_true, mapIdx_const]
  rw [Flagged.all_map_noFlag, hz, emptyCtx]

theorem kElem_int_val (e4 imag : Bool) (a b : List Nat) :
    ((kElem 4 e4 a b imag).val : Int) = ((a.zip b).map fun x => sByte x.1 * sByte x.2).sum % 2 ^ 32 := by
  have hsum : (List.zipWith (fun x y => sByte x * sByte y) a b).foldl (· + ·) 0 = ((a.zip b).map fun x => sByte x.1 * sByte x.2).sum := by
    rw [← List.map_uncurry_zip_eq_zipWith, List.sum_eq_foldl]
    rfl
  change (((BitVec.ofInt 32 _).toNat : Nat) : Int) = _
  rw [hsum, BitVec.toNat_ofInt]
  exact Int.toNat_of_nonneg (Int.emod_nonneg _ (by decide))

end Sys2Proof.Machine
end

section
/-! SUPPORT. Matrix instructions at issue (06 R172, R174, R175): the core with one more request in its matrix queue, whose registers wait. -/

namespace Sys2Proof.Machine

/-! ### Registers that wait -/

/-- The registers that wait for a result, and the destinations of one more instruction; s0 waits for none. -/
def awaited (ds : List Reg) (pend : List Reg) : List Reg := ds.foldl (fun l r => if r = .s 0 then l else r :: l.filter (· ≠ r)) pend

theorem State.pendReg_onCC (s : State) (f : Core → Core) (r : Reg) : (s.onCC f).pendReg r = s.onCC fun k => (f k).awaiting r := by
  unfold State.pendReg Core.awaiting
  split
  · rfl
  · exact State.onCC_onCC s f _

theorem State.foldl_pendReg_onCC (s : State) (f : Core → Core) (ds : List Reg) :
    ds.foldl (fun s d => s.pendReg d) (s.onCC f) = s.onCC fun k => ds.foldl Core.awaiting (f k) := by
  induction ds generalizing f with
  | nil => rfl
  | cons d ds ih => rw [List.foldl_cons, State.pendReg_onCC, ih]; rfl

section
variable (k : Core) (r : Reg)

@[simp] theorem Core.awaiting_mxq : (k.awaiting r).mxq = k.mxq := by unfold Core.awaiting; split <;> simp
@[simp] theorem Core.awaiting_accs : (k.awaiting r).accs = k.accs := by unfold Core.awaiting; split <;> simp
@[simp] theorem Core.awaiting_warn : (k.awaiting r).warn = k.warn := by unfold Core.awaiting; split <;> simp
@[simp] theorem Core.awaiting_fmt : (k.awaiting r).fmt = k.fmt := by unfold Core.awaiting; split <;> simp
@[simp] theorem Core.awaiting_ls : (k.awaiting r).ls = k.ls := by unfold Core.awaiting; split <;> simp
@[simp] theorem Core.awaiting_shadow : (k.awaiting r).shadow = k.shadow := by unfold Core.awaiting; split <;> simp

theorem Core.awaiting_running : (k.awaiting r).running = k.running.map fun x => (x.1, { x.2 with pend := awaited [r] x.2.pend }) := by
  unfold Core.awaiting
  split
  · simp [awaited, *]
  · rw [Core.onRun_running]
    simp only [awaited, List.foldl_cons, List.foldl_nil, if_neg ‹_›]

end

/-! ### The queue (R172) -/

/-- The request that a matrix instruction of the current bundle makes, with the format bits of its issue (R175). -/
def State.matrixRequest (s : State) (op : MxOp) : MxReq :=
  { id := s.fresh, act := s.me.id, seq := s.me.seq, op := op, e4 := s.e4, zs := s.zs, started := false, res := .none,
    flags := 0, committed := false, waitAt := none, prog := s.me.prog }

/-- The core with one more request in its matrix queue, whose registers wait (R174). -/
def Core.queueing (k : Core) (r : MxReq) : Core := r.op.dsts.foldl Core.awaiting { k with mxq := k.mxq ++ [r] }

theorem mxPush_eq (s : State) (op : MxOp) : mxPush s op = s.used1.onCC fun k => k.queueing (s.matrixRequest op) :=
  State.foldl_pendReg_onCC s.used1 _ op.dsts

/-- A field that no wait for a register changes is not changed by several. -/
theorem foldl_awaiting_field {α : Type} (g : Core → α) (hg : ∀ k r, g (k.awaiting r) = g k) (ds : List Reg) (k : Core) :
    g (ds.foldl Core.awaiting k) = g k := by
  induction ds generalizing k with
  | nil => rfl
  | cons d ds ih => rw [List.foldl_cons, ih, hg]

section
variable (k : Core) (r : MxReq)

@[simp] theorem Core.queueing_mxq : (k.queueing r).mxq = k.mxq ++ [r] := foldl_awaiting_field Core.mxq Core.awaiting_mxq _ _
@[simp] theorem Core.queueing_accs : (k.queueing r).accs = k.accs := foldl_awaiting_field Core.accs Core.awaiting_accs _ _
@[simp] theorem Core.queueing_warn : (k.queueing r).warn = k.warn := foldl_awaiting_field Core.warn Core.awaiting_warn _ _
@[simp] theorem Core.queueing_fmt : (k.queueing r).fmt = k.fmt := foldl_awaiting_field Core.fmt Core.awaiting_fmt _ _
@[simp] theorem Core.queueing_ls : (k.queueing r).ls = k.ls := foldl_awaiting_field Core.ls Core.awaiting_ls _ _
@[simp] theorem Core.queueing_shadow : (k.queueing r).shadow = k.shadow := foldl_awaiting_field Core.shadow Core.awaiting_shadow _ _

theorem Core.queueing_running : (k.queueing r).running = k.running.map fun x => (x.1, { x.2 with pend := awaited r.op.dsts x.2.pend }) := by
  have h : ∀ (ds : List Reg) (k : Core),
      (ds.foldl Core.awaiting k).running = k.running.map fun x => (x.1, { x.2 with pend := awaited ds x.2.pend }) := by
    intro ds
    induction ds with
    | nil => intro k; simp [awaited]
    | cons d ds ih => intro k; rw [List.foldl_cons, ih, Core.awaiting_running, Option.map_map]; rfl
  exact h _ _

end

theorem State.me_onCC_map {s : State} {f : Core → Core} {g : Act → Act} (hl : s.live = true)
    (hf : (f s.cc).running = s.cc.running.map fun x => (x.1, g x.2)) : (s.onCC f).me = g s.me := by
  obtain ⟨x, hx⟩ := Option.isSome_iff_exists.1 hl
  simp [State.me, hf, hx]

/-! ### What a form that queues a request answers -/

/-- The instruction goes on and queues the request of an operation, beside `accs` further accesses; its registers wait, and else
the state is as in `u`. -/
def AddsRequest (i : Instr) (s u : State) (op : MxOp) (accs : List Access) : Prop :=
  ∃ t, exec i s = .next t ∧ SameBytes s t ∧ t.sansCC = u.sansCC ∧ t.cc.mxq = s.cc.mxq ++ [s.matrixRequest op] ∧
    t.cc.accs = s.cc.accs ++ accs ∧ t.cc.warn = u.cc.warn ∧ t.me = { s.me with pend := awaited op.dsts s.me.pend }

/-- The core with one more request in its matrix queue and further accesses. -/
def Core.requesting (k : Core) (r : MxReq) (accs : List Access) : Core := { k.queueing r with accs := k.accs ++ accs }

theorem Core.requesting_nil (k : Core) (r : MxReq) : k.requesting r [] = k.queueing r := by
  rw [Core.requesting, List.append_nil]
  exact congrArg (fun a => { k.queueing r with accs := a }) (k.queueing_accs r).symm

/-- Of a state `u` whose core differs from that of `s` at most in what the statement does not name. -/
theorem addsRequest_of_requesting {i : Instr} {s u : State} {op : MxOp} {accs : List Access} (hl : s.live = true)
    (hb : SameBytes s u) (hr : u.cc.running = s.cc.running) (hq : u.cc.mxq = s.cc.mxq) (ha : u.cc.accs = s.cc.accs)
    (he : exec i s = .next (u.onCC fun k => k.requesting (s.matrixRequest op) accs)) : AddsRequest i s u op accs := by
  have hlu : u.live = true := by rw [State.live, hr]; exact hl
  have hme : u.me = s.me := by rw [State.me, hr]; rfl
  refine ⟨_, he, hb.trans (sameBytes_onCC u _ (Core.queueing_ls ..) (Core.queueing_shadow ..)), State.sansCC_onCC u _, ?_, ?_, ?_, ?_⟩
  · rw [State.cc_onCC, ← hq]
    exact Core.queueing_mxq ..
  · rw [State.cc_onCC, ← ha]
    rfl
  · rw [State.cc_onCC]
    exact Core.queueing_warn ..
  · rw [← hme]
    exact State.me_onCC_map (g := fun a => { a with pend := awaited op.dsts a.pend }) hlu (Core.queueing_running ..)

/-! ### Waits at issue -/

section
variable {s : State} (hu : unconfirmed s.cc s.me.id = false)
include hu

theorem waitConfirm_eq_none : waitConfirm s = none := by simp [waitConfirm, hu]

theorem mxWait_eq_none (hr : (s.cc.mxq.filter (fun r => !r.started)).length < 2) : mxWait s = none := by
  simp [mxWait, waitConfirm_eq_none hu, mxRoom, hr]

end

/-- A form whose checks pass, which waits for nothing and whose effect is to queue a request. -/
theorem addsRequest_of_guarded {i : Instr} {s : State} {op : MxOp} {t : Option Trap} {w : Option State} (hl : s.live = true)
    (hp : s.phase ≠ .dry) (he : exec i s = guarded s t w (mxPush s op)) (ht : t = none) (hw : w = none) : AddsRequest i s s.used1 op [] := by
  refine addsRequest_of_requesting hl (SameBytes.refl s) rfl rfl rfl ?_
  simp only [he, ht, hw, guarded_acts hp, mxPush_eq, Core.requesting_nil]

/-- `mx.prom` with an aligned scale vector within the activation's local store (R186). -/
theorem addsRequest_prom {s : State} {c : AccReg} {sa sb : SReg} (hl : s.live = true) (hp : s.phase ≠ .dry) (hw : mxWait s = none)
    (ha : bitsNat (s.rs sa) 16 0 % 4 = 0) (hv : (lsPlace s.me (BitVec.ofNat 64 (bitsNat (s.rs sa) 16 0)) 256).isSome = true) :
    AddsRequest (.mxProm c sa sb) s s.used1 (.prom c (some ((List.range 64).map fun i =>
      BitVec.ofNat 32 (ofLe (((readLs s (bitsNat (s.rs sa) 16 0) 256).drop (4 * i)).take 4)), (s.rs sb).setWidth 32))) [] := by
  refine addsRequest_of_guarded hl hp (t := _) (w := mxWait s) rfl ?_ hw
  rw [if_neg (fun h => h ha), if_neg (by simp [Option.isSome_iff_ne_none.1 hv])]

/-! ### K-steps (R183) -/

theorem sameBytes_qualIf (s : State) (c : Bool) : SameBytes s (s.qualIf c) := by
  unfold State.qualIf
  split
  · exact sameBytes_onCC s _ (warnCore_ls ..) (warnCore_shadow ..)
  · exact SameBytes.refl s

@[simp] theorem warnCore_mxq (k : Core) (w : Word) (pc : Nat) : (warnCore k w pc).mxq = k.mxq := by unfold warnCore; split <;> rfl
@[simp] theorem warnCore_accs (k : Core) (w : Word) (pc : Nat) : (warnCore k w pc).accs = k.accs := by unfold warnCore; split <;> rfl
@[simp] theorem warnCore_fmt (k : Core) (w : Word) (pc : Nat) : (warnCore k w pc).fmt = k.fmt := by unfold warnCore; split <;> rfl

/-- A field of the core that no warning changes is not changed by a fallback. -/
theorem qualIf_field {α : Type} (g : Core → α) (hg : ∀ k w pc, g (warnCore k w pc) = g k) (s : State) (c : Bool) :
    g (s.qualIf c).cc = g s.cc := by
  unfold State.qualIf State.warn
  split
  · rw [State.cc_onCC, hg]
  · rfl

theorem matrixRequest_qualIf (s : State) (c : Bool) (op : MxOp) : (s.qualIf c).matrixRequest op = s.matrixRequest op := by
  have hfmt : (s.qualIf c).cc.fmt = s.cc.fmt := qualIf_field Core.fmt warnCore_fmt s c
  have hfresh : (s.qualIf c).fresh = s.fresh := by unfold State.qualIf; split <;> rfl
  simp only [State.matrixRequest, State.e4, State.zs, hfmt, hfresh, State.me_qualIf]

theorem addsRequest_mma {i : Instr} {s : State} {f : Nat} {c : AccReg} {xa xb : XReg} (hl : s.live = true) (hp : s.phase ≠ .dry)
    (hw : mxWait s = none) (he : exec i s = mmaIssue f c xa xb s) :
    let pp := (mxProject s.me (mxReqsOf s s.me.id) c).1
    let imp := decide (pp = 4 ∨ (0 < pp ∧ (mxProject s.me (mxReqsOf s s.me.id) c).2 ≠ mmaClass f))
    AddsRequest i s (s.qualIf imp).used1 (.mma f c xa xb imp) [] := by
  intro pp imp
  have hg : mmaIssue f c xa xb s = guarded s none (mxWait s) (mxPush (s.qualIf imp) (.mma f c xa xb imp)) := rfl
  refine addsRequest_of_requesting hl (sameBytes_qualIf s imp) (qualIf_field Core.running warnCore_running s imp)
    (qualIf_field Core.mxq warnCore_mxq s imp) (qualIf_field Core.accs warnCore_accs s imp) ?_
  simp only [he, hg, hw, guarded_acts hp, mxPush_eq, matrixRequest_qualIf, Core.requesting_nil]

/-! ### Rows and scales of `mx.ldw` (R182) -/

theorem walkedTake_onCC (s : State) (f : Core → Core) (part va : Nat) : walkedTake (s.onCC f) part va = (walkedTake s part va).onCC f := rfl

theorem State.used1_onCC (s : State) (f : Core → Core) : (s.onCC f).used1 = s.used1.onCC f := rfl

/-- The access of `mx.ldw` is the next request after its matrix request. -/
theorem addAccess_mxPush_ldw {s : State} (hl : s.live = true) (op : MxOp) (va : Nat) :
    addAccess (mxPush s op) (.ldw s.fresh) va 0 false false 2 none = (s.used1.asked true va).onCC fun k =>
      k.requesting (s.matrixRequest op) [s.used1.request (.ldw s.fresh) va 0 false false 2 none] := by
  have hme : (mxPush s op).me = { s.me with pend := awaited op.dsts s.me.pend } := by
    rw [mxPush_eq]
    exact State.me_onCC_map (g := fun a => { a with pend := awaited op.dsts a.pend }) hl (Core.queueing_running ..)
  have he4 : (mxPush s op).e4 = s.e4 := by
    rw [mxPush_eq, State.e4, State.cc_onCC, Core.queueing_fmt]
    rfl
  simp only [addAccess, AccKind.toMemory, if_true, hme, he4]
  rw [mxPush_eq, walkedTake_onCC, State.used1_onCC, State.onCC_onCC]
  simp only [Core.queueing_accs]
  rfl

theorem addsRequest_ldw {i : Instr} {s : State} {q4 : Bool} {xa : XReg} {sa sb : SReg} (hl : s.live = true) (hp : s.phase ≠ .dry)
    (hw : mxWait s = none) (he : exec i s = ldwIssue q4 xa sa sb s) (ht : ldwTrap s q4 (s.rs sa) (s.rs sb) = none)
    (hc : ∀ p ∈ ldwPieces q4 (s.rs sa) (s.rs sb), redCovers s (myPlace s p.1 p.2) p.2 = false) :
    AddsRequest i s (s.used1.asked true (s.rs sa).toNat) (.ldw q4 xa (s.rs sa) (s.rs sb))
      [s.used1.request (.ldw s.fresh) (s.rs sa).toNat 0 false false 2 none] := by
  have hred : (ldwPieces q4 (s.rs sa) (s.rs sb)).findSome? (fun p => redWait s p.1 p.2) = none :=
    List.findSome?_eq_none_iff.2 fun p hm => by simp [redWait, redWaitAt, hc p hm]
  refine addsRequest_of_requesting hl (fun _ => rfl) rfl rfl rfl (he.trans ?_)
  rw [ldwIssue, ht, hw, hred]
  exact (guarded_acts hp).trans (congrArg _ (addAccess_mxPush_ldw hl _ _))

/-! ### The forms, by the issue that they share -/

section
variable (s : State) (c : AccReg) (xa xb : XReg) (sa sb : SReg)

theorem exec_mma : ∀ x ∈ [(Instr.mxMmaE4m3 c xa xb, 0), (.mxMmaE5m2 c xa xb, 1), (.mxMmxE4m3 c xa xb, 2), (.mxMmxE5m2 c xa xb, 3),
      (.mxMmaI8 c xa xb, 4), (.mxMmaBf16 c xa xb, 5), (.mxCmmaBf16 c xa xb, 6)], exec x.1 s = mmaIssue x.2 c xa xb s := by
  simp only [List.forall_mem_cons]
  exact ⟨rfl, rfl, rfl, rfl, rfl, rfl, rfl, List.forall_mem_nil _⟩

theorem exec_opnd (a b : Word) (ha : s.rs sa = a) (hb : s.rs sb = b) :
    ∀ x ∈ [(Instr.mxLd xa sa sb, MxOp.ld false false xa a b, 64, 1), (.mxLd2 xa sa sb, .ld true false xa a b, 64, 2),
      (.mxLdt xa sa sb, .ld false true xa a b, 32, 2), (.mxAstF32 c sa sb, .ast false c a b, 64, 8), (.mxAstBf16 c sa sb, .ast true c a b, 64, 4),
      (.mxAldF32 c sa sb, .ald c a b, 64, 8)],
    exec x.1 s = guarded s (opndTrap s a b x.2.2.1 x.2.2.2) ((mxWait s).orElse fun _ => opndWait s a b x.2.2.1) (mxPush s x.2.1) := by
  subst ha hb
  simp only [List.forall_mem_cons]
  exact ⟨rfl, rfl, rfl, rfl, rfl, rfl, List.forall_mem_nil _⟩

theorem exec_ldw : ∀ x ∈ [(Instr.mxLdwQ4 xa sa sb, true), (.mxLdwE4m3 xa sa sb, false)], exec x.1 s = ldwIssue x.2 xa sa sb s := by
  simp only [List.forall_mem_cons]
  exact ⟨rfl, rfl, List.forall_mem_nil _⟩

end

/-- An `mx.sync` holds the next bundle while an earlier request of the core is out (R190). -/
theorem mayIssue_eq_false_of_held {u : State} {core : Nat} {a : Act} {r : MxReq} (hr : r ∈ (u.core core).mxq) (hlt : r.id < a.mxHold) :
    mayIssue u core a = false := by
  have h : (u.core core).mxq.any (fun r => decide (r.id < a.mxHold)) = true := List.any_eq_true.2 ⟨r, hr, decide_eq_true hlt⟩
  simp [mayIssue, h]

end Sys2Proof.Machine
end

section
/-! SUPPORT. Matrix requests that start and complete (06 R171-R173, R190-R195): what a stage that takes a request changes, what a cluster
without leave asks for, and what a completed request leaves. -/

namespace Sys2Proof.Machine

/-! ### Memory stays -/

theorem sameBytes_onCore (s : State) (c : Nat) {f : Core → Core} (h₁ : (f (s.core c)).ls = (s.core c).ls)
    (h₂ : (f (s.core c)).shadow = (s.core c).shadow) : SameBytes s (s.onCore c f) := by
  -- no byte of memory depends on which core is the current one
  intro p
  have h := sameBytes_onCC { s with cur := c } f h₁ h₂ p
  cases p <;> exact h

theorem sameBytes_onCluster (s : State) (c : Nat) {f : Cluster → Cluster} (h : (f (s.cluster c)).spad = (s.cluster c).spad) :
    SameBytes s (s.onCluster c f) := by
  intro p
  cases p with
  | spad c' a =>
    by_cases hc : c' = c
    · subst hc; simpa [State.byte] using congrArg (mget · a) h
    · simp [State.byte, hc]
  | ls | shadow | dram | host => rfl

/-! ### A stage takes a request (R172, R173) -/

section
variable (s : State) (cl stage core : Nat) (r : MxReq) (m : MxState)

theorem sameBytes_mxRun : SameBytes s (mxRun s cl stage core r m) := by
  unfold mxRun
  refine (sameBytes_onCore s core ?_ ?_).trans (sameBytes_onCluster _ cl rfl)
  · dsimp only; split <;> rfl
  · dsimp only; split <;> rfl

theorem mxRun_stage {g : Stage} (hg : (s.cluster cl).stages[stage]? = some g) :
    ((mxRun s cl stage core r m).cluster cl).stages[stage]? = some { busy := some (core, r.id), last := core % 4 } := by
  simp [mxRun, hg]

theorem mxRun_mxq : ((mxRun s cl stage core r m).core core).mxq = (s.core core).mxq.map fun q =>
    if q.id = r.id then { q with started := true, res := (mxStart s core m r).1, flags := (mxStart s core m r).2, waitAt := none } else q := by
  rw [mxRun, State.core_onCluster, State.core_onCore_same]
  dsimp only
  split <;> rfl

end

/-- The request of a core starts in a free stage of a cluster. -/
def Starts (s : State) (cl stage core : Nat) (r : MxReq) (a : Act) : Prop :=
  ∃ t, exec (.mxRequestStart cl stage) s = .next t ∧ SameBytes s t ∧
    (t.cluster cl).stages[stage]? = some { busy := some (core, r.id), last := core % 4 } ∧
    (t.core core).mxq = (s.core core).mxq.map fun q => if q.id = r.id then
      { q with started := true, res := (mxStart s core a.mx r).1, flags := (mxStart s core a.mx r).2, waitAt := none } else q

section
variable {s : State} {cl stage core : Nat} {g : Stage} {r : MxReq} {a : Act} (hg : (s.cluster cl).stages[stage]? = some g) (hb : g.busy = none)
  (hc : ([1, 2, 3, 4].map fun d => 4 * cl + (g.last + d) % 4).findSome? (fun c => (mxCandidate s c stage).map fun r => (c, r)) = some (core, r))
  (ha : s.findAct r.act = some a)
include hg hb hc ha

theorem exec_mxRequestStart_of_not_mma (hop : ∀ f c xa xb imp, r.op ≠ .mma f c xa xb imp) :
    exec (.mxRequestStart cl stage) s = .next (mxRun s cl stage core r a.mx) := by
  change execMxRequestStart cl stage s = _
  have hfree : stageFree s g = true := by simp [stageFree, hb]
  unfold execMxRequestStart
  simp only [hg, hfree, hc, ha]
  cases h : r.op with
  | mma f c xa xb imp => exact absurd h (hop f c xa xb imp)
  | _ => rfl

theorem exec_mxRequestStart_of_mma {f : Nat} {c : AccReg} {xa xb : XReg} {imp : Bool} (hop : r.op = .mma f c xa xb imp) :
    exec (.mxRequestStart cl stage) s = .next (if (s.cluster cl).held = 0 then mxAsk s cl core
      else mxRun (if wholeSkip f r.e4 r.zs (mmaIn a.mx f xa xb) then s else s.onCluster cl fun c => { c with held := c.held - 1 })
        cl stage core r a.mx) := by
  change execMxRequestStart cl stage s = _
  have hfree : stageFree s g = true := by simp [stageFree, hb]
  unfold execMxRequestStart
  simp only [hg, hfree, hc, ha, hop]
  rfl

theorem starts_of_not_mma (hop : ∀ f c xa xb imp, r.op ≠ .mma f c xa xb imp) : Starts s cl stage core r a :=
  ⟨_, exec_mxRequestStart_of_not_mma hg hb hc ha hop, sameBytes_mxRun _ _ _ _ _ _, mxRun_stage _ _ _ _ _ _ hg, mxRun_mxq ..⟩

theorem starts_of_mma {f : Nat} {c : AccReg} {xa xb : XReg} {imp : Bool} (hop : r.op = .mma f c xa xb imp) (hh : 0 < (s.cluster cl).held) :
    Starts s cl stage core r a := by
  have he := exec_mxRequestStart_of_mma hg hb hc ha hop
  rw [if_neg (Nat.ne_of_gt hh)] at he
  split at he
  · exact ⟨_, he, sameBytes_mxRun _ _ _ _ _ _, mxRun_stage _ _ _ _ _ _ hg, mxRun_mxq ..⟩
  · -- a K-step fixes its partials from the activation's registers alone
    have hst : mxStart (s.onCluster cl fun c => { c with held := c.held - 1 }) core a.mx r = mxStart s core a.mx r := by
      simp only [mxStart, hop]
    have hb : SameBytes s (s.onCluster cl fun c => { c with held := c.held - 1 }) := sameBytes_onCluster s cl rfl
    refine ⟨_, he, hb.trans (sameBytes_mxRun _ _ _ _ _ _), mxRun_stage _ _ _ _ _ _ (g := g) ?_, ?_⟩
    · simpa using hg
    · rw [mxRun_mxq, hst]
      rfl

end

/-! ### No leave token (R192) -/

/-- The state in which the governor of the cluster's die has been asked for 64 tokens, once. -/
def State.asksTokens (s : State) (cl core : Nat) : State :=
  if (s.cluster cl).asked = 0 then askLeave (s.onCluster cl fun c => { c with asked := 64 }) (cl / 64) (.mx cl core) 64 else s

/-- The cycle from which the K-step of a core waits, if it has one that could start. -/
def State.waitsForLeave (s : State) (c : Nat) : State :=
  match mxCandidate s c 1 with
  | some r => s.onCore c fun k =>
      { k with mxq := k.mxq.map fun q => if q.id = r.id then { q with waitAt := q.waitAt.orElse fun _ => some s.now } else q }
  | none => s

theorem mxAsk_eq (s : State) (cl core : Nat) : mxAsk s cl core = (clusterCores cl).foldl State.waitsForLeave (s.asksTokens cl core) := rfl

/-- Only requests in the queues change while the waits are noted. -/
theorem foldl_waitsForLeave_frame (u : State) (l : List Nat) :
    SameBytes u (l.foldl State.waitsForLeave u) ∧ (l.foldl State.waitsForLeave u).clusters = u.clusters ∧
      (l.foldl State.waitsForLeave u).dies = u.dies := by
  induction l generalizing u with
  | nil => exact ⟨SameBytes.refl u, rfl, rfl⟩
  | cons c l ih =>
    have hstep : SameBytes u (u.waitsForLeave c) ∧ (u.waitsForLeave c).clusters = u.clusters ∧ (u.waitsForLeave c).dies = u.dies := by
      unfold State.waitsForLeave
      split
      · exact ⟨sameBytes_onCore u c rfl rfl, rfl, rfl⟩
      · exact ⟨SameBytes.refl u, rfl, rfl⟩
    obtain ⟨hm, hcl, hd⟩ := ih (u.waitsForLeave c)
    exact ⟨hstep.1.trans hm, hcl.trans hstep.2.1, hd.trans hstep.2.2⟩

/-- A K-step that finds no token waits: one request for 64 tokens is out. -/
def AsksForLeave (s t : State) (cl core : Nat) : Prop :=
  SameBytes s t ∧ (t.cluster cl).stages = (s.cluster cl).stages ∧ (t.cluster cl).asked ≠ 0 ∧
    ((s.cluster cl).asked = 0 → (t.cluster cl).asked = 64 ∧
      (t.die (cl / 64)).reqs = (s.die (cl / 64)).reqs ++ [{ pool := .mx cl core, n := 64, refused := false, since := s.now }]) ∧
    ((s.cluster cl).asked ≠ 0 → t.dies = s.dies)

theorem asksForLeave_asksTokens (s : State) (cl core : Nat) : AsksForLeave s (s.asksTokens cl core) cl core := by
  unfold State.asksTokens
  split
  · next h =>
    have hc : (askLeave (s.onCluster cl fun c => { c with asked := 64 }) (cl / 64) (.mx cl core) 64).cluster cl =
        { s.cluster cl with asked := 64 } := State.cluster_onCluster_same s cl fun c => { c with asked := 64 }
    have hb : SameBytes s (s.onCluster cl fun c => { c with asked := 64 }) := sameBytes_onCluster s cl rfl
    refine ⟨hb.trans fun _ => rfl, ?_, ?_, fun _ => ⟨?_, ?_⟩, fun h' => absurd h h'⟩
    · rw [hc]
    · rw [hc]; exact Nat.succ_ne_zero 63
    · rw [hc]
    · rw [askLeave, State.die_onDie_same]
      rfl
  · next h => exact ⟨SameBytes.refl s, rfl, h, fun h' => absurd h' h, fun _ => rfl⟩

theorem asksForLeave_mxAsk (s : State) (cl core : Nat) : AsksForLeave s (mxAsk s cl core) cl core := by
  obtain ⟨hb, hst, hne, hfirst, hdies⟩ := asksForLeave_asksTokens s cl core
  obtain ⟨hb', hcl', hd'⟩ := foldl_waitsForLeave_frame (s.asksTokens cl core) (clusterCores cl)
  rw [mxAsk_eq]
  have hcl : ((clusterCores cl).foldl State.waitsForLeave (s.asksTokens cl core)).cluster cl = (s.asksTokens cl core).cluster cl := by
    rw [State.cluster, hcl', State.cluster]
  have hd : ((clusterCores cl).foldl State.waitsForLeave (s.asksTokens cl core)).die (cl / 64) = (s.asksTokens cl core).die (cl / 64) := by
    rw [State.die, hd', State.die]
  unfold AsksForLeave
  rw [hcl, hd, hd']
  exact ⟨hb.trans hb', hst, hne, hfirst, hdies⟩

/-! ### A request completes (R191, R195) -/

/-- A core with a change of every activation of a number. -/
def Core.onActs (k : Core) (n : Nat) (f : Act → Act) : Core :=
  let g := fun (a : Act) => if a.id = n then f a else a
  { k with acts := fmapVals (fun _ a => g a) k.acts, fibres := fmapVals (fun _ a => g a) k.fibres,
           recs := k.recs.map fun r => { r with act := r.act.map g } }

theorem core_onActAll (s : State) (n : Nat) (f : Act → Act) (c : Nat) : (s.onActAll n f).core c = (s.core c).onActs n f := by
  have h : (s.onActAll n f).cores = fmapVals (fun _ k => k.onActs n f) s.cores := rfl
  rw [State.core, h, fget_fmapVals, State.core]
  cases fget s.cores c <;> rfl

theorem sameBytes_onActAll (s : State) (n : Nat) (f : Act → Act) : SameBytes s (s.onActAll n f) := by
  intro p
  cases p with
  | ls c a => simp [State.byte, core_onActAll, Core.onActs]
  | shadow c a => simp [State.byte, core_onActAll, Core.onActs]
  | spad | dram | host => rfl

theorem Core.onActs_running (k : Core) (n : Nat) (f : Act → Act) :
    (k.onActs n f).running = k.running.map fun x => (x.1, if x.2.id = n then f x.2 else x.2) := by
  simp only [Core.running, Core.onActs]
  cases k.run with
  | none => rfl
  | some x => simp only [fget_fmapVals, Option.map_map]; rfl

/-- The state in which a request of a core has landed in its activation, and neither its queue nor its stage holds it any more. -/
def State.completed (s : State) (core : Nat) (r : MxReq) : State :=
  ((s.onActAll r.act (mxLand r)).onCore core fun k => { k with mxq := k.mxq.filter fun q => decide (q.id ≠ r.id) }).onCluster (clusterOf core)
    fun c => { c with stages := c.stages.map fun g => if g.busy = some (core, r.id) then { g with busy := none } else g }

section
variable (s : State) (core : Nat) (r : MxReq)

theorem sameBytes_completed : SameBytes s (s.completed core r) :=
  ((sameBytes_onActAll s r.act (mxLand r)).trans (sameBytes_onCore _ core rfl rfl)).trans (sameBytes_onCluster _ _ rfl)

theorem completed_core : (s.completed core r).core core =
    { (s.core core).onActs r.act (mxLand r) with mxq := (s.core core).mxq.filter fun q => decide (q.id ≠ r.id) } := by
  rw [State.completed, State.core_onCluster, State.core_onCore_same, core_onActAll]
  rfl

theorem completed_stages : ∀ g ∈ ((s.completed core r).cluster (clusterOf core)).stages, g.busy ≠ some (core, r.id) := by
  rw [State.completed, State.cluster_onCluster_same]
  intro g hg
  obtain ⟨g', -, rfl⟩ := List.mem_map.1 hg
  split
  · simp
  · assumption

end

/-- The register-only forms, which touch no memory once they have issued (R198). -/
def MxOp.registerOnly : MxOp → Bool
  | .mma .. | .prom .. | .azero _ | .stat .. | .drop _ => true
  | .ld .. | .ldw .. | .ast .. | .ald .. => false

theorem exec_mxRequestComplete {s : State} {core : Nat} {r : MxReq} {a : Act} (hq : (s.core core).mxq = [r]) (hd : mxDone s core r = true)
    (hreg : r.op.registerOnly = true) (ha : s.findAct r.act = some a) (hf : (mxApply r a.mx).2 = 0) :
    exec (.mxRequestComplete core r.id) s = .next (s.completed core r) := by
  have hfind : (s.core core).mxq.find? (fun q => decide (q.id = r.id)) = some r := by simp [hq]
  change execMxRequestComplete core r.id s = _
  unfold execMxRequestComplete
  simp only [hfind, hd]
  cases hop : r.op with
  | ld | ldw | ast | ald => rw [hop] at hreg; exact absurd hreg Bool.false_ne_true
  | mma | prom | azero | stat | drop =>
    simp only [Bool.not_true, Bool.false_eq_true, if_false, hfind, Option.getD_some, ha, Option.map_some, hf, landFlags, if_true]; rfl

/-- The registers of an activation once a request has landed: only `mx.stat` writes one (R190). -/
def MxOp.landRegs (op : MxOp) (a : Act) : Regs :=
  match op with
  | .stat d c => a.regs.setS d (mxStatWord (a.mx.ctx.get c.toFin))
  | _ => a.regs

/-- What landing does to an activation to whose committed part the request does not belong. -/
theorem mxLand_of_not_committed {r : MxReq} {a : Act} (h : r.committed = false) :
    mxLand r a = { a with regs := r.op.landRegs a, mx := (mxApply r a.mx).1, pend := a.pend.filter fun x => !r.op.dsts.contains x } := by
  simp only [mxLand, h]
  rfl

/-- A completed request of the running activation leaves this matrix state, these registers and these waits in it, and neither its queue
nor a stage holds it. -/
def Lands (s : State) (r : MxReq) (a : Act) (m : MxState) (regs : Regs) (pend : List Reg) : Prop :=
  ∃ t, exec (.mxRequestComplete s.cur r.id) s = .next t ∧ SameBytes s t ∧ t.cc.mxq = [] ∧
    t.me = { a with mx := m, regs := regs, pend := pend } ∧
    ∀ g ∈ (t.cluster (clusterOf s.cur)).stages, g.busy ≠ some (s.cur, r.id)

section
variable {s : State} {r : MxReq} {a : Act}

theorem me_completed (hl : s.live = true) (hme : s.me = a) (hact : r.act = a.id) : (s.completed s.cur r).me = mxLand r a := by
  obtain ⟨x, hx⟩ := Option.isSome_iff_exists.1 hl
  have hxa : x.2 = a := by simpa [State.me, hx] using hme
  have hr : (s.completed s.cur r).cc.running = some (x.1, mxLand r a) := by
    change ((s.completed s.cur r).core s.cur).running = _
    rw [completed_core]
    refine (Core.onActs_running (s.core s.cur) r.act (mxLand r)).trans ?_
    rw [show (s.core s.cur).running = some x from hx, Option.map_some, hxa, if_pos hact.symm]
  rw [State.me, hr]
  rfl

variable (hl : s.live = true) (hme : s.me = a) (hq : s.cc.mxq = [r]) (hact : r.act = a.id) (ha : s.findAct r.act = some a)
  (hcom : r.committed = false) (hreq : mxReqsOf s a.id = [r]) (hacq : ∀ y ∈ s.cc.accs, y.act = a.id → y.acq = false)

include hq hact hreq hacq in
/-- The only request of a core and of its activation, of a register-only form, may complete once it has started, or at once when it uses no
stage. -/
theorem mxDone_of_only (hreg : r.op.registerOnly = true) (hs : r.op.stage = none ∨ r.started = true) : mxDone s s.cur r = true := by
  have hq' : (s.core s.cur).mxq = [r] := hq
  have hbefore : mxBefore (s.core s.cur) r.id = [] := by simp [mxBefore, hq']
  have hearlier : mxEarlier s r = [] := by simp [mxEarlier, hact, hreq]
  have hheld : mxHeld (s.core s.cur) r = false := by
    refine Bool.eq_false_iff.2 fun h => ?_
    obtain ⟨y, hy, h⟩ := List.any_eq_true.1 h
    rw [Bool.and_eq_true, decide_eq_true_eq] at h
    exact Bool.false_ne_true ((hacq y hy (h.1.1.trans hact)).symm.trans h.2)
  unfold mxDone
  rw [hbefore, hearlier, hheld]
  cases hop : r.op with
  | ld | ldw | ast | ald => rw [hop] at hreg; exact absurd hreg Bool.false_ne_true
  | stat | drop => rfl
  | mma | prom | azero =>
    have hst : r.started = true := hs.resolve_left (by rw [hop]; exact Option.some_ne_none _)
    rw [hst]
    rfl

include hl hme hq hact ha hcom hreq hacq in
/-- It lands with what it does to a matrix state, when it sets no flag. -/
theorem lands_of_apply {op : MxOp} {m : MxState} (hop : r.op = op) (hreg : op.registerOnly = true) (hs : op.stage = none ∨ r.started = true)
    (happ : mxApply r a.mx = (m, 0)) : Lands s r a m (op.landRegs a) (a.pend.filter fun x => !op.dsts.contains x) := by
  subst hop
  have hd := mxDone_of_only hq hact hreq hacq hreg hs
  refine ⟨_, exec_mxRequestComplete hq hd hreg ha (congrArg Prod.snd happ), sameBytes_completed s s.cur r, ?_, ?_, completed_stages s s.cur r⟩
  · change ((s.completed s.cur r).core s.cur).mxq = []
    rw [completed_core]
    simp [show (s.core s.cur).mxq = [r] from hq]
  · rw [me_completed hl hme hact, mxLand_of_not_committed hcom, happ]

end

/-! ### What a completed request does to a matrix state -/

section
variable {r : MxReq} {m : MxState} {c : AccReg}

theorem mxApply_azero (h : r.op = .azero c) : mxApply r m = ((m.setAcc c 0).setCtx c emptyCtx, 0) := by simp only [mxApply, h]

theorem mxApply_drop (h : r.op = .drop c) : mxApply r m = (m.setCtx c emptyCtx, 0) := by simp only [mxApply, h]

theorem mxStatWord_eq (x : MxCtx) :
    mxStatWord x = if x.pp = 0 then 0 else BitVec.ofNat 64 (x.pp + 16 * x.cls + (if x.blkz then 128 else 0)) :=
  apply_ite (BitVec.ofNat 64) (x.pp = 0) 0 _

theorem mxApply_stat {d : SReg} (h : r.op = .stat d c) : mxApply r m = (m, 0) := by simp only [mxApply, h]

/-- A K-step of integers that promotes nothing first is added into the format context (R183). -/
theorem mxApply_mma_int {xa xb : XReg} {v : BitVec 131072} {rz : BitVec 64} {bz : Bool} (h : r.op = .mma 4 c xa xb false)
    (hres : r.res = .part v rz bz) (hfl : r.flags = 0) :
    mxApply r m = (m.setCtx c (addPartial 2 (m.ctx.get c.toFin) v rz bz).1, (addPartial 2 (m.ctx.get c.toFin) v rz bz).2) := by
  simp only [mxApply, h, hres, hfl, mmaClass]
  simp

/-- An integer promotion adds the pending partial to the accumulator (R186). -/
theorem mxApply_prom_int {sc : Option (List (BitVec 32) × BitVec 32)} (h : r.op = .prom c sc) (hp : 0 < (m.ctx.get c.toFin).pp)
    (hc : (m.ctx.get c.toFin).cls = 2) :
    mxApply r m = ((m.setAcc c (accOf (addElems (m.ctx.get c.toFin).part (m.acc.get c.toFin)))).setCtx c emptyCtx, 0) := by
  simp only [mxApply, h, promote_int hp hc]

end

/-! ### The matrix state of an activation enters its core (R194) -/

theorem exec_mxStateCopy {s : State} {core ctx : Nat} {r : MxReq} {a : Act} (hq : (s.core core).mxq = [r]) (hr : r.act = a.id)
    (hs : r.started = false) (ha : fget (s.core core).acts ctx = some a) :
    exec (.mxStateCopy core ctx) s = .next (s.onCore core fun k =>
      { k with acts := fmapVals (fun x a => { a with mxPlaced := decide (x = ctx) }) k.acts }) := by
  change execMxStateCopy core ctx s = _
  simp [execMxStateCopy, ha, hq, hs, hr]

/-- Of the contexts of the current core, that one alone has its matrix state in the core. -/
theorem mxStateCopy_answers {s : State} {ctx : Nat} {r : MxReq} {a : Act} (hrun : s.cc.run = some ctx) (hq : s.cc.mxq = [r])
    (hr : r.act = a.id) (hs : r.started = false) (ha : fget s.cc.acts ctx = some a) :
    ∃ t, exec (.mxStateCopy s.cur ctx) s = .next t ∧ SameBytes s t ∧ t.me = { a with mxPlaced := true } ∧
      ∀ n b, n ≠ ctx → fget s.cc.acts n = some b → fget t.cc.acts n = some { b with mxPlaced := false } := by
  refine ⟨_, exec_mxStateCopy hq hr hs ha, sameBytes_onCore s s.cur rfl rfl, ?_, fun n b hn hb => ?_⟩
  · change (s.onCC _).me = _
    simp [State.me, Core.running, hrun, ha]
  · change fget (s.onCC _).cc.acts n = _
    simp [hb, hn]

end Sys2Proof.Machine
end

section
/-! PROOFS. The matrix unit (06). -/

namespace Sys2Proof.Machine

/-- Settles O40: each form passes its guard and queues its request; a K-step warns before, an `mx.ldw` also makes an access. That `mx.stat`
and `mx.drop` take an entry of the queue while `mx.sync` takes none is the model's choice (log 112). -/
theorem matrixIssue : Obligations.MatrixIssue := by
  unfold Obligations.MatrixIssue
  intro s c xa xb sa sb d hl hp hu hroom a b req adds queues
  have hw : mxWait s = none := mxWait_eq_none hu hroom
  have hq : ∀ {i : Instr} {op : MxOp}, exec i s = guarded s none (mxWait s) (mxPush s op) → queues i op :=
    fun he => addsRequest_of_guarded hl hp he rfl hw
  refine ⟨fun i f hm => addsRequest_mma hl hp hw (exec_mma s c xa xb _ hm), addsRequest_prom hl hp hw, hq rfl, hq rfl, hq rfl, hq rfl,
    fun i op rows chunks hm ht ho => ?_, fun i q4 hm ht hc => addsRequest_ldw hl hp hw (exec_ldw s xa sa sb _ hm) ht hc, ?_,
    fun u core a r => mayIssue_eq_false_of_held⟩
  · exact addsRequest_of_guarded hl hp (exec_opnd s c xa sa sb a b rfl rfl _ hm) ht (by rw [hw, ho]; rfl)
  · exact (congrArg (fun w => guarded s none w _) (waitConfirm_eq_none hu)).trans (guarded_acts hp)

/-- Settles O41: a free stage runs the request that it finds, or a K-step asks for leave; a completed request lands in the running
activation with what it does to a matrix state, and the state of one activation enters the core alone. -/
theorem matrixRequestsRun : Obligations.MatrixRequestsRun := by
  unfold Obligations.MatrixRequestsRun
  refine ⟨fun s cl stage core g r a hg hb hc ha => ⟨starts_of_not_mma hg hb hc ha, fun f c xa xb imp hop =>
    ⟨starts_of_mma hg hb hc ha hop, fun hh => ⟨_, ?_, asksForLeave_mxAsk s cl core⟩⟩⟩, ?_⟩
  · rw [exec_mxRequestStart_of_mma hg hb hc ha hop, if_pos hh]
  intro s r ctx a hl hrun hme hq hact ha hcom hreq hacq lands out
  have hlands : ∀ {op : MxOp} {m : MxState}, r.op = op → op.registerOnly = true → (op.stage = none ∨ r.started = true) →
      mxApply r a.mx = (m, 0) → lands m (op.landRegs a) (a.pend.filter fun x => !op.dsts.contains x) :=
    lands_of_apply hl hme hq hact ha hcom hreq hacq
  have hpend : (a.pend.filter fun x => !([] : List Reg).contains x) = a.pend := by simp
  refine ⟨fun c hop hs => hlands hop rfl (.inr hs) (mxApply_azero hop),
    fun c hop => hpend ▸ hlands hop rfl (.inl rfl) (mxApply_drop hop), fun d c hop => ?_,
    fun c xa xb v rz bz hop hs hres hfl hp => ?_,
    ⟨fun c xa xb v rz bz hop hs hres hfl hp hcls => ?_, fun c sc hop hs hp hcls => ?_⟩, fun hany hact' => ?_⟩
  · have h := hlands hop rfl (.inl rfl) (mxApply_stat hop)
    rw [MxOp.landRegs, mxStatWord_eq] at h
    exact h
  · exact hpend ▸ hlands hop rfl (.inr hs) ((mxApply_mma_int hop hres hfl).trans (by rw [addPartial, if_pos hp]))
  · refine ⟨_, hpend ▸ hlands hop rfl (.inr hs) ((mxApply_mma_int hop hres hfl).trans (by rw [addPartial_int hp])), rfl, rfl, fun n hn => ?_⟩
    dsimp only
    exact accOf_addElems_elem _ _ hn
  · exact ⟨_, hlands hop rfl (.inr hs) (mxApply_prom_int hop hp hcls), fun n hn => accOf_addElems_elem _ _ hn⟩
  · have hs : r.started = false := by simpa [hq, hact] using hany
    exact mxStateCopy_answers hrun hq hact hs hact'

/-- Settles O42: an integer K-step is a sum of products, and integer partials and promotions are sums of elements, each modulo 2^32. -/
theorem matrixArithmetic : Obligations.MatrixArithmetic := by
  unfold Obligations.MatrixArithmetic
  refine ⟨fun e4 imag a b => ⟨kElem_int_val e4 imag a b, rfl⟩, fun _ _ _ _ => rfl, fun x v rz bz n hp hn => ?_⟩
  simp only [addPartial_int hp, accOf_addElems_elem x.part v hn, and_self]

end Sys2Proof.Machine
end

section
/-! SUPPORT. Entries of the completion table of the copy engine (08 R248, R263): an entry that is set, a command form at issue, the forms that take
a handle, and what a completed command leaves. -/

namespace Sys2Proof.Machine

/-! ### Completion-table entries -/

/-- The core with an entry of its completion table set. -/
def Core.setCp (k : Core) (id : Nat) (e : CpEnt) : Core := { k with cps := fset k.cps id e }

section
variable (k : Core) (id : Nat) (e : CpEnt)

@[simp] theorem Core.cp_setCp_same : (k.setCp id e).cp id = e := by simp [Core.cp, Core.setCp]

@[simp] theorem Core.cp_setCp_ne {j : Nat} (h : j ≠ id) : (k.setCp id e).cp j = k.cp j := by simp [Core.cp, Core.setCp, h]

@[simp] theorem Core.cp_onRun (f : Act → Act) (j : Nat) : (k.onRun f).cp j = k.cp j := by simp [Core.cp]

end

theorem State.onCp_eq (s : State) (core id : Nat) (f : CpEnt → CpEnt) :
    s.onCp core id f = s.onCore core fun k => k.setCp id (f (k.cp id)) := rfl

/-! ### A command form at issue (R248) -/

/-- Room for an entry is room in the model's count of the buffer. -/
theorem roomWait_eq_none {s : State} {n : Nat} (h : s.hasRoom n) : roomWait s n = none := by
  have hused : rbUsed s.cc.rb = (s.cc.rb.map (·.size)).sum := by rw [List.sum_eq_foldl, List.foldl_map]; rfl
  have hfits : rbFits s.cc n = true := decide_eq_true (hused ▸ h)
  rw [roomWait, if_pos hfits]

/-- A command takes the lowest free entry. -/
theorem cpAlloc_eq_some {k : Core} {id : Nat} (act : Nat) (hid : id < 512) (hfree : (k.cp id).st = .free)
    (hlow : ∀ j, j < id → (k.cp j).st ≠ .free) : cpAlloc k act = some id := by
  have hfind : ∀ n, id < n → (List.range n).find? (fun i => decide ((k.cp i).st = .free)) = some id := fun n hn =>
    List.find?_range_eq_some.2 ⟨decide_eq_true hfree, List.mem_range.2 hn, fun j hj => by simpa using hlow j hj⟩
  unfold cpAlloc
  simp only [hfind 512 hid]

/-- The entry that a command of the current bundle takes, with its copy of the descriptor. -/
def State.command (s : State) (id : Nat) (f : CpForm) (desc : List Word) (pat : Word) : CpEnt :=
  { CpEnt.reset with
    gen := (s.cc.cp id).gen + 1, st := .buffered, owner := some s.me.id, rcb := s.me.rp, part := s.me.part,
    ent := entrantOf s s.me.part s.me.rp s.cur, form := f, desc := desc, pattern := pat, act := s.me.prog, seq := s.me.seq }

/-- What a command form answers: its entry is set, its handle is in sD, and one entry of 64 bytes is in the retire buffer. -/
def Commands (i : Instr) (s : State) (d : SReg) (id : Nat) (e : CpEnt) : Prop :=
  ∃ t, exec i s = .next t ∧ SameBytes s t ∧ t.sansCC = s.sansCC ∧ t.me = s.withS d (cpHandle s.cur e.gen.toNat id) ∧
    t.cc.rb = s.cc.rb ++ [{ seq := s.me.seq, size := 64, op := .cp id, pc := s.pc }] ∧ t.cc.accs = s.cc.accs ∧ t.cc.cpq = s.cc.cpq ∧
    t.cc.cp id = e ∧ ∀ j, j ≠ id → t.cc.cp j = s.cc.cp j

/-- The core with a command's entry, its handle in sD and the command in its retire buffer. -/
def Core.commanded (k : Core) (a : Act) (d : SReg) (h : Word) (id : Nat) (e : CpEnt) : Core :=
  ((k.setCp id e).onRun fun a => { a with regs := a.regs.setS d h }).buffering a 64 (.cp id)

theorem cpPut_eq {s : State} {id : Nat} (hl : s.live = true) (hid : cpAlloc s.cc s.me.id = some id) (f : CpForm) (d : SReg) (desc : List Word)
    (pat : Word) : cpPut f d desc pat s = s.onCC fun k =>
      k.commanded s.me d (cpHandle s.cur (s.command id f desc pat).gen.toNat id) id (s.command id f desc pat) := by
  have hme (h : Word) : ((s.onCC fun k => k.setCp id (s.command id f desc pat)).ws d h).me = s.withS d h :=
    (State.me_onMe _ _ ((State.live_onCC rfl).trans hl)).trans (by rw [State.me_onCC rfl]; rfl)
  have hput : cpPut f d desc pat s = rbAppend ((s.onCC fun k => k.setCp id (s.command id f desc pat)).ws d
      (cpHandle s.cur (s.command id f desc pat).gen.toNat id)) 64 (.cp id) := by
    simp only [cpPut, hid]; rfl
  rw [hput, rbAppend, State.pc, hme, State.ws, State.onMe, State.onCC_onCC, State.onCC_onCC]
  rfl

theorem commands_of_cpIssue {i : Instr} {s : State} {f : CpForm} {d a : SReg} {pat : Word} {id : Nat} (hl : s.live = true)
    (hp : s.phase ≠ .dry) (he : exec i s = cpIssue f d a pat s) (ht : cpTrap s f (s.rs a) = none) (hw : cpIssueWait s = none)
    (hid : cpAlloc s.cc s.me.id = some id) : Commands i s d id (s.command id f (cpDesc s (s.rs a)) pat) := by
  generalize hg : s.command id f (cpDesc s (s.rs a)) pat = e
  have hput := cpPut_eq hl hid f d (cpDesc s (s.rs a)) pat
  rw [hg] at hput
  refine ⟨s.onCC fun k => k.commanded s.me d (cpHandle s.cur e.gen.toNat id) id e, ?_,
    sameBytes_onCC s _ (Core.onRun_ls _ _) (Core.onRun_shadow _ _), State.sansCC_onCC s _, ?_, ?_, ?_, ?_, ?_, fun j hj => ?_⟩
  · rw [he, cpIssue, ht, hw, guarded_acts hp, hput]
  · exact State.me_onCC_map (g := fun a => { a with regs := a.regs.setS d (cpHandle s.cur e.gen.toNat id) }) hl (Core.onRun_running _ _)
  all_goals rw [State.cc_onCC]
  · exact congrArg (· ++ _) (Core.onRun_rb _ _)
  · exact Core.onRun_accs _ _
  · exact Core.onRun_cpq _ _
  · exact (Core.cp_onRun _ _ _).trans (Core.cp_setCp_same _ _ _)
  · exact (Core.cp_onRun _ _ _).trans (Core.cp_setCp_ne _ _ _ hj)

/-- The forms, by the issue that they share. -/
theorem exec_command (s : State) (d a b : SReg) : ∀ x ∈ [(Instr.cpCopy d a, CpForm.copy, (0 : Word)), (.cpGather d a, .gather, 0),
      (.cpScatter d a, .scatter, 0), (.cpFill d a b, .fill, s.rs b), (.cpMcast d a, .mcast, 0), (.cpWalk d a, .walk, 0), (.cpCow d a, .cow, 0)],
    exec x.1 s = cpIssue x.2.1 d a x.2.2 s := by
  simp only [List.forall_mem_cons]
  exact ⟨rfl, rfl, rfl, rfl, rfl, rfl, rfl, List.forall_mem_nil _⟩

/-- The offset of a descriptor that Table 8.3 takes. -/
theorem cpTrap_eq_none {s : State} {f : CpForm} {a : Word} (halign : bitsNat a 16 0 % 64 = 0)
    (hplace : (lsPlace s.me (BitVec.ofNat 64 (bitsNat a 16 0)) 64).isSome = true) (hcheck : cpCheck s f (cpDesc s a) = none) :
    cpTrap s f a = none := by
  rw [cpTrap, if_neg (fun h => h halign), if_neg (by simp [Option.isSome_iff_ne_none.1 hplace]), hcheck]

/-! ### A command that completes (R260, R263) -/

/-- The entry of a completed command that has an owner. -/
def CpEnt.completed (e : CpEnt) (code fcause info at_ : Nat) : CpEnt :=
  { e with st := .done, status := cpStatus code fcause e.tmask e.hole e.value, info := BitVec.ofNat 64 info, doneAt := at_ }

/-- The core once a command has ended: its wait for leave ends with the last command that would move bytes (R268). -/
def Core.ended (k : Core) (id now : Nat) (e : CpEnt) : Core :=
  if cpHungry (k.setCp id e) then k.setCp id e else cpAwake (k.setCp id e) now

/-- A field of the core that neither the completion table nor the counting of a wait for leave changes. -/
theorem Core.ended_field {α : Type} (g : Core → α) (hset : ∀ k id e, g (Core.setCp k id e) = g k) (hawake : ∀ k now, g (cpAwake k now) = g k)
    (k : Core) (id now : Nat) (e : CpEnt) : g (k.ended id now e) = g k := by
  unfold Core.ended
  split
  · exact hset k id e
  · exact (hawake _ now).trans (hset k id e)

theorem cpAwake_field {α : Type} (g : Core → α) (hg : ∀ (k : Core) (w : Word) (o : Option Nat), g { k with leaveW := w, cpWaitAt := o } = g k)
    (k : Core) (now : Nat) : g (cpAwake k now) = g k := by
  unfold cpAwake
  split
  · exact hg k _ _
  · rfl

section
variable (k : Core) (id now : Nat) (e : CpEnt)

@[simp] theorem Core.ended_ls : (k.ended id now e).ls = k.ls :=
  Core.ended_field Core.ls (fun _ _ _ => rfl) (cpAwake_field _ fun _ _ _ => rfl) k id now e
@[simp] theorem Core.ended_shadow : (k.ended id now e).shadow = k.shadow :=
  Core.ended_field Core.shadow (fun _ _ _ => rfl) (cpAwake_field _ fun _ _ _ => rfl) k id now e
@[simp] theorem Core.ended_running : (k.ended id now e).running = k.running :=
  Core.ended_field Core.running (fun _ _ _ => rfl) (cpAwake_field _ fun _ _ _ => rfl) k id now e
@[simp] theorem Core.ended_accs : (k.ended id now e).accs = k.accs :=
  Core.ended_field Core.accs (fun _ _ _ => rfl) (cpAwake_field _ fun _ _ _ => rfl) k id now e
@[simp] theorem Core.ended_cpq : (k.ended id now e).cpq = k.cpq :=
  Core.ended_field Core.cpq (fun _ _ _ => rfl) (cpAwake_field _ fun _ _ _ => rfl) k id now e

theorem Core.ended_cp (j : Nat) : (k.ended id now e).cp j = (k.setCp id e).cp j := by
  unfold Core.ended
  split
  · rfl
  · exact cpAwake_field (fun k => k.cp j) (fun _ _ _ => rfl) _ now

end

/-- Tiles that are not draining have nothing to settle. -/
theorem foldl_tileSettle_eq_self {s : State} {l : List (Nat × Nat)} (h : ∀ x ∈ l, ((s.cluster x.1).tile x.2).st ≠ 3) :
    l.foldl (fun s x => tileSettle s x.1 x.2) s = s := by
  induction l with
  | nil => rfl
  | cons x r ih =>
    have hx : tileSettle s x.1 x.2 = s := by simp [tileSettle, h x (List.mem_cons_self ..)]
    rw [List.foldl_cons, hx]
    exact ih fun y hy => h y (List.mem_cons_of_mem _ hy)

/-- The state with other requests to ports of other packages. -/
def State.asking (s : State) (asks : List WinAsk) : State := { s with asks := asks }

@[simp] theorem State.asking_core (s : State) (l : List WinAsk) (c : Nat) : (s.asking l).core c = s.core c := rfl
@[simp] theorem State.asking_cc (s : State) (l : List WinAsk) : (s.asking l).cc = s.cc := rfl

theorem sameBytes_asking (s : State) (l : List WinAsk) : SameBytes s (s.asking l) := fun _ => rfl

/-- A command that has an owner and no completion object, that makes no tile *ready* and names no tile that drains, completes in its own core
alone; answers that its engine no longer waits for are dropped. -/
theorem cpFinish_eq {s : State} {core id code : Nat} {e : CpEnt} (fcause info : Nat) (he : s.cpEnt core id = e) (hcw : (e.d 7).toNat = 0)
    (ho : e.owner.isSome = true) (hcode : code ≠ cpOK ∧ code ≠ cpPARTIAL) (ht : ∀ x ∈ e.names core, ((s.cluster x.1).tile x.2).st ≠ 3) :
    ∃ asks, cpFinish s core id code fcause info =
      (s.used1.onCore core fun k => k.ended id s.now (e.completed code fcause info s.fresh)).asking asks := by
  unfold cpFinish
  extract_lets x st iw s₁ s₂ named s₃ s₄ s₅
  obtain rfl : x = e := he
  have h₁ : s₁ = s := if_neg (by simp [hcode])
  have h₂ : s₂ = s := (if_pos hcw).trans h₁
  have h₃ : s₃ = s.used1.onCore core fun k => k.setCp id (x.completed code fcause info s.fresh) := by
    have hx : (s.core core).cp id = x := rfl
    have hown : x.owner.isNone = false := by simpa [Option.isSome_iff_ne_none] using ho
    simp only [s₃, h₂, State.onCp_eq, State.onCore, State.core_used1, hx, hown, Bool.false_eq_true, if_false]
    rfl
  have h₄ : s₄ = s.used1.onCore core fun k => k.ended id s.now (x.completed code fcause info s.fresh) := by
    simp only [s₄, h₃, State.onCore, State.setCore, State.core, fget_fset_same, Option.getD_some, fset_fset]
    rfl
  have h₅ : ∃ asks, s₅ = (s.used1.onCore core fun k => k.ended id s.now (x.completed code fcause info s.fresh)).asking asks := by
    rw [← h₄]
    simp only [s₅]
    split
    · exact ⟨s₄.asks, rfl⟩
    · exact ⟨_, rfl⟩
  obtain ⟨asks, h₅⟩ := h₅
  exact ⟨asks, (foldl_tileSettle_eq_self (by rw [h₅]; exact ht)).trans h₅⟩

theorem cpObjWait_eq_none {s : State} {core : Nat} {e : CpEnt} (h : (e.d 7).toNat = 0) : cpObjWait s core e = none := if_pos h

/-! ### The forms that take a handle (R264-R266) -/

/-- From `s` to `u` the current core changes, of what a program sees, one entry of the completion table, which keeps its generation. -/
structure ChangesEntry (s u : State) (id : Nat) : Prop where
  bytes : SameBytes s u
  live : u.live = s.live
  me : u.me = s.me
  gen : (u.cc.cp id).gen = (s.cc.cp id).gen
  others : ∀ j, j ≠ id → u.cc.cp j = s.cc.cp j
  accs : u.cc.accs = s.cc.accs

theorem ChangesEntry.refl (s : State) (id : Nat) : ChangesEntry s s id := ⟨SameBytes.refl s, rfl, rfl, rfl, fun _ _ => rfl, rfl⟩

/-- The instruction answers a status in sD and frees an entry of the completion table, which keeps its generation. -/
def Frees (i : Instr) (s : State) (d : SReg) (id : Nat) (v : Word) : Prop :=
  ∃ t, exec i s = .next t ∧ SameBytes s t ∧ t.me = s.withS d v ∧ t.cc.cp id = (s.cc.cp id).freed ∧
    (∀ j, j ≠ id → t.cc.cp j = s.cc.cp j) ∧ id ∉ t.cc.cpq ∧ t.cc.accs = s.cc.accs

theorem cpTake_eq (s : State) (d : SReg) (id : Nat) : cpTake s d id = s.onCC fun k =>
    (k.onRun fun a => { a with regs := a.regs.setS d (s.cc.cp id).status }).setCp id (k.cp id).freed := by
  have h : cpTake s d id = (s.ws d (s.cc.cp id).status).onCC fun k => k.setCp id (k.cp id).freed := rfl
  rw [h, State.ws, State.onMe, State.onCC_onCC]
  simp only [Core.cp_onRun]

/-- A status is taken from a state that differs from that of the bundle in its entry alone. -/
theorem frees_of_cpTake {i : Instr} {s u : State} {d : SReg} {id : Nat} (hl : s.live = true) (h : ChangesEntry s u id)
    (he : exec i s = .next (cpTake u d id)) (hq : id ∉ u.cc.cpq) : Frees i s d id (u.cc.cp id).status := by
  rw [cpTake_eq] at he
  refine ⟨_, he, h.bytes.trans (sameBytes_onCC u _ (Core.onRun_ls _ _) (Core.onRun_shadow _ _)), ?_, ?_, fun j hj => ?_, ?_, ?_⟩
  · rw [State.withS, ← h.me]
    exact State.me_onCC_map (g := fun a => { a with regs := a.regs.setS d (u.cc.cp id).status }) (h.live.trans hl) (Core.onRun_running _ _)
  all_goals rw [State.cc_onCC]
  · rw [Core.cp_setCp_same, CpEnt.freed, h.gen, CpEnt.freed]
  · rw [Core.cp_setCp_ne _ _ _ hj, Core.cp_onRun, h.others j hj]
  · exact fun hm => hq (Core.onRun_cpq _ _ ▸ hm)
  · exact (Core.onRun_accs _ _).trans h.accs

/-- The core without a command in its retire buffer and issue queue. -/
def Core.withoutCp (k : Core) (id : Nat) : Core :=
  { k with rb := k.rb.filter (fun e => decide (e.op ≠ .cp id)), cpq := k.cpq.filter (· ≠ id) }

/-- A command of the current core that has not started and names no tile that drains is done with CANCELLED and leaves the issue queue. -/
theorem cpStop_cancels {s : State} {id : Nat} {e : CpEnt} (he : s.cc.cp id = e) (hcw : (e.d 7).toNat = 0) (ho : e.owner.isSome = true)
    (ht : ∀ x ∈ e.names s.cur, ((s.cluster x.1).tile x.2).st ≠ 3) :
    ChangesEntry s (cpStop s s.cur id) id ∧ id ∉ (cpStop s s.cur id).cc.cpq ∧
      ((cpStop s s.cur id).cc.cp id).status = cpStatus cpCANCELLED 0 e.tmask e.hole e.value := by
  obtain ⟨asks, hfin⟩ := cpFinish_eq (s := s.onCC fun k => k.withoutCp id) (core := s.cur) (id := id) (e := e) (code := cpCANCELLED) 0 0
    ((congrArg (·.cp id) (State.cc_onCC s _)).trans he) hcw ho (by decide) ht
  have hstop : cpStop s s.cur id =
      (s.used1.onCC fun k => (k.withoutCp id).ended id s.now (e.completed cpCANCELLED 0 0 s.fresh)).asking asks :=
    hfin.trans (congrArg (·.asking asks) (State.onCC_onCC s.used1 (fun k => k.withoutCp id)
      fun k => k.ended id s.now (e.completed cpCANCELLED 0 0 s.fresh)))
  have hcc : (cpStop s s.cur id).cc = (s.cc.withoutCp id).ended id s.now (e.completed cpCANCELLED 0 0 s.fresh) := by
    rw [hstop, State.asking_cc, State.cc_onCC]
    rfl
  have hrun : (cpStop s s.cur id).cc.running = s.cc.running := by rw [hcc, Core.ended_running]; rfl
  have hcp : (cpStop s s.cur id).cc.cp id = e.completed cpCANCELLED 0 0 s.fresh := by rw [hcc, Core.ended_cp, Core.cp_setCp_same]
  refine ⟨⟨?_, congrArg Option.isSome hrun, congrArg (fun r => (Option.map Prod.snd r).getD Act.zero) hrun, ?_, fun j hj => ?_, ?_⟩, ?_, ?_⟩
  · rw [hstop]
    have hb : SameBytes s s.used1 := fun _ => rfl
    exact (hb.trans (sameBytes_onCC s.used1 _ (Core.ended_ls ..) (Core.ended_shadow (s.cc.withoutCp id) ..))).trans (sameBytes_asking _ asks)
  · rw [hcp, he]; rfl
  · rw [hcc, Core.ended_cp, Core.cp_setCp_ne _ _ _ hj]; rfl
  · rw [hcc, Core.ended_accs]; rfl
  · rw [hcc, Core.ended_cpq]
    simp [Core.withoutCp]
  · rw [hcp]; rfl

section
variable {s : State} {d a : SReg}

/-- A handle names an entry of the activation (R264). -/
def State.namesEntry (s : State) (h : Word) : Prop :=
  bitsNat h 36 25 = s.cur ∧ bitsNat h 24 9 = (s.cc.cp (bitsNat h 8 0)).gen.toNat ∧ (s.cc.cp (bitsNat h 8 0)).owner = some s.me.id

theorem cpNamed_of_namesEntry {h : Word} (hn : s.namesEntry h) : cpNamed s h = some (bitsNat h 8 0) := if_pos hn

theorem cpNamed_of_not_namesEntry {h : Word} (hn : ¬s.namesEntry h) : cpNamed s h = none := if_neg hn

theorem cpRelease_eq_none {id : Nat} (h : (s.cc.cp id).st ≠ .buffered) : cpRelease s id = none := if_pos h

variable (hl : s.live = true) (hp : s.phase ≠ .dry) (hu : unconfirmed s.cc s.me.id = false)
include hl hp hu

/-- A handle that names no entry is STALE. -/
theorem answers_stale (hn : ¬s.namesEntry (s.rs a)) : ∀ i ∈ [Instr.cpWait d a, .cpPoll d a, .cpCancel d a], Answers i s (s.withS d 4) := by
  have hnone : cpNamed s (s.rs a) = none := cpNamed_of_not_namesEntry hn
  have key {i : Instr} (he : exec i s = guarded s none (waitConfirm s) (s.ws d (BitVec.ofNat 64 cpSTALE))) : Answers i s (s.withS d 4) :=
    answers_ws hl (he.trans (by rw [waitConfirm_eq_none hu, guarded_acts hp])) (v := BitVec.ofNat 64 cpSTALE) rfl
  simp only [List.forall_mem_cons]
  refine ⟨key ?_, key ?_, key ?_, List.forall_mem_nil _⟩
  · change execCpWait d a s = _
    simp only [execCpWait, hnone]
  · change execCpPoll d a s = _
    simp only [execCpPoll, hnone]
  · change execCpCancel d a s = _
    simp only [execCpCancel, hnone]

variable {id : Nat} (hn : cpNamed s (s.rs a) = some id)
include hn

/-- A done entry answers its status. -/
theorem frees_done (hst : (s.cc.cp id).st = .done) (hq : id ∉ s.cc.cpq) :
    ∀ i ∈ [Instr.cpWait d a, .cpPoll d a, .cpCancel d a], Frees i s d id (s.cc.cp id).status := by
  have hst' : (s.cpEnt s.cur id).st = .done := hst
  have hrel : cpRelease s id = none := cpRelease_eq_none (by simp [hst])
  have key {i : Instr} (he : exec i s = guarded s none none (cpTake s d id)) : Frees i s d id (s.cc.cp id).status :=
    frees_of_cpTake hl (.refl s id) (he.trans (guarded_acts hp)) hq
  simp only [List.forall_mem_cons]
  refine ⟨key ?_, key ?_, key ?_, List.forall_mem_nil _⟩
  · change execCpWait d a s = _
    simp [execCpWait, hn, waitConfirm_eq_none hu, hrel, hst']
  · change execCpPoll d a s = _
    simp [execCpPoll, hn, waitConfirm_eq_none hu, hrel, hst']
  · change execCpCancel d a s = _
    simp [execCpCancel, hn, waitConfirm_eq_none hu, cpCancelWait, hst']

/-- A command under way is PENDING. -/
theorem answers_pending (hst : (s.cc.cp id).st = .queued ∨ (s.cc.cp id).st = .running) : Answers (.cpPoll d a) s (s.withS d 0) := by
  have hbuf : (s.cc.cp id).st ≠ .buffered := by rcases hst with h | h <;> simp [h]
  have hdone : (s.cc.cp id).st ≠ .done := by rcases hst with h | h <;> simp [h]
  refine answers_ws hl (d := d) (v := 0) ?_ rfl
  change execCpPoll d a s = _
  simp only [execCpPoll, hn, waitConfirm_eq_none hu, cpRelease_eq_none hbuf]
  exact (guarded_acts hp).trans (congrArg _ (if_neg hdone))

/-- A queued command is cancelled at once. -/
theorem frees_cancelled {e : CpEnt} (he : s.cc.cp id = e) (hst : e.st = .queued) (hcw : (e.d 7).toNat = 0) (ho : e.owner.isSome = true)
    (ht : ∀ x ∈ e.names s.cur, ((s.cluster x.1).tile x.2).st ≠ 3) :
    Frees (.cpCancel d a) s d id (cpStatus cpCANCELLED 0 e.tmask e.hole e.value) := by
  have he' : s.cpEnt s.cur id = e := he
  obtain ⟨hc, hq, hstatus⟩ := cpStop_cancels he hcw ho ht
  rw [← hstatus]
  refine frees_of_cpTake hl hc ?_ hq
  change execCpCancel d a s = _
  simp only [execCpCancel, hn, waitConfirm_eq_none hu, cpCancelWait, he', hst, cpObjWait_eq_none hcw]
  exact guarded_acts hp

end

/-- A running command is told to stop, and the instruction waits for its end. -/
theorem cancels_running {s : State} {d a : SReg} {id : Nat} {e : CpEnt} (hl : s.live = true) (hp : s.phase = .whole)
    (hu : unconfirmed s.cc s.me.id = false) (hn : cpNamed s (s.rs a) = some id) (he : s.cc.cp id = e) (hst : e.st = .running) :
    ∃ t, exec (.cpCancel d a) s = .next t ∧ SameBytes s t ∧ t.cc.cp id = { e with cancel := true } ∧
      t.me = { s.me with npc := s.me.pc, waitFor := some (.cpDone id) } := by
  have he' : s.cpEnt s.cur id = e := he
  have hlive : (s.onCC fun k => k.setCp id { k.cp id with cancel := true }).live = true := (State.live_onCC rfl).trans hl
  have hme : (s.onCC fun k => k.setCp id { k.cp id with cancel := true }).me = s.me := State.me_onCC rfl
  refine ⟨stall ((s.onCC fun k => k.setCp id { k.cp id with cancel := true }).waitOn (.cpDone id)), ?_, ?_, ?_, ?_⟩
  · change execCpCancel d a s = _
    simp only [execCpCancel, hn, waitConfirm_eq_none hu, cpCancelWait, he', hst]
    exact guarded_waits hp
  · exact ((sameBytes_onCC s _ rfl rfl).trans (sameBytes_onMe _ _)).trans (sameBytes_onMe _ _)
  · rw [stall, State.waitOn, State.onMe_onMe, State.onMe, State.onCC_onCC, State.cc_onCC, Core.cp_onRun, Core.cp_setCp_same, he]
  · rw [stall, State.waitOn, State.onMe_onMe, State.me_onMe _ _ hlive, hme]

end Sys2Proof.Machine
end

section
/-! SUPPORT. A command that was cancelled in the issue queue of the copy engine (08 R266, R267). -/

namespace Sys2Proof.Machine

/-- It ends with CANCELLED, and in VALUE with the second word of its group where it is a `cp.cow` (R261). -/
theorem cpStart_cancels {s : State} {core id : Nat} {q : List Nat} {e : CpEnt} (hq : (s.core core).cpq = id :: q)
    (he : (s.core core).cp id = e) (hst : e.st = .queued) (hc : e.cancel = true) (hcw : (e.d 7).toNat = 0) (ho : e.owner.isSome = true)
    (ht : ∀ x ∈ e.names core, ((s.cluster x.1).tile x.2).st ≠ 3) :
    ∃ t, exec (.cpStart ⟨core, false⟩) s = .next t ∧ ((t.core core).cp id).status = cpStatus cpCANCELLED 0 e.tmask e.hole e.value := by
  obtain ⟨asks, hfin⟩ := cpFinish_eq (s := cpPop s core) (core := core) (id := id) (code := cpCANCELLED) 0 0
    ((congrArg (·.cp id) (State.core_onCore_same s core _)).trans he) hcw ho (by decide) ht
  refine ⟨cpFinish (cpPop s core) core id cpCANCELLED 0 0, ?_, ?_⟩
  · change execCpStart ⟨core, false⟩ s = _
    simp [execCpStart, hq, he, hst, hc, cpObjWait_eq_none hcw]
  · rw [hfin, State.asking_core, State.core_onCore_same, Core.ended_cp, Core.cp_setCp_same]
    rfl

/-- The head of core 0's issue queue is a cancelled `cp.cow` whose group holds two identifiers. -/
def cancelledCow : State :=
  let e : CpEnt := { CpEnt.reset with st := .queued, owner := some 1, form := .cow, group := [3, 7], cancel := true }
  { State.reset with cores := [(0, { Core.reset with cpq := [0], cps := [(0, e)] })] }

end Sys2Proof.Machine
end

section
/-! PROOFS. The copy engine (08). -/

namespace Sys2Proof.Machine

/-- Settles O43: a command form that passes the checks of Table 8.3 takes the lowest free entry; a form that takes a handle answers by the state
of the entry that it names. -/
theorem copyForms : Obligations.CopyForms := by
  unfold Obligations.CopyForms
  refine ⟨fun s d a b id hl hp hu hroom hid hfree hlow => ?_, fun s d a hl hp hu => ?_⟩
  · intro off desc halign hplace i f pat hm hcheck
    have halloc := cpAlloc_eq_some s.me.id hid hfree hlow
    have hwait : cpIssueWait s = none := by simp [cpIssueWait, waitConfirm_eq_none hu, halloc, roomWait_eq_none hroom]
    exact commands_of_cpIssue hl hp (exec_command s d a b _ hm) (cpTrap_eq_none halign hplace hcheck) hwait halloc
  · intro h id e named frees
    refine ⟨answers_stale hl hp hu, fun hn hst hq => frees_done hl hp hu (cpNamed_of_namesEntry hn) hst hq,
      fun hn hst => answers_pending hl hp hu (cpNamed_of_namesEntry hn) hst, fun hn hst hcw htm hh hv ht => ?_,
      fun hn hst hw => cancels_running hl hw hu (cpNamed_of_namesEntry hn) rfl hst⟩
    have hnamed := cpNamed_of_namesEntry hn
    obtain ⟨-, -, hown⟩ := hn
    have hstatus : cpStatus cpCANCELLED 0 e.tmask e.hole e.value = 2 := by rw [htm, hh, hv]; rfl
    exact hstatus ▸ frees_cancelled hl hp hu hnamed rfl hst hcw (by rw [hown]; rfl) ht

/-- Refutes O44: of a command that was cancelled in the queue the statement asks for the status 2, but VALUE is a part of the status (R261), and
nothing is assumed of it, where O43 assumes that it is 0. A queued `cp.cow` whose group holds the identifiers 3 and 7 ends with VALUE 7 beside
CANCELLED. The statement is about every state; the machine itself fills the group of a command when it starts. -/
theorem not_copyEngineRuns : ¬ Obligations.CopyEngineRuns := by
  unfold Obligations.CopyEngineRuns
  intro h
  have hnames : ∀ x ∈ ((cancelledCow.core 0).cp 0).names 0, ((cancelledCow.cluster x.1).tile x.2).st ≠ 3 := List.forall_mem_nil _
  obtain ⟨hcancelled, -⟩ := h cancelledCow 0 0
  obtain ⟨t, ht, -, -, -, hstatus, -⟩ := hcancelled [] rfl rfl rfl ⟨rfl, rfl, rfl, rfl, hnames⟩
  obtain ⟨u, hu, hvalue⟩ := cpStart_cancels (s := cancelledCow) (core := 0) (id := 0) rfl rfl rfl rfl rfl rfl hnames
  obtain rfl : t = u := Host.Outcome.next.inj (ht.symm.trans hu)
  have hvalue' : ((t.core 0).cp 0).status = 0x700000002 := hvalue
  rw [hstatus] at hvalue'
  exact absurd hvalue' (by decide)

end Sys2Proof.Machine
end
